-- ==== Sys2Proof/Word.lean ====
section
/-! DEFINITION. The words of the XG40 (R6: byte, half, word, double) and the plainest arithmetic on them. -/

namespace Sys2Proof

abbrev Byte := BitVec 8
abbrev W16 := BitVec 16
abbrev W32 := BitVec 32
abbrev W64 := BitVec 64

end Sys2Proof
end

