-- ==== Sys2Proof/Machine/Forms.lean ====
section
/-! DEFINITION. The operand forms of instruction words: one structure per format of R156 (Table 3 of 07_encoding),
the IMM payload of R158 and R159 split by the format that uses it. A field that is reserved on every instruction of a
format (T outside formats A, B and BW, R153) is not stored; one that is reserved on some rows is, and WellFormed checks it. -/

namespace Sys2Proof

/-- Use of the payload by format A (R159, Table 6): stream selectors and the rounding mode; P[24:8] is reserved. -/
structure PfA where
  qb : BitVec 3
  qa : BitVec 3
  rm : BitVec 2
  deriving DecidableEq, Repr

/-- Use of the payload by formats Cx, Cd and Cm (R159): scope, ordering, residency predicate and the low 17 bits. -/
structure PfC where
  scope : BitVec 3
  ord : BitVec 2
  res : BitVec 3
  lo : BitVec 17
  deriving DecidableEq, Repr

/-- Use of the payload by format E (R159): scope and ordering; P[19:0] is reserved. -/
structure PfE where
  scope : BitVec 3
  ord : BitVec 2
  deriving DecidableEq, Repr

/-- Format A: b, a, d; guard, T and S of the header. -/
structure OpA where
  b : BitVec 6
  a : BitVec 6
  d : BitVec 6
  g : BitVec 3
  t : Bool
  m : Bool
  p : Option PfA
  deriving DecidableEq, Repr

/-- Format B: imm6, a, d. -/
structure OpB where
  i : BitVec 6
  a : BitVec 6
  d : BitVec 6
  g : BitVec 3
  t : Bool
  m : Bool
  p : Option (BitVec 25)
  deriving DecidableEq, Repr

/-- Format BW: imm12, d. -/
structure OpBW where
  i : BitVec 12
  d : BitVec 6
  g : BitVec 3
  t : Bool
  m : Bool
  p : Option (BitVec 25)
  deriving DecidableEq, Repr

/-- Format Cx: X, scalar base, vector index, register; the width stands in MIN. -/
structure OpCx where
  x : Bool
  s : BitVec 5
  v : BitVec 6
  t : BitVec 6
  g : BitVec 3
  m : Bool
  p : Option PfC
  deriving DecidableEq, Repr

/-- Format Cd: disp3, X, W, base, register. -/
structure OpCd where
  i : BitVec 3
  x : Bool
  w : BitVec 2
  b : BitVec 6
  t : BitVec 6
  g : BitVec 3
  m : Bool
  p : Option PfC
  deriving DecidableEq, Repr

/-- Format Cm: I, scalar base, datum, destination or operation code. -/
structure OpCm where
  i : Bool
  s : BitVec 5
  v : BitVec 6
  d : BitVec 6
  g : BitVec 3
  m : Bool
  p : Option PfC
  deriving DecidableEq, Repr

/-- Format D: off18. -/
structure OpD where
  o : BitVec 18
  g : BitVec 3
  m : Bool
  p : Option (BitVec 25)
  deriving DecidableEq, Repr

/-- Format Dp: off14, the condition c and the predicate. -/
structure OpDp where
  o : BitVec 14
  c : Bool
  pr : BitVec 3
  g : BitVec 3
  m : Bool
  p : Option (BitVec 25)
  deriving DecidableEq, Repr

/-- Format E: b, a, k. -/
structure OpE where
  b : BitVec 6
  a : BitVec 6
  k : BitVec 6
  g : BitVec 3
  m : Bool
  p : Option PfE
  deriving DecidableEq, Repr

/-- Format F: sel, a, d; it takes no IMM word (R164). -/
structure OpF where
  sel : BitVec 6
  a : BitVec 6
  d : BitVec 6
  g : BitVec 3
  m : Bool
  deriving DecidableEq, Repr

/-- The sixteen short forms (R163): a, d and S. -/
structure OpS where
  a : BitVec 5
  d : BitVec 5
  m : Bool
  deriving DecidableEq, Repr

/-- What a write or an atomic of a peer package brings (R372, R373): bytes, or an atomic's operands and its operation of R241. -/
structure PeerData where
  bytes : List Byte
  atom : Option Nat := none
  deriving DecidableEq, Repr

end Sys2Proof
end

