-- ==== Sys2Proof/Syntax.lean ====
section
/-! DEFINITION. The instruction set: one constructor per row of spec/opcode_table.json. The 182 rows that have words carry
the operand form of their format (R156, R163); the 111 rows that are steps of the device (no word) carry what the step
needs named: the unit it concerns, or, for a step of a party outside the device (host, guest, Canal peer, sensor),
what that party supplies. Such steps are moves of State.agenda (log entry 1). -/

namespace Sys2Proof

inductive Instr where
  /-- IADD_A, R187. Adds two v registers modulo 2^32 in each active lane. -/
  | iaddA (o : OpA)
  /-- IADD_B, R187. Adds a v register and a sign-extended immediate modulo 2^32 in each active lane. -/
  | iaddB (o : OpB)
  /-- ISUB_A, R187. Subtracts one v register from another modulo 2^32. -/
  | isubA (o : OpA)
  /-- ISUB_B, R187. Subtracts an immediate from a v register modulo 2^32. -/
  | isubB (o : OpB)
  /-- IMUL_A, R187. Writes the low 32 bits of the product of two v registers. -/
  | imulA (o : OpA)
  /-- IMUL_B, R187. Writes the low 32 bits of the product of a v register and an immediate. -/
  | imulB (o : OpB)
  /-- IMAD_A, R187. Multiplies two v registers and adds the destination, modulo 2^32. -/
  | imadA (o : OpA)
  /-- IMAD_B, R187. Multiplies a v register by an immediate and adds the destination, modulo 2^32. -/
  | imadB (o : OpB)
  /-- AND_A, R187. Bitwise AND of two v registers. -/
  | andA (o : OpA)
  /-- AND_B, R187. Bitwise AND of a v register and an immediate. -/
  | andB (o : OpB)
  /-- OR_A, R187. Bitwise OR of two v registers. -/
  | orA (o : OpA)
  /-- OR_B, R187. Bitwise OR of a v register and an immediate. -/
  | orB (o : OpB)
  /-- XOR_A, R187. Bitwise XOR of two v registers. -/
  | xorA (o : OpA)
  /-- XOR_B, R187. Bitwise XOR of a v register and an immediate. -/
  | xorB (o : OpB)
  /-- ROT_A, R187. Rotates a v register left by a register amount modulo 32. -/
  | rotA (o : OpA)
  /-- ROT_B, R187. Rotates a v register left by an immediate amount. -/
  | rotB (o : OpB)
  /-- SHL_A, R187. Shifts a v register left by a register amount modulo 32. -/
  | shlA (o : OpA)
  /-- SHL_B, R187. Shifts a v register left by an immediate amount. -/
  | shlB (o : OpB)
  /-- SHR_A, R187. Shifts a v register right with zeros in by a register amount. -/
  | shrA (o : OpA)
  /-- SHR_B, R187. Shifts a v register right with zeros in by an immediate amount. -/
  | shrB (o : OpB)
  /-- SHRA_A, R187. Arithmetic right shift of a v register by a register amount. -/
  | shraA (o : OpA)
  /-- SHRA_B, R187. Arithmetic right shift of a v register by an immediate amount. -/
  | shraB (o : OpB)
  /-- CLZ, R187. Counts the leading zero bits of a v register. -/
  | clz (o : OpA)
  /-- POPC, R187. Counts the one bits of a v register. -/
  | popc (o : OpA)
  /-- BFX_A, R188. Extracts a bit field under a control word held in a register. -/
  | bfxA (o : OpA)
  /-- BFX_B, R188. Extracts a bit field under an immediate control word. -/
  | bfxB (o : OpB)
  /-- BFI_A, R188. Inserts a bit field into the destination under a register control word. -/
  | bfiA (o : OpA)
  /-- BFI_B, R188. Inserts a bit field into the destination under an immediate control word. -/
  | bfiB (o : OpB)
  /-- IMIN_N32, R187. Writes the lesser of two v registers read as natural. -/
  | iminN32 (o : OpA)
  /-- IMIN_I32, R187. Writes the lesser of two v registers read as signed. -/
  | iminI32 (o : OpA)
  /-- IMAX_N32, R187. Writes the greater of two v registers read as natural. -/
  | imaxN32 (o : OpA)
  /-- IMAX_I32, R187. Writes the greater of two v registers read as signed. -/
  | imaxI32 (o : OpA)
  /-- ICMP_N32_A, R190. Sets a predicate from a natural comparison of two v registers. -/
  | icmpN32A (o : OpA)
  /-- ICMP_I32_A, R190. Sets a predicate from a signed comparison of two v registers. -/
  | icmpI32A (o : OpA)
  /-- ICMP_N32_B, R190. Sets a predicate from a natural comparison of a v register with an immediate. -/
  | icmpN32B (o : OpB)
  /-- ICMP_I32_B, R190. Sets a predicate from a signed comparison of a v register with an immediate. -/
  | icmpI32B (o : OpB)
  /-- MOV_A, R192. Copies a v register, a pair, or an s register into v registers by form code. -/
  | movA (o : OpA)
  /-- MOV_BW, R192. Writes a 32-bit immediate into a v register in each active lane. -/
  | movBw (o : OpBW)
  /-- LEA_A, R193. Forms a 64-bit address from a scalar base and a zero-extended lane offset. -/
  | leaA (o : OpA)
  /-- LEA_B, R193. Forms a 64-bit address from a scalar base and a sign-extended immediate. -/
  | leaB (o : OpB)
  /-- IADD64_A, R193. Adds two register pairs modulo 2^64. -/
  | iadd64A (o : OpA)
  /-- IADD64_B, R193. Adds a sign-widened immediate to a register pair modulo 2^64. -/
  | iadd64B (o : OpB)
  /-- BREV, R187. Reverses the bit order of a v register. -/
  | brev (o : OpA)
  /-- SXT, R189. Sign-extends the low w bits of a v register into a register or pair. -/
  | sxt (o : OpA)
  /-- SEL, R191. Selects one of two v registers per lane by the predicate in G. -/
  | sel (o : OpA)
  /-- SADD_A, R195. Adds two team scalars modulo 2^64. -/
  | saddA (o : OpA)
  /-- SADD_B, R195. Adds a sign-extended immediate to a team scalar modulo 2^64. -/
  | saddB (o : OpB)
  /-- SMUL_A, R195. Writes the low 64 bits of the product of two team scalars. -/
  | smulA (o : OpA)
  /-- SMUL_B, R195. Writes the low 64 bits of a team scalar times an immediate. -/
  | smulB (o : OpB)
  /-- SLEA, R196. Writes a team scalar with its own PC plus an offset. -/
  | slea (o : OpBW)
  /-- SMOV_A, R196. Copies a scalar or the lowest active lane's register or pair into a team scalar. -/
  | smovA (o : OpA)
  /-- SMOV_BW, R196. Writes a sign-extended immediate into a team scalar. -/
  | smovBw (o : OpBW)
  /-- SCMP_A, R195. Sets a predicate from a 64-bit comparison of two team scalars. -/
  | scmpA (o : OpA)
  /-- SCMP_B, R195. Sets a predicate from a 64-bit comparison of a team scalar with an immediate. -/
  | scmpB (o : OpB)
  /-- RDSYS, R197. Copies a system register into a v register, pair or s register. -/
  | rdsys (o : OpF)
  /-- FADD, R202. Adds two floating-point values with one rounding. -/
  | fadd (y : BitVec 2) (o : OpA)
  /-- FSUB, R202. Subtracts two floating-point values with one rounding. -/
  | fsub (y : BitVec 2) (o : OpA)
  /-- FMUL, R202. Multiplies two floating-point values with one rounding. -/
  | fmul (y : BitVec 2) (o : OpA)
  /-- FFMA, R202. Fused multiply-add into the destination with one rounding. -/
  | ffma (y : BitVec 2) (o : OpA)
  /-- FMIN, R203. Writes the lesser operand, treating NaN as absent. -/
  | fmin (y : BitVec 2) (o : OpA)
  /-- FMAX, R203. Writes the greater operand, treating NaN as absent. -/
  | fmax (y : BitVec 2) (o : OpA)
  /-- FCMP, R204. Sets a predicate from a floating-point comparison. -/
  | fcmp (y : BitVec 2) (o : OpA)
  /-- FRCP, R205. Writes the correctly rounded reciprocal. -/
  | frcp (o : OpA)
  /-- FRSQ, R205. Writes the correctly rounded reciprocal square root. -/
  | frsq (o : OpA)
  /-- FEX2, R205. Writes 2^x correctly rounded to nearest. -/
  | fex2 (o : OpA)
  /-- FLG2, R205. Writes log2 x correctly rounded to nearest. -/
  | flg2 (o : OpA)
  /-- F2I, R206. Converts a floating-point value to a saturated integer. -/
  | f2i (o : OpA)
  /-- I2F, R207. Converts an integer to a floating-point value with one rounding. -/
  | i2f (o : OpA)
  /-- FCVT, R208. Converts between floating-point formats. -/
  | fcvt (o : OpA)
  /-- PACK, R211. Quantises or rounds an FP32 value into one element of a packed word by a format slot. -/
  | pack (o : OpA)
  /-- UNPACK, R210. Expands one element of a packed word to FP32 by a format slot. -/
  | unpack (o : OpA)
  /-- SHFL, R213. Team-collective exchange of a register between lanes by mode. -/
  | shfl (o : OpA)
  /-- TRED, R214. Team-collective reduction over active lanes by a fixed tree. -/
  | tred (o : OpA)
  /-- DOT4_N8, R212. Adds four natural byte products to the destination. -/
  | dot4N8 (o : OpA)
  /-- DOT4_I8, R212. Adds four signed byte products to the destination. -/
  | dot4I8 (o : OpA)
  /-- LD_CX, R220. Loads from global memory at scalar base plus lane offset. -/
  | ldCx (w : BitVec 2) (o : OpCx)
  /-- LD_CD_S, R220. Loads from global memory at scalar base plus displacement. -/
  | ldCdS (o : OpCd)
  /-- LD_CD_PAIR, R220. Loads from global memory at a lane's 64-bit address plus displacement. -/
  | ldCdPair (o : OpCd)
  /-- ST_CX, R220. Stores to global memory at scalar base plus lane offset. -/
  | stCx (w : BitVec 2) (o : OpCx)
  /-- ST_CD_S, R220. Stores to global memory at scalar base plus displacement. -/
  | stCdS (o : OpCd)
  /-- ST_CD_PAIR, R220. Stores to global memory at a lane's 64-bit address plus displacement. -/
  | stCdPair (o : OpCd)
  /-- LDS, R223. Loads from group scratch at a lane offset. -/
  | lds (o : OpCd)
  /-- STS, R223. Stores to group scratch at a lane offset. -/
  | sts (o : OpCd)
  /-- LDW, R224. Loads from a register window of the group. -/
  | ldw (o : OpCd)
  /-- STW, R224. Stores into a register window of the group. -/
  | stw (o : OpCd)
  /-- LDX, R225. Loads a team scalar once per team. -/
  | ldx (o : OpCd)
  /-- STX, R225. Stores a team scalar once per team. -/
  | stx (o : OpCd)
  /-- QSET, R226. Loads a stream register image and restarts read-ahead. -/
  | qset (o : OpCd)
  /-- QSAVE, R227. Stores a stream register's image. -/
  | qsave (o : OpCd)
  /-- CPY, R230. Starts a byte-range copy reported through a token. -/
  | cpy (o : OpE)
  /-- CPYL, R232. Starts a copy list reported through a barrier object. -/
  | cpyl (o : OpE)
  /-- PREF, R228. Prefetches the sector holding each lane's address as a hint. -/
  | pref (o : OpCx)
  /-- PGREQ, R105. Posts page requests for non-resident or invalid pages. -/
  | pgreq (o : OpCx)
  /-- FENCE, R229. Acts as a release and acquire at a scope and waits for outstanding results. -/
  | fence (o : OpF)
  /-- SUBS, R234. Subscribes a scratch ring to a Headgate tile stream. -/
  | subs (o : OpE)
  /-- CLAIM, R235. Claims a ring slot for the team, waiting while none qualifies. -/
  | claim (o : OpE)
  /-- RELS, R236. Releases a held ring slot. -/
  | rels (o : OpE)
  /-- ATOM_ADD, R242. Atomic integer add returning the old word. -/
  | atomAdd (o : OpCm)
  /-- ATOM_ADD_F32, R242. Atomic FP32 add returning the old word. -/
  | atomAddF32 (o : OpCm)
  /-- ATOM_MIN_N32, R242. Atomic natural minimum returning the old word. -/
  | atomMinN32 (o : OpCm)
  /-- ATOM_MIN_I32, R242. Atomic signed minimum returning the old word. -/
  | atomMinI32 (o : OpCm)
  /-- ATOM_MIN_F32, R242. Atomic FP32 minimum returning the old word. -/
  | atomMinF32 (o : OpCm)
  /-- ATOM_MAX_N32, R242. Atomic natural maximum returning the old word. -/
  | atomMaxN32 (o : OpCm)
  /-- ATOM_MAX_I32, R242. Atomic signed maximum returning the old word. -/
  | atomMaxI32 (o : OpCm)
  /-- ATOM_MAX_F32, R242. Atomic FP32 maximum returning the old word. -/
  | atomMaxF32 (o : OpCm)
  /-- ATOM_AND, R242. Atomic AND returning the old word. -/
  | atomAnd (o : OpCm)
  /-- ATOM_OR, R242. Atomic OR returning the old word. -/
  | atomOr (o : OpCm)
  /-- ATOM_XOR, R242. Atomic XOR returning the old word. -/
  | atomXor (o : OpCm)
  /-- ATOM_XCHG, R242. Atomic exchange returning the old word. -/
  | atomXchg (o : OpCm)
  /-- CAS, R243. Bitwise compare-and-swap of a word returning the old value. -/
  | cas (o : OpCm)
  /-- RED, R245. Reduction into a word through the write-combining buffer, returning nothing. -/
  | red (o : OpCm)
  /-- BOP, R246. Element-wise update of a 128-byte Reservoir row at its bank unit. -/
  | bop (o : OpCm)
  /-- BRED, R247. Per-team reduction by address into Reservoir words or exact cells. -/
  | bred (o : OpCm)
  /-- FLGS, R248. Sets or adds to a sync flag or global word with release. -/
  | flgs (o : OpE)
  /-- FLGW, R249. Waits until a flag or global word satisfies a test, then acquires. -/
  | flgw (o : OpE)
  /-- QPUSH, R250. Appends a scratch entry to a range queue or guest channel and writes a status word. -/
  | qpush (o : OpE)
  /-- QPOP, R251. Takes one entry from the selected queues, parking while none is available. -/
  | qpop (o : OpE)
  /-- QDONE, R252. Completes a popped entry and adds to its completion signal. -/
  | qdone (o : OpE)
  /-- BOINI, R253. Initialises a barrier object in scratch. -/
  | boini (o : OpE)
  /-- BOARR, R253. Arrives at a barrier object, taking an amount from its count with release. -/
  | boarr (o : OpE)
  /-- BOWT, R253. Waits while a barrier object's phase equals the operand. -/
  | bowt (o : OpE)
  /-- BRA, R167. Branches active lanes to a PC-relative target. -/
  | bra (o : OpD)
  /-- BRP, R169. Moves the whole bundle to the target when a predicate holds in any or all active lanes. -/
  | brp (o : OpDp)
  /-- CALL, R167. Branches and records the return address in the link field. -/
  | call (o : OpD)
  /-- BRX, R170. Jumps each active lane to the address in a pair. -/
  | brx (o : OpA)
  /-- RET, R170. Returns each active lane to the address in a pair. -/
  | ret (o : OpA)
  /-- REFORM, R171. Ends the run and files active threads into Basins by next PC. -/
  | reform (o : OpF)
  /-- EXIT, R178. Ends the active threads, clearing their mask bits and lowering barrier counts. -/
  | exit (o : OpF)
  /-- NOP, R181. Has no effect; with the marker it closes a run. -/
  | nop (o : OpF)
  /-- JOIN, R57. Arrives at a join on a team mask that issues the named threads as one bundle. -/
  | join (o : OpA)
  /-- LEAVE, R58. Clears the thread's bit in a mask and in any armed value. -/
  | leave (o : OpA)
  /-- WAIT, R57. Arrives at a wait on a team mask that synchronises the named threads in place. -/
  | wait (o : OpA)
  /-- MSET, R174. Writes an immediate into a team mask. -/
  | mset (o : OpBW)
  /-- MLOG, R175. Combines team masks by a logical operation. -/
  | mlog (o : OpA)
  /-- BALLOT, R176. Team-collective gathering of a predicate into a register or mask. -/
  | ballot (o : OpA)
  /-- ELECT, R177. Team-collective election of the lowest active lane into a predicate. -/
  | elect (o : OpA)
  /-- YIELD, R180. Ends the run and re-enters arbitration as a fresh request. -/
  | yield (o : OpF)
  /-- BAR, R52. Arrives the active threads at the group barrier. -/
  | bar (o : OpF)
  /-- GBAR, R63. Arrives the active threads at the range-wide barrier. -/
  | gbar (o : OpF)
  /-- TRAP, R182. Stops the group and posts a software trap record. -/
  | trap (o : OpF)
  /-- MTX, R261. Queues a dense matrix tile operation on the core's array, with a token. -/
  | mtx (o : OpE)
  /-- MTXG, R264. Queues a matrix operation with gathered rows of A. -/
  | mtxg (o : OpE)
  /-- MTXS, R265. Queues a matrix operation with sparse B that skips empty K-groups. -/
  | mtxs (o : OpE)
  /-- XSECT, R268. Queues a merge of two ascending lists into a pair record. -/
  | xsect (o : OpE)
  /-- DIST, R269. Returns the group's next distributor segment or the end word. -/
  | dist (o : OpE)
  /-- FIXUP, R270. Deposits a contributor's partial tile or combines partials into the owner's tile. -/
  | fixup (o : OpE)
  /-- ENEXT, R277. Gives each active lane its next edge triple from the Sluice. -/
  | enext (o : OpE)
  /-- ECOMB, R278. Combines a value into the current target's state or accumulator. -/
  | ecomb (o : OpE)
  /-- EACT, R280. Activates the current triple's target. -/
  | eact (o : OpE)
  /-- EDONE, R280. Ends the current target's draw walk; no effect in spill mode. -/
  | edone (o : OpE)
  /-- ELEVEL, R281. Arrives at the level barrier of an edge range. -/
  | elevel (o : OpF)
  /-- EMODE, R283. Records a spill, draw or auto mode request at the die's Sluice. -/
  | emode (o : OpF)
  /-- LAUNCH, R287. Submits a child range from a descriptor and waits for its status word. -/
  | launch (o : OpE)
  /-- LWAIT, R288. Waits until a child, or every child of the group, has retired. -/
  | lwait (o : OpE)
  /-- MARK, R290. Writes a marker record to the range's trace stream. -/
  | mark (o : OpF)
  /-- BRK, R291. Stops the group for a debugger or posts a BRK trap record. -/
  | brk (o : OpF)
  /-- RDTS, R289. Reads the global timestamp. -/
  | rdts (o : OpF)
  /-- RDCLK, R289. Reads the core's clk count. -/
  | rdclk (o : OpF)
  /-- DHALT, R293. Halts a target group or every group of a range for debugging. -/
  | dhalt (o : OpF)
  /-- DRESUME, R293. Returns halted groups to running and ends a range halt. -/
  | dresume (o : OpF)
  /-- DSTEP, R294. Issues exactly one instruction from a halted bundle. -/
  | dstep (o : OpF)
  /-- DBKPT, R295. Sets or clears a breakpoint slot. -/
  | dbkpt (o : OpF)
  /-- DWATCH, R296. Sets or clears a watch slot. -/
  | dwatch (o : OpF)
  /-- DRDS, R297. Copies state of a halted group into a scratch buffer by selector. -/
  | drds (o : OpF)
  /-- DMBOX_SEND, R298. Posts 64 bytes to the partition's debug mailbox. -/
  | dmboxSend (o : OpF)
  /-- DMBOX_RECV, R298. Waits for a debug event or host message and copies it to scratch. -/
  | dmboxRecv (o : OpF)
  /-- MOV_SHORT, R163. 16-bit copy of one low v register to another. -/
  | movShort (o : OpS)
  /-- IADD_SHORT, R163. 16-bit integer add into the destination. -/
  | iaddShort (o : OpS)
  /-- ISUB_SHORT, R163. 16-bit integer subtract from the destination. -/
  | isubShort (o : OpS)
  /-- IMUL_SHORT, R163. 16-bit integer multiply into the destination. -/
  | imulShort (o : OpS)
  /-- AND_SHORT, R163. 16-bit bitwise AND into the destination. -/
  | andShort (o : OpS)
  /-- OR_SHORT, R163. 16-bit bitwise OR into the destination. -/
  | orShort (o : OpS)
  /-- XOR_SHORT, R163. 16-bit bitwise XOR into the destination. -/
  | xorShort (o : OpS)
  /-- SHL_SHORT, R163. 16-bit left shift of the destination. -/
  | shlShort (o : OpS)
  /-- SHR_SHORT, R163. 16-bit logical right shift of the destination. -/
  | shrShort (o : OpS)
  /-- SHRA_SHORT, R163. 16-bit arithmetic right shift of the destination. -/
  | shraShort (o : OpS)
  /-- IADDI_SHORT, R163. 16-bit add of a signed 5-bit immediate into the destination. -/
  | iaddiShort (o : OpS)
  /-- FADD_SHORT, R163. 16-bit FP32 add into the destination. -/
  | faddShort (o : OpS)
  /-- FSUB_SHORT, R163. 16-bit FP32 subtract from the destination. -/
  | fsubShort (o : OpS)
  /-- FMUL_SHORT, R163. 16-bit FP32 multiply into the destination. -/
  | fmulShort (o : OpS)
  /-- FMIN_SHORT, R163. 16-bit FP32 minimum into the destination. -/
  | fminShort (o : OpS)
  /-- FMAX_SHORT, R163. 16-bit FP32 maximum into the destination. -/
  | fmaxShort (o : OpS)
  /-- GROUP_DISPATCH, R40. The Harp places its next group whole on the fitting core with most free threads once one fits. -/
  | groupDispatch (rid : Nat) (die : Nat)
  /-- COOP_PLACEMENT, R62. All groups of a cooperative range are placed at once when space for all exists. -/
  | coopPlacement (rid : Nat)
  /-- GROUP_RETIRE, R27. A group whose threads have exited and whose engine operations have completed retires and frees its resources. -/
  | groupRetire (gid : Nat)
  /-- RANGE_RETIRE, R27. A range retires once all its groups and children have retired, signalling its completion. -/
  | rangeRetire (rid : Nat)
  /-- BASIN_AGE_DRAW, R44. A Basin is drawn when 64 clk have passed since its first filing. -/
  | basinAgeDraw (gid : Nat) (bid : Nat)
  /-- IMPLICIT_JOIN_ISSUE, R45. A team-collective instruction issues once every live thread of the team has arrived. -/
  | implicitJoinIssue (gid : Nat) (team : Nat)
  /-- RESULT_RETURN, R149. A variable-latency result returns and is written to its thread's window. -/
  | resultReturn (gid : Nat) (bid : Nat)
  /-- L1_FILL, R82. An L1 miss or expired lease fills the line from the home slice with a new lease. -/
  | l1Fill (core : Nat) (asid : Nat) (va : W64)
  /-- LLC_FILL, R87. An LLC miss is translated, ownership-checked and decrypted, and the sector filled. -/
  | llcFill (asid : Nat) (va : W64) (write : Bool)
  /-- STORE_ACKNOWLEDGE, R82. A write acknowledged at its home slice raises the writer's logical clock. -/
  | storeAcknowledge (core : Nat)
  /-- WCB_TIMEOUT_DRAIN, R83. A write-combining buffer entry drains to its home slice 32 clk after it opened. -/
  | wcbTimeoutDrain (core : Nat)
  /-- PTS_TICK, R82. A core's logical clock rises by 1 every 256 clk. -/
  | ptsTick (core : Nat)
  /-- SLICE_OPERATION, R144. A home slice performs the next queued operation on a word. -/
  | sliceOperation (asid : Nat) (va : W64)
  /-- STREAM_READAHEAD, R94. The stream unit reads elements ahead of use up to 128 positions past POS. -/
  | streamReadahead (gid : Nat) (team : Nat) (q : Nat)
  /-- COPY_COMPLETE, R230. A copy's last byte is written and its token receives the byte count. -/
  | copyComplete (op : Nat)
  /-- COPY_FAULT, R231. A copy meets a fault, stops and stops the group with an engine fault record. -/
  | copyFault (op : Nat)
  /-- COPYLIST_PIECE_COMPLETE, R232. A copy-list piece finishes, takes its length from the barrier object and frees its ranges. -/
  | copylistPieceComplete (op : Nat)
  /-- TILE_FILL_START, R102. The Headgate starts the next tile into an empty in-ring slot. -/
  | tileFillStart (gid : Nat) (ring : Nat)
  /-- TILE_FILLED, R102. A filling slot's last byte is written and the slot becomes full. -/
  | tileFilled (gid : Nat) (ring : Nat) (slot : Nat)
  /-- SLOT_DRAINED, R102. A draining slot's bytes are all acknowledged and the slot becomes empty. -/
  | slotDrained (gid : Nat) (ring : Nat) (slot : Nat)
  /-- RESERVOIR_WAY_DRAINED, R107. An LLC way given to the Reservoir finishes its writebacks. -/
  | reservoirWayDrained (part : Nat)
  /-- MATRIX_START, R260. The gather unit and array take the next matrix operation from the core's queue. -/
  | matrixStart (core : Nat)
  /-- MATRIX_COMPLETE, R262. A matrix operation writes C whole and its token. -/
  | matrixComplete (op : Nat)
  /-- XSECT_COMPLETE, R268. A list merge finishes and writes its token. -/
  | xsectComplete (op : Nat)
  /-- MATRIX_FAULT, R263. A matrix operation meets a fault or malformed structure and stops the group. -/
  | matrixFault (op : Nat)
  /-- FIXUP_OWNER_COMBINE, R270. An owner's FIXUP combines every arrived contributor's partial through an exact cell. -/
  | fixupOwnerCombine (op : Nat)
  /-- QUEUE_ENTRY_AGING, R71. A waiting entry's effective priority rises after each 4,096 pop decisions at its die. -/
  | queueEntryAging (rid : Nat) (die : Nat)
  /-- LEVEL_BOUNDARY, R281. A level completes once all threads arrived and all combines are done; the Sluices choose the next mode. -/
  | levelBoundary (rid : Nat)
  /-- MIDLEVEL_SWITCH, R284. With MIDSW a Sluice re-decides its mode after each 4,096 triples within a level. -/
  | midlevelSwitch (rid : Nat) (die : Nat)
  /-- SLUICE_FAULT, R286. A Sluice read or accumulator write faults and stops every group of the range. -/
  | sluiceFault (rid : Nat) (die : Nat)
  /-- BREAKPOINT_HALT, R295. A bundle about to issue at a breakpoint PC halts its group and posts an event. -/
  | breakpointHalt (gid : Nat) (bid : Nat)
  /-- WATCHPOINT_HALT, R296. A watched access halts its group at the next instruction boundary and posts an event. -/
  | watchpointHalt (gid : Nat) (bid : Nat)
  /-- FAULT_RECORD_POST, R381. A fault record is written to its queue slot and PROD advanced, once a slot is free. -/
  | faultRecordPost (queue : Nat)
  /-- RESUME, R383. Disposition that lets a stopped group run on. -/
  | resume (queue : Nat) (slot : Nat)
  /-- SKIP, R383. Disposition that resumes a precisely faulting bundle after the faulting instruction. -/
  | skip (queue : Nat) (slot : Nat)
  /-- KILL_GROUP, R383. Disposition that exits every thread of the group and drops its engine work. -/
  | killGroup (queue : Nat) (slot : Nat)
  /-- KILL_RANGE, R383. Disposition that kills every group and child of the range. -/
  | killRange (queue : Nat) (slot : Nat)
  /-- SAVE_RANGE, R383. Disposition that pre-empts the range and writes its image at IMG. -/
  | saveRange (queue : Nat) (slot : Nat)
  /-- PREEMPT_REQUEST, R385. The front end begins pre-emption of a range, stopping dispatch and asking bundles to stop. -/
  | preemptRequest (rid : Nat)
  /-- SAFE_POINT_STOP, R319. A running bundle stops before its next valid safe point. -/
  | safePointStop (gid : Nat) (bid : Nat)
  /-- HARD_STOP, R385. 50,000 ticks after a pre-emption request, remaining bundles are hard-stopped and a class 6 record posted. -/
  | hardStop (rid : Nat)
  /-- PREEMPT_IMAGE_WRITE, R385. Once all bundles stopped and engines quiesced, the image is written and resources freed. -/
  | preemptImageWrite (rid : Nat)
  /-- PRIORITY_PREEMPT, R384. A LAUNCH that cannot be placed after 2^AGE decisions pre-empts a lower-priority range. -/
  | priorityPreempt (part : Nat)
  /-- FRONT_END_DISPATCH, R368. The front end takes the highest effective-priority packet among its queue heads. -/
  | frontEndDispatch (part : Nat)
  /-- DOORBELL_WRITE, R360. A doorbell write sets WPTR and starts fetching the queue's new slots. -/
  | doorbellWrite (qid : Nat) (value : W64)
  /-- DOORBELL_RESYNC, R360. A doorbell write with RESYNC compares the QCB with its sealed shadow before fetching. -/
  | doorbellResync (qid : Nat) (value : W64)
  /-- NOP_PACKET, R362. Packet with no effect. -/
  | nopPacket (part : Nat)
  /-- LAUNCH_PACKET, R366. Packet that checks and launches or resumes a range from a launch image. -/
  | launchPacket (part : Nat)
  /-- INDIRECT, R363. Packet that executes a buffer of packets, optionally sealed. -/
  | indirect (part : Nat)
  /-- WAIT_PACKET, R362. Packet that blocks its queue until a 64-bit word satisfies a test. -/
  | waitPacket (part : Nat)
  /-- WAIT_PACKET_SATISFIED, R362. A blocked WAIT's word satisfies its test and the queue proceeds with an acquire. -/
  | waitPacketSatisfied (qid : Nat)
  /-- WRITE, R362. Packet that sets or adds a 64-bit word at its home slice with release. -/
  | write (part : Nat)
  /-- INVAL, R353. Packet that performs a translation invalidation over a virtual range. -/
  | inval (part : Nat)
  /-- PARTCFG, R78. Packet that writes a partition's CARVE register. -/
  | partcfg (part : Nat)
  /-- QCREATE, R359. Packet that creates a queue from its QCB with a sealed shadow. -/
  | qcreate (part : Nat)
  /-- QDESTROY, R362. Packet that stops a queue and waits for, kills or saves its ranges. -/
  | qdestroy (part : Nat)
  /-- EXPORT, R369. Packet that pre-empts a queue's ranges and writes the queue state to DEST. -/
  | exportPacket (part : Nat)
  /-- IMPORT, R369. Packet that restores an exported queue and resumes its images. -/
  | importPacket (part : Nat)
  /-- POLICY_PACKET, R368. Packet that replaces a partition's POLICY word. -/
  | policyPacket (part : Nat)
  /-- CWIN, R372. Packet that writes a partition's Canal window. -/
  | cwin (part : Nat)
  /-- CANAL_REMOTE_ACCESS, R372. A peer access arriving through a window is performed under the destination's translation. -/
  | canalRemoteAccess (package : Nat) (part : Nat) (window : Nat) (asid : Nat) (va : W64) (data : Option PeerData) (size : Nat) (ordered : Option W32)
  /-- CANAL_ORDERED_PASS, R373. The reorder buffer passes an ordered-flow write once its predecessor is acknowledged. -/
  | canalOrderedPass (package : Nat) (part : Nat) (window : Nat)
  /-- CANAL_PORT_DOWN, R373. A port that lost its link for more than 1 ms goes down and its queued stores are dropped. -/
  | canalPortDown (port : Nat)
  /-- HOST_MEM_ACCESS, R371. A host CXL.mem access is checked against OWNER 0xFF and performed or refused. -/
  | hostMemAccess (pa : W64) (data : Option (List Byte)) (size : Nat)
  /-- GPKT, R400. The device forwards a guest packet in SEQ order as credits allow. -/
  | gpkt (chan : Nat)
  /-- TREQ, R403. Guest translation request answered by a TCPL with OUTSIDE, FAULT, BUSY or OK. -/
  | treq (chan : Nat) (seq : W32) (va : W64) (write : Bool) (tag : W32)
  /-- TINVACK, R404. Guest acknowledgement that ends the grants a TINV named. -/
  | tinvack (tag : Nat)
  /-- GCPL, R406. Guest completion of a packet, freeing its locks and adding to its signal. -/
  | gcpl (chan : Nat) (seq : W32) (failed : Bool)
  /-- GFLT, R407. Guest fault report that posts a GUESTF record and stops the pushing group. -/
  | gflt (chan : Nat) (seq : W32) (cause : Byte) (addr : W64) (code : W16)
  /-- GPACK, R408. Guest reply with the saved bytes and packets, after which the image is written. -/
  | gpack (chan : Nat) (rid : Nat) (bytes : List Byte) (seqs : List W32)
  /-- GRACK, R408. Guest acceptance or refusal of restored state. -/
  | grack (chan : Nat) (rid : Nat) (refused : Bool)
  /-- GUEST_ACCESS, R397. A guest memory access is checked against the FOT and grants and performed or refused. -/
  | guestAccess (pa : W64) (data : Option (List Byte)) (size : Nat)
  /-- PORT_FENCE, R409. A missed bound, malformed message or held sideband fences the socket port. -/
  | portFence (why : Byte)
  /-- SOCKET_RESET, R440. The policy core resets, retrains and re-measures the Lateral socket. -/
  | socketReset (ident : List Byte) (trained : Bool)
  /-- PACKAGE_RESET, R437. Rails come up and the boot ROM extends M0 and checks the firmware. -/
  | packageReset
  /-- FIRMWARE_VERIFY, R417. The boot ROM accepts or refuses the signed firmware image. -/
  | firmwareVerify (image : List Byte) (svn : W32) (sig : BitVec 768) (key : BitVec 768)
  /-- HBM_TRAINED, R437. HBM training finishes, frames are zero-filled and the policy core places its tables. -/
  | hbmTrained (fotAt : W64) (asidAt : W64)
  /-- GRANT, R439. Bring-up request that grants frames to the host or guest. -/
  | grant
  /-- ASSIGN, R439. Bring-up request that assigns frames to a partition with a key. -/
  | assign
  /-- REVOKE, R439. Bring-up request that returns frames to firmware ownership. -/
  | revoke
  /-- FQTABLE, R439. Bring-up request that hands over the fault-queue control blocks. -/
  | fqtable
  /-- CLOCK, R439. Bring-up request that chooses fixed-clock mode. -/
  | clock
  /-- BUDGET, R439. Bring-up request that sets a partition's power budget. -/
  | budget
  /-- ASIDSET, R439. Bring-up request that writes an ASID table entry. -/
  | asidset
  /-- CMAP, R413. Bring-up request that writes a die's carve map. -/
  | cmap
  /-- CARVE, R439. Bring-up request that writes a partition's CARVE register. -/
  | carve
  /-- POLICY, R439. Bring-up request that writes a partition's POLICY word. -/
  | policy
  /-- KEYLOAD, R415. Bring-up request that fills a key slot by drawing or unwrapping a key. -/
  | keyload
  /-- KEYDROP, R415. Bring-up request that empties a key slot. -/
  | keydrop
  /-- VFBIND, R439. Bring-up request that binds a VF to partitions. -/
  | vfbind
  /-- ADVANCE, R437. Bring-up request that moves PHASE on, training links on entry to phases 7 and 8. -/
  | advance (stepDone : Bool) (ident : Option (List Byte))
  /-- COUNT, R424. Mailbox request that returns a counter summed over the requester's queues. -/
  | count (fn : Nat)
  /-- ATTEST, R419. Mailbox request that writes a signed attestation report for a partition. -/
  | attest (fn : Nat)
  /-- TRACE_ENABLE, R428. Setting TEN writes a sync packet and a state set for every resident group. -/
  | traceEnable (part : Nat)
  /-- TRACE_DISABLE, R428. Clearing TEN stops all trace writing after any half-written record. -/
  | traceDisable (part : Nat)
  /-- LOG_ENABLE, R430. Setting LEN starts replay logging, resuming each range at its next checkpoint. -/
  | logEnable (part : Nat)
  /-- REGISTER_WRITE, R8. A write to a register without a row of its own acts by its field access codes. -/
  | registerWrite (reg : Nat) (index : Nat) (value : W64)
  /-- SAMPLE_RECORD, R425. A sampled memory instruction's record is written once its last lane returns. -/
  | sampleRecord (core : Nat)
  /-- TRACE_SYNC, R427. A sync packet is written after every 4,096 further trace packets. -/
  | traceSync (part : Nat)
  /-- TRACE_LOST_RECOVERY, R427. When trace ring space returns, a lost packet and a sync packet are written. -/
  | traceLostRecovery (part : Nat)
  /-- POWER_WINDOW, R433. Each 1 ms power window lowers or raises clocks, or withholds a partition's issue. -/
  | powerWindow (watts : Nat) (amps : Nat) (overs : List Nat)
  /-- THERMAL_THROTTLE, R434. At 100 °C every core clock is halved until the die cools below 95 °C. -/
  | thermalThrottle (die : Nat)
  /-- THERMAL_TRIP, R434. At 110 °C the core rails are removed and TRIP is set. -/
  | thermalTrip
  /-- CORE_SELFTEST_FAIL, R436. A core failing its periodic self-test is gated and set in FCORE. -/
  | coreSelftestFail (die : Nat) (core : Nat)
  /-- HEADGATE_FAULT, R234. A Headgate transfer of a filling or draining tile meets a fault and stops the subscribing group with an engine fault record. -/
  | headgateFault (gid : Nat) (ring : Nat) (slot : Nat)
  /-- FIXUP_DEPOSIT_COMPLETE, R270. A contributor's FIXUP finishes writing its tile to its Reservoir fix-up slot, marks its group arrived and writes its token. -/
  | fixupDepositComplete (op : Nat)
  /-- CONTAINER_REGISTRATION, R334. The front end registers a container, checking and copying its safe-point table and extending M4. -/
  | containerRegistration (part : Nat) (asid : Nat) (code : W64) (codeSize : Nat) (safe : W64) (safeSize : Nat) (config : W64)
  /-- HOST_DEBUG_MESSAGE, R298. A host message arrives in a partition's debug mailbox, where DMBOX.RECV can take it. -/
  | hostDebugMessage (part : Nat) (msg : List Byte)
  /-- DEBUG_MAILBOX_READ, R298. The physical function reads a message from a partition's debug mailbox, freeing one of its 16 places. -/
  | debugMailboxRead (part : Nat)
  /-- GUEST_CHANNEL_CONFIGURE, R398. The policy core configures a guest channel's depth Q and save size GSAVE, opening it. -/
  | guestChannelConfigure (chan : Nat) (depth : Nat) (gsave : Nat)
  /-- TEMPERATURE_BELOW_95C, R434. The junction temperature of a throttled die falls below 95 °C and its core clocks return from halving. -/
  | temperatureBelow95c (die : Nat)
  deriving DecidableEq, Repr

end Sys2Proof
end

