-- ==== Sys2Proof/WellFormed.lean ====
section
/-! DEFINITION. What makes an instruction well-formed: every reserved field zero, every code assigned, every register field
legal, the prefix used only as the entry allows (R153, R155 to R160, R165). A failing check rejects by name. -/

namespace Sys2Proof

/-- Why an encoding is no instruction (every one raises ILLOP, R162 and R165). -/
inductive Reject where
  | tReserved        -- T set where it is reserved (R153)
  | reservedField    -- a field marked 0 is nonzero
  | reservedCode     -- a code outside the field's list
  | oddPair          -- an odd pair field (R155)
  | illegalReg       -- an illegal register value (R155)
  | badPrefix        -- a payload bit the instruction does not use (R159)
  | noIndex          -- I set without a prefix (R156)
  | unassigned       -- no instruction has this major and minor opcode (R164)
  | shortAfterPrefix -- R162
  | twoPrefixes      -- R162
  | noPrefixHere     -- a word that takes no prefix follows one (R162)
  | tooShort         -- fewer bytes than the instruction has
  deriving DecidableEq, Repr

abbrev Check := Bool × Reject

def noT (t : Bool) : Check := (!t, .tReserved)
def zero {n : Nat} (x : BitVec n) : Check := (x == 0, .reservedField)
def code (b : Bool) : Check := (b, .reservedCode)
def even? (r : BitVec 6) : Bool := !(r.getLsbD 0)
def even (r : BitVec 6) : Check := (even? r, .oddPair)
/-- An s field: bit 5 is reserved (R155). -/
def sreg (r : BitVec 6) : Check := (!(r.getLsbD 5), .illegalReg)
/-- A team mask field: 12 to 15 are illegal and the high bits reserved (R155). -/
def mreg (r : BitVec 6) : Check := (decide (r.toNat < 12), .illegalReg)
def low3 (r : BitVec 6) : Check := (decide (r.toNat < 8), .reservedField)
/-- The d field of a comparison: condition in [5:3], predicate destination in [2:0] (R157, R190). -/
def cmpD (d : BitVec 6) : List Check :=
  [code (decide ((d.extractLsb 5 3).toNat ≤ 5)), (d.extractLsb 2 0 != 7, .illegalReg)]

/-- Format A: where the prefix may name streams for a and b, whether a rounding mode and T may stand (R153, R159). -/
def fa (o : OpA) (sa sb rm t : Bool) : List Check :=
  [(t || !o.t, .tReserved),
   (match o.p with
    | none => true
    | some p => (p.qa == 0 || (sa && p.qa.getLsbD 2)) && (p.qb == 0 || (sb && p.qb.getLsbD 2)) && (rm || p.rm == 0),
    .badPrefix)]

/-- P[24:20] is reserved on MOV, SMOV and MSET of format BW (R159). -/
def hi5 (p : Option (BitVec 25)) : Check :=
  (match p with | none => true | some p => p.extractLsb 24 20 == 0, .badPrefix)

/-- X is legal only on a byte or half load; the double names a pair (R156, R157). -/
def ldst (load : Bool) (w : BitVec 2) (x : Bool) (t : BitVec 6) : Check :=
  if x && !(load && decide (w.toNat ≤ 1)) then (false, .reservedField) else (w != 3 || even? t, .oddPair)

def ldxW (load : Bool) (w : BitVec 2) (x : Bool) : Check := (!x || (load && decide (w.toNat ≤ 1)), .reservedField)

/-- P[16:0] is reserved on format Cx (R159). -/
def lowZero (p : Option PfC) : Check := (match p with | none => true | some p => p.lo == 0, .badPrefix)

/-- Scope and ordering of a payload (R157, R159): LD takes .acq, ST takes .rel, RES stands only on LD. -/
def pfLd (p : Option PfC) : List Check :=
  [(match p with
    | none => true
    | some p => decide (p.scope.toNat ≤ 5) && (p.ord == 0 && p.scope == 0 || p.ord == 1), .badPrefix)]
def pfSt (p : Option PfC) : List Check :=
  [(match p with
    | none => true
    | some p => decide (p.scope.toNat ≤ 5) && (p.ord == 0 && p.scope == 0 || p.ord == 2) && p.res == 0, .badPrefix)]
def pfNone (p : Option PfC) : List Check :=
  [(match p with | none => true | some p => p.ord == 0 && p.scope == 0 && p.res == 0, .badPrefix)]

/-- Format Cm: I needs a prefix, IDX without I is reserved, a scope may stand alone (R156, R159, R160, R238). -/
def cm (o : OpCm) (acq : Bool) : List Check :=
  [(!o.i || o.p.isSome, .noIndex),
   (match o.p with
    | none => true
    | some p => decide (p.scope.toNat ≤ 5) && (p.ord == 0 || p.ord == 2 || acq && p.ord == 1) && p.res == 0
        && (o.i || p.lo.extractLsb 5 0 == 0), .badPrefix)]

/-- Format E with no use of the prefix (R217, R256, R272). -/
def pfE0 (p : Option PfE) : Check :=
  (match p with | none => true | some p => p.scope == 0 && p.ord == 0, .badPrefix)
/-- FLGS, FLGW and QPUSH: one ordering, and no scope without it (R239). -/
def pfE (p : Option PfE) (ord : BitVec 2) : List Check :=
  [(match p with
    | none => true
    | some p => decide (p.scope.toNat ≤ 5) && (p.ord == 0 && p.scope == 0 || p.ord == ord), .badPrefix)]

/-- FLGS and FLGW: a flag leaves a[4:0] zero; a global word leaves k[5:1] zero (R238). -/
def flgF (o : OpE) : Check :=
  (if o.a.getLsbD 5 then o.k.extractLsb 5 1 == 0 else o.a == 0, .reservedField)

def mlogOp (o : OpA) : Nat := (o.d.extractLsb 5 4).toNat * 4 + (o.b.extractLsb 5 4).toNat

/-- System registers that exist (R198, Table 5), and those uniform only over the thread. -/
def sysSel (n : Nat) : Bool :=
  n % 4 != 3 && decide (n ≤ 0x12) || decide (0x14 ≤ n ∧ n ≤ 0x22) || decide (0x24 ≤ n ∧ n ≤ 0x27)
def sysThread (n : Nat) : Bool :=
  decide (n ≤ 2) || n == 0x18 || n == 0x1A || decide (0x25 ≤ n ∧ n ≤ 0x27)

/-- The class field of RDSYS, RDTS and RDCLK (R197, R289). -/
def rdClass (o : OpF) (thread : Bool) : List Check :=
  [(decide (o.a.toNat < 4), .reservedField), code (o.a != 3),
   (o.a != 1 || even? o.d, .oddPair), (o.a != 2 || !(o.d.getLsbD 5) && !thread, .illegalReg)]


/-- What the encoding rules require of each instruction, each with the name it is rejected under: R166 (control), R184
(integer), R200 (floating point), R217 (memory), R238 (atomics), R256 (matrix), R272 (edge, system). -/
def Instr.checks : Instr → List Check
  | .iaddA o => fa o true true false true
  | .iaddB _ => []
  | .isubA o => fa o true true false true
  | .isubB _ => []
  | .imulA o => fa o true true false true
  | .imulB _ => []
  | .imadA o => fa o true true false true
  | .imadB _ => []
  | .andA o => fa o true true false true
  | .andB _ => []
  | .orA o => fa o true true false true
  | .orB _ => []
  | .xorA o => fa o true true false true
  | .xorB _ => []
  | .rotA o => fa o true true false true
  | .rotB _ => []
  | .shlA o => fa o true true false true
  | .shlB _ => []
  | .shrA o => fa o true true false true
  | .shrB _ => []
  | .shraA o => fa o true true false true
  | .shraB _ => []
  | .clz o => zero o.b :: fa o true false false true
  | .popc o => zero o.b :: fa o true false false true
  | .bfxA o => fa o true true false true
  | .bfxB _ => []
  | .bfiA o => fa o true true false true
  | .bfiB _ => []
  | .iminN32 o => fa o true true false true
  | .iminI32 o => fa o true true false true
  | .imaxN32 o => fa o true true false true
  | .imaxI32 o => fa o true true false true
  | .icmpN32A o => cmpD o.d ++ fa o true true false false
  | .icmpI32A o => cmpD o.d ++ fa o true true false false
  | .icmpN32B o => cmpD o.d ++ [noT o.t]
  | .icmpI32B o => cmpD o.d ++ [noT o.t]
  | .movA o => code (decide (o.b.toNat ≤ 3)) :: (match o.b.toNat with | 1 => [even o.d, even o.a] | 2 => [sreg o.a] | 3 => [even o.d, sreg o.a] | _ => []) ++ fa o (o.b == 0) false false true
  | .movBw o => [hi5 o.p]
  | .leaA o => even o.d :: sreg o.a :: fa o false true false true
  | .leaB o => [even o.d, sreg o.a]
  | .iadd64A o => even o.d :: even o.a :: even o.b :: fa o false false false true
  | .iadd64B o => [even o.d, even o.a]
  | .brev o => zero o.b :: fa o true false false true
  | .sxt o => (!(o.b.getLsbD 5) || even? o.d, .oddPair) :: fa o true false false true
  | .sel o => fa o true true false true
  | .saddA o => sreg o.d :: sreg o.a :: sreg o.b :: fa o false false false false
  | .saddB o => [sreg o.d, sreg o.a, noT o.t]
  | .smulA o => sreg o.d :: sreg o.a :: sreg o.b :: fa o false false false false
  | .smulB o => [sreg o.d, sreg o.a, noT o.t]
  | .slea o => [noT o.t, sreg o.d]
  | .smovA o => code (decide (o.b.toNat ≤ 3)) :: sreg o.d :: (match o.b.toNat with | 0 => [sreg o.a] | 1 => [even o.a] | _ => []) ++ fa o false false false false
  | .smovBw o => [hi5 o.p, noT o.t, sreg o.d]
  | .scmpA o => cmpD o.d ++ sreg o.b :: fa o false false false false
  | .scmpB o => cmpD o.d ++ [noT o.t]
  | .rdsys o => code (sysSel o.sel.toNat) :: rdClass o (sysThread o.sel.toNat)
  | .fadd y o => code (decide (y.toNat ≤ 2)) :: fa o true true true true
  | .fsub y o => code (decide (y.toNat ≤ 2)) :: fa o true true true true
  | .fmul y o => code (decide (y.toNat ≤ 2)) :: fa o true true true true
  | .ffma y o => code (decide (y.toNat ≤ 2)) :: fa o true true true true
  | .fmin y o => code (decide (y.toNat ≤ 2)) :: fa o true true false true
  | .fmax y o => code (decide (y.toNat ≤ 2)) :: fa o true true false true
  | .fcmp y o => code (decide (y.toNat ≤ 2)) :: cmpD o.d ++ fa o true true false false
  | .frcp o => code (decide (o.b.toNat ≤ 2)) :: fa o true false true true
  | .frsq o => code (decide (o.b.toNat ≤ 2)) :: fa o true false true true
  | .fex2 o => code (decide (o.b.toNat ≤ 2)) :: fa o true false false true
  | .flg2 o => code (decide (o.b.toNat ≤ 2)) :: fa o true false false true
  | .f2i o => code (decide ((o.b.extractLsb 1 0).toNat ≤ 2)) :: code (decide ((o.b.extractLsb 4 2).toNat ≤ 5)) :: (o.b.getLsbD 5 == false, .reservedField) :: fa o true false true true
  | .i2f o => code (decide ((o.b.extractLsb 1 0).toNat ≤ 2)) :: code (decide ((o.b.extractLsb 4 2).toNat ≤ 5)) :: (o.b.getLsbD 5 == false, .reservedField) :: fa o true false true true
  | .fcvt o => code (decide ((o.b.extractLsb 1 0).toNat ≤ 2)) :: code (decide ((o.b.extractLsb 3 2).toNat ≤ 2)) :: (o.b.extractLsb 5 4 == 0, .reservedField) :: fa o true false true true
  | .pack o => even o.a :: fa o false false true true
  | .unpack o => even o.a :: fa o false false false true
  | .shfl o => ((o.a.extractLsb 5 4 == 0) || !(o.b.getLsbD 5), .reservedField) :: fa o false false false false
  | .tred o => code (decide (o.b.toNat ≤ 10)) :: fa o true false (o.b == 1) false
  | .dot4N8 o => fa o true true false true
  | .dot4I8 o => fa o true true false true
  | .ldCx w o => ldst true w o.x o.t :: (lowZero o.p) :: pfLd o.p
  | .ldCdS o => sreg o.b :: ldst true o.w o.x o.t :: pfLd o.p
  | .ldCdPair o => even o.b :: ldst true o.w o.x o.t :: pfLd o.p
  | .stCx w o => ldst false w o.x o.t :: (lowZero o.p) :: pfSt o.p
  | .stCdS o => sreg o.b :: ldst false o.w o.x o.t :: pfSt o.p
  | .stCdPair o => even o.b :: ldst false o.w o.x o.t :: pfSt o.p
  | .lds o => ldst true o.w o.x o.t :: pfNone o.p
  | .sts o => ldst false o.w o.x o.t :: pfNone o.p
  | .ldw o => ldst true o.w o.x o.t :: pfNone o.p
  | .stw o => ldst false o.w o.x o.t :: pfNone o.p
  | .ldx o => sreg o.b :: sreg o.t :: ldxW true o.w o.x :: pfNone o.p
  | .stx o => sreg o.b :: sreg o.t :: ldxW false o.w o.x :: pfNone o.p
  | .qset o => sreg o.b :: (o.w == 0 && !o.x && decide (o.t.toNat < 4), .reservedField) :: pfNone o.p
  | .qsave o => sreg o.b :: (o.w == 0 && !o.x && decide (o.t.toNat < 4), .reservedField) :: pfNone o.p
  | .cpy o => [sreg o.k, pfE0 o.p]
  | .cpyl o => [sreg o.k, sreg o.a, sreg o.b, pfE0 o.p]
  | .pref o => (!o.x, .reservedField) :: zero o.t :: lowZero o.p :: pfNone o.p
  | .pgreq o => (!o.x, .reservedField) :: zero o.t :: lowZero o.p :: pfNone o.p
  | .fence o => [code (decide (o.sel.toNat ≤ 5)), zero o.a, zero o.d]
  | .subs o => [low3 o.k, sreg o.a, zero o.b, pfE0 o.p]
  | .claim o => [sreg o.k, low3 o.a, zero o.b, pfE0 o.p]
  | .rels o => [zero o.k, low3 o.a, sreg o.b, pfE0 o.p]
  | .atomAdd o => cm o true
  | .atomAddF32 o => cm o true
  | .atomMinN32 o => cm o true
  | .atomMinI32 o => cm o true
  | .atomMinF32 o => cm o true
  | .atomMaxN32 o => cm o true
  | .atomMaxI32 o => cm o true
  | .atomMaxF32 o => cm o true
  | .atomAnd o => cm o true
  | .atomOr o => cm o true
  | .atomXor o => cm o true
  | .atomXchg o => cm o true
  | .cas o => even o.v :: cm o true
  | .red o => code (decide (o.d.toNat ≤ 10)) :: cm o false
  | .bop o => code (decide (o.d.toNat ≤ 10)) :: (!o.i, .reservedField) :: cm o false
  | .bred o => code (decide (o.d.toNat ≤ 10)) :: cm o false
  | .flgs o => flgF o :: pfE o.p 2
  | .flgw o => flgF o :: pfE o.p 1
  | .qpush o => (decide (o.k.toNat < 16), .reservedField) :: sreg o.a :: zero o.b :: pfE o.p 2
  | .qpop o => [sreg o.k, sreg o.a, (o.b.getLsbD 5 || !(o.b.getLsbD 4), .reservedField), pfE0 o.p]
  | .qdone o => [zero o.k, sreg o.a, zero o.b, pfE0 o.p]
  | .boini o => [sreg o.k, sreg o.a, zero o.b, pfE0 o.p]
  | .boarr o => [sreg o.k, (!(o.a.getLsbD 5) || o.a == 32, .reservedField), zero o.b, pfE0 o.p]
  | .bowt o => [sreg o.k, sreg o.a, zero o.b, pfE0 o.p]
  | .bra _ => []
  | .brp _ => []
  | .call _ => []
  | .brx o => zero o.b :: even o.a :: zero o.d :: fa o false false false false
  | .ret o => zero o.b :: even o.a :: zero o.d :: fa o false false false false
  | .reform o => [zero o.sel, zero o.a, zero o.d]
  | .exit o => [zero o.sel, zero o.a, zero o.d]
  | .nop o => [zero o.sel, zero o.a, zero o.d]
  | .join o => zero o.b :: mreg o.a :: zero o.d :: fa o false false false false
  | .leave o => zero o.b :: mreg o.a :: zero o.d :: fa o false false false false
  | .wait o => zero o.b :: mreg o.a :: zero o.d :: fa o false false false false
  | .mset o => [hi5 o.p, noT o.t, mreg o.d]
  | .mlog o => mreg (o.b &&& 15) :: mreg o.a :: mreg (o.d &&& 15) :: code (decide (mlogOp o ≤ 5)) :: (decide (mlogOp o < 4) || o.b &&& 15 == 0, .reservedField) :: fa o false false false false
  | .ballot o => (decide (o.b.toNat ≤ 1), .reservedField) :: (o.b == 0 || decide (o.d.toNat < 12), .illegalReg) :: low3 o.a :: fa o false false false (o.b == 0)
  | .elect o => zero o.b :: zero o.a :: low3 o.d :: (o.d != 7, .illegalReg) :: fa o false false false false
  | .yield o => [zero o.sel, zero o.a, zero o.d]
  | .bar o => [zero o.sel, zero o.a, zero o.d]
  | .gbar o => [zero o.sel, zero o.a, zero o.d]
  | .trap o => [zero o.a, zero o.d]
  | .mtx o => [sreg o.k, sreg o.a, pfE0 o.p]
  | .mtxg o => [sreg o.k, sreg o.a, pfE0 o.p]
  | .mtxs o => [sreg o.k, sreg o.a, pfE0 o.p]
  | .xsect o => [sreg o.k, sreg o.a, zero o.b, pfE0 o.p]
  | .dist o => [sreg o.k, zero o.a, zero o.b, pfE0 o.p]
  | .fixup o => [sreg o.k, sreg o.a, sreg o.b, pfE0 o.p]
  | .enext o => [low3 o.k, (o.k != 7, .illegalReg), zero o.a, zero o.b, pfE0 o.p]
  | .ecomb o => [zero o.k, zero o.b, pfE0 o.p]
  | .eact o => [zero o.k, zero o.a, zero o.b, pfE0 o.p]
  | .edone o => [zero o.k, zero o.a, zero o.b, pfE0 o.p]
  | .elevel o => [zero o.sel, zero o.a, zero o.d]
  | .emode o => [code (decide (o.sel.toNat ≤ 2)), zero o.a, zero o.d]
  | .launch o => [zero o.k, sreg o.a, zero o.b, pfE0 o.p]
  | .lwait o => [zero o.k, sreg o.a, zero o.b, pfE0 o.p]
  | .mark o => [sreg o.a, zero o.d]
  | .brk o => [zero o.a, zero o.d]
  | .rdts o => zero o.sel :: rdClass o false
  | .rdclk o => zero o.sel :: rdClass o false
  | .dhalt o => [zero o.sel, sreg o.a, zero o.d]
  | .dresume o => [zero o.sel, sreg o.a, zero o.d]
  | .dstep o => [zero o.sel, sreg o.a, zero o.d]
  | .dbkpt o => [zero o.sel, sreg o.a, zero o.d]
  | .dwatch o => [zero o.sel, sreg o.a, zero o.d]
  | .drds o => [code (decide (o.sel.toNat ≤ 4)), sreg o.a, zero o.d]
  | .dmboxSend o => [zero o.sel, sreg o.a, zero o.d]
  | .dmboxRecv o => [code (o.sel == 1), sreg o.a, zero o.d]
  | .movShort _ => []
  | .iaddShort _ => []
  | .isubShort _ => []
  | .imulShort _ => []
  | .andShort _ => []
  | .orShort _ => []
  | .xorShort _ => []
  | .shlShort _ => []
  | .shrShort _ => []
  | .shraShort _ => []
  | .iaddiShort _ => []
  | .faddShort _ => []
  | .fsubShort _ => []
  | .fmulShort _ => []
  | .fminShort _ => []
  | .fmaxShort _ => []
  | .groupDispatch _ _ => []
  | .coopPlacement _ => []
  | .groupRetire _ => []
  | .rangeRetire _ => []
  | .basinAgeDraw _ _ => []
  | .implicitJoinIssue _ _ => []
  | .resultReturn _ _ => []
  | .l1Fill _ _ _ => []
  | .llcFill _ _ _ => []
  | .storeAcknowledge _ => []
  | .wcbTimeoutDrain _ => []
  | .ptsTick _ => []
  | .sliceOperation _ _ => []
  | .streamReadahead _ _ _ => []
  | .copyComplete _ => []
  | .copyFault _ => []
  | .copylistPieceComplete _ => []
  | .tileFillStart _ _ => []
  | .tileFilled _ _ _ => []
  | .slotDrained _ _ _ => []
  | .reservoirWayDrained _ => []
  | .matrixStart _ => []
  | .matrixComplete _ => []
  | .xsectComplete _ => []
  | .matrixFault _ => []
  | .fixupOwnerCombine _ => []
  | .queueEntryAging _ _ => []
  | .levelBoundary _ => []
  | .midlevelSwitch _ _ => []
  | .sluiceFault _ _ => []
  | .breakpointHalt _ _ => []
  | .watchpointHalt _ _ => []
  | .faultRecordPost _ => []
  | .resume _ _ => []
  | .skip _ _ => []
  | .killGroup _ _ => []
  | .killRange _ _ => []
  | .saveRange _ _ => []
  | .preemptRequest _ => []
  | .safePointStop _ _ => []
  | .hardStop _ => []
  | .preemptImageWrite _ => []
  | .priorityPreempt _ => []
  | .frontEndDispatch _ => []
  | .doorbellWrite _ _ => []
  | .doorbellResync _ _ => []
  | .nopPacket _ => []
  | .launchPacket _ => []
  | .indirect _ => []
  | .waitPacket _ => []
  | .waitPacketSatisfied _ => []
  | .write _ => []
  | .inval _ => []
  | .partcfg _ => []
  | .qcreate _ => []
  | .qdestroy _ => []
  | .exportPacket _ => []
  | .importPacket _ => []
  | .policyPacket _ => []
  | .cwin _ => []
  | .canalRemoteAccess _ _ _ _ _ _ _ _ => []
  | .canalOrderedPass _ _ _ => []
  | .canalPortDown _ => []
  | .hostMemAccess _ _ _ => []
  | .gpkt _ => []
  | .treq _ _ _ _ _ => []
  | .tinvack _ => []
  | .gcpl _ _ _ => []
  | .gflt _ _ _ _ _ => []
  | .gpack _ _ _ _ => []
  | .grack _ _ _ => []
  | .guestAccess _ _ _ => []
  | .portFence _ => []
  | .socketReset _ _ => []
  | .packageReset => []
  | .firmwareVerify _ _ _ _ => []
  | .hbmTrained _ _ => []
  | .grant => []
  | .assign => []
  | .revoke => []
  | .fqtable => []
  | .clock => []
  | .budget => []
  | .asidset => []
  | .cmap => []
  | .carve => []
  | .policy => []
  | .keyload => []
  | .keydrop => []
  | .vfbind => []
  | .advance _ _ => []
  | .count _ => []
  | .attest _ => []
  | .traceEnable _ => []
  | .traceDisable _ => []
  | .logEnable _ => []
  | .registerWrite _ _ _ => []
  | .sampleRecord _ => []
  | .traceSync _ => []
  | .traceLostRecovery _ => []
  | .powerWindow _ _ _ => []
  | .thermalThrottle _ => []
  | .thermalTrip => []
  | .coreSelftestFail _ _ => []
  | .headgateFault _ _ _ => []
  | .fixupDepositComplete _ => []
  | .containerRegistration _ _ _ _ _ _ _ => []
  | .hostDebugMessage _ _ => []
  | .debugMailboxRead _ => []
  | .guestChannelConfigure _ _ _ => []
  | .temperatureBelow95c _ => []

/-- The first check an instruction fails. -/
def Instr.reject (i : Instr) : Option Reject :=
  (i.checks.find? (fun c => !c.1)).map (·.2)

/-- An instruction the encoding rules admit. -/
def WellFormed (i : Instr) : Prop := i.reject = none

end Sys2Proof
end

