-- ==== Sys2Proof/Decode.lean ====
section
/-! DEFINITION. Decoding and encoding: framing (R146, R158, R162), the format layouts (R156, Table 3), the prefix
payload (R158, R159), the short forms (R163) and the opcode map (R164). Decoding is total on any bytes. -/

namespace Sys2Proof

/-! ## Format layouts, Table 3 -/

def wG (w : W32) : BitVec 3 := w.extractLsb 13 11
def wT (w : W32) : Bool := w.getLsbD 2
def wS (w : W32) : Bool := w.getLsbD 1

def PfA.parse (p : BitVec 25) : Except Reject PfA :=
  if p.extractLsb 24 8 == 0 then .ok ⟨p.extractLsb 7 5, p.extractLsb 4 2, p.extractLsb 1 0⟩ else .error .badPrefix
def PfA.bits (p : PfA) : BitVec 25 := 0#17 ++ p.qb ++ p.qa ++ p.rm
def PfC.parse (p : BitVec 25) : PfC := ⟨p.extractLsb 24 22, p.extractLsb 21 20, p.extractLsb 19 17, p.extractLsb 16 0⟩
def PfC.bits (p : PfC) : BitVec 25 := p.scope ++ p.ord ++ p.res ++ p.lo
def PfE.parse (p : BitVec 25) : Except Reject PfE :=
  if p.extractLsb 19 0 == 0 then .ok ⟨p.extractLsb 24 22, p.extractLsb 21 20⟩ else .error .badPrefix
def PfE.bits (p : PfE) : BitVec 25 := p.scope ++ p.ord ++ 0#20

/-- An optional payload read by a format that may reject bits of it. -/
def optPf {α : Type} (f : BitVec 25 → Except Reject α) : Option (BitVec 25) → Except Reject (Option α)
  | none => .ok none
  | some p => (f p).map some

def OpA.parse (w : W32) (p : Option (BitVec 25)) : Except Reject OpA :=
  (optPf PfA.parse p).map (fun q =>
    ⟨w.extractLsb 31 26, w.extractLsb 25 20, w.extractLsb 19 14, wG w, wT w, wS w, q⟩)
def OpB.parse (w : W32) (p : Option (BitVec 25)) : Except Reject OpB :=
  .ok ⟨w.extractLsb 31 26, w.extractLsb 25 20, w.extractLsb 19 14, wG w, wT w, wS w, p⟩
def OpBW.parse (w : W32) (p : Option (BitVec 25)) : Except Reject OpBW :=
  .ok ⟨w.extractLsb 31 20, w.extractLsb 19 14, wG w, wT w, wS w, p⟩
/-- T is reserved outside formats A, B and BW (R153). -/
def noTWord {α : Type} (w : W32) (x : Except Reject α) : Except Reject α := if wT w then .error .tReserved else x
def OpCx.parse (w : W32) (p : Option (BitVec 25)) : Except Reject OpCx :=
  noTWord w (.ok ⟨w.getLsbD 31, w.extractLsb 30 26, w.extractLsb 25 20, w.extractLsb 19 14, wG w, wS w, p.map PfC.parse⟩)
def OpCd.parse (w : W32) (p : Option (BitVec 25)) : Except Reject OpCd :=
  noTWord w (.ok ⟨w.extractLsb 31 29, w.getLsbD 28, w.extractLsb 27 26, w.extractLsb 25 20, w.extractLsb 19 14, wG w, wS w,
    p.map PfC.parse⟩)
def OpCm.parse (w : W32) (p : Option (BitVec 25)) : Except Reject OpCm :=
  noTWord w (.ok ⟨w.getLsbD 31, w.extractLsb 30 26, w.extractLsb 25 20, w.extractLsb 19 14, wG w, wS w, p.map PfC.parse⟩)
def OpD.parse (w : W32) (p : Option (BitVec 25)) : Except Reject OpD :=
  noTWord w (.ok ⟨w.extractLsb 31 14, wG w, wS w, p⟩)
def OpDp.parse (w : W32) (p : Option (BitVec 25)) : Except Reject OpDp :=
  noTWord w (.ok ⟨w.extractLsb 31 18, w.getLsbD 17, w.extractLsb 16 14, wG w, wS w, p⟩)
def OpE.parse (w : W32) (p : Option (BitVec 25)) : Except Reject OpE :=
  noTWord w ((optPf PfE.parse p).map (fun q => ⟨w.extractLsb 31 26, w.extractLsb 25 20, w.extractLsb 19 14, wG w, wS w, q⟩))
def OpF.parse (w : W32) (p : Option (BitVec 25)) : Except Reject OpF :=
  match p with
  | some _ => .error .noPrefixHere
  | none => noTWord w (.ok ⟨w.extractLsb 31 26, w.extractLsb 25 20, w.extractLsb 19 14, wG w, wS w⟩)
def OpS.parse (h : W16) : OpS := ⟨h.extractLsb 15 11, h.extractLsb 10 6, h.getLsbD 1⟩

/-! ## The same layouts, written -/

/-- Header of R148 below the format's fields: guard, minor and major opcode, T, S, L. -/
def wordOf (f : BitVec 18) (g : BitVec 3) (op : Nat) (t m : Bool) : W32 :=
  f ++ g ++ (BitVec.ofNat 2 op) ++ (BitVec.ofNat 6 (op / 4)) ++ BitVec.ofBool t ++ BitVec.ofBool m ++ 1#1

def OpA.word (o : OpA) (op : Nat) : W32 := wordOf (o.b ++ o.a ++ o.d) o.g op o.t o.m
def OpA.payload (o : OpA) : Option (BitVec 25) := o.p.map PfA.bits
def OpB.word (o : OpB) (op : Nat) : W32 := wordOf (o.i ++ o.a ++ o.d) o.g op o.t o.m
def OpB.payload (o : OpB) : Option (BitVec 25) := o.p
def OpBW.word (o : OpBW) (op : Nat) : W32 := wordOf (o.i ++ o.d) o.g op o.t o.m
def OpBW.payload (o : OpBW) : Option (BitVec 25) := o.p
def OpCx.word (o : OpCx) (op : Nat) : W32 := wordOf (BitVec.ofBool o.x ++ o.s ++ o.v ++ o.t) o.g op false o.m
def OpCx.payload (o : OpCx) : Option (BitVec 25) := o.p.map PfC.bits
def OpCd.word (o : OpCd) (op : Nat) : W32 := wordOf (o.i ++ BitVec.ofBool o.x ++ o.w ++ o.b ++ o.t) o.g op false o.m
def OpCd.payload (o : OpCd) : Option (BitVec 25) := o.p.map PfC.bits
def OpCm.word (o : OpCm) (op : Nat) : W32 := wordOf (BitVec.ofBool o.i ++ o.s ++ o.v ++ o.d) o.g op false o.m
def OpCm.payload (o : OpCm) : Option (BitVec 25) := o.p.map PfC.bits
def OpD.word (o : OpD) (op : Nat) : W32 := wordOf o.o o.g op false o.m
def OpD.payload (o : OpD) : Option (BitVec 25) := o.p
def OpDp.word (o : OpDp) (op : Nat) : W32 := wordOf (o.o ++ BitVec.ofBool o.c ++ o.pr) o.g op false o.m
def OpDp.payload (o : OpDp) : Option (BitVec 25) := o.p
def OpE.word (o : OpE) (op : Nat) : W32 := wordOf (o.b ++ o.a ++ o.k) o.g op false o.m
def OpE.payload (o : OpE) : Option (BitVec 25) := o.p.map PfE.bits
def OpF.word (o : OpF) (op : Nat) : W32 := wordOf (o.sel ++ o.a ++ o.d) o.g op false o.m
def OpF.payload (_ : OpF) : Option (BitVec 25) := none
def OpS.word (o : OpS) (op : Nat) : W16 := o.a ++ o.d ++ BitVec.ofNat 4 op ++ BitVec.ofBool o.m ++ 0#1

/-- The prefix word of a payload (R158): P[24:2] in [31:9], P[1] in [2], P[0] in [1], MAJ 0x3F. -/
def prefixWord (p : BitVec 25) : W32 := p.extractLsb 24 2 ++ 63#6 ++ p.extractLsb 1 1 ++ p.extractLsb 0 0 ++ 1#1
def payloadOf (w : W32) : BitVec 25 := w.extractLsb 31 9 ++ w.extractLsb 2 2 ++ w.extractLsb 1 1

def halfBytes (h : W16) : List Byte := [h.extractLsb 7 0, h.extractLsb 15 8]
def word4 (w : W32) : List Byte := [w.extractLsb 7 0, w.extractLsb 15 8, w.extractLsb 23 16, w.extractLsb 31 24]
def wordBytes (w : W32) (p : Option (BitVec 25)) : List Byte :=
  match p with
  | none => word4 w
  | some p => word4 (prefixWord p) ++ word4 w


/-- The short forms by operation code (R163, Table 8). -/
def decodeShort (h : W16) : Instr :=
  let o := OpS.parse h
  match (h.extractLsb 5 2).toNat with
  | 0 => .movShort o
  | 1 => .iaddShort o
  | 2 => .isubShort o
  | 3 => .imulShort o
  | 4 => .andShort o
  | 5 => .orShort o
  | 6 => .xorShort o
  | 7 => .shlShort o
  | 8 => .shrShort o
  | 9 => .shraShort o
  | 10 => .iaddiShort o
  | 11 => .faddShort o
  | 12 => .fsubShort o
  | 13 => .fmulShort o
  | 14 => .fminShort o
  | _ => .fmaxShort o

/-- The opcode map of R164 (Table 9): the instruction of a 32-bit word that is no prefix, with the payload of the prefix
before it. An unassigned pair is rejected; so is a prefix before format F. -/
def decodeMap (w : W32) (p : Option (BitVec 25)) : Except Reject Instr :=
  match (w.extractLsb 8 3).toNat * 4 + (w.extractLsb 10 9).toNat with
  | 0 => (OpA.parse w p).map Instr.iaddA
  | 1 => (OpB.parse w p).map Instr.iaddB
  | 2 => (OpA.parse w p).map Instr.isubA
  | 3 => (OpB.parse w p).map Instr.isubB
  | 4 => (OpA.parse w p).map Instr.imulA
  | 5 => (OpB.parse w p).map Instr.imulB
  | 6 => (OpA.parse w p).map Instr.imadA
  | 7 => (OpB.parse w p).map Instr.imadB
  | 8 => (OpA.parse w p).map Instr.andA
  | 9 => (OpB.parse w p).map Instr.andB
  | 10 => (OpA.parse w p).map Instr.orA
  | 11 => (OpB.parse w p).map Instr.orB
  | 12 => (OpA.parse w p).map Instr.xorA
  | 13 => (OpB.parse w p).map Instr.xorB
  | 14 => (OpA.parse w p).map Instr.rotA
  | 15 => (OpB.parse w p).map Instr.rotB
  | 16 => (OpA.parse w p).map Instr.shlA
  | 17 => (OpB.parse w p).map Instr.shlB
  | 18 => (OpA.parse w p).map Instr.shrA
  | 19 => (OpB.parse w p).map Instr.shrB
  | 20 => (OpA.parse w p).map Instr.shraA
  | 21 => (OpB.parse w p).map Instr.shraB
  | 22 => (OpA.parse w p).map Instr.clz
  | 23 => (OpA.parse w p).map Instr.popc
  | 24 => (OpA.parse w p).map Instr.bfxA
  | 25 => (OpB.parse w p).map Instr.bfxB
  | 26 => (OpA.parse w p).map Instr.bfiA
  | 27 => (OpB.parse w p).map Instr.bfiB
  | 28 => (OpA.parse w p).map Instr.iminN32
  | 29 => (OpA.parse w p).map Instr.iminI32
  | 30 => (OpA.parse w p).map Instr.imaxN32
  | 31 => (OpA.parse w p).map Instr.imaxI32
  | 32 => (OpA.parse w p).map Instr.icmpN32A
  | 33 => (OpA.parse w p).map Instr.icmpI32A
  | 34 => (OpB.parse w p).map Instr.icmpN32B
  | 35 => (OpB.parse w p).map Instr.icmpI32B
  | 36 => (OpA.parse w p).map Instr.movA
  | 37 => (OpBW.parse w p).map Instr.movBw
  | 38 => (OpA.parse w p).map Instr.leaA
  | 39 => (OpB.parse w p).map Instr.leaB
  | 40 => (OpA.parse w p).map Instr.iadd64A
  | 41 => (OpB.parse w p).map Instr.iadd64B
  | 42 => (OpA.parse w p).map Instr.brev
  | 43 => (OpA.parse w p).map Instr.sxt
  | 44 => (OpA.parse w p).map Instr.sel
  | 64 => (OpA.parse w p).map (Instr.fadd 0)
  | 65 => (OpA.parse w p).map (Instr.fadd 1)
  | 66 => (OpA.parse w p).map (Instr.fadd 2)
  | 67 => (OpA.parse w p).map (Instr.fadd 3)
  | 68 => (OpA.parse w p).map (Instr.fsub 0)
  | 69 => (OpA.parse w p).map (Instr.fsub 1)
  | 70 => (OpA.parse w p).map (Instr.fsub 2)
  | 71 => (OpA.parse w p).map (Instr.fsub 3)
  | 72 => (OpA.parse w p).map (Instr.fmul 0)
  | 73 => (OpA.parse w p).map (Instr.fmul 1)
  | 74 => (OpA.parse w p).map (Instr.fmul 2)
  | 75 => (OpA.parse w p).map (Instr.fmul 3)
  | 76 => (OpA.parse w p).map (Instr.ffma 0)
  | 77 => (OpA.parse w p).map (Instr.ffma 1)
  | 78 => (OpA.parse w p).map (Instr.ffma 2)
  | 79 => (OpA.parse w p).map (Instr.ffma 3)
  | 80 => (OpA.parse w p).map (Instr.fmin 0)
  | 81 => (OpA.parse w p).map (Instr.fmin 1)
  | 82 => (OpA.parse w p).map (Instr.fmin 2)
  | 83 => (OpA.parse w p).map (Instr.fmin 3)
  | 84 => (OpA.parse w p).map (Instr.fmax 0)
  | 85 => (OpA.parse w p).map (Instr.fmax 1)
  | 86 => (OpA.parse w p).map (Instr.fmax 2)
  | 87 => (OpA.parse w p).map (Instr.fmax 3)
  | 88 => (OpA.parse w p).map (Instr.fcmp 0)
  | 89 => (OpA.parse w p).map (Instr.fcmp 1)
  | 90 => (OpA.parse w p).map (Instr.fcmp 2)
  | 91 => (OpA.parse w p).map (Instr.fcmp 3)
  | 92 => (OpA.parse w p).map Instr.frcp
  | 93 => (OpA.parse w p).map Instr.frsq
  | 94 => (OpA.parse w p).map Instr.fex2
  | 95 => (OpA.parse w p).map Instr.flg2
  | 96 => (OpA.parse w p).map Instr.f2i
  | 97 => (OpA.parse w p).map Instr.i2f
  | 98 => (OpA.parse w p).map Instr.fcvt
  | 100 => (OpA.parse w p).map Instr.pack
  | 101 => (OpA.parse w p).map Instr.unpack
  | 104 => (OpA.parse w p).map Instr.shfl
  | 105 => (OpA.parse w p).map Instr.tred
  | 108 => (OpA.parse w p).map Instr.dot4N8
  | 109 => (OpA.parse w p).map Instr.dot4I8
  | 112 => (OpA.parse w p).map Instr.saddA
  | 113 => (OpB.parse w p).map Instr.saddB
  | 114 => (OpA.parse w p).map Instr.smulA
  | 115 => (OpB.parse w p).map Instr.smulB
  | 116 => (OpBW.parse w p).map Instr.slea
  | 117 => (OpA.parse w p).map Instr.smovA
  | 118 => (OpBW.parse w p).map Instr.smovBw
  | 120 => (OpA.parse w p).map Instr.scmpA
  | 121 => (OpB.parse w p).map Instr.scmpB
  | 122 => (OpF.parse w p).map Instr.rdsys
  | 128 => (OpCx.parse w p).map (Instr.ldCx 0)
  | 129 => (OpCx.parse w p).map (Instr.ldCx 1)
  | 130 => (OpCx.parse w p).map (Instr.ldCx 2)
  | 131 => (OpCx.parse w p).map (Instr.ldCx 3)
  | 132 => (OpCd.parse w p).map Instr.ldCdS
  | 133 => (OpCd.parse w p).map Instr.ldCdPair
  | 136 => (OpCx.parse w p).map (Instr.stCx 0)
  | 137 => (OpCx.parse w p).map (Instr.stCx 1)
  | 138 => (OpCx.parse w p).map (Instr.stCx 2)
  | 139 => (OpCx.parse w p).map (Instr.stCx 3)
  | 140 => (OpCd.parse w p).map Instr.stCdS
  | 141 => (OpCd.parse w p).map Instr.stCdPair
  | 144 => (OpCd.parse w p).map Instr.lds
  | 145 => (OpCd.parse w p).map Instr.sts
  | 146 => (OpCd.parse w p).map Instr.ldw
  | 147 => (OpCd.parse w p).map Instr.stw
  | 148 => (OpCd.parse w p).map Instr.ldx
  | 149 => (OpCd.parse w p).map Instr.stx
  | 150 => (OpCd.parse w p).map Instr.qset
  | 151 => (OpCd.parse w p).map Instr.qsave
  | 152 => (OpE.parse w p).map Instr.cpy
  | 153 => (OpE.parse w p).map Instr.cpyl
  | 154 => (OpCx.parse w p).map Instr.pref
  | 155 => (OpCx.parse w p).map Instr.pgreq
  | 156 => (OpF.parse w p).map Instr.fence
  | 157 => (OpE.parse w p).map Instr.subs
  | 158 => (OpE.parse w p).map Instr.claim
  | 159 => (OpE.parse w p).map Instr.rels
  | 160 => (OpCm.parse w p).map Instr.atomAdd
  | 161 => (OpCm.parse w p).map Instr.atomAddF32
  | 162 => (OpCm.parse w p).map Instr.atomMinN32
  | 163 => (OpCm.parse w p).map Instr.atomMinI32
  | 164 => (OpCm.parse w p).map Instr.atomMinF32
  | 165 => (OpCm.parse w p).map Instr.atomMaxN32
  | 166 => (OpCm.parse w p).map Instr.atomMaxI32
  | 167 => (OpCm.parse w p).map Instr.atomMaxF32
  | 168 => (OpCm.parse w p).map Instr.atomAnd
  | 169 => (OpCm.parse w p).map Instr.atomOr
  | 170 => (OpCm.parse w p).map Instr.atomXor
  | 171 => (OpCm.parse w p).map Instr.atomXchg
  | 172 => (OpCm.parse w p).map Instr.cas
  | 173 => (OpCm.parse w p).map Instr.red
  | 174 => (OpCm.parse w p).map Instr.bop
  | 175 => (OpCm.parse w p).map Instr.bred
  | 176 => (OpE.parse w p).map Instr.flgs
  | 177 => (OpE.parse w p).map Instr.flgw
  | 178 => (OpE.parse w p).map Instr.qpush
  | 179 => (OpE.parse w p).map Instr.qpop
  | 180 => (OpE.parse w p).map Instr.qdone
  | 181 => (OpE.parse w p).map Instr.boini
  | 182 => (OpE.parse w p).map Instr.boarr
  | 183 => (OpE.parse w p).map Instr.bowt
  | 184 => (OpD.parse w p).map Instr.bra
  | 185 => (OpDp.parse w p).map Instr.brp
  | 186 => (OpD.parse w p).map Instr.call
  | 187 => (OpA.parse w p).map Instr.brx
  | 188 => (OpA.parse w p).map Instr.ret
  | 189 => (OpF.parse w p).map Instr.reform
  | 190 => (OpF.parse w p).map Instr.exit
  | 191 => (OpF.parse w p).map Instr.nop
  | 192 => (OpA.parse w p).map Instr.join
  | 193 => (OpA.parse w p).map Instr.leave
  | 194 => (OpA.parse w p).map Instr.wait
  | 195 => (OpBW.parse w p).map Instr.mset
  | 196 => (OpA.parse w p).map Instr.mlog
  | 197 => (OpA.parse w p).map Instr.ballot
  | 198 => (OpA.parse w p).map Instr.elect
  | 199 => (OpF.parse w p).map Instr.yield
  | 200 => (OpF.parse w p).map Instr.bar
  | 201 => (OpF.parse w p).map Instr.gbar
  | 202 => (OpF.parse w p).map Instr.trap
  | 208 => (OpE.parse w p).map Instr.mtx
  | 209 => (OpE.parse w p).map Instr.mtxg
  | 210 => (OpE.parse w p).map Instr.mtxs
  | 211 => (OpE.parse w p).map Instr.xsect
  | 212 => (OpE.parse w p).map Instr.dist
  | 213 => (OpE.parse w p).map Instr.fixup
  | 224 => (OpE.parse w p).map Instr.enext
  | 225 => (OpE.parse w p).map Instr.ecomb
  | 226 => (OpE.parse w p).map Instr.eact
  | 227 => (OpE.parse w p).map Instr.edone
  | 228 => (OpF.parse w p).map Instr.elevel
  | 229 => (OpF.parse w p).map Instr.emode
  | 232 => (OpE.parse w p).map Instr.launch
  | 233 => (OpE.parse w p).map Instr.lwait
  | 234 => (OpF.parse w p).map Instr.mark
  | 235 => (OpF.parse w p).map Instr.brk
  | 236 => (OpF.parse w p).map Instr.rdts
  | 237 => (OpF.parse w p).map Instr.rdclk
  | 240 => (OpF.parse w p).map Instr.dhalt
  | 241 => (OpF.parse w p).map Instr.dresume
  | 242 => (OpF.parse w p).map Instr.dstep
  | 243 => (OpF.parse w p).map Instr.dbkpt
  | 244 => (OpF.parse w p).map Instr.dwatch
  | 245 => (OpF.parse w p).map Instr.drds
  | 246 => (OpF.parse w p).map (fun o => if o.sel == 1 then Instr.dmboxRecv o else Instr.dmboxSend o)
  | _ => .error .unassigned

/-- One 32-bit word with its payload, checked by WellFormed (R165). -/
def decodeWord (w : W32) (p : Option (BitVec 25)) : Except Reject Instr :=
  match decodeMap w p with
  | .error r => .error r
  | .ok i => match i.reject with
    | none => .ok i
    | some r => .error r

/-! ## Framing -/

/-- Bit 0 of the first halfword gives the length (R146). -/
def isShort (b0 : Byte) : Bool := !(b0.getLsbD 0)
/-- MAJ 0x3F, in bits [8:3] (R158). -/
def isPrefix (b0 b1 : Byte) : Bool := b0.extractLsb 7 3 == 31 && b1.getLsbD 0

/-- The instruction at the head of the bytes, and the bytes after it (R146, R162). -/
def decode : List Byte → Except Reject (Instr × List Byte)
  | b0 :: b1 :: rest =>
    if isShort b0 then .ok (decodeShort (b1 ++ b0), rest)
    else match rest with
      | b2 :: b3 :: rest =>
        if isPrefix b0 b1 then
          match rest with
          | c0 :: c1 :: c2 :: c3 :: rest =>
            if isShort c0 then .error .shortAfterPrefix
            else if isPrefix c0 c1 then .error .twoPrefixes
            else (decodeWord (c3 ++ c2 ++ c1 ++ c0) (some (payloadOf (b3 ++ b2 ++ b1 ++ b0)))).map (·, rest)
          | _ => .error .tooShort
        else (decodeWord (b3 ++ b2 ++ b1 ++ b0) none).map (·, rest)
      | _ => .error .tooShort
  | _ => .error .tooShort

/-- How many bytes the instruction at the head has, from its first two bytes (R146, R158). -/
def lenOf (b0 b1 : Byte) : Nat := if isShort b0 then 2 else if isPrefix b0 b1 then 8 else 4

/-- The bytes of a number, lowest first (R5). -/
def leBytes : Nat → Nat → List Byte
  | 0, _ => []
  | n + 1, x => BitVec.ofNat 8 x :: leBytes n (x / 256)

/-- The instruction the decoder reads from the bits w, numbered from the first word's least significant bit; bits above
nbits are 0. -/
def decodeTableWord (nbits w : Nat) : Option Instr :=
  match decode (leBytes 8 (w % 2 ^ nbits)) with
  | .ok (i, _) => some i
  | .error _ => none


/-- The code of an instruction in the opcode map, major × 4 + minor (R164); short forms have their operation code, events none. -/
def Instr.opcode : Instr → Nat
  | .iaddA _ => 0
  | .iaddB _ => 1
  | .isubA _ => 2
  | .isubB _ => 3
  | .imulA _ => 4
  | .imulB _ => 5
  | .imadA _ => 6
  | .imadB _ => 7
  | .andA _ => 8
  | .andB _ => 9
  | .orA _ => 10
  | .orB _ => 11
  | .xorA _ => 12
  | .xorB _ => 13
  | .rotA _ => 14
  | .rotB _ => 15
  | .shlA _ => 16
  | .shlB _ => 17
  | .shrA _ => 18
  | .shrB _ => 19
  | .shraA _ => 20
  | .shraB _ => 21
  | .clz _ => 22
  | .popc _ => 23
  | .bfxA _ => 24
  | .bfxB _ => 25
  | .bfiA _ => 26
  | .bfiB _ => 27
  | .iminN32 _ => 28
  | .iminI32 _ => 29
  | .imaxN32 _ => 30
  | .imaxI32 _ => 31
  | .icmpN32A _ => 32
  | .icmpI32A _ => 33
  | .icmpN32B _ => 34
  | .icmpI32B _ => 35
  | .movA _ => 36
  | .movBw _ => 37
  | .leaA _ => 38
  | .leaB _ => 39
  | .iadd64A _ => 40
  | .iadd64B _ => 41
  | .brev _ => 42
  | .sxt _ => 43
  | .sel _ => 44
  | .saddA _ => 112
  | .saddB _ => 113
  | .smulA _ => 114
  | .smulB _ => 115
  | .slea _ => 116
  | .smovA _ => 117
  | .smovBw _ => 118
  | .scmpA _ => 120
  | .scmpB _ => 121
  | .rdsys _ => 122
  | .fadd y _ => 64 + y.toNat
  | .fsub y _ => 68 + y.toNat
  | .fmul y _ => 72 + y.toNat
  | .ffma y _ => 76 + y.toNat
  | .fmin y _ => 80 + y.toNat
  | .fmax y _ => 84 + y.toNat
  | .fcmp y _ => 88 + y.toNat
  | .frcp _ => 92
  | .frsq _ => 93
  | .fex2 _ => 94
  | .flg2 _ => 95
  | .f2i _ => 96
  | .i2f _ => 97
  | .fcvt _ => 98
  | .pack _ => 100
  | .unpack _ => 101
  | .shfl _ => 104
  | .tred _ => 105
  | .dot4N8 _ => 108
  | .dot4I8 _ => 109
  | .ldCx w _ => 128 + w.toNat
  | .ldCdS _ => 132
  | .ldCdPair _ => 133
  | .stCx w _ => 136 + w.toNat
  | .stCdS _ => 140
  | .stCdPair _ => 141
  | .lds _ => 144
  | .sts _ => 145
  | .ldw _ => 146
  | .stw _ => 147
  | .ldx _ => 148
  | .stx _ => 149
  | .qset _ => 150
  | .qsave _ => 151
  | .cpy _ => 152
  | .cpyl _ => 153
  | .pref _ => 154
  | .pgreq _ => 155
  | .fence _ => 156
  | .subs _ => 157
  | .claim _ => 158
  | .rels _ => 159
  | .atomAdd _ => 160
  | .atomAddF32 _ => 161
  | .atomMinN32 _ => 162
  | .atomMinI32 _ => 163
  | .atomMinF32 _ => 164
  | .atomMaxN32 _ => 165
  | .atomMaxI32 _ => 166
  | .atomMaxF32 _ => 167
  | .atomAnd _ => 168
  | .atomOr _ => 169
  | .atomXor _ => 170
  | .atomXchg _ => 171
  | .cas _ => 172
  | .red _ => 173
  | .bop _ => 174
  | .bred _ => 175
  | .flgs _ => 176
  | .flgw _ => 177
  | .qpush _ => 178
  | .qpop _ => 179
  | .qdone _ => 180
  | .boini _ => 181
  | .boarr _ => 182
  | .bowt _ => 183
  | .bra _ => 184
  | .brp _ => 185
  | .call _ => 186
  | .brx _ => 187
  | .ret _ => 188
  | .reform _ => 189
  | .exit _ => 190
  | .nop _ => 191
  | .join _ => 192
  | .leave _ => 193
  | .wait _ => 194
  | .mset _ => 195
  | .mlog _ => 196
  | .ballot _ => 197
  | .elect _ => 198
  | .yield _ => 199
  | .bar _ => 200
  | .gbar _ => 201
  | .trap _ => 202
  | .mtx _ => 208
  | .mtxg _ => 209
  | .mtxs _ => 210
  | .xsect _ => 211
  | .dist _ => 212
  | .fixup _ => 213
  | .enext _ => 224
  | .ecomb _ => 225
  | .eact _ => 226
  | .edone _ => 227
  | .elevel _ => 228
  | .emode _ => 229
  | .launch _ => 232
  | .lwait _ => 233
  | .mark _ => 234
  | .brk _ => 235
  | .rdts _ => 236
  | .rdclk _ => 237
  | .dhalt _ => 240
  | .dresume _ => 241
  | .dstep _ => 242
  | .dbkpt _ => 243
  | .dwatch _ => 244
  | .drds _ => 245
  | .dmboxSend _ => 246
  | .dmboxRecv _ => 246
  | .movShort _ => 0
  | .iaddShort _ => 1
  | .isubShort _ => 2
  | .imulShort _ => 3
  | .andShort _ => 4
  | .orShort _ => 5
  | .xorShort _ => 6
  | .shlShort _ => 7
  | .shrShort _ => 8
  | .shraShort _ => 9
  | .iaddiShort _ => 10
  | .faddShort _ => 11
  | .fsubShort _ => 12
  | .fmulShort _ => 13
  | .fminShort _ => 14
  | .fmaxShort _ => 15
  | .groupDispatch _ _ => 0
  | .coopPlacement _ => 0
  | .groupRetire _ => 0
  | .rangeRetire _ => 0
  | .basinAgeDraw _ _ => 0
  | .implicitJoinIssue _ _ => 0
  | .resultReturn _ _ => 0
  | .l1Fill _ _ _ => 0
  | .llcFill _ _ _ => 0
  | .storeAcknowledge _ => 0
  | .wcbTimeoutDrain _ => 0
  | .ptsTick _ => 0
  | .sliceOperation _ _ => 0
  | .streamReadahead _ _ _ => 0
  | .copyComplete _ => 0
  | .copyFault _ => 0
  | .copylistPieceComplete _ => 0
  | .tileFillStart _ _ => 0
  | .tileFilled _ _ _ => 0
  | .slotDrained _ _ _ => 0
  | .reservoirWayDrained _ => 0
  | .matrixStart _ => 0
  | .matrixComplete _ => 0
  | .xsectComplete _ => 0
  | .matrixFault _ => 0
  | .fixupOwnerCombine _ => 0
  | .queueEntryAging _ _ => 0
  | .levelBoundary _ => 0
  | .midlevelSwitch _ _ => 0
  | .sluiceFault _ _ => 0
  | .breakpointHalt _ _ => 0
  | .watchpointHalt _ _ => 0
  | .faultRecordPost _ => 0
  | .resume _ _ => 0
  | .skip _ _ => 0
  | .killGroup _ _ => 0
  | .killRange _ _ => 0
  | .saveRange _ _ => 0
  | .preemptRequest _ => 0
  | .safePointStop _ _ => 0
  | .hardStop _ => 0
  | .preemptImageWrite _ => 0
  | .priorityPreempt _ => 0
  | .frontEndDispatch _ => 0
  | .doorbellWrite _ _ => 0
  | .doorbellResync _ _ => 0
  | .nopPacket _ => 0
  | .launchPacket _ => 0
  | .indirect _ => 0
  | .waitPacket _ => 0
  | .waitPacketSatisfied _ => 0
  | .write _ => 0
  | .inval _ => 0
  | .partcfg _ => 0
  | .qcreate _ => 0
  | .qdestroy _ => 0
  | .exportPacket _ => 0
  | .importPacket _ => 0
  | .policyPacket _ => 0
  | .cwin _ => 0
  | .canalRemoteAccess _ _ _ _ _ _ _ _ => 0
  | .canalOrderedPass _ _ _ => 0
  | .canalPortDown _ => 0
  | .hostMemAccess _ _ _ => 0
  | .gpkt _ => 0
  | .treq _ _ _ _ _ => 0
  | .tinvack _ => 0
  | .gcpl _ _ _ => 0
  | .gflt _ _ _ _ _ => 0
  | .gpack _ _ _ _ => 0
  | .grack _ _ _ => 0
  | .guestAccess _ _ _ => 0
  | .portFence _ => 0
  | .socketReset _ _ => 0
  | .packageReset => 0
  | .firmwareVerify _ _ _ _ => 0
  | .hbmTrained _ _ => 0
  | .grant => 0
  | .assign => 0
  | .revoke => 0
  | .fqtable => 0
  | .clock => 0
  | .budget => 0
  | .asidset => 0
  | .cmap => 0
  | .carve => 0
  | .policy => 0
  | .keyload => 0
  | .keydrop => 0
  | .vfbind => 0
  | .advance _ _ => 0
  | .count _ => 0
  | .attest _ => 0
  | .traceEnable _ => 0
  | .traceDisable _ => 0
  | .logEnable _ => 0
  | .registerWrite _ _ _ => 0
  | .sampleRecord _ => 0
  | .traceSync _ => 0
  | .traceLostRecovery _ => 0
  | .powerWindow _ _ _ => 0
  | .thermalThrottle _ => 0
  | .thermalTrip => 0
  | .coreSelftestFail _ _ => 0
  | .headgateFault _ _ _ => 0
  | .fixupDepositComplete _ => 0
  | .containerRegistration _ _ _ _ _ _ _ => 0
  | .hostDebugMessage _ _ => 0
  | .debugMailboxRead _ => 0
  | .guestChannelConfigure _ _ _ => 0
  | .temperatureBelow95c _ => 0

/-- The bytes of an instruction, lowest address first: the prefix when it has one, then the word; none for an event. -/
def encode (i : Instr) : List Byte :=
  match i with
  | .iaddA o => wordBytes (o.word i.opcode) (o.payload)
  | .iaddB o => wordBytes (o.word i.opcode) (o.payload)
  | .isubA o => wordBytes (o.word i.opcode) (o.payload)
  | .isubB o => wordBytes (o.word i.opcode) (o.payload)
  | .imulA o => wordBytes (o.word i.opcode) (o.payload)
  | .imulB o => wordBytes (o.word i.opcode) (o.payload)
  | .imadA o => wordBytes (o.word i.opcode) (o.payload)
  | .imadB o => wordBytes (o.word i.opcode) (o.payload)
  | .andA o => wordBytes (o.word i.opcode) (o.payload)
  | .andB o => wordBytes (o.word i.opcode) (o.payload)
  | .orA o => wordBytes (o.word i.opcode) (o.payload)
  | .orB o => wordBytes (o.word i.opcode) (o.payload)
  | .xorA o => wordBytes (o.word i.opcode) (o.payload)
  | .xorB o => wordBytes (o.word i.opcode) (o.payload)
  | .rotA o => wordBytes (o.word i.opcode) (o.payload)
  | .rotB o => wordBytes (o.word i.opcode) (o.payload)
  | .shlA o => wordBytes (o.word i.opcode) (o.payload)
  | .shlB o => wordBytes (o.word i.opcode) (o.payload)
  | .shrA o => wordBytes (o.word i.opcode) (o.payload)
  | .shrB o => wordBytes (o.word i.opcode) (o.payload)
  | .shraA o => wordBytes (o.word i.opcode) (o.payload)
  | .shraB o => wordBytes (o.word i.opcode) (o.payload)
  | .clz o => wordBytes (o.word i.opcode) (o.payload)
  | .popc o => wordBytes (o.word i.opcode) (o.payload)
  | .bfxA o => wordBytes (o.word i.opcode) (o.payload)
  | .bfxB o => wordBytes (o.word i.opcode) (o.payload)
  | .bfiA o => wordBytes (o.word i.opcode) (o.payload)
  | .bfiB o => wordBytes (o.word i.opcode) (o.payload)
  | .iminN32 o => wordBytes (o.word i.opcode) (o.payload)
  | .iminI32 o => wordBytes (o.word i.opcode) (o.payload)
  | .imaxN32 o => wordBytes (o.word i.opcode) (o.payload)
  | .imaxI32 o => wordBytes (o.word i.opcode) (o.payload)
  | .icmpN32A o => wordBytes (o.word i.opcode) (o.payload)
  | .icmpI32A o => wordBytes (o.word i.opcode) (o.payload)
  | .icmpN32B o => wordBytes (o.word i.opcode) (o.payload)
  | .icmpI32B o => wordBytes (o.word i.opcode) (o.payload)
  | .movA o => wordBytes (o.word i.opcode) (o.payload)
  | .movBw o => wordBytes (o.word i.opcode) (o.payload)
  | .leaA o => wordBytes (o.word i.opcode) (o.payload)
  | .leaB o => wordBytes (o.word i.opcode) (o.payload)
  | .iadd64A o => wordBytes (o.word i.opcode) (o.payload)
  | .iadd64B o => wordBytes (o.word i.opcode) (o.payload)
  | .brev o => wordBytes (o.word i.opcode) (o.payload)
  | .sxt o => wordBytes (o.word i.opcode) (o.payload)
  | .sel o => wordBytes (o.word i.opcode) (o.payload)
  | .saddA o => wordBytes (o.word i.opcode) (o.payload)
  | .saddB o => wordBytes (o.word i.opcode) (o.payload)
  | .smulA o => wordBytes (o.word i.opcode) (o.payload)
  | .smulB o => wordBytes (o.word i.opcode) (o.payload)
  | .slea o => wordBytes (o.word i.opcode) (o.payload)
  | .smovA o => wordBytes (o.word i.opcode) (o.payload)
  | .smovBw o => wordBytes (o.word i.opcode) (o.payload)
  | .scmpA o => wordBytes (o.word i.opcode) (o.payload)
  | .scmpB o => wordBytes (o.word i.opcode) (o.payload)
  | .rdsys o => wordBytes (o.word i.opcode) (o.payload)
  | .fadd _ o => wordBytes (o.word i.opcode) (o.payload)
  | .fsub _ o => wordBytes (o.word i.opcode) (o.payload)
  | .fmul _ o => wordBytes (o.word i.opcode) (o.payload)
  | .ffma _ o => wordBytes (o.word i.opcode) (o.payload)
  | .fmin _ o => wordBytes (o.word i.opcode) (o.payload)
  | .fmax _ o => wordBytes (o.word i.opcode) (o.payload)
  | .fcmp _ o => wordBytes (o.word i.opcode) (o.payload)
  | .frcp o => wordBytes (o.word i.opcode) (o.payload)
  | .frsq o => wordBytes (o.word i.opcode) (o.payload)
  | .fex2 o => wordBytes (o.word i.opcode) (o.payload)
  | .flg2 o => wordBytes (o.word i.opcode) (o.payload)
  | .f2i o => wordBytes (o.word i.opcode) (o.payload)
  | .i2f o => wordBytes (o.word i.opcode) (o.payload)
  | .fcvt o => wordBytes (o.word i.opcode) (o.payload)
  | .pack o => wordBytes (o.word i.opcode) (o.payload)
  | .unpack o => wordBytes (o.word i.opcode) (o.payload)
  | .shfl o => wordBytes (o.word i.opcode) (o.payload)
  | .tred o => wordBytes (o.word i.opcode) (o.payload)
  | .dot4N8 o => wordBytes (o.word i.opcode) (o.payload)
  | .dot4I8 o => wordBytes (o.word i.opcode) (o.payload)
  | .ldCx _ o => wordBytes (o.word i.opcode) (o.payload)
  | .ldCdS o => wordBytes (o.word i.opcode) (o.payload)
  | .ldCdPair o => wordBytes (o.word i.opcode) (o.payload)
  | .stCx _ o => wordBytes (o.word i.opcode) (o.payload)
  | .stCdS o => wordBytes (o.word i.opcode) (o.payload)
  | .stCdPair o => wordBytes (o.word i.opcode) (o.payload)
  | .lds o => wordBytes (o.word i.opcode) (o.payload)
  | .sts o => wordBytes (o.word i.opcode) (o.payload)
  | .ldw o => wordBytes (o.word i.opcode) (o.payload)
  | .stw o => wordBytes (o.word i.opcode) (o.payload)
  | .ldx o => wordBytes (o.word i.opcode) (o.payload)
  | .stx o => wordBytes (o.word i.opcode) (o.payload)
  | .qset o => wordBytes (o.word i.opcode) (o.payload)
  | .qsave o => wordBytes (o.word i.opcode) (o.payload)
  | .cpy o => wordBytes (o.word i.opcode) (o.payload)
  | .cpyl o => wordBytes (o.word i.opcode) (o.payload)
  | .pref o => wordBytes (o.word i.opcode) (o.payload)
  | .pgreq o => wordBytes (o.word i.opcode) (o.payload)
  | .fence o => wordBytes (o.word i.opcode) (o.payload)
  | .subs o => wordBytes (o.word i.opcode) (o.payload)
  | .claim o => wordBytes (o.word i.opcode) (o.payload)
  | .rels o => wordBytes (o.word i.opcode) (o.payload)
  | .atomAdd o => wordBytes (o.word i.opcode) (o.payload)
  | .atomAddF32 o => wordBytes (o.word i.opcode) (o.payload)
  | .atomMinN32 o => wordBytes (o.word i.opcode) (o.payload)
  | .atomMinI32 o => wordBytes (o.word i.opcode) (o.payload)
  | .atomMinF32 o => wordBytes (o.word i.opcode) (o.payload)
  | .atomMaxN32 o => wordBytes (o.word i.opcode) (o.payload)
  | .atomMaxI32 o => wordBytes (o.word i.opcode) (o.payload)
  | .atomMaxF32 o => wordBytes (o.word i.opcode) (o.payload)
  | .atomAnd o => wordBytes (o.word i.opcode) (o.payload)
  | .atomOr o => wordBytes (o.word i.opcode) (o.payload)
  | .atomXor o => wordBytes (o.word i.opcode) (o.payload)
  | .atomXchg o => wordBytes (o.word i.opcode) (o.payload)
  | .cas o => wordBytes (o.word i.opcode) (o.payload)
  | .red o => wordBytes (o.word i.opcode) (o.payload)
  | .bop o => wordBytes (o.word i.opcode) (o.payload)
  | .bred o => wordBytes (o.word i.opcode) (o.payload)
  | .flgs o => wordBytes (o.word i.opcode) (o.payload)
  | .flgw o => wordBytes (o.word i.opcode) (o.payload)
  | .qpush o => wordBytes (o.word i.opcode) (o.payload)
  | .qpop o => wordBytes (o.word i.opcode) (o.payload)
  | .qdone o => wordBytes (o.word i.opcode) (o.payload)
  | .boini o => wordBytes (o.word i.opcode) (o.payload)
  | .boarr o => wordBytes (o.word i.opcode) (o.payload)
  | .bowt o => wordBytes (o.word i.opcode) (o.payload)
  | .bra o => wordBytes (o.word i.opcode) (o.payload)
  | .brp o => wordBytes (o.word i.opcode) (o.payload)
  | .call o => wordBytes (o.word i.opcode) (o.payload)
  | .brx o => wordBytes (o.word i.opcode) (o.payload)
  | .ret o => wordBytes (o.word i.opcode) (o.payload)
  | .reform o => wordBytes (o.word i.opcode) (o.payload)
  | .exit o => wordBytes (o.word i.opcode) (o.payload)
  | .nop o => wordBytes (o.word i.opcode) (o.payload)
  | .join o => wordBytes (o.word i.opcode) (o.payload)
  | .leave o => wordBytes (o.word i.opcode) (o.payload)
  | .wait o => wordBytes (o.word i.opcode) (o.payload)
  | .mset o => wordBytes (o.word i.opcode) (o.payload)
  | .mlog o => wordBytes (o.word i.opcode) (o.payload)
  | .ballot o => wordBytes (o.word i.opcode) (o.payload)
  | .elect o => wordBytes (o.word i.opcode) (o.payload)
  | .yield o => wordBytes (o.word i.opcode) (o.payload)
  | .bar o => wordBytes (o.word i.opcode) (o.payload)
  | .gbar o => wordBytes (o.word i.opcode) (o.payload)
  | .trap o => wordBytes (o.word i.opcode) (o.payload)
  | .mtx o => wordBytes (o.word i.opcode) (o.payload)
  | .mtxg o => wordBytes (o.word i.opcode) (o.payload)
  | .mtxs o => wordBytes (o.word i.opcode) (o.payload)
  | .xsect o => wordBytes (o.word i.opcode) (o.payload)
  | .dist o => wordBytes (o.word i.opcode) (o.payload)
  | .fixup o => wordBytes (o.word i.opcode) (o.payload)
  | .enext o => wordBytes (o.word i.opcode) (o.payload)
  | .ecomb o => wordBytes (o.word i.opcode) (o.payload)
  | .eact o => wordBytes (o.word i.opcode) (o.payload)
  | .edone o => wordBytes (o.word i.opcode) (o.payload)
  | .elevel o => wordBytes (o.word i.opcode) (o.payload)
  | .emode o => wordBytes (o.word i.opcode) (o.payload)
  | .launch o => wordBytes (o.word i.opcode) (o.payload)
  | .lwait o => wordBytes (o.word i.opcode) (o.payload)
  | .mark o => wordBytes (o.word i.opcode) (o.payload)
  | .brk o => wordBytes (o.word i.opcode) (o.payload)
  | .rdts o => wordBytes (o.word i.opcode) (o.payload)
  | .rdclk o => wordBytes (o.word i.opcode) (o.payload)
  | .dhalt o => wordBytes (o.word i.opcode) (o.payload)
  | .dresume o => wordBytes (o.word i.opcode) (o.payload)
  | .dstep o => wordBytes (o.word i.opcode) (o.payload)
  | .dbkpt o => wordBytes (o.word i.opcode) (o.payload)
  | .dwatch o => wordBytes (o.word i.opcode) (o.payload)
  | .drds o => wordBytes (o.word i.opcode) (o.payload)
  | .dmboxSend o => wordBytes (o.word i.opcode) (o.payload)
  | .dmboxRecv o => wordBytes (o.word i.opcode) (o.payload)
  | .movShort o => halfBytes (o.word i.opcode)
  | .iaddShort o => halfBytes (o.word i.opcode)
  | .isubShort o => halfBytes (o.word i.opcode)
  | .imulShort o => halfBytes (o.word i.opcode)
  | .andShort o => halfBytes (o.word i.opcode)
  | .orShort o => halfBytes (o.word i.opcode)
  | .xorShort o => halfBytes (o.word i.opcode)
  | .shlShort o => halfBytes (o.word i.opcode)
  | .shrShort o => halfBytes (o.word i.opcode)
  | .shraShort o => halfBytes (o.word i.opcode)
  | .iaddiShort o => halfBytes (o.word i.opcode)
  | .faddShort o => halfBytes (o.word i.opcode)
  | .fsubShort o => halfBytes (o.word i.opcode)
  | .fmulShort o => halfBytes (o.word i.opcode)
  | .fminShort o => halfBytes (o.word i.opcode)
  | .fmaxShort o => halfBytes (o.word i.opcode)
  | .groupDispatch _ _ => []
  | .coopPlacement _ => []
  | .groupRetire _ => []
  | .rangeRetire _ => []
  | .basinAgeDraw _ _ => []
  | .implicitJoinIssue _ _ => []
  | .resultReturn _ _ => []
  | .l1Fill _ _ _ => []
  | .llcFill _ _ _ => []
  | .storeAcknowledge _ => []
  | .wcbTimeoutDrain _ => []
  | .ptsTick _ => []
  | .sliceOperation _ _ => []
  | .streamReadahead _ _ _ => []
  | .copyComplete _ => []
  | .copyFault _ => []
  | .copylistPieceComplete _ => []
  | .tileFillStart _ _ => []
  | .tileFilled _ _ _ => []
  | .slotDrained _ _ _ => []
  | .reservoirWayDrained _ => []
  | .matrixStart _ => []
  | .matrixComplete _ => []
  | .xsectComplete _ => []
  | .matrixFault _ => []
  | .fixupOwnerCombine _ => []
  | .queueEntryAging _ _ => []
  | .levelBoundary _ => []
  | .midlevelSwitch _ _ => []
  | .sluiceFault _ _ => []
  | .breakpointHalt _ _ => []
  | .watchpointHalt _ _ => []
  | .faultRecordPost _ => []
  | .resume _ _ => []
  | .skip _ _ => []
  | .killGroup _ _ => []
  | .killRange _ _ => []
  | .saveRange _ _ => []
  | .preemptRequest _ => []
  | .safePointStop _ _ => []
  | .hardStop _ => []
  | .preemptImageWrite _ => []
  | .priorityPreempt _ => []
  | .frontEndDispatch _ => []
  | .doorbellWrite _ _ => []
  | .doorbellResync _ _ => []
  | .nopPacket _ => []
  | .launchPacket _ => []
  | .indirect _ => []
  | .waitPacket _ => []
  | .waitPacketSatisfied _ => []
  | .write _ => []
  | .inval _ => []
  | .partcfg _ => []
  | .qcreate _ => []
  | .qdestroy _ => []
  | .exportPacket _ => []
  | .importPacket _ => []
  | .policyPacket _ => []
  | .cwin _ => []
  | .canalRemoteAccess _ _ _ _ _ _ _ _ => []
  | .canalOrderedPass _ _ _ => []
  | .canalPortDown _ => []
  | .hostMemAccess _ _ _ => []
  | .gpkt _ => []
  | .treq _ _ _ _ _ => []
  | .tinvack _ => []
  | .gcpl _ _ _ => []
  | .gflt _ _ _ _ _ => []
  | .gpack _ _ _ _ => []
  | .grack _ _ _ => []
  | .guestAccess _ _ _ => []
  | .portFence _ => []
  | .socketReset _ _ => []
  | .packageReset => []
  | .firmwareVerify _ _ _ _ => []
  | .hbmTrained _ _ => []
  | .grant => []
  | .assign => []
  | .revoke => []
  | .fqtable => []
  | .clock => []
  | .budget => []
  | .asidset => []
  | .cmap => []
  | .carve => []
  | .policy => []
  | .keyload => []
  | .keydrop => []
  | .vfbind => []
  | .advance _ _ => []
  | .count _ => []
  | .attest _ => []
  | .traceEnable _ => []
  | .traceDisable _ => []
  | .logEnable _ => []
  | .registerWrite _ _ _ => []
  | .sampleRecord _ => []
  | .traceSync _ => []
  | .traceLostRecovery _ => []
  | .powerWindow _ _ _ => []
  | .thermalThrottle _ => []
  | .thermalTrip => []
  | .coreSelftestFail _ _ => []
  | .headgateFault _ _ _ => []
  | .fixupDepositComplete _ => []
  | .containerRegistration _ _ _ _ _ _ _ => []
  | .hostDebugMessage _ _ => []
  | .debugMailboxRead _ => []
  | .guestChannelConfigure _ _ _ => []
  | .temperatureBelow95c _ => []

end Sys2Proof
end

