-- ==== Sys2Proof/Config.lean ====
section
/-! DEFINITION. What an implementation fixes and what the manual leaves open. The opaque constants have no body: nothing can
be proved of their values (log entries 9 to 13 and 22). The others are figures of the manual, of the part with every
core in service. -/

namespace Sys2Proof.Config

/-- A byte that an unscripted outside party supplies (a load through a Canal window, R373), or that the manual does not give;
applied to the counter State.fresh (log entry 9). -/
opaque freeByte : Nat → Byte

/-- A key drawn from the device's random source (R415), by draw number; log entry 10. -/
opaque randomKey : Nat → BitVec 256

/-- SHA-384 (R417 to R419): a named standard function that the manual does not define; log entry 11. -/
opaque sha384 : List Byte → BitVec 384

/-- ECDSA P-384 verification and signing (R417, R419); log entry 11. -/
opaque ecdsaOk : BitVec 768 → BitVec 384 → BitVec 768 → Bool
opaque attestSign : BitVec 384 → BitVec 384 → BitVec 384 → BitVec 768

/-- AES key unwrap (RFC 3394) under the device's key-encryption key: none where the wrap does not verify (R415). -/
opaque unwrapKey : List Byte → Option (BitVec 256)

/-- What fused secrets and the boot ROM hold: the fused public key's hash, the fused minimum SVN, the ROM's own hash. -/
opaque fusedKeyHash : BitVec 384
opaque fusedMinSvn : BitVec 32
opaque romHash : BitVec 384

/-- The measurement block a guest chiplet presents at training (R418) is the guest's; the message carries it. The times and
queueing figures of a sample record (R425) are timing, which the model does not fix. -/
opaque sampleClk : Nat → BitVec 32
opaque sampleByte : Nat → Byte

/-- The length of a saved-state area beyond its Harp states (R364): Sluice, queue, region, cell and group records, whose sizes are not
given; by the number of the free value (log entry 13). -/
opaque savedTail : Nat → Nat

/-- Whether a partition's save pool has room for a range's image (R384): its size and the image's are not given; log entry 22. -/
opaque poolRoom : Nat → Bool
/-- The SVN that a firmware image carries (R417, log entry 116). -/
opaque imageSvn : List Byte → BitVec 32
/-- Where the PCIe capability after the device status capability stands (R438, log entry 117). -/
opaque capNext : BitVec 12
/-- The address of a buffer of the save pool (R408, log entry 114). -/
opaque poolBuffer : Nat → BitVec 64

def coresPerDie : Nat := 128  -- R1
def partsPerDie : Nat := 16   -- R411
def hbmGroupBytes : Nat := 15 * 2 ^ 30 -- R341
def resWayBytes : Nat := 65536 -- R88

end Sys2Proof.Config
end

