-- ==== Sys2Proof/Machine/State.lean ====
section
/-! DEFINITION. The machine's state as plain data, its reasons to stop, and the state right after reset. One package, of any
grade (R1). A docstring gives the meaning and the rule of spec/ that names the item. Lists keyed by a number are sparse:
a unit not listed is in its reset state. -/

namespace Sys2Proof.Machine

/-- Memory by address: canonical (addresses rise, no entry equal to 0, what an unlisted byte reads as; log entry 3). -/
abbrev Memory := List Host.Cell

/-! ## Fault records -/

/-- Fault and trap codes of R375. -/
inductive Code where
  | illop | illpriv | runhaz | maskmis | scrbound | winbound | rangelock | pgfault | prot | fotdeny | synonym | align
  | gbarnc | depth | qfault | guestf | trap | brk
  deriving DecidableEq, Repr

/-- Class of a record, TYPE[2:0] of R378. -/
inductive Cls where
  | precise | runPrecise | engine | software | device | guest | hardStop
  deriving DecidableEq, Repr

/-- The fault record of R378, 64 bytes; `gid` is the model's handle on the stopped group. -/
structure FRec where
  cls : Cls := .precise
  second : Bool := false
  reposted : Bool := false
  code : Code := .illop
  code2 : Nat := 0
  nmore : Nat := 0
  cause : Nat := 0
  level : Nat := 0
  team : Nat := 0
  lane : Nat := 0
  rid : Nat := 0
  lanes : W32 := 0
  gseq : W64 := 0
  pc : W64 := 0
  pc2 : W64 := 0
  addr : W64 := 0
  detail : W64 := 0
  time : Nat := 0
  src : Option Nat := none                 -- where it comes from, for the order of equal times (R7); none: the policy core
  gid : Option Nat := none
  deriving DecidableEq, Repr

/-- A data fault detected in a run that has not ended (R154). -/
structure DFault where
  code : Code
  cause : Nat := 0
  level : Nat := 0
  addr : W64
  team : Nat
  lane : Nat
  lanes : W32
  pc : W64
  nmore : Nat := 0
  time : Nat := 0
  num : Nat := 0                           -- which faulting instruction of the run it is of
  deriving DecidableEq, Repr

/-! ## Threads, teams, bundles, groups -/

/-- A register as the hazard rule names it (R151, R379): v, s, p, a system register, by number; a pair is two v. -/
inductive RegRef where
  | v (n : BitVec 6) | s (n : BitVec 5) | p (n : BitVec 3) | pair (n : BitVec 6) | sys (n : Nat)
  deriving DecidableEq, Repr

/-- The current triple of a lane (R277): origin, target, edge word. -/
structure Triple where
  o : W32
  t : W32
  w : W32
  draw : Bool            -- delivered by a draw walk
  idx : Nat              -- CSR or CSC index of the edge
  pc : W64 := 0          -- the ENEXT that requested it
  ep : Nat := 0          -- the draw walk of its Sluice it is of (R284)
  deriving DecidableEq, Repr

/-- A thread (R24, R25): lane home, live bit, v0 to v63, p0 to p6, %link, the edge registers of R277. -/
structure Thread where
  team : Nat
  lane : Nat
  live : Bool := true
  v : Vector W32 64 := Vector.replicate 64 0
  bad : List (BitVec 6) := []      -- poisoned words of its window (R435)
  p : BitVec 7 := 0
  link : W64 := 0
  tri : Option Triple := none
  emode : W32 := 0
  deriving DecidableEq, Repr

/-- A stream register: the 64-byte image of R92. -/
structure Stream where
  base : W64 := 0
  pos : W64 := 0
  st : Vector W32 5 := Vector.replicate 5 0
  exm : Vector W32 5 := Vector.replicate 5 0
  width : BitVec 2 := 0
  sx : Bool := false
  nrs : Bool := false
  ahead : List (Nat × Option W32) := []   -- elements read ahead, by position (R94); none: non-resident
  deriving DecidableEq, Repr

/-- An armed join or wait of a mask (R57): value, arrivals, and the PC of a join. -/
structure Armed where
  mask : BitVec 4
  val : W32
  arr : W32
  pc : W64
  deriving DecidableEq, Repr

/-- A queue entry popped and not yet completed (R252). -/
structure Ticket where
  word : W64
  sig : W64
  scope : Nat
  deriving DecidableEq, Repr

/-- A team (R24): s, m and q registers, the mask unit's armed joins and waits (R56), pending tokens (R95), the window's base
row (R79) and the popped entries it holds (R251). -/
structure Team where
  idx : Nat
  s : Vector W64 32 := Vector.replicate 32 0
  m : Vector W32 12 := Vector.replicate 12 0
  q : Vector Stream 4 := Vector.replicate 4 {}
  joins : List Armed := []
  waits : List Armed := []
  pend : List (BitVec 5) := []
  wrow : Nat := 0
  wrow0 : Nat := 0                         -- the base row at dispatch, as %wrow goes on reading it (R198)
  held : List Ticket := []
  sOld : List (BitVec 5 × W64) := []       -- scalars written in a clk, as they stood before it (R194), and that clk plus 1
  sClk : Nat := 0
  sSeq : List (Nat × Nat) := []       -- the place in issue order of the last write of a scalar (R194)
  deriving DecidableEq, Repr

/-- One fixed result in the bypass network: register, values by thread, T mark (R153). -/
structure BypVal where
  reg : BitVec 6
  t : Bool
  vals : List (Nat × W32)
  deriving DecidableEq, Repr

/-- What a variable result still waits for (R235, R251, R277): a claim of a ring, a pop of the queues of a mask, or the threads of
an ENEXT that have no answer yet. -/
inductive PendRes where
  | claim (team : Nat) (dst : BitVec 5) (ring : Nat)
  | pop (team : Nat) (dst : BitVec 5) (off : Nat) (mask : BitVec 16) (ts : List Nat)
  | enext (ts : List Nat) (pk : BitVec 3) (pc : W64)
  deriving DecidableEq, Repr

/-- An outstanding variable result (R149, R150): the registers it will write and their values. -/
structure Outst where
  uid : Nat := 0                           -- one instruction's results, across the bundles of a split
  shadow : List Nat := []                  -- teams whose answer another bundle of the split holds
  clk : Nat := 0                           -- when it issued
  ts : List Nat := []                      -- the threads it is of: the lanes active as it issued
  regs : List RegRef
  v : List (Nat × BitVec 6 × W32) := []
  p : List (Nat × BitVec 3 × Bool) := []
  s : List (Nat × BitVec 5 × W64) := []
  e : List (Nat × Option Triple × W32) := []  -- edge registers of an ENEXT: thread, triple, %emode
  pend : List PendRes := []
  deriving DecidableEq, Repr

/-- What a team waits on in FLGW or BOWT: a sync flag, a global word or double, a barrier object's phase (R249, R253). -/
inductive PollAt where
  | flag (k : Nat)
  | glob (va n : Nat)
  | phase (off : Nat)
  deriving DecidableEq, Repr

/-- A team's test; `ok` says that it has been satisfied. -/
structure Poll where
  team : Nat
  at_ : PollAt
  ne : Bool
  cmp : Nat
  ok : Bool := false
  peer : Bool := false                     -- a word behind a Canal window
  deriving DecidableEq, Repr

/-- Why a bundle does not issue. -/
inductive BStatus where
  | ready                                  -- contends for issue
  | stalled                                -- at its own PC: pending token, full table or queue, implicit stall (R95, R100, R150, R260)
  | drain                                  -- at a marker whose results are not all back (R20); the run ends with them
  | bar | gbar | elevel                    -- arrived at a barrier (R52, R63, R281)
  | join (m : BitVec 4)                    -- arrived at JOIN (armed, or behind another PC's armed join)
  | joinBehind (m : BitVec 4)
  | wait (m : BitVec 4)
  | poll (l : List Poll)                   -- in FLGW or BOWT (R249, R253)
  | lwait (hs : List Nat)                  -- in LWAIT, for these handles (R288)
  | recv (l : List (Nat × Nat))            -- in DMBOX.RECV with no message: block and buffer offsets (R298)
  | dstep                                  -- in DSTEP, its STATUS not yet written (R292)
  | qpop                                   -- parked in QPOP, its ticket not yet come (R70, R251)
  | coll (team : Nat)                      -- at the implicit join of a team-collective instruction (R45)
  | basin (k : Nat) (since : Nat)          -- filed in Basin k since clk `since` (R43, R44)
  deriving DecidableEq, Repr

/-- A bundle (R41): threads by linear index, all at one PC; its outstanding results, bypass entries, the registers a stop left
outstanding in the run (R377), the run's data fault (R154). -/
structure Bundle where
  id : Nat
  pc : W64
  ts : List Nat
  st : BStatus := .ready
  npc : W64 := 0                           -- where a waiting bundle goes on
  nm : Bool := false                       -- and whether its instruction carried the marker
  outst : List Outst := []
  byp : List (List BypVal) := []
  haz : List (RegRef × List Nat) := []     -- each with the threads whose result it was
  dfault : Option DFault := none
  dall : List DFault := []                 -- every data fault of the run, lane by lane
  runEnded : Bool := true                  -- the last instruction ended the run, or none was issued (R319)
  safe : Bool := false                     -- stopped for pre-emption at a safe point (R385)
  skipBk : Bool := false                   -- may pass one breakpoint at its PC (R295)
  watch : List (Nat × W64 × W32 × W64) := [] -- watch hits not yet acted on: slot, its address, lanes, PC (R296)
  age : Nat := 0
  lost : Nat := 0                          -- arbitrations lost in a row (R47)
  atClk : Nat := 0                         -- the clk of its last issue, plus 1
  lastPc : W64 := 0                        -- the instruction issued last
  part : List Nat := []                    -- teams for which a stalled engine instruction has already acted (R100)
  blks : List (Nat × List Byte) := []      -- the blocks its other teams read as their checks passed (R260)
  acted : List (Nat × Option (BitVec 6 × Nat)) := [] -- lanes of a stalled FP32 addition that have acted, with the register and what it received (R431)
  deriving DecidableEq, Repr

/-- Slot states of a Headgate ring (R102). -/
inductive SlotSt where
  | empty | filling | full | draining
  deriving DecidableEq, Repr

structure RingSlot where
  st : SlotSt := .empty
  held : Option Nat := none                -- the team that holds it
  tile : Nat := 0
  err : Bool := false                      -- its transfer has faulted: redone once the group resumes (R234)
  deriving DecidableEq, Repr

/-- A subscribed ring (R234). -/
structure Ring where
  num : Nat
  pc : W64
  base : W64
  ts : Vector W32 5
  txm : Vector W32 5
  pitch : W32
  rows : Nat
  rowb : Nat
  off : Nat
  z : Nat
  out : Bool
  slots : List RingSlot
  started : Nat := 0                       -- tiles started (in), or slots claimed (out)
  claimed : Nat := 0
  nextOut : Nat := 0
  ended : Bool := false
  refill : List Nat := []                  -- slots marked for their tile at pre-emption (R103)
  deriving DecidableEq, Repr

/-- Why a group is stopped, and what a disposition does (R376, R382, R383). -/
structure Stop where
  frec : FRec
  bid : Option Nat
  skipPc : Option W64                      -- the instruction after a precisely faulting one
  posted : Option (Nat × Nat) := none      -- fault queue and record number, once posted
  deriving DecidableEq, Repr

/-- A group (R25, R40). -/
structure Group where
  id : Nat
  rid : Nat
  die : Nat
  core : Nat
  part : Nat
  part0 : Nat := 0                         -- the partition at dispatch, as %part goes on reading it (R198)
  gseq : W64
  share : Nat := die               -- the share it was cut from, as `Harp.num` (R33)
  shp : Nat × Nat × Nat
  base : Nat × Nat × Nat
  ext : Nat × Nat × Nat
  threads : List Thread
  teams : List Team
  bundles : List Bundle
  nextB : Nat
  scrBase : Nat := 0
  scrSize : Nat := 0
  scratch : Memory := []
  flags : List W32 := []
  barph : W32 := 0
  barAt : Nat := 0                         -- the clk at which the last BAR phase completed, plus 1 (R197)
  rings : List Ring := []
  segs : Nat := 0                          -- DIST cursor (R269)
  segWords : List W64 := []                -- segment words returned, not yet fixed up
  fixDone : Bool := false                  -- the group's contributor FIXUP has arrived (R270)
  children : List Nat := []                -- handles launched by the group (R288)
  stop : Option Stop := none
  halted : Bool := false                   -- debug-halted (R293)
  hardAt : Bool := false
  age0 : Nat := 0                          -- clk of dispatch (R33)
  issues : Nat := 0                        -- bundle issues and lanes issued (R33)
  lanesIssued : Nat := 0
  fills : Nat := 0                         -- LLC fills from HBM and LLC hits (R33)
  hits : Nat := 0
  deriving DecidableEq, Repr

/-! ## Ranges -/

/-- A box of a Harp's remainder list (R31, R34): low corner, size, shape, order, positions dispatched. -/
structure Box where
  lo : Nat × Nat × Nat
  sz : Nat × Nat × Nat
  shp : Nat × Nat × Nat
  ord : Nat
  done : Nat := 0
  deriving DecidableEq, Repr

/-- What the Harp measures of a finished group (R33). -/
structure GStat where
  iters : Nat
  clk : Nat
  issues : Nat
  lanes : Nat
  fills : Nat
  hits : Nat
  deriving DecidableEq, Repr

/-- The Harp of one die, for one range (R31 to R39). -/
structure Harp where
  die : Nat
  num : Nat := die                 -- the die of its share at launch: names the share, whatever die the range has moved to since (R388)
  boxes : List Box := []
  count : Nat := 0                 -- groups of the share dispatched
  fin : Nat := 0                   -- finished since the last cut
  finIt : Nat := 0                 -- iterations they covered
  remAt : Nat := 0                 -- iterations in the list at the last cut
  stats : List GStat := []         -- the last 32 finished, newest first
  prevB : Option (Nat × Nat) := none -- B and H of the previous cut, as bytes and hits over iterations (numerator sums)
  prevH : Option (Nat × Nat) := none
  cuts : Nat := 0
  asked : Bool := false            -- has posted a request for work (R39)
  shp : Nat × Nat × Nat := (1, 1, 1) -- the decision that stands: shape and order (R33, R34)
  ord : Nat := 0
  pins : List (List Byte) := []    -- records of the pinned cut list still to come (R37)
  due : Option (Nat × (Nat × Nat × Nat) × Nat) := none -- a cut decision whose record has no room in the log: reason, shape, order (R430)
  deriving DecidableEq, Repr

/-- One entry of a range queue (R250): bytes, push number, whether its push released and from which die and core, effective
priority, the pop decisions of its die at its last rise (R71), and its place among all pushes at its die. -/
structure QEnt where
  bytes : List Byte
  seq : Nat
  rel : Bool
  src : Nat × Nat := (0, 0)
  prio : Nat := 0
  since : Nat
  ord : Nat := 0
  deriving DecidableEq, Repr

/-- A range queue (R69): one home per die. -/
structure RQueue where
  h : Nat
  homes : List (Nat × List QEnt) := []
  pushes : List (Nat × Nat) := []
  closed : Bool := false
  deriving DecidableEq, Repr

/-- An exact cell (R91): K and the four sticky flags. -/
structure Cell where
  k : BitVec 320 := 0
  nan : Bool := false
  pinf : Bool := false
  ninf : Bool := false
  ovf : Bool := false
  deriving DecidableEq, Repr

/-- A range's Reservoir region and cells on one die (R89, R91). -/
structure Resv where
  die : Nat
  base : Nat                       -- offset of the region in the partition's Reservoir
  size : Nat
  data : Memory := []
  cb : Nat := 0
  cells : List Cell := []
  times : List (Nat × Nat) := []   -- wts of its 128-byte sectors and of its cells (R82, R89)
  ctimes : List (Nat × Nat) := []
  deriving DecidableEq, Repr

/-- A combine still to be performed at its target's state word: the value, the ENEXT (of an accumulator) or ECOMB it comes from, the thread
whose it is (R109), and of a spill combine the CSR index of its edge (R279, R285). -/
structure Comb where
  t : Nat
  y : W32
  pc : W64
  gid : Nat
  tid : Nat
  idx : Nat := 0
  deriving DecidableEq, Repr

/-- A draw walk in progress: the thread that has it, target, next CSC index, accumulator, and the ENEXT that delivered its first
triple (R279, R286). -/
structure DrawWalk where
  gid : Nat
  tid : Nat
  t : Nat
  e : Nat
  acc : Option W32 := none
  pc : W64 := 0
  deriving DecidableEq, Repr

/-- The Sluice of one die for an edge range (R276 to R286). -/
structure Sluice where
  die : Nat
  mode : Bool := false             -- draw
  fi : Nat := 0                    -- spill: place in the current frontier queue
  fe : Nat := 0                    -- spill: edges of that origin delivered
  ti : Nat := 0                    -- draw: next target to consider
  ep : Nat := 0                    -- draw walks of the level's share abandoned so far (R284)
  walks : List DrawWalk := []
  accs : List Comb := []           -- accumulators of ended walks not yet applied (R279)
  fv : Nat := 0
  feSum : Nat := 0
  req : Option Bool := none        -- in a saved image: the EMODE request its die held (R286)
  delivered : Nat := 0             -- triples delivered within the level, and that count when the mode was last re-decided (R284)
  decided : Nat := 0
  deriving DecidableEq, Repr

/-- The graph of an edge range: its descriptor's input fields (R274) and the level state (R276, R281). -/
structure Graph where
  desc : W64
  nv : Nat
  ne : Nat
  optr : W64
  oidx : W64
  iptr : W64
  iidx : W64
  owt : W64
  iwt : W64
  state : W64
  fbmp : W64
  fq : W64
  op : Nat
  autoact : Bool
  midsw : Bool
  settle : Bool
  alpha : Nat
  beta : Nat
  maxlv : Nat
  nil : W32
  level : Nat := 0
  levelMode : Bool := false        -- mode the level began in (draw)
  emode : Nat := 0                 -- %emode as the last boundary set it
  curQ : Nat := 0                  -- which FQ queue is current
  curN : Nat := 0                  -- vertices of the current frontier
  nextN : Nat := 0
  ready : Bool := false            -- the level-0 frontier has been read (R276)
  acts : List (Nat × W64 × Nat) := [] -- activations asked for and not yet performed: target, PC, group
  logq : List Comb := []           -- spill combines of a logged range, held for their order (R285)
  combed : List (Nat × Nat × Nat) := [] -- its threads that have combined their current triple: group, thread, index
  sluices : List Sluice := []
  deriving DecidableEq, Repr

/-- A child of a range (R287, R288). -/
structure Child where
  handle : Nat
  rid : Nat
  gid : Nat
  retired : Bool := false
  t : Nat := 0                     -- the time its writes were released at (R82, R288)
  deriving DecidableEq, Repr

/-- A range record (R332), as the launch image carries it. -/
structure RRec where
  body : Nat := 0
  dims : Nat := 1
  coop : Bool := false
  persist : Bool := false
  edge : Bool := false
  nflag : Nat := 0
  ext : Nat × Nat × Nat := (1, 1, 1)
  shp : List (Nat × Nat × Nat × Nat × Nat) := []   -- min, max, step, mult, first per axis
  ceil : Nat := 1024
  sbase : Nat := 0
  sper : Nat := 0
  resb : Nat := 0
  nexact : Nat := 0
  qdecl : BitVec 16 := 0
  queue : List W16 := []
  graph : W64 := 0
  slots : List W64 := []
  deriving DecidableEq, Repr

/-- The extent along each axis; an axis the range lacks has 1 (R49). -/
def RRec.extent (r : RRec) : Nat × Nat × Nat := (r.ext.1, if 2 ≤ r.dims then r.ext.2.1 else 1, if 3 ≤ r.dims then r.ext.2.2 else 1)

/-- A launch image's header (R364), private copy. -/
structure Image where
  va : W64 := 0
  raw : List Byte := []
  config : W64 := 0x140
  saved : Bool := false
  attr : Byte := 0
  ordm : Nat := 31
  prio : Nat := 0
  rid : Nat := 0
  code : W64 := 0
  pvec : List Nat := [256, 0, 0, 0]
  sig : W64 := 0
  arg0 : W64 := 0
  arg1 : W64 := 0
  rrec : RRec := {}
  dt : Nat := 0
  di : Nat := 1
  dfix : Nat := 0
  ncut : Nat := 0
  cuts : W64 := 0
  parent : Nat := 0
  depth : Nat := 0
  deriving DecidableEq, Repr

/-- What pre-emption is doing to a range (R385). -/
structure Preempt where
  since : Nat                      -- tick of the request
  dest : W64 := 0                  -- image address of a SAVE
  why : Nat                        -- 0 priority, 1 SAVE disposition, 2 EXPORT or saving QDESTROY of its queue
  waited : Nat := 0                -- ticks since then in which its operations waited for room in a log (R430)
  hard : Bool := false             -- the watchdog has stopped what still ran (R385)
  deriving DecidableEq, Repr

/-! ## Engines -/

/-- The operation that holds a lock: an engine operation, one piece of a copy list, a ring slot, a guest packet. -/
inductive LockOp where
  | eng (id : Nat)
  | piece (id entry : Nat)
  | slot (ring slot : Nat)
  | guest (chan : Nat) (seq : W32)
  deriving DecidableEq, Repr

/-- A byte range of R99: in a group's scratch, or in the virtual space. -/
structure Lock where
  gid : Nat
  core : Nat
  die : Nat
  op : LockOp
  dest : Bool
  scr : Bool
  lo : Nat
  len : Nat
  bo : Bool := false               -- a pending CPYL's barrier object
  deriving DecidableEq, Repr

/-- A piece of a copy list in flight (R232): entry, destination, source, length, which are scratch, bytes written. -/
structure Piece where
  entry : Nat
  dst : Nat
  src : Nat
  len : Nat
  dscr : Bool
  sscr : Bool
  done : Nat := 0
  deriving DecidableEq, Repr

/-- The work of an engine operation. -/
inductive EngKind where
  | copy (dst src : Nat) (dscr sscr : Bool) (len : Nat)
  | copyList (obj list cnt next : Nat) (pieces : List Piece)
  | mtx (form : Nat) (blk : List Byte) (fa fb : W64) (pairs : List Byte)
  | xsect (la lb na nb out : Nat)
  | fixup (owner : Bool) (tile : Nat) (seg : W64)
  deriving DecidableEq, Repr

/-- An engine operation in flight or kept restartable (R97, R263, R387). -/
structure EngOp where
  id : Nat
  gid : Nat
  team : Nat
  lane : Nat
  pc : W64
  tok : Option (BitVec 5)
  kind : EngKind
  seq : Nat := 0                   -- the place in issue order of its instruction (R194)
  held : Bool := false             -- stopped by a fault or a pre-emption: waits to be re-issued
  started : Bool := false
  done : Nat := 0                  -- bytes acknowledged
  left : Nat := 0                  -- FIXUP contributor: deposit complete
  deriving DecidableEq, Repr

/-- A guest packet not yet completed (R400, R406). -/
structure GPkt where
  seq : W32
  bytes : List Byte
  gid : Nat
  rid : Nat
  gseq : W64 := 0
  asid : Nat
  team : Nat
  lane : Nat
  lanes : W32
  pc : W64
  prio : Nat
  part : Nat
  fwd : Bool := false
  saved : Bool := false
  abortBy : Option Nat := none
  killed : Bool := false           -- its group was killed while a GPACK was awaited: GABORT follows (R407)
  deriving DecidableEq, Repr

/-! ## Live ranges -/

/-- A live range (R24). -/
structure RangeSt where
  rid : Nat
  asid : Nat
  qid : Option Nat := none
  crec : W64 := 0
  part : Nat
  prio : Nat := 0
  depth : Nat := 0
  parent : Option Nat := none
  img : Image
  h : Nat := 32                    -- v registers per thread (R40)
  safe : List (Nat × BitVec 72) := [] -- safe-point table taken at launch (R335)
  debug : Bool := false
  logged : Bool := false
  ckpt : Bool := false             -- a checkpoint stands in the log since LEN was last set (R430)
  follow : Option (List (List Byte)) := none -- log entries still to follow (R431)
  adds : List (Nat × Nat) := []    -- FP32 addition requests queued, by word (R429)
  harps : List Harp := []
  seqs : List (Nat × Nat) := []    -- groups of the range each die has dispatched: [61:0] of the next %gseq (R36)
  gbarph : W32 := 0
  gbarAt : Nat := 0                        -- the clk at which the last GBAR phase completed, plus 1 (R197)
  queues : List RQueue := []
  popDec : List (Nat × Nat) := []
  resv : List Resv := []
  graph : Option Graph := none
  children : List Child := []
  nextHandle : Nat := 0
  rangeHalt : Bool := false        -- R293
  attached : Bool := false         -- a debug range has attached (R291)
  killed : Bool := false
  want : Option (Nat × W64) := none -- a pre-emption asked for and not yet begun: why, image address (R384)
  pre : Option Preempt := none
  started : Bool := true           -- cooperative: all groups placed (R62)
  enteredAt : Nat := 0             -- decisions when its packet entered its queue: what its effective priority counts from (R368)
  entryNo : Nat := 0               -- number of that entry (R368)
  shapes : List (Nat × Nat × Nat) := [] -- the allowed set (R29, R51)
  parked : List Group := []        -- groups of a resumed image not yet placed again (R366)
  parkedOps : List EngOp := []     -- their restartable operations and range locks (R364, R387)
  parkedLocks : List Lock := []
  parkedPkts : List (Nat × GPkt) := [] -- guest packets saved with their channels, and the guest's saved bytes (R408)
  parkedGuest : List (Nat × List Byte) := []
  dead : List (Nat × W64) := []    -- retired groups of a distributor range: 1 if their FIXUP had arrived, and %gseq (R270)
  deriving DecidableEq, Repr

/-- A saved-state area (R364, R386), by address space and address. Its byte layout is canonical but not given: the bytes written
there are free and name what they stand for (log entry 13). -/
structure Saved where
  asid : Nat
  va : W64
  bytes : List Byte                -- what was written at the area
  range : RangeSt
  deriving DecidableEq, Repr

/-! ## The engines' state -/

structure Eng where
  ops : List EngOp := []
  nextOp : Nat := 0
  locks : List Lock := []
  mtxQ : List (Nat × Nat × Nat) := []   -- die, core, operation: the matrix queues in issue order (R260)
  emode : List (Nat × Bool) := []       -- the EMODE request a die's Sluice holds: draw or spill (R283; log entry 106)
  deriving DecidableEq, Repr

/-! ## Cores and the memory system -/

/-- An L1 line (R81, R82). -/
structure L1Line where
  asid : Nat
  va : Nat
  pa : Nat                         -- the sector it was filled from (R351)
  data : Vector Byte 128
  wts : Nat
  e : Nat
  uo : Bool
  deriving DecidableEq, Repr

/-- One RED request (R143): byte offset, operation code, operand, may merge. -/
structure RedReq where
  off : Nat
  code : Nat
  y : W32
  plain : Bool                     -- an FP addition of a logged range: never merged, never hot (R429)
  rid : Nat
  gseq : W64
  pc : W64
  deriving DecidableEq, Repr

/-- An entry of the write-combining buffer (R83, R143). -/
structure WcbEnt where
  asid : Nat
  va : Nat
  bytes : List (Nat × Byte) := []
  reds : List RedReq := []
  since : Nat := 0
  deriving DecidableEq, Repr

/-- A sampled instruction (R425): its record up to REPLAY and what follows it, its issue clk, its group and the number of its result, the
sectors its core still has to have acknowledged, and the clk in which its last lane returned or was acknowledged. -/
structure Sample where
  head : List Byte
  tail : List Byte
  clk : Nat
  gid : Nat
  uid : Option Nat := none
  secs : List (Nat × Nat) := []
  ended : Option Nat := none
  deriving DecidableEq, Repr

structure CoreSt where
  die : Nat
  num : Nat
  pts : Nat := 0                   -- 64-bit logical clock (R82)
  ptsTicks : Nat := 0              -- 256-clk rises made
  l1 : List L1Line := []
  wcb : List WcbEnt := []
  acks : List Nat := []            -- wts of acknowledgements on their way (R82)
  memOps : Nat := 0                -- memory instructions counted for sampling (R425)
  sampleDue : List Sample := []    -- records of sampled instructions not yet written (R425)
  turn : Nat × Nat := (0, 0)       -- the rotating pointer: group and bundle that won last (R47)
  failed : Bool := false           -- R436
  deriving DecidableEq, Repr

/-- A request standing at a home slice (R144). -/
inductive SliceOp where
  | write (bytes : List (Nat × Byte))
  | red (r : RedReq)
  deriving DecidableEq, Repr

structure SliceReq where
  asid : Nat
  va : Nat                         -- sector address
  op : SliceOp
  die : Nat
  core : Nat
  pts : Nat
  deriving DecidableEq, Repr

/-- An LLC sector (R82, R87, R347). -/
structure Sector where
  asid : Nat
  va : Nat
  part : Nat                       -- the partition whose slice holds it (R342, R411)
  pa : Nat
  data : Vector Byte 128
  wts : Nat := 0
  rts : Nat := 0
  dirty : Bool := false
  w : Bool := false
  d : Bool := false
  wr : Bool := false               -- filled by a write, or by a translation that allows writes (R352)
  qid : Option Nat := none         -- the queue of the range that wrote it last (R423)
  deriving DecidableEq, Repr

/-- A leaf translation held by a TLB (R348). -/
structure Tlb where
  die : Nat
  stack : Nat
  asid : Nat
  va : Nat
  size : Nat
  pa : Nat
  w : Bool
  x : Bool
  d : Bool
  kind : BitVec 2
  deriving DecidableEq, Repr

structure WalkEnt where
  die : Nat
  stack : Nat
  asid : Nat
  level : Nat
  hi : Nat
  pa : Nat
  deriving DecidableEq, Repr

/-- An ASID table entry (R339). -/
structure AsidEnt where
  asid : Nat
  roots : Vector W64 4 := Vector.replicate 4 0
  parts : Vector Byte 4 := Vector.replicate 4 0xFF
  ctl : Byte := 0
  deriving DecidableEq, Repr

structure Mem where
  phys : Memory := []
  cores : List CoreSt := []
  llc : List Sector := []
  slice : List SliceReq := []      -- oldest first
  tlb : List Tlb := []
  walks : List WalkEnt := []
  asids : List AsidEnt := []
  mts : Nat := 0                   -- the latest time of a sector that has left the LLC: what a filled one starts from (log entry 92)
  fot : List (Nat × W32) := []     -- by FOT index (R349); unlisted: OWNER 0xFD, KEY 0, G 0 (R437)
  fotAt : W64 := 0
  asidAt : W64 := 0
  poison : List Nat := []          -- poisoned sectors by die-local physical address (R435)
  corePoison : List (Nat × Nat × Nat) := [] -- poisoned core-store words: die, core, byte offset
  resPoison : List (Nat × Nat × Nat) := []  -- poisoned Reservoir words: die, partition, byte offset
  cellPoison : List (Nat × Nat × Nat) := [] -- poisoned exact cells: die, partition, partition cell
  deriving DecidableEq, Repr

/-! ## Front ends, queues, partitions -/

/-- A selected packet, checked (R361); `resume`: the range at the queue's head that was pre-empted for priority (R384). -/
structure Packet where
  qid : Nat
  bytes : List Byte
  units : Nat
  indirect : Bool := false
  resume : Bool := false
  deriving DecidableEq, Repr

/-- An INDIRECT (R363): its buffer, the place in it, and what its last packet still waits for. -/
structure Indirect where
  buf : W64
  len : Nat
  pos : Nat := 0
  crec : W64
  isSealed : Bool := false
  live : List Nat := []            -- the range its last packet launched
  last : Option (W64 × Nat) := none -- its last packet's pending completion
  lines : List (Nat × List Byte) := [] -- 256-byte lines fetched, by number: each is read once (R363)
  deriving DecidableEq, Repr

/-- A QDESTROY (modes 0 to 2) or EXPORT (3) of a queue in progress: the queue it came from, its CREC, DEST and DEST's ASID. -/
structure Ending where
  mode : Nat
  by_ : Nat
  crec : W64
  dest : W64
  asid : Nat
  deriving DecidableEq, Repr

/-- A queue: the front end's cached control block (R359), its doorbell (R360) and its progress (R362). -/
structure Queue where
  qid : Nat
  qcb : W64                        -- address of the block, and its address space
  qcbAsid : Nat
  priv : List Byte                 -- bytes 23:0 as QCREATE read them, also the sealed shadow
  ring : W64
  rsize : Nat
  owner : Nat
  asid : Nat
  pceil : Nat
  qflg : Byte
  key : Nat
  dbmp : W64
  fn : Nat := 0                    -- its function: 0 the PF, else a VF (R371, R424)
  rptr : W32 := 0
  wptr : W32 := 0
  faulted : Bool := false
  stopped : Bool := false          -- EXPORT or QDESTROY has stopped fetching
  bells : List (W32 × Nat × Nat) := [] -- doorbells processed: WPTR, decisions then, number of the entry (R368)
  floor : Nat × Nat := (0, 0)      -- entry at the end of the last WAIT or BARRIER: decisions then, number
  atBarrier : Bool := false        -- the wait of the BARRIER at its head is over, and `floor` says when
  blocked : Option Packet := none  -- a WAIT whose condition does not hold
  ind : Option Indirect := none    -- the INDIRECT whose packets are being processed
  indDone : List Indirect := []    -- those processed and not yet complete
  live : List Nat := []            -- ranges not yet retired
  pend : List (W64 × Nat) := []    -- packets whose completion waits: CREC, and for what: partition (PARTCFG), 256 + QID (QDESTROY, EXPORT), 4096 + number (INVAL)
  accs : List Nat := []            -- the sixteen event accumulators (R423)
  sigs : List W64 := []            -- signals in the order first written (R370)
  ending : Option Ending := none
  exported : List Saved := []      -- ranges saved for the EXPORT or QDESTROY in progress
  resumeHead : List Saved := []    -- ranges waiting at the head: pre-empted for priority (R384), or imported (R369)
  deriving DecidableEq, Repr

structure BkSlot where
  owner : Nat                      -- range that set it
  rid : Nat
  gseq : W64
  addr : W64
  len : Nat := 0
  kind : Byte := 0
  deriving DecidableEq, Repr

/-- A page-request record (Table 6 of R356). -/
structure PReq where
  asid : Nat
  va : Nat
  die : Nat
  part : Nat
  count : W32 := 0
  deriving DecidableEq, Repr

/-- Records a ring has received in one tick with their sources, in the order they stand in: one that comes later from a lower source goes
before those of higher ones (R7, R427, R429). -/
structure Tail where
  tick : Nat := 0
  recs : List (Nat × List Byte) := []
  deriving DecidableEq, Repr

/-- A partition's state: CARVE (R78), POLICY (R368), the telemetry block (R422), debug slots (R295, R296), the debug mailbox
(R298), Canal windows (R372), the page-request queue (R356), M4 (R418), budget (R433). -/
structure Part where
  num : Nat
  carve : W32 := 0x00080810
  carveOld : W32 := 0x00080810     -- the granules as they were before a change that is pending (R106)
  carvePend : Option (Nat × W64) := none -- the PARTCFG that completes when PEND clears: queue, CREC
  resDrain : Nat := 0              -- ways added and not yet drained (R107)
  policy : W64 := 0x0000005020600C0A
  sel : Option Packet := none
  decisions : Nat := 0
  tctl : W64 := 0
  sbase : W64 := 0
  tbase : W64 := 0
  lbase : W64 := 0
  sprod : W64 := 0
  tprod : W64 := 0
  lprod : W64 := 0
  scons : W64 := 0
  tcons : W64 := 0
  lcons : W64 := 0
  slost : W64 := 0
  tlost : W64 := 0
  rctl : W64 := 0
  rbase : W64 := 0
  rlen : W64 := 0
  cnt : Vector W64 16 := Vector.replicate 16 0
  tsync : Nat := 0                 -- packets written since TEN was last set
  tsince : Nat := 0                -- packets written since the last sync packet
  tdrop : Nat := 0                 -- dropped since the last lost packet
  ttail : Tail := {}               -- what the trace and log rings have received in the tick that passes
  ltail : Tail := {}
  lfull : Bool := false            -- a full entry stands: logging is off until LEN is set again (R430)
  bk : List (Nat × BkSlot) := []
  wt : List (Nat × BkSlot) := []
  events : List (List Byte) := []  -- debug events and host messages for DMBOX.RECV
  outbox : List (List Byte) := []  -- DMBOX.SEND messages the PF has not read
  win : List (Nat × W64 × W16 × Bool × Bool) := []
  winSeq : List (Nat × W32) := []  -- next sequence number of a flow, by 16 × package + window (R372, R373)
  preq : List PReq := []           -- the page-request queue (R356)
  preqRead : List Byte := []       -- the record last read from it
  m4 : BitVec 384 := 0
  budget : Nat := 0
  power : Nat := 0                 -- watts over the last window in fixed-clock mode (R433)
  withheld : Bool := false
  deriving DecidableEq, Repr

structure Fe where
  queues : List Queue := []
  parts : List Part := []
  imports : List (Nat × Nat) := [] -- ASID and package of the import masks (R372)
  accepted : Nat × Nat := (0, 0)   -- clk and partition of the range accepted last (R391)
  containers : List (Nat × Nat × W64 × List (Nat × BitVec 72)) := [] -- partition's ASID, code base, CONFIG, safe table (R334)
  registered : List ((Nat × Nat) × Nat) := [] -- ASID and code base: status of the last registration, OK or SIDE_INVALID (R334)
  saved : List Saved := []
  nextRid : Nat := 1
  exports : List (Nat × W64 × List Byte × Queue) := [] -- ASID, DEST, bytes and queue of each EXPORT or saving QDESTROY (R369)
  seqno : Nat := 1                 -- number of the next entry of a head (R368)
  invs : Nat := 1                  -- number of the next invalidation (R353)
  deriving DecidableEq, Repr

/-- The fault queues (R380, R381): where the table of control blocks is, records not yet posted, primary records posted. -/
structure Fq where
  table : Option Nat := none
  pending : List (Nat × FRec) := []          -- queue, record; in order of TIME
  posted : List (Nat × Nat × FRec) := []     -- queue, record number, record: primaries not yet acted on
  taken : List (Nat × Nat) := []             -- per queue, slots consumed and acted on
  deriving DecidableEq, Repr

/-! ## Lateral socket, Canal, package -/

/-- A guest channel (R398). -/
structure Chan where
  num : Nat
  depth : Nat
  gsave : Nat
  seq : W32 := 0
  pkts : List GPkt := []
  gpre : List (Nat × Nat) := []              -- GPREs and GRESs not answered: range and deadline of the reply (R402, R408)
  gres : List (Nat × Nat) := []
  deriving DecidableEq, Repr

/-- A grant of R403. -/
structure Grant where
  chan : Nat
  seq : W32
  asid : Nat
  va : Nat
  pa : Nat
  size : Nat
  w : Bool
  tinv : Option (Nat × Nat × List Nat) := none -- the TINV sent for it: tag, deadline of the TINVACK, invalidations that wait for it (R404)
  deriving DecidableEq, Repr

/-- A sector that the guest holds by CXL.cache: its name of 128 bytes, and what the guest has written and not written back. -/
structure GLine where
  sec : Nat
  bytes : List (Nat × Byte) := []
  deriving DecidableEq, Repr

/-- A message of the device to the guest (R402, Table 3): row, then its numbers. -/
structure Msg where
  row : Nat
  nums : List Nat
  bytes : List Byte := []
  deriving DecidableEq, Repr

structure Socket where
  trained : Bool := false
  fenced : Bool := false
  chans : List Chan := []
  grants : List Grant := []
  waitTcpl : List (Nat × W32 × Nat × Bool × Nat × Nat) := [] -- a TCPL OK that waits for a grant to end: channel, SEQ, page, write, tag, ASID
  sent : List Msg := []
  tags : Nat := 0                            -- TINVs sent
  lines : List GLine := []                   -- sectors of device memory that the guest caches (R396, R405)
  pts : Nat := 0                             -- the latest time of a write of the guest (R405, R406)
  reads : List (W64 × Option (List Byte)) := [] -- completions of the guest's reads: the data, or the CXL error completion (R397)
  ended : List (Nat × GPkt × Nat) := []      -- packets that a GCPL completed in the clk given: channel, packet, clk (R410)
  deriving DecidableEq, Repr

/-- A write held in the reorder buffer of an ordered flow (R373). -/
structure CanalWr where
  package : Nat
  part : Nat
  win : Nat
  seq : W32
  asid : Nat
  va : Nat
  data : PeerData
  taken : Bool                               -- the import mask let it in (R372)
  deriving DecidableEq, Repr

/-- The grade of the part (R1): nothing but cores is fused. -/
inductive Grade where
  | xg40 | xg36 | xg32
  deriving DecidableEq, Repr

/-- The number a configuration word gives the grade (R329). -/
def Grade.num : Grade → Nat
  | .xg40 => 0 | .xg36 => 1 | .xg32 => 2
/-- Cores of each die in service, numbered from 0 (R2). -/
def Grade.cores : Grade → Nat
  | .xg40 => 128 | .xg36 => 112 | .xg32 => 96
/-- Partitions of each die: eight cores each (R3, R411). -/
def Grade.parts (g : Grade) : Nat := g.cores / 8
/-- A partition that exists; a Canal port of one that does, the others being held in reset (Table 1, R411, R412). -/
def Grade.hasPart (g : Grade) (p : Nat) : Bool := decide (p / Config.partsPerDie < 4) && decide (p % Config.partsPerDie < g.parts)
def Grade.hasPort (g : Grade) (port : Nat) : Bool := g.hasPart (2 * port)

/-- The package: bring-up, status capability, keys, measurements, VF bindings, clock and power (R411 to R419, R433 to R439). -/
structure Pkg where
  grade : Grade := .xg40                     -- fused at test, never written (R1, R2)
  phase : Nat := 0
  trip : Bool := false
  eccc : W64 := 0
  fcore : Vector (BitVec 128) 4 := Vector.replicate 4 0
  bureq : Vector Byte 64 := Vector.replicate 64 0
  bursp : Vector Byte 16 := Vector.replicate 16 0
  budb : W32 := 0
  m0 : BitVec 384 := 0
  m1 : BitVec 384 := 0
  m2 : BitVec 384 := 0
  m3 : BitVec 384 := 0
  svn : W32 := 0
  minSvn : W32 := Config.fusedMinSvn
  cmap : Vector W32 4 := Vector.replicate 4 0
  keys : List (Nat × BitVec 256) := []
  vfs : List (Nat × W64) := []
  fixedClk : Bool := false
  mhz : Nat := 700
  hot : List Nat := []                       -- dies at or above 100 °C and not yet below 95 °C
  railsOff : Bool := false
  vfBox : List (Nat × List Byte × List Byte × W64) := [] -- VF (0: PF), request, response, doorbell
  fotOn : Bool := false
  portsDown : List Nat := []
  canal : List CanalWr := []
  canalNext : List (Nat × Nat × Nat × W32) := [] -- package, partition, window: next number of an ordered flow
  canalOut : List (Nat × Nat × W32 × W64 × List Byte) := [] -- stores sent to peers: partition, window, number, address, bytes
  ide : List (Nat × W64) := []               -- words of the IDE keys of the host link and the socket (R371, R396)
  fresh : Nat := 0                           -- number of the next free value (log entry 9)
  draws : Nat := 0
  deriving DecidableEq, Repr

/-! ## The machine -/

/-- A location that can be poisoned (R435): an HBM sector, a word of a core store, a word of a partition's Reservoir, an exact cell. -/
inductive Spoil where
  | hbm (pa : Nat)
  | core (die num off : Nat)
  | resv (die part off : Nat)
  | cell (die part u : Nat)
  deriving DecidableEq, Repr

/-- Who moves next (log entry 1). -/
inductive Move where
  | issue (gid bid : Nat)
  | event (i : Instr)
  | elapse (clk ticks : Nat)
  | corrected (n : Nat)            -- single-bit errors corrected (R435)
  | spoil (p : Spoil)              -- a location takes an error that cannot be corrected
  deriving DecidableEq, Repr

/-- The issue in progress, or the last one: group, bundle, PC, length in bytes, words (for the record's DETAIL). -/
structure Cur where
  gid : Nat
  bid : Nat
  pc : W64
  len : Nat
  words : W64
  deriving DecidableEq, Repr

/-- A DSTEP whose step has not been made: the debug group and bundle, its block, the target group and thread (R294). -/
structure DStep where
  gid : Nat
  bid : Nat
  blk : Nat
  target : Nat
  thread : Nat
  deriving DecidableEq, Repr

structure State where
  agenda : List Move := []
  dsteps : List DStep := []
  cur : Option Cur := none
  order : Option (Nat × Nat × Nat) := none -- clk, tick and source of the last move that has a source (R7)
  clk : Nat := 0
  ticks : Nat := 0
  groups : List Group := []
  ranges : List RangeSt := []
  eng : Eng := {}
  mem : Mem := {}
  fe : Fe := {}
  fq : Fq := {}
  sock : Socket := {}
  pkg : Pkg := {}
  nextGid : Nat := 0
  deriving DecidableEq, Repr

/-- Reasons the machine stops. -/
inductive Fault where
  /-- Raised by every instruction that a bundle issues, when exec is called with no issue in progress (State.cur names no
  bundle): no machine reaches it, since step sets State.cur. Safe. -/
  | noIssue
  deriving DecidableEq, Repr

/-- Reasons the model refuses. -/
inductive Refusal where
  /-- Raised by an arm of exec whose instruction has no meaning yet. Safe. -/
  | notModelled (mnemonic : String)
  deriving DecidableEq, Repr

abbrev Out := Host.Outcome State Fault Refusal

/-- Right after reset of the package (R437: PHASE reads 0 until the rails are up; R418: M0 to M3 zero; R82: pts zero; R339,
R349, R412: nothing carved, no queue, no range). The values the manual does not state are named in log entry 4. -/
def State.reset : State := {}

end Sys2Proof.Machine

/-! What the bytes of a saved-state area and of an exported queue stand for (R364, R369): canonical layouts, which the manual does not give
(log entry 13). The numbers are those from which the model counts the groups and the engine operations that it reads. -/
namespace Sys2Proof.Config

/-- The range in an area; none where the area's internal checks fail. -/
opaque savedArea : Nat → Nat → List Byte → Option Machine.RangeSt
/-- How many bytes an export takes, by the queue's privileged fields and RPTR with which it begins. -/
opaque exportLen : List Byte → Nat
/-- The queue in an export; none where the bytes are none. -/
opaque exportedQueue : Nat → Nat → List Byte → Option Machine.Queue

end Sys2Proof.Config
end

