-- ==== Sys2Proof/Machine/Bits.lean ====
section
/-! DEFINITION. Byte order (R5), sign extension, byte-addressed memory in canonical form, and the list helpers the machine is
written with. -/

namespace Sys2Proof.Machine

/-! ## Numbers and bytes -/

/-- Little-endian value of bytes (R5). -/
def leNat : List Byte → Nat
  | [] => 0
  | b :: bs => b.toNat + 256 * leNat bs

/-- SignExt(x, n) of R23, as an integer. -/
def sext (n x : Nat) : Int := if x < 2 ^ (n - 1) then x else (x : Int) - 2 ^ n

/-- Field [hi:lo] of a number (R6). -/
def bits (x hi lo : Nat) : Nat := (x / 2 ^ lo) % 2 ^ (hi + 1 - lo)
def bit (x n : Nat) : Bool := x / 2 ^ n % 2 == 1

def w64 (x : Int) : W64 := BitVec.ofInt 64 x
def w32 (x : Int) : W32 := BitVec.ofInt 32 x

/-- Bytes [off + n − 1 : off] of a block, as a number; absent bytes read 0. -/
def fld (b : List Byte) (off n : Nat) : Nat := leNat ((b.drop off).take n)
def sfld (b : List Byte) (off n : Nat) : Int := sext (8 * n) (fld b off n)
/-- Bytes [hi:lo] of a block, as the tables of the manual write them. -/
def zeros (b : List Byte) (lo hi : Nat) : Bool := ((b.drop lo).take (hi + 1 - lo)).all (· == 0)

def roundUp (x m : Nat) : Nat := (x + m - 1) / m * m
def ceilDiv (x m : Nat) : Nat := (x + m - 1) / m

/-! ## Memory -/

/-- What an unlisted byte reads as (log entry 3). -/
def unlisted : Byte := 0

def Memory.read1 : Memory → Nat → Byte
  | [], _ => unlisted
  | (a, b) :: m, x => if a == x then b else if x < a then unlisted else Memory.read1 m x

/-- The byte at x set to b; the canonical form is kept. -/
def Memory.write1 : Memory → Nat → Byte → Memory
  | [], x, b => if b == unlisted then [] else [(x, b)]
  | (a, c) :: m, x, b =>
    if a == x then (if b == unlisted then m else (x, b) :: m)
    else if x < a then (if b == unlisted then (a, c) :: m else (x, b) :: (a, c) :: m)
    else (a, c) :: Memory.write1 m x b

/-- The canonical form: addresses rise strictly, and no entry equals what an unlisted address reads as. -/
def Memory.wfFrom (lo : Nat) : Memory → Bool
  | [] => true
  | (a, b) :: m => decide (lo ≤ a) && b != unlisted && Memory.wfFrom (a + 1) m
def Memory.wf (m : Memory) : Bool := Memory.wfFrom 0 m

def Memory.read (m : Memory) (a : Nat) : Nat → List Byte
  | 0 => []
  | n + 1 => Memory.read1 m a :: Memory.read m (a + 1) n

def Memory.write (m : Memory) (a : Nat) : List Byte → Memory
  | [] => m
  | b :: bs => Memory.write (Memory.write1 m a b) (a + 1) bs

def Memory.readN (m : Memory) (a n : Nat) : Nat := leNat (m.read a n)
def Memory.writeN (m : Memory) (a n x : Nat) : Memory := m.write a (leBytes n x)
/-- The bytes [a, a + n) set to zero. -/
def Memory.clear (m : Memory) (a n : Nat) : Memory := m.filter (fun c => c.1 < a || a + n ≤ c.1)

/-! ## Sectors of 128 bytes -/

abbrev Sec := Vector Byte 128
def zeroSec : Sec := Vector.replicate 128 0
def Sec.get (d : Sec) (off n : Nat) : List Byte := (d.toList.drop off).take n
def Sec.put (d : Sec) (bs : List (Nat × Byte)) : Sec := bs.foldl (fun d c => d.setIfInBounds c.1 c.2) d
def secOf (bs : List Byte) : Sec := zeroSec.mapIdx (fun i _ => bs.getD i 0)
def offs (off : Nat) (bs : List Byte) : List (Nat × Byte) := bs.mapIdx (fun i b => (off + i, b))

/-! ## Lists keyed by a test -/

def upd {α : Type} (p : α → Bool) (f : α → α) (l : List α) : List α := l.map (fun x => if p x then f x else x)
/-- Changes the item the test names, or adds `dflt` changed when there is none. -/
def updOr {α : Type} (p : α → Bool) (dflt : α) (f : α → α) (l : List α) : List α :=
  if l.any p then upd p f l else l ++ [f dflt]
/-- Sorted by a number, earlier entries first among equals. -/
def insertOn {α : Type} (f : α → Nat) (x : α) : List α → List α
  | [] => [x]
  | y :: l => if f x < f y then x :: y :: l else y :: insertOn f x l
def sortOn {α : Type} (f : α → Nat) (l : List α) : List α := l.foldl (fun a x => insertOn f x a) []
def assoc {β : Type} (l : List (Nat × β)) (k : Nat) : Option β := (l.find? (fun x => x.1 == k)).map (·.2)
def assocSet {β : Type} (l : List (Nat × β)) (k : Nat) (v : β) : List (Nat × β) :=
  updOr (fun x => x.1 == k) (k, v) (fun _ => (k, v)) l
def assocDel {β : Type} (l : List (Nat × β)) (k : Nat) : List (Nat × β) := l.filter (fun x => x.1 != k)
def setAt {α : Type} (l : List α) (i : Nat) (x : α) : List α := l.set i x
def sumOf {α : Type} (f : α → Nat) (l : List α) : Nat := l.foldl (fun n x => n + f x) 0
/-- A fold that stops at the first error. -/
def foldE {α σ ε : Type} (f : σ → α → Except ε σ) : List α → σ → Except ε σ
  | [], s => .ok s
  | x :: xs, s => match f s x with
    | .ok s => foldE f xs s
    | .error e => .error e

/-- Three coordinates by axis. -/
def ax (t : Nat × Nat × Nat) : Nat → Nat
  | 0 => t.1
  | 1 => t.2.1
  | _ => t.2.2
def vol (t : Nat × Nat × Nat) : Nat := t.1 * t.2.1 * t.2.2

/-- A mask with the bits of the listed lane homes. -/
def maskOf (ls : List Nat) : W32 := ls.foldl (fun m l => m ||| (1#32 <<< l)) 0
def lanesOf (m : W32) : List Nat := (List.range 32).filter (fun l => m.getLsbD l)

end Sys2Proof.Machine
end

