-- ==== Sys2Proof/Machine/Num.lean ====
section
/-! DEFINITION. Numbers to the bit (R130 to R137, R203 to R205): exact values as sign, magnitude and power of two, one
rounding function, and the operations of the lanes, the atomics, the slots and the matrix array. -/

namespace Sys2Proof.Machine

/-- A floating-point format (R130). -/
structure Fmt where
  ebits : Nat
  fbits : Nat
  deriving DecidableEq, Repr

def F32 : Fmt := ⟨8, 23⟩
def F16 : Fmt := ⟨5, 10⟩
def B16 : Fmt := ⟨8, 7⟩
/-- The FP type code of R157. -/
def fmtOf (c : Nat) : Fmt := if c == 0 then F32 else if c == 1 then F16 else B16

def Fmt.width (f : Fmt) : Nat := 1 + f.ebits + f.fbits
def Fmt.bias (f : Fmt) : Nat := 2 ^ (f.ebits - 1) - 1
def Fmt.inf (f : Fmt) : Nat := (2 ^ f.ebits - 1) * 2 ^ f.fbits
def Fmt.signBit (f : Fmt) : Nat := 2 ^ (f.ebits + f.fbits)
/-- The canonical NaN of R130. -/
def Fmt.nan (f : Fmt) : Nat := f.inf + 2 ^ (f.fbits - 1)

/-- A real value with a signed zero, an infinity, or a NaN: m × 2^e. -/
inductive FV where
  | nan
  | inf (neg : Bool)
  | fin (neg : Bool) (m : Nat) (e : Int)
  deriving DecidableEq, Repr

/-- The value of a bit pattern (R130); bits above the format are ignored (R132). -/
def Fmt.val (f : Fmt) (x : Nat) : FV :=
  let x := x % (2 * f.signBit)
  let neg := decide (f.signBit ≤ x)
  let mag := x % f.signBit
  let ex := mag / 2 ^ f.fbits
  let fr := mag % 2 ^ f.fbits
  if mag > f.inf then .nan
  else if mag == f.inf then .inf neg
  else if ex == 0 then .fin neg fr (1 - (f.bias : Int) - f.fbits)
  else .fin neg (2 ^ f.fbits + fr) ((ex : Int) - f.bias - f.fbits)

def shl (m : Nat) (e : Int) : Nat := m * 2 ^ e.toNat
/-- m × 2^e as a fraction. -/
def ratOf (m : Nat) (e : Int) : Nat × Nat := if e ≥ 0 then (m * 2 ^ e.toNat, 1) else (m, 2 ^ (-e).toNat)

/-- Whether a quotient with remainder r of divisor d is rounded away from zero: 0 .RN, 1 .RZ, 2 .RU, 3 .RD (R157, R133). -/
def away (rm : Nat) (neg : Bool) (q r d : Nat) : Bool :=
  match rm with
  | 0 => decide (2 * r > d) || (2 * r == d && q % 2 == 1)
  | 1 => false
  | 2 => !neg && r != 0
  | _ => neg && r != 0

/-- Overflow by Table 2 of R133. -/
def Fmt.over (f : Fmt) (rm : Nat) (neg : Bool) : Nat :=
  let toInf := match rm with
    | 0 => true
    | 1 => false
    | 2 => !neg
    | _ => neg
  (if toInf then f.inf else f.inf - 1) + if neg then f.signBit else 0

/-- floor(log2(n / d)) of positive numbers. -/
def log2Rat (n d : Nat) : Int :=
  let g : Int := (n.log2 : Int) - d.log2
  let ok := if g ≥ 0 then decide (d * 2 ^ g.toNat ≤ n) else decide (d ≤ n * 2 ^ (-g).toNat)
  if ok then g else g - 1

/-- R133: the fraction n / d with its sign, rounded to the format; a zero keeps the sign. -/
def Fmt.roundRat (f : Fmt) (rm : Nat) (neg : Bool) (n d : Nat) : Nat :=
  let s := if neg then f.signBit else 0
  if n == 0 then s else
  let e := log2Rat n d
  let emin : Int := 1 - f.bias
  let q : Int := max e emin - f.fbits
  let (n, d) := if q ≥ 0 then (n, d * 2 ^ q.toNat) else (n * 2 ^ (-q).toNat, d)
  let m := n / d + if away rm neg (n / d) (n % d) d then 1 else 0
  let mag := (q + f.fbits + f.bias - 1).toNat * 2 ^ f.fbits + m
  if f.inf ≤ mag then f.over rm neg else s + mag

/-- The rounding function of R133 and R135. -/
def Fmt.round (f : Fmt) (rm : Nat) : FV → Nat
  | .nan => f.nan
  | .inf neg => f.inf + if neg then f.signBit else 0
  | .fin neg m e => let (n, d) := ratOf m e; f.roundRat rm neg n d

def FV.neg : FV → FV
  | .nan => .nan
  | .inf s => .inf (!s)
  | .fin s m e => .fin (!s) m e

/-- Exact sum; a zero sum takes the sign R134 gives. -/
def FV.add (rm : Nat) : FV → FV → FV
  | .nan, _ => .nan
  | _, .nan => .nan
  | .inf s, .inf t => if s == t then .inf s else .nan
  | .inf s, _ => .inf s
  | _, .inf t => .inf t
  | .fin s m e, .fin t n g =>
    let lo := min e g
    let a : Int := (if s then -1 else 1) * (shl m (e - lo) : Int)
    let b : Int := (if t then -1 else 1) * (shl n (g - lo) : Int)
    let c := a + b
    if c == 0 then .fin (if m == 0 && n == 0 && s == t then s else rm == 3) 0 0
    else .fin (c < 0) c.natAbs lo

/-- Exact product (R135, R202). -/
def FV.mul : FV → FV → FV
  | .nan, _ => .nan
  | _, .nan => .nan
  | .inf s, .inf t => .inf (s != t)
  | .inf s, .fin t n _ => if n == 0 then .nan else .inf (s != t)
  | .fin s m _, .inf t => if m == 0 then .nan else .inf (s != t)
  | .fin s m e, .fin t n g => .fin (s != t) (m * n) (e + g)

/-! ## Lane operations -/

def fAdd (f : Fmt) (rm x y : Nat) : Nat := f.round rm ((f.val x).add rm (f.val y))
def fSub (f : Fmt) (rm x y : Nat) : Nat := f.round rm ((f.val x).add rm (f.val y).neg)
def fMul (f : Fmt) (rm x y : Nat) : Nat := f.round rm ((f.val x).mul (f.val y))
/-- FFMA: one rounding (R202). -/
def fFma (f : Fmt) (rm x y z : Nat) : Nat := f.round rm (((f.val x).mul (f.val y)).add rm (f.val z))

/-- Total order of the patterns that are no NaN: −0 below +0 (R135). -/
def Fmt.key (f : Fmt) (x : Nat) : Int :=
  let x := x % (2 * f.signBit)
  if f.signBit ≤ x then -((x - f.signBit : Nat) : Int) - 1 else x
def Fmt.isNan (f : Fmt) (x : Nat) : Bool := decide (x % f.signBit > f.inf)

/-- FMIN, FMAX: a NaN operand is absent; the result is an operand's pattern (R203). -/
def fMinMax (f : Fmt) (mx : Bool) (x y : Nat) : Nat :=
  let x := x % (2 * f.signBit)
  let y := y % (2 * f.signBit)
  if f.isNan x then (if f.isNan y then f.nan else y)
  else if f.isNan y then x
  else if decide (f.key x ≤ f.key y) != mx then x else y

/-- A condition on two keys that compare (R157): 0 EQ to 5 GE. -/
def condInt (c : Nat) (a b : Int) : Bool :=
  match c with
  | 0 => a == b
  | 1 => a != b
  | 2 => a < b
  | 3 => a ≤ b
  | 4 => a > b
  | _ => a ≥ b

/-- FCMP (R204). -/
def fCmp (f : Fmt) (c x y : Nat) : Bool :=
  if f.isNan x || f.isNan y then c == 1
  else
    let k := fun z => let k := f.key z; if k < 0 then k + 1 else k
    condInt c (k x) (k y)

/-! ## Reciprocal, root, exponential, logarithm (R205) -/

/-- Integer square root by bits, from bit k down. -/
def isqrtFrom (x : Nat) : Nat → Nat → Nat
  | 0, r => r
  | k + 1, r => let t := r + 2 ^ k; isqrtFrom x k (if t * t ≤ x then t else r)
def isqrt (x : Nat) : Nat := isqrtFrom x (x.log2 / 2 + 1) 0

def fRcp (f : Fmt) (rm x : Nat) : Nat :=
  match f.val x with
  | .nan => f.nan
  | .inf s => if s then f.signBit else 0
  | .fin s m e =>
    if m == 0 then f.inf + (if s then f.signBit else 0)
    else let (n, d) := ratOf m e; f.roundRat rm s d n

def fRsq (f : Fmt) (rm x : Nat) : Nat :=
  match f.val x with
  | .nan => f.nan
  | .inf s => if s then f.nan else 0
  | .fin s m e =>
    if m == 0 then f.inf + (if s then f.signBit else 0)
    else if s then f.nan
    else
      let (m, e) := if e % 2 == 0 then (m, e) else (2 * m, e - 1)
      let k := 64 + m.log2
      let q := isqrt (2 ^ (2 * k) / m)
      let n := 2 * q + if q * q * m == 2 ^ (2 * k) then 0 else 1
      let (a, b) := ratOf n (-(e / 2) - k - 1)
      f.roundRat rm false a b

/-- Bits of the fixed-point work for 2^x and log2 x (log entry 14). -/
def fixBits : Nat := 320

/-- Sum over k of 1 / (k × 2^k), in units of 2^−fixBits. -/
def ln2From : Nat → Nat
  | 0 => 0
  | k + 1 => 2 ^ fixBits / ((k + 1) * 2 ^ (k + 1)) + ln2From k
def ln2 : Nat := ln2From fixBits

/-- e^y − 1 by its series, y in units of 2^−fixBits. -/
def expFrom (y : Nat) : Nat → Nat → Nat → Nat
  | 0, _, _ => 0
  | n + 1, k, t => let t := t * y / 2 ^ fixBits / k; t + expFrom y n (k + 1) t

def fExp2 (f : Fmt) (x : Nat) : Nat :=
  match f.val x with
  | .nan => f.nan
  | .inf s => if s then 0 else f.inf
  | .fin s m e =>
    if m == 0 then f.roundRat 0 false 1 1
    else if decide (e ≥ 12) || decide (m.log2 + e ≥ 12) then (if s then f.roundRat 0 false 1 (2 ^ 4096) else f.inf)
    else
      let v : Int := (if s then -1 else 1) * (if e ≥ 0 then (shl m (e + fixBits) : Int) else (m * 2 ^ fixBits / 2 ^ (-e).toNat : Nat))
      let i := v.fdiv (2 ^ fixBits)
      let y := (v - i * 2 ^ fixBits).toNat
      if y == 0 then let (n, d) := ratOf 1 i; f.roundRat 0 false n d
      else
        let z := y * ln2 / 2 ^ fixBits
        let p := 2 ^ fixBits + expFrom z 80 1 (2 ^ fixBits)
        let (n, d) := ratOf (2 * p + 1) (i - fixBits - 1)
        f.roundRat 0 false n d

/-- Binary digits of log2 of t × 2^−fixBits in [1, 2), by squaring. -/
def log2Digits : Nat → Nat → Nat → Nat
  | 0, _, acc => acc
  | k + 1, t, acc =>
    let t := t * t / 2 ^ fixBits
    if t ≥ 2 ^ (fixBits + 1) then log2Digits k (t / 2) (2 * acc + 1) else log2Digits k t (2 * acc)

def fLog2 (f : Fmt) (x : Nat) : Nat :=
  match f.val x with
  | .nan => f.nan
  | .inf s => if s then f.nan else f.inf
  | .fin s m e =>
    if m == 0 then f.inf + f.signBit
    else if s then f.nan
    else
      let l := m.log2
      let i : Int := l + e
      if m == 2 ^ l then (f.round 0 (.fin (i < 0) i.natAbs 0)) % (if i == 0 then f.signBit else 2 * f.signBit)
      else
        let d := log2Digits 128 (m * 2 ^ fixBits / 2 ^ l) 0
        let v : Int := i * 2 ^ 129 + 2 * d + 1
        f.roundRat 0 (v < 0) v.natAbs (2 ^ 129)

/-! ## Conversions (R136) -/

def clampN (n : Nat) (y : Int) : Int := max 0 (min y (2 ^ n - 1))
def clampI (n : Nat) (y : Int) : Int := max (-(2 ^ (n - 1))) (min y (2 ^ (n - 1) - 1))
def clampT (n : Nat) (signed : Bool) (y : Int) : Int := if signed then clampI n y else clampN n y

/-- A signed fraction rounded to an integer by rm. -/
def roundInt (rm : Nat) (neg : Bool) (n d : Nat) : Int :=
  let q : Int := (n / d + if away rm neg (n / d) (n % d) d then 1 else 0 : Nat)
  if neg then -q else q

/-- FP to integer of n bits: rounded, then saturated; NaN gives 0 (R136). -/
def fToInt (f : Fmt) (rm n : Nat) (signed : Bool) (x : Nat) : Int :=
  match f.val x with
  | .nan => 0
  | .inf s => clampT n signed (if s then -(2 ^ 64) else 2 ^ 64)
  | .fin s m e => let (a, b) := ratOf m e; clampT n signed (roundInt rm s a b)

def intToF (f : Fmt) (rm : Nat) (y : Int) : Nat := f.roundRat rm (y < 0) y.natAbs 1

/-- FCVT (R208): one rounding; equal formats copy, but for a NaN. -/
def fCvt (dst src : Fmt) (rm x : Nat) : Nat :=
  if dst == src then (if src.isNan x then src.nan else x % (2 * src.signBit)) else dst.round rm (src.val x)

/-! ## Quantised elements (R137) -/

/-- Dequant; an integer difference of 0 is +0, so that a negative scale makes −0 (log entry 108). -/
def dequant (q : Int) (s : Nat) (z : Nat) : Nat :=
  let d : Int := q - z
  F32.round 0 ((F16.val s).mul (.fin (d < 0) d.natAbs 0))

def quant (x s z n : Nat) (signed : Bool) (rm : Nat) : Int :=
  match F32.val x, F16.val s with
  | .nan, _ => clampT n signed z
  | _, .nan => clampT n signed z
  | _, .inf _ => clampT n signed z
  | .inf t, .fin _ sm _ => if sm == 0 then clampT n signed z else clampT n signed (if t then -(2 ^ 64) else 2 ^ 64)
  | .fin t m e, .fin u sm se =>
    if sm == 0 then clampT n signed z
    else
      let (a, b) := ratOf m e
      let (c, d) := ratOf sm se
      clampT n signed (roundInt rm (t != u) (a * d) (b * c) + z)

/-! ## The combining function of R240, and trees -/

def signed32 (x : W32) : Int := x.toInt

def applyOp (c : Nat) (rm : Nat) (x y : W32) : W32 :=
  match c with
  | 0 => x + y
  | 1 => BitVec.ofNat 32 (fAdd F32 rm x.toNat y.toNat)
  | 2 => if x.toNat ≤ y.toNat then x else y
  | 3 => if x.toInt ≤ y.toInt then x else y
  | 4 => BitVec.ofNat 32 (fMinMax F32 false x.toNat y.toNat)
  | 5 => if x.toNat ≤ y.toNat then y else x
  | 6 => if x.toInt ≤ y.toInt then y else x
  | 7 => BitVec.ofNat 32 (fMinMax F32 true x.toNat y.toNat)
  | 8 => x &&& y
  | 9 => x ||| y
  | 10 => x ^^^ y
  | _ => y

/-- One level of the tree of R214 over lane homes; an absent node passes its sibling. -/
def treeLevel (f : W32 → W32 → W32) : List (Option W32) → List (Option W32)
  | a :: b :: rest =>
    (match a, b with
      | some x, some y => some (f x y)
      | some x, none => some x
      | none, y => y) :: treeLevel f rest
  | l => l

/-- The fixed tree of R214 over 32 lane homes. -/
def tree (f : W32 → W32 → W32) (l : List (Option W32)) : Option W32 :=
  (treeLevel f (treeLevel f (treeLevel f (treeLevel f (treeLevel f l))))).headD none

/-! ## Exact cells (R91) -/

/-- y / 2^−149 of a finite FP32 value. -/
def cellUnits (neg : Bool) (m : Nat) (e : Int) : Int := (if neg then -1 else 1) * (shl m (e + 149) : Int)

def Cell.add (c : Cell) (y : W32) : Cell :=
  match F32.val y.toNat with
  | .nan => { c with nan := true }
  | .inf s => if s then { c with ninf := true } else { c with pinf := true }
  | .fin s m e =>
    let sum := c.k.toInt + cellUnits s m e
    { c with k := BitVec.ofInt 320 sum, ovf := c.ovf || decide (sum.natAbs ≥ 2 ^ 319) }

def Cell.store (y : W32) : Cell :=
  match F32.val y.toNat with
  | .nan => { nan := true }
  | .inf s => if s then { ninf := true } else { pinf := true }
  | .fin s m e => { k := BitVec.ofInt 320 (cellUnits s m e) }

def Cell.read (c : Cell) : W32 :=
  if c.nan || c.ovf || (c.pinf && c.ninf) then 0x7FC00000
  else if c.pinf then 0x7F800000
  else if c.ninf then 0xFF800000
  else
    let k := c.k.toInt
    if k == 0 then 0 else BitVec.ofNat 32 (F32.round 0 (.fin (k < 0) k.natAbs (-149)))

def Cell.flags (c : Cell) : W32 :=
  BitVec.ofNat 32 (c.nan.toNat + 2 * c.pinf.toNat + 4 * c.ninf.toNat + 8 * c.ovf.toNat)

end Sys2Proof.Machine
end

