-- ==== Sys2Proof/Machine/Flags.lean ====
section
/-! DEFINITION. Predicates: the conditions of comparisons (R157, R190, R195, R204), of BRP (R169) and of the lane functions that
answer with a predicate. p0 to p6 are the machine's only flags. -/

namespace Sys2Proof.Machine

/-- ICMP and SCMP: a comparison of two words read as natural or signed (R190, R195). -/
def intCond {n : Nat} (signed : Bool) (cond : BitVec 3) (a b : BitVec n) : Bool :=
  if signed then condInt cond.toNat a.toInt b.toInt else condInt cond.toNat a.toNat b.toNat

/-- FCMP on the patterns of a format (R204). -/
def fpCond (f : Fmt) (cond : BitVec 3) (a b : W32) : Bool := fCmp f cond.toNat a.toNat b.toNat

/-- Condition and predicate of a comparison's d field (R157). -/
def condOf (d : BitVec 6) : BitVec 3 := d.extractLsb 5 3
def predOf (d : BitVec 6) : BitVec 3 := d.extractLsb 2 0

/-- BRP over the active lanes' predicate values (R169). -/
def brpTaken (all : Bool) (ps : List Bool) : Bool := if all then !ps.isEmpty && ps.all id else ps.any id

end Sys2Proof.Machine
end

