-- ==== Sys2Proof/Machine/Ops.lean ====
section
/-! DEFINITION. The named operations over the state: finding and changing groups, bundles, threads, teams and ranges; returning
results; ending a run; taking an exception (R147, R154, R376 to R379) and returning from one (R383); issuing an instruction
and retiring it. -/

namespace Sys2Proof.Machine

/-! ## Finding and changing units -/

def State.group? (s : State) (gid : Nat) : Option Group := s.groups.find? (fun g => g.id == gid)
def State.range? (s : State) (rid : Nat) : Option RangeSt := s.ranges.find? (fun r => r.rid == rid)
def State.updGroup (s : State) (gid : Nat) (f : Group → Group) : State :=
  { s with groups := upd (fun g => g.id == gid) f s.groups }
def State.updRange (s : State) (rid : Nat) (f : RangeSt → RangeSt) : State :=
  { s with ranges := upd (fun r => r.rid == rid) f s.ranges }
def Group.bundle? (g : Group) (bid : Nat) : Option Bundle := g.bundles.find? (fun b => b.id == bid)
def Group.updBundle (g : Group) (bid : Nat) (f : Bundle → Bundle) : Group :=
  { g with bundles := upd (fun b => b.id == bid) f g.bundles }
def State.updBundle (s : State) (gid bid : Nat) (f : Bundle → Bundle) : State :=
  s.updGroup gid (fun g => g.updBundle bid f)

def deadThread : Thread := { team := 0, lane := 0, live := false }
def Group.th (g : Group) (t : Nat) : Thread := g.threads.getD t deadThread
def Group.updTh (g : Group) (t : Nat) (f : Thread → Thread) : Group := { g with threads := g.threads.modify t f }
def Group.team (g : Group) (i : Nat) : Team := g.teams.getD i { idx := i }
def Group.updTeam (g : Group) (i : Nat) (f : Team → Team) : Group := { g with teams := g.teams.modify i f }
/-- Thread t is at lane home t mod 32 of team t div 32 (R25). -/
def teamOf (t : Nat) : Nat := t / 32
def laneOf (t : Nat) : Nat := t % 32

def Thread.getV (th : Thread) (n : BitVec 6) : W32 := th.v[n.toNat]'(n.isLt)
/-- A register's word written whole: it is poisoned no more (R435). -/
def Thread.setV (th : Thread) (n : BitVec 6) (x : W32) : Thread := { th with v := th.v.set n.toNat x n.isLt, bad := th.bad.filter (· != n) }
def Thread.getP (th : Thread) (n : BitVec 3) : Bool := n == 7 || th.p.getLsbD n.toNat
/-- p7 cannot be written (R12). -/
def Thread.setP (th : Thread) (n : BitVec 3) (b : Bool) : Thread :=
  if n == 7 then th
  else { th with p := if b then th.p ||| (1#7 <<< n.toNat) else th.p &&& ~~~(1#7 <<< n.toNat) }
def Team.getS (t : Team) (n : BitVec 5) : W64 := t.s[n.toNat]'(n.isLt)
def Team.setS (t : Team) (n : BitVec 5) (x : W64) : Team := { t with s := t.s.set n.toNat x n.isLt }
/-- A scalar as an instruction that issues at clk reads it: a write made in the same clk is not seen (R194). -/
def Team.sAt (t : Team) (clk : Nat) (n : BitVec 5) : W64 := if t.sClk == clk + 1 then ((t.sOld.find? (·.1 == n)).map (·.2)).getD (t.getS n) else t.getS n
/-- A scalar written by an instruction that issues at clk, at a place in issue order. -/
def Team.putS (t : Team) (clk seq : Nat) (n : BitVec 5) (x : W64) : Team :=
  let old := if t.sClk == clk + 1 then t.sOld else []
  { t.setS n x with sOld := if old.any (fun y => y.1 == n) then old else old ++ [(n, t.getS n)], sClk := clk + 1, sSeq := assocSet t.sSeq n.toNat seq }
/-- A result of an instruction that issued at clk returns: writes are made in issue order, so one issued behind it stands (R194, R225). -/
def Team.putLate (t : Team) (clk seq : Nat) (n : BitVec 5) (x : W64) : Team :=
  if seq < (assoc t.sSeq n.toNat).getD 0 then t
  else if clk + 1 < t.sClk then { t.setS n x with sSeq := assocSet t.sSeq n.toNat seq }
  else t.putS clk seq n x
def Team.getM (t : Team) (n : BitVec 4) : W32 := t.m.toList.getD n.toNat 0
def Team.setM (t : Team) (n : BitVec 4) (x : W32) : Team := { t with m := t.m.setIfInBounds n.toNat x }
def s5 (r : BitVec 6) : BitVec 5 := r.extractLsb 4 0
def p3 (r : BitVec 6) : BitVec 3 := r.extractLsb 2 0
def m4 (r : BitVec 6) : BitVec 4 := r.extractLsb 3 0

def dfltPart (n : Nat) : Part := { num := n }
def State.part (s : State) (n : Nat) : Part := (s.fe.parts.find? (fun p => p.num == n)).getD (dfltPart n)
def State.updPart (s : State) (n : Nat) (f : Part → Part) : State :=
  { s with fe := { s.fe with parts := updOr (fun p => p.num == n) (dfltPart n) f s.fe.parts } }
def State.queue? (s : State) (q : Nat) : Option Queue := s.fe.queues.find? (fun x => x.qid == q)
def State.updQueue (s : State) (q : Nat) (f : Queue → Queue) : State :=
  { s with fe := { s.fe with queues := upd (fun x => x.qid == q) f s.fe.queues } }
/-- A core not listed: nothing but the rises of its clock, one for each 256 clk (R82). -/
def State.dfltCore (s : State) (d c : Nat) : CoreSt := { die := d, num := c, pts := s.clk / 256, ptsTicks := s.clk / 256 }
def State.core (s : State) (d c : Nat) : CoreSt :=
  (s.mem.cores.find? (fun x => x.die == d && x.num == c)).getD (s.dfltCore d c)
def State.updCore (s : State) (d c : Nat) (f : CoreSt → CoreSt) : State :=
  { s with mem := { s.mem with cores := updOr (fun x => x.die == d && x.num == c) (s.dfltCore d c) f s.mem.cores } }
def State.updMem (s : State) (f : Mem → Mem) : State := { s with mem := f s.mem }
def State.updEng (s : State) (f : Eng → Eng) : State := { s with eng := f s.eng }
def State.updFq (s : State) (f : Fq → Fq) : State := { s with fq := f s.fq }
def State.updFe (s : State) (f : Fe → Fe) : State := { s with fe := f s.fe }
def State.updSock (s : State) (f : Socket → Socket) : State := { s with sock := f s.sock }
def State.updPkg (s : State) (f : Pkg → Pkg) : State := { s with pkg := f s.pkg }

/-- The next free value (log entry 9). -/
def State.freshByte (s : State) : Byte × State :=
  (Config.freeByte s.pkg.fresh, s.updPkg (fun p => { p with fresh := p.fresh + 1 }))
def State.freshBytes (s : State) : Nat → List Byte × State
  | 0 => ([], s)
  | n + 1 => let (b, s) := s.freshByte; let (bs, s) := s.freshBytes n; (b :: bs, s)

/-- Event e of a partition's counters and of a queue's account, n more. -/
def Part.bump (e n : Nat) (p : Part) : Part := { p with cnt := p.cnt.setIfInBounds e (p.cnt.toList.getD e 0 + BitVec.ofNat 64 n) }
def Queue.bump (e n : Nat) (x : Queue) : Queue :=
  { x with accs := (if x.accs.length == 16 then x.accs else List.replicate 16 0).modify e (· + n) }
/-- Event e counted for a partition, and for the queue a range was launched from (R423). -/
def State.count (s : State) (part e n : Nat) (qid : Option Nat) : State :=
  match qid with
  | none => s.updPart part (Part.bump e n)
  | some q => (s.updPart part (Part.bump e n)).updQueue q (Queue.bump e n)

/-! ## The issuing context -/

/-- What an instruction sees: its group, bundle, range and place. -/
structure Ctx where
  g : Group
  b : Bundle
  r : RangeSt
  c : Cur
  act : List Nat                           -- threads a precise record of the instruction names: its active ones (R378)
  clk : Nat                                -- when it issues
  bad : List Nat := []                     -- threads that have met poison in a register it reads: it acts in none of them (R435)

def State.ctx (s : State) : Option Ctx :=
  match s.cur with
  | none => none
  | some c =>
    match s.group? c.gid with
    | none => none
    | some g =>
      match g.bundle? c.bid, s.range? g.rid with
      | some b, some r => some { g := g, b := b, r := r, c := c, act := b.ts, clk := s.clk }
      | _, _ => none

def Ctx.next (c : Ctx) : W64 := c.c.pc + BitVec.ofNat 64 c.c.len
/-- Lanes whose guard is true (N12), by thread, less those that have met poison. -/
def Ctx.active (c : Ctx) (g : BitVec 3) : List Nat := c.b.ts.filter (fun t => (c.g.th t).getP g && !(c.bad.contains t))
/-- The context of an instruction guarded by g. -/
def Ctx.at_ (c : Ctx) (g : BitVec 3) : Ctx := { c with act := c.active g }
/-- Teams with an active lane, in ascending order of that lane (R230, R257). -/
def teamsOf (ts : List Nat) : List Nat := (ts.map teamOf).eraseDups
def Ctx.teams (c : Ctx) (g : BitVec 3) : List Nat := teamsOf (c.active g)
/-- A team's threads among the active ones. -/
def Ctx.mine (c : Ctx) (g : BitVec 3) (team : Nat) : List Nat := (c.active g).filter (fun t => teamOf t == team)
def lanesMask (ts : List Nat) : W32 := maskOf (ts.map laneOf)
def Group.live (g : Group) : List Nat := (List.range g.threads.length).filter (fun t => (g.th t).live)
def Group.liveTeam (g : Group) (i : Nat) : List Nat := g.live.filter (fun t => teamOf t == i)

/-! ## Reading registers through the bypass network (R16, R153) -/

def bypFind (byp : List (List BypVal)) (t : Nat) (n : BitVec 6) : Option W32 :=
  (byp.flatten).findSome? (fun b => if b.reg == n then assoc b.vals t else none)

/-- A v register as an instruction of the bundle reads it. -/
def readV (b : Bundle) (g : Group) (t : Nat) (n : BitVec 6) : W32 :=
  match bypFind b.byp t n with
  | some x => x
  | none => (g.th t).getV n

def Ctx.v (c : Ctx) (t : Nat) (n : BitVec 6) : W32 := readV c.b c.g t n
/-- A pair vN.d: vN holds bits [31:0] (R12). -/
def Ctx.pair (c : Ctx) (t : Nat) (n : BitVec 6) : W64 := c.v t (n + 1) ++ c.v t n
def Ctx.s (c : Ctx) (team : Nat) (n : BitVec 6) : W64 := (c.g.team team).sAt c.clk (s5 n)

/-! ## Results -/

def Group.writeVs (g : Group) (l : List (Nat × BitVec 6 × W32)) : Group :=
  l.foldl (fun g x => g.updTh x.1 (fun th => th.setV x.2.1 x.2.2)) g
def Group.writePs (g : Group) (l : List (Nat × BitVec 3 × Bool)) : Group :=
  l.foldl (fun g x => g.updTh x.1 (fun th => th.setP x.2.1 x.2.2)) g
/-- Scalars of an instruction that issues at clk, by team; and those that return of one that issued then (R194, R225). -/
def Group.putSs (g : Group) (clk seq : Nat) (l : List (Nat × BitVec 5 × W64)) : Group :=
  l.foldl (fun g x => g.updTeam x.1 (fun tm => tm.putS clk seq x.2.1 x.2.2)) g
def Group.putLates (g : Group) (clk seq : Nat) (l : List (Nat × BitVec 5 × W64)) : Group :=
  l.foldl (fun g x => g.updTeam x.1 (fun tm => tm.putLate clk seq x.2.1 x.2.2)) g
def Group.writeEs (g : Group) (l : List (Nat × Option Triple × W32)) : Group :=
  l.foldl (fun g x => g.updTh x.1 (fun th => { th with tri := x.2.1, emode := x.2.2 })) g

/-- The team whose scalar an answer fills. -/
def PendRes.team? : PendRes → Option Nat
  | .claim t _ _ => some t
  | .pop t _ _ _ _ => some t
  | .enext _ _ _ => none

/-- What the bundles of a split hold of one instruction (R150). -/
def Group.kin (g : Group) (o : Outst) : List Outst := (g.bundles.map (·.outst)).flatten.filter (fun x => x.uid == o.uid)

/-- A result whose instruction waits no longer, in this bundle or for its teams in another. -/
def Outst.complete (g : Group) (o : Outst) : Bool :=
  o.pend.isEmpty && (o.shadow.isEmpty || (g.kin o).all (fun x => x.pend.all (fun p => match p.team? with | some t => !(o.shadow.contains t) | none => true)))

/-- The team parked for a pop's answer; those of a bundle. -/
def PendRes.popTeam? : PendRes → Option Nat
  | .pop t _ _ _ _ => some t
  | _ => none
def Bundle.popTeams (b : Bundle) : List Nat := (b.outst.map (fun o => o.pend.filterMap PendRes.popTeam?)).flatten
/-- The bundle waits for the answer of a QPOP or a CLAIM, in it or in another bundle of its split. -/
def Group.awaits (g : Group) (b : Bundle) : Bool :=
  b.outst.any (fun o => o.pend.any (fun p => p.team?.isSome) || !o.shadow.isEmpty && !(o.complete g))

/-- Team scalars of the result: what the bundle holds, and what its shares in other bundles do. -/
def Group.scalarsOf (g : Group) (o : Outst) : List (Nat × BitVec 5 × W64) :=
  o.s ++ (if o.shadow.isEmpty then [] else ((g.kin o).map (·.s)).flatten.filter (fun x => o.shadow.contains x.1))

/-- The result written to every lane's own window, whatever bundle its thread is in (R150, R215). -/
def Group.giveBack (g : Group) (o : Outst) : Group :=
  (((g.writeVs o.v).writePs o.p).putLates o.clk o.uid (g.scalarsOf o)).writeEs o.e

/-- The bypass network without what results that returned have overwritten: a returned result is the register's latest value (R149). -/
def bypWithout (l : List Outst) (byp : List (List BypVal)) : List (List BypVal) :=
  byp.map (fun e => e.map (fun x => { x with vals := x.vals.filter (fun y => !(l.any (fun o => o.v.any (fun z => z.1 == y.1 && z.2.1 == x.reg)))) }))

/-- What of a wait is for some of the threads: of an ENEXT those threads, else the whole where their team waits. -/
def PendRes.of (ts : List Nat) : PendRes → Option PendRes
  | .enext us k pc => let l := us.filter ts.contains; if l.isEmpty then none else some (.enext l k pc)
  | p => match p.team? with | some t => if (teamsOf ts).contains t then some p else none | none => none

/-- Of the threads an outstanding instruction is of, those among `ts`; a scalar is of the whole team. -/
def Outst.among (o : Outst) (ts : List Nat) : List Nat :=
  let scalar := o.regs.any (fun r => match r with | .s _ => true | _ => false)
  o.ts.filter (fun t => ts.contains t || scalar && (teamsOf ts).contains (teamOf t))
/-- Whether an outstanding instruction is of some of the threads: one of them was active at it, or it has a result, or waits for one, of
their team (R150). -/
def Outst.of (o : Outst) (ts : List Nat) : Bool :=
  let tm := teamsOf ts
  !(o.among ts).isEmpty || o.s.any (fun x => tm.contains x.1) || o.pend.any (fun p => (p.of ts).isSome) || o.shadow.any tm.contains
/-- Its registers, each with those of the threads that it is of. -/
def Outst.hazOf (o : Outst) (ts : List Nat) : List (RegRef × List Nat) := o.regs.map (fun r => (r, ts.filter (fun t => o.of [t])))

/-- Returns every complete result of a bundle; those that still wait stay. -/
def Group.returnAll (g : Group) (bid : Nat) : Group :=
  match g.bundle? bid with
  | none => g
  | some b =>
    let back := b.outst.filter (Outst.complete g)
    (back.foldl Group.giveBack g).updBundle bid (fun b =>
      { b with outst := b.outst.filter (fun o => !(Outst.complete g o)), byp := bypWithout back b.byp })

/-- Returns the oldest complete result (R149). Within the run its registers stay hazards (R151, Table 11). -/
def Group.returnOne (g : Group) (bid : Nat) : Group :=
  match g.bundle? bid with
  | none => g
  | some b =>
    match b.outst.find? (Outst.complete g) with
    | none => g
    | some o => (g.giveBack o).updBundle bid (fun b =>
        { b with outst := b.outst.erase o, haz := b.haz ++ o.hazOf b.ts, byp := bypWithout [o] b.byp })

/-- The registers outstanding in the run, with their threads (R151, R377). -/
def Bundle.hazEnts (b : Bundle) : List (RegRef × List Nat) := b.haz ++ (b.outst.map (fun o => o.hazOf b.ts)).flatten
def Bundle.hazards (b : Bundle) : List RegRef := b.hazEnts.map (·.1)

/-! ## Taking an exception -/

def Code.num : Code → Nat
  | .illop => 1 | .illpriv => 2 | .runhaz => 3 | .maskmis => 4 | .scrbound => 5 | .winbound => 6 | .rangelock => 7
  | .pgfault => 8 | .prot => 9 | .fotdeny => 10 | .synonym => 11 | .align => 12 | .gbarnc => 13 | .depth => 14
  | .qfault => 15 | .guestf => 16 | .trap => 17 | .brk => 18

def Cls.num : Cls → Nat
  | .precise => 0 | .runPrecise => 1 | .engine => 2 | .software => 3 | .device => 4 | .guest => 5 | .hardStop => 6

/-- A 64-byte event for a debug range (R298). -/
def debugEvent (ty slot rid : Nat) (gseq pc addr : W64) (lanes : W32) : List Byte :=
  leBytes 1 ty ++ leBytes 3 slot ++ leBytes 4 rid ++ leBytes 8 gseq.toNat ++ leBytes 8 pc.toNat ++ leBytes 8 addr.toNat ++
    leBytes 4 lanes.toNat ++ List.replicate 28 0

def State.postEvent (s : State) (part : Nat) (ev : List Byte) : State :=
  s.updPart part (fun p => { p with events := p.events ++ [ev] })

/-- A source number (R7), with the %gseq that orders equal ones of a core, as one number: greater sources come later. -/
def srcKey (die unit lane : Nat) (gseq : W64) : Nat := ((die * 256 + unit) * 32 + lane) * 2 ^ 64 + gseq.toNat
def Group.src (g : Group) (lane : Nat) : Nat := srcKey g.die g.core lane g.gseq
/-- The source of an event of a bundle: its lowest lane home. -/
def Bundle.src (b : Bundle) (g : Group) : Nat := g.src (laneOf (b.ts.headD 0))
def policySrc : Nat := srcKey 0 211 0 0
def socketSrc : Nat := srcKey 0 210 0 0
/-- A partition's front end; slice j of a partition (R342). -/
def frontSrc (part : Nat) : Nat := srcKey (part / Config.partsPerDie) (194 + part % Config.partsPerDie) 0 0
def sliceSrc (part j : Nat) : Nat := srcKey (part / Config.partsPerDie) (128 + 4 * (part % Config.partsPerDie) + j) 0 0
def harpSrc (die : Nat) : Nat := srcKey die 192 0 0
def sluiceSrc (die : Nat) : Nat := srcKey die 193 0 0

/-- A record queued for a fault queue (R381): 0 to 63 a partition's, 64 the physical function's (R380). -/
def State.queueRec (s : State) (q : Nat) (f : FRec) : State :=
  (s.updFq (fun x => { x with pending := x.pending ++ [(q, f)] }))

/-- A class 4 record for the physical function's device queue (R362, R397, R435). -/
def State.deviceRec (s : State) (f : FRec) : State := s.queueRec 64 { f with cls := .device, time := s.ticks }

/-- The secondary record of a bundle whose data fault was pending when another fault stopped the group (R376). -/
def DFault.frec (d : DFault) (g : Group) (cls : Cls) (second : Bool) (pc2 : W64) : FRec :=
  { cls := cls, second := second, code := d.code, nmore := d.nmore, cause := d.cause, level := d.level, team := d.team,
    lane := d.lane, rid := g.rid, lanes := d.lanes, gseq := g.gseq, pc := d.pc, pc2 := pc2, addr := d.addr,
    detail := 0, time := d.time, gid := some g.id }

/-- What the lanes of a stalled ATOM that have acted received, with their register. -/
def Bundle.received (b : Bundle) : List (Nat × BitVec 6 × W32) := b.acted.filterMap (fun x => x.2.map (fun y => (x.1, y.1, BitVec.ofNat 32 y.2)))
/-- A bundle at a boundary where its group stops: returned results are written, of an ATOM those of the lanes that have acted too (R254),
and the registers still named by the run stay hazards (R377). -/
def Group.quiet (g : Group) (bid : Nat) : Group :=
  let g := (g.updBundle bid (fun b => { b with haz := b.hazEnts })).returnAll bid
  match g.bundle? bid with
  | some b => g.writeVs b.received
  | none => g
/-- Every bundle of the group at its boundary. -/
def Group.quieted (g : Group) : Group := g.bundles.foldl (fun g b => g.quiet b.id) g

/-- A debug range has attached to the range: by DHALT, or by a slot that names it (R291). -/
def State.attachedTo (s : State) (r : RangeSt) : Bool :=
  r.attached || s.fe.parts.any (fun p => p.bk.any (fun x => x.2.rid == r.rid) || p.wt.any (fun x => x.2.rid == r.rid))

/-- A bundle whose data fault is reported as its group stops: where it stopped is the end of its run (R376), unless a precise fault in
the run stopped it there (R154). -/
def Bundle.reported (b : Bundle) (ended : Bool) : Bundle :=
  let b := { b with dfault := none, dall := [] }
  if ended then { b with byp := [], haz := [], runEnded := true } else b

/-- Of data faults that bundles of a group detected at one time, that of the lowest source is the primary one (R7, R390): the bundle,
where it is another than the one that ended its run first. -/
def Group.firstOf (g : Group) (f : FRec) (src : Nat) (others : List Bundle) : Option (Bundle × DFault) :=
  if f.cls == .runPrecise then
    ((sortOn (fun (b : Bundle) => b.src g) others).find? (fun b => decide (b.src g < src) && b.dfault.any (fun d => d.time == f.time))).bind
      (fun b => b.dfault.map (fun d => (b, d)))
  else none

/-- TAKING AN EXCEPTION (R376): every bundle of the group stops at its boundary with its results written; one primary record is
queued, and a secondary one for each other bundle whose run holds a data fault; a debug range that has attached sees an
event. TIME is that of detection (R378). A group already stopped queues the record as secondary (log entry 15). -/
def stopGroup (s : State) (gid : Nat) (f : FRec) (bid : Option Nat) (skipPc : Option W64) : State :=
  match s.group? gid with
  | none => s
  | some g =>
    let src := match bid.bind (fun b => g.bundle? b) with | some b => b.src g | none => g.src f.lane
    let f := { f with time := if f.cls == .runPrecise then f.time else s.ticks, src := some src, gid := some gid, rid := g.rid, gseq := g.gseq }
    if g.stop.isSome then s.queueRec g.part { f with second := true }
    else
      let others := g.bundles.filter (fun b => some b.id != bid && b.dfault.isSome)
      let recOf := fun (b : Bundle) (d : DFault) (second : Bool) => { d.frec g .runPrecise second b.lastPc with src := some (b.src g) }
      let low := g.firstOf f src others
      let recs := (if low.isSome then [{ f with second := true }] else []) ++
        (others.filter (fun b => low.all (fun x => x.1.id != b.id))).filterMap (fun b => b.dfault.map (fun d => recOf b d true))
      let ended := f.cls == .runPrecise && f.code2 == 0
      let first := low.map (fun x => (x.1.id, recOf x.1 x.2 false))
      let bid := match first with | some x => some x.1 | none => bid
      let skipPc := if first.isSome then none else skipPc
      let g' := g.quieted
      let f := match first with | some x => x.2 | none => f
      let g' := { g' with bundles := g'.bundles.map (fun b => b.reported (others.any (fun x => x.id == b.id) || ended && b.dfault.isSome)),
                          stop := some { frec := f, bid := bid, skipPc := skipPc } }
      let s := s.updGroup gid (fun _ => g')
      let s := recs.foldl (fun s r => s.queueRec g.part r) (s.queueRec g.part f)
      match s.range? g.rid with
      | some r => if s.attachedTo r then s.postEvent g.part (debugEvent 5 0 g.rid g.gseq f.pc 0 f.lanes) else s
      | none => s

/-- A precise fault at the issuing instruction (R147, R154): no effect, the bundle stays at it; a data fault earlier in the run
is the record's first code and this one its second. -/
def precise (s : State) (c : Ctx) (code : Code) (cause level : Nat) (addr detail : W64) (ts : List Nat) : State :=
  let t := ts.headD 0
  let base : FRec :=
    { cls := .precise, code := code, cause := cause, level := level, team := teamOf t, lane := laneOf t,
      lanes := lanesMask ts, pc := c.c.pc, addr := addr, detail := detail }
  match c.b.dfault with
  | none => stopGroup s c.g.id base (some c.b.id) (some c.next)
  | some d => stopGroup s c.g.id { d.frec c.g .runPrecise false c.c.pc with code2 := code.num } (some c.b.id) none

def illop (s : State) (c : Ctx) : State := precise s c .illop 0 0 0 c.c.words c.act
def qfault (s : State) (c : Ctx) (ts : List Nat) : State := precise s c .qfault 0 0 0 0 ts

/-- What the record of a run's data faults says (R154, R219): the first, with the lanes of its instruction; the others are counted. -/
def faultSum (l : List DFault) : Option DFault :=
  match l with
  | [] => none
  | f :: rest => some { f with nmore := min 255 rest.length, lanes := (l.filter (fun x => x.num == f.num)).foldl (fun m x => m ||| x.lanes) 0 }
def Bundle.setFaults (b : Bundle) (l : List DFault) : Bundle := { b with dall := l, dfault := faultSum l }

/-- Data faults of some lanes of the instruction, noted in its run. -/
def State.dataFaults (s : State) (c : Ctx) (fs : List DFault) : State :=
  if fs.isEmpty then s
  else s.updBundle c.g.id c.b.id (fun b =>
    let n := match b.dall.getLast? with | some d => d.num + 1 | none => 0
    b.setFaults (b.dall ++ fs.map (fun f => { f with num := n, time := s.ticks, pc := c.c.pc })))

/-! ## Ending a run (R20, R152, R154) -/

/-- Whether every result of the bundle can return. -/
def Group.canEnd (g : Group) (bid : Nat) : Bool :=
  match g.bundle? bid with
  | none => true
  | some b => b.outst.all (Outst.complete g)

/-- The run ends: results return, transients lapse; a data fault of the run stops the group, PC2 the instruction that ended it.
With a result still waiting the bundle waits in `drain` (at a marker). -/
def endRun (s : State) (gid bid : Nat) (pc2 : W64) : State :=
  match s.group? gid with
  | none => s
  | some g =>
    if g.canEnd bid then
      let g' := (g.returnAll bid).updBundle bid (fun b =>
        { b with byp := [], haz := [], runEnded := true, dfault := none, dall := [], st := if b.st == .drain then .ready else b.st })
      let s := s.updGroup gid (fun _ => g')
      match (g.bundle? bid).bind (·.dfault) with
      | some d => stopGroup s gid (d.frec g .runPrecise false pc2) (some bid) none
      | none => s
    else s.updBundle gid bid (fun b => { b with st := .drain, lastPc := pc2 })

/-- A wait ends: the bundle goes on at npc, with an issue request of its own (R47); a marked instruction then ends its run. -/
def finishWait (s : State) (gid bid : Nat) : State :=
  match (s.group? gid).bind (fun g => g.bundle? bid) with
  | none => s
  | some b =>
    let s := s.updBundle gid bid (fun b => { b with st := .ready, pc := b.npc, nm := false, age := 0 })
    if b.nm then endRun s gid bid b.pc else s

/-! ## Issue checks -/

/-- The v registers a reference covers. -/
def RegRef.vs : RegRef → List (BitVec 6)
  | .v n => [n]
  | .pair n => [n, n + 1]
  | _ => []
def RegRef.meets (a b : RegRef) : Bool := a == b || a.vs.any (fun x => b.vs.contains x)
/-- RUNHAZ detail: register number and class (R379). -/
def RegRef.detail : RegRef → Nat
  | .v n => n.toNat
  | .s n => n.toNat + 256
  | .p n => n.toNat + 512
  | .pair n => n.toNat + 768
  | .sys n => n + 1024

/-- What an instruction names, and how it issues. -/
structure Spec where
  g : BitVec 3                 -- guard (7 for SEL)
  rd : List RegRef := []
  wr : List RegRef := []
  ends : Bool := false         -- R152
  coll : Bool := false         -- R45
  late : Bool := false         -- a variable result, R149
  arm : Option (BitVec 4 × BitVec 3) := none -- BALLOT into a mask: the mask and the predicate it takes (R173, R183)
  priv : Bool := false         -- R272
  strm : Ctx → List (Nat × Nat × Nat) := fun _ => [] -- what it reads of memory as stream elements: thread, address, bytes (R93)

/-- v registers at or above the window (R315); for a pair the check applies to N + 1. -/
def overWindow (h : Nat) (l : List RegRef) : Bool := l.any (fun r => r.vs.any (fun n => decide (h ≤ n.toNat)))

def guardRef (g : BitVec 3) : List RegRef := if g == 7 then [] else [.p g]

/-- Scalars pending as tokens among those named, for the teams that read or write them (R95). -/
def pendingOf (c : Ctx) (teams : List Nat) (l : List RegRef) : Option RegRef :=
  l.find? (fun r => match r with
    | .s n => teams.any (fun t => (c.g.team t).pend.contains n)
    | _ => false)

def stallAt (s : State) (c : Ctx) : State := s.updBundle c.g.id c.b.id (fun b => { b with st := .stalled })

/-- The share of some of the threads in an outstanding result. Where a team's answer is awaited in the bundle of `held`, the share
waits for it there (R150). -/
def Outst.share (o : Outst) (ts held : List Nat) : Outst :=
  let tm := teamsOf ts
  let there := fun (p : PendRes) => match p.team? with | some t => (teamsOf held).contains t | none => false
  { o with ts := o.among ts, v := o.v.filter (fun x => ts.contains x.1), p := o.p.filter (fun x => ts.contains x.1), e := o.e.filter (fun x => ts.contains x.1),
           s := o.s.filter (fun x => tm.contains x.1), pend := (o.pend.filter (fun p => !(there p))).filterMap (PendRes.of ts),
           shadow := (o.shadow ++ ((o.pend.filter there).filterMap PendRes.team?)).filter tm.contains }

/-- The bundle split in two: the threads of `keep` stay in it, the others go on as a bundle of their own (R41). Each carries the
outstanding results and the data faults of its own threads (R150, R154). -/
def Group.splitB (g : Group) (bid : Nat) (keep : Nat → Bool) : Group :=
  match g.bundle? bid with
  | none => g
  | some b =>
    let mine := b.ts.filter keep
    let out := b.ts.filter (fun t => !keep t)
    if out.isEmpty || mine.isEmpty then g
    else
      let faults := fun (p : Nat → Bool) => b.dall.filter (fun d => p (32 * d.team + d.lane))
      let haz := fun (l : List Nat) => (b.haz.map (fun x => (x.1, x.2.filter l.contains))).filter (fun x => !x.2.isEmpty)
      let b1 := { b with ts := mine, haz := haz mine, outst := (b.outst.filter (fun (o : Outst) => o.of mine)).map (fun (o : Outst) => o.share mine []) }.setFaults (faults keep)
      let b2 := { b with id := g.nextB, ts := out, haz := haz out, outst := (b.outst.filter (fun (o : Outst) => o.of out)).map (fun (o : Outst) => o.share out mine) }.setFaults
        (faults (fun t => !keep t))
      { g.updBundle bid (fun _ => b1) with bundles := (upd (fun x => x.id == bid) (fun _ => b1) g.bundles) ++ [b2], nextB := g.nextB + 1 }

/-! ## Retiring an instruction -/

/-- Next PCs in the order of their first thread. -/
def pcsOf (ts : List Nat) (next : Nat → W64) : List W64 := (ts.map next).eraseDups

/-- Splits the bundle by next PC (R41). -/
def Group.splitPc (g : Group) (bid : Nat) (next : Nat → W64) : List W64 → Group
  | [] => g
  | [p] => g.updBundle bid (fun b => { b with pc := p })
  | p :: rest =>
    let nb := g.nextB
    let g := (g.splitB bid (fun t => next t == p)).updBundle bid (fun b => { b with pc := p })
    Group.splitPc g nb next rest

/-- The age of a fresh issue request: behind every bundle of the core (R47, R180). -/
def State.freshAge (s : State) (die core : Nat) : Nat :=
  1 + ((s.groups.filter (fun g => g.die == die && g.core == core)).map (fun g => (g.bundles.map (·.age)).foldl max 0)).foldl max 0

/-- The instruction counted (R423): an issue, and its lanes. -/
def State.counted (s : State) (c : Ctx) : State :=
  (s.count c.g.part 1 1 c.r.qid).count c.g.part 2 c.b.ts.length c.r.qid

/-- The bundle behind an instruction that has taken effect, but for its PC: the bypass network takes the fixed results (R153, R316). -/
def Bundle.passed (b : Bundle) (pc : W64) (done : Bool) (byp : List BypVal) (age : Nat) : Bundle :=
  { b with byp := if done then [] else (byp :: b.byp).take 3, runEnded := done, lastPc := pc, skipBk := false, part := [], blks := [], acted := [], age := age }

/-- A marker ends the run of the bundle, and of those split from it (R20). -/
def markEnd (s : State) (c : Ctx) : State :=
  match s.group? c.g.id with
  | none => s
  | some g => (g.bundles.filter (fun b => b.id == c.b.id || decide (c.g.nextB ≤ b.id))).foldl (fun s b => endRun s g.id b.id c.c.pc) s

/-- The group behind an instruction that has taken effect: its own counters, and the bundle at its next PCs. -/
def Group.passed (g : Group) (c : Ctx) (done : Bool) (byp : List BypVal) (age : Nat) (next : Nat → W64) : Group :=
  let g := { g with issues := g.issues + 1, lanesIssued := g.lanesIssued + c.b.ts.length }
  let g := g.updBundle c.b.id (fun b => b.passed c.c.pc done byp age)
  match g.bundle? c.b.id with
  | none => g
  | some b => g.splitPc c.b.id next (pcsOf b.ts next)

/-- After an instruction has taken effect: the bundle moves to its next PCs, a marker ends the run. `done` says the instruction
had ended the run itself. -/
def retire (s : State) (c : Ctx) (m done : Bool) (byp : List BypVal) (next : Nat → W64) : State :=
  let age := s.freshAge c.g.die c.g.core
  let s := (s.counted c).updGroup c.g.id (fun g => g.passed c done byp age next)
  if m && !done then markEnd s c else s

/-- Retiring to the next instruction in line. -/
def retireNext (s : State) (c : Ctx) (m : Bool) (byp : List BypVal) : State := retire s c m false byp (fun _ => c.next)

/-- A fixed result in a v register (R149): written to the file unless transient, and to the bypass network. -/
def fixedV (s : State) (c : Ctx) (m t : Bool) (d : BitVec 6) (vals : List (Nat × W32)) : State :=
  let s := if t then s else s.updGroup c.g.id (fun g => g.writeVs (vals.map (fun x => (x.1, d, x.2))))
  retireNext s c m [{ reg := d, t := t, vals := vals }]

/-- A fixed result in a pair. -/
def fixedPair (s : State) (c : Ctx) (m t : Bool) (d : BitVec 6) (vals : List (Nat × W64)) : State :=
  let lo := vals.map (fun x => (x.1, x.2.extractLsb 31 0))
  let hi := vals.map (fun x => (x.1, x.2.extractLsb 63 32))
  let s := if t then s else s.updGroup c.g.id (fun g =>
    (g.writeVs (lo.map (fun x => (x.1, d, x.2)))).writeVs (hi.map (fun x => (x.1, d + 1, x.2))))
  retireNext s c m [{ reg := d, t := t, vals := lo }, { reg := d + 1, t := t, vals := hi }]

/-- A fixed result in a predicate. -/
def fixedP (s : State) (c : Ctx) (m : Bool) (d : BitVec 3) (vals : List (Nat × Bool)) : State :=
  retireNext (s.updGroup c.g.id (fun g => g.writePs (vals.map (fun x => (x.1, d, x.2))))) c m []

/-- A fixed result in a scalar, once per team (R194). -/
def fixedS (s : State) (c : Ctx) (m : Bool) (d : BitVec 6) (vals : List (Nat × W64)) : State :=
  retireNext (s.updGroup c.g.id (fun g => g.putSs c.clk g.nextB (vals.map (fun x => (x.1, s5 d, x.2))))) c m []

/-- An instruction that writes no register. -/
def noResult (s : State) (c : Ctx) (m : Bool) : State := retireNext s c m []

/-- A variable result, outstanding from issue (R149); with no active lane there is none (log entry 19). -/
def lateResult (s : State) (c : Ctx) (m : Bool) (ts : List Nat) (o : Outst) : State :=
  let s := if ts.isEmpty then s else s.updGroup c.g.id (fun g =>
    { g.updBundle c.b.id (fun b => { b with outst := b.outst ++ [{ o with uid := g.nextB, clk := c.clk, ts := ts }] }) with nextB := g.nextB + 1 })
  retireNext s c m []

/-! ## Coming back from an exception (R383) -/

/-- RESUME: the group runs on where its bundles stand; SKIP moves a precisely faulting bundle past the instruction,
which counts as one of the three steps of bypass (log entry 109). -/
def resumeGroup (s : State) (gid : Nat) (skip : Bool) : State :=
  match s.group? gid with
  | none => s
  | some g =>
    match g.stop with
    | none => s
    | some st =>
      let g := { g with stop := none, rings := g.rings.map (fun r => { r with slots := r.slots.map (fun x => { x with err := false }) }) }
      let g := match skip, st.bid, st.skipPc with
        | true, some b, some pc => g.updBundle b (fun b => { b with pc := pc, byp := (([] : List BypVal) :: b.byp).take 3, st := .ready, part := [], blks := [], acted := [] })
        | _, some b, _ => g.updBundle b (fun b => { b with st := if b.st == .stalled then .ready else b.st })
        | _, _, _ => g
      let s := s.updGroup gid (fun _ => g)
      s.updEng (fun e => { e with ops := upd (fun o => o.gid == gid) (fun o => { o with held := false }) e.ops })

end Sys2Proof.Machine
end

