-- ==== Sys2Proof/Machine/Mem.lean ====
section
/-! DEFINITION. The memory side: addresses (R73 to R76), translation (R339 to R348), frame ownership (R349, R350, R352), the LLC
and the L1 with its leases (R81 to R87), the write-combining buffer and the home slices (R83, R143, R144). -/

namespace Sys2Proof.Machine

/-- A fault of an access: code, PGFAULT cause, level (R344, R378); for poison, the ADDR of the device record and whether the
location has no physical address (R435); for a peer's answer, the free values it took and the flow whose number it used (R373); of a walk,
the partitions whose channels gave its entries, and for which queue (R423). -/
structure AFault where
  code : Code
  cause : Nat := 0
  level : Nat := 0
  poison : Option (Nat × Bool) := none
  drawn : Nat := 0
  flow : Option (Nat × Nat) := none
  walk : List Nat := []
  wqid : Option Nat := none
  deriving DecidableEq, Repr

def pgf (cause level : Nat) : AFault := { code := .pgfault, cause := cause, level := level }
def poisoned (addr : Nat) (onChip : Bool) : AFault := { code := .pgfault, cause := 13, poison := some (addr, onChip) }
def flt (c : Code) (level : Nat := 0) : AFault := { code := c, level := level }
def AFault.nonres (f : AFault) : Bool := f.code == .pgfault && f.cause == 10

/-- Who makes an access: the core it stands on, its group, range and address space. `again` says that its sector is one that the
instruction has reached already: the coalesced access is counted once (R423). -/
structure Who where
  die : Nat
  core : Nat
  gid : Nat
  rid : Nat
  asid : Nat
  part : Nat
  debug : Bool := false
  qid : Option Nat := none
  again : Bool := false
  deriving DecidableEq, Repr

def Ctx.who (c : Ctx) : Who :=
  { die := c.g.die, core := c.g.core, gid := c.g.id, rid := c.g.rid, asid := c.r.asid, part := c.g.part, debug := c.r.debug,
    qid := c.r.qid }

/-! ## What an address says (R73 to R76) -/

def kindOf (va : Nat) : Nat := bits va 56 55
/-- R74. -/
def xorDie (a : Nat) : Nat := (bits a 13 12 ^^^ bits a 21 20) ^^^ (bits a 29 28 ^^^ bits a 37 36)
def homeDie (va : Nat) : Nat := if bit va 54 then bits va 53 52 else xorDie va
def isAperture (va : Nat) : Bool := bit va 54 && bits va 51 44 == 0xFF
/-- VA[56:52] and the aperture selector, which an access must not span (R75). -/
def region75 (va : Nat) : Nat × Nat := (bits va 63 52, if isAperture va then 4 + bits va 43 42 else 0)
def spans (va n : Nat) : Bool := n != 0 && region75 va != region75 (va + n - 1)
/-- The home slice of a line within the partition (R342), and of a Reservoir offset (R88). -/
def sliceOf (va : Nat) : Nat :=
  bits va 9 8 ^^^ bits va 17 16 ^^^ bits va 25 24 ^^^ bits va 33 32 ^^^ bits va 41 40 ^^^ bits va 49 48
def sectorOf (va : Nat) : Nat := va / 128 * 128

def State.asidEnt (s : State) (a : Nat) : AsidEnt := (s.mem.asids.find? (fun e => e.asid == a)).getD { asid := a }
def State.partOn (s : State) (a d : Nat) : Nat := ((s.asidEnt a).parts.toList.getD d 0xFF).toNat

/-! ## Physical addresses (R340, R341) and frame ownership -/

/-- Where a physical address lies: die and die offset; external, with the address; or nowhere (FRAME). -/
inductive PLoc where
  | hbm (die off : Nat)
  | ext (pa : Nat)
  | none
  deriving DecidableEq, Repr

def locOf (pa : Nat) : PLoc :=
  match bits pa 47 46 with
  | 0 =>
    let o := bits pa 39 14 * 4096 + bits pa 11 0
    if bits pa 45 40 != 0 || bits o 33 0 ≥ Config.hbmGroupBytes then .none else .hbm (xorDie pa) o
  | 1 => if bits pa 43 38 != 0 || bits pa 33 0 ≥ Config.hbmGroupBytes then .none else .hbm (bits pa 45 44) (bits pa 37 0)
  | 2 => .ext pa
  | _ => .none

/-- Where a die offset lies on its die (R341): channel group, the group's owner among the die's partitions, and, for its 256-byte
line, the channel of the group, its place in the pair, and the stack. -/
structure HbmPlace where
  group : Nat
  chan : Nat
  member : Nat
  stack : Nat
  deriving DecidableEq, Repr

def hbmPlace (off : Nat) : HbmPlace :=
  let c := bits off 33 0 / 256 % 6
  { group := bits off 37 34, chan := c, member := c % 2, stack := c / 2 }

/-- The die-local name of an HBM byte (R340), the key bytes are held under. -/
def localPa (die off : Nat) : Nat := 2 ^ 46 + die * 2 ^ 44 + off
def keyOf (pa : Nat) : Nat :=
  match locOf pa with
  | .hbm d o => localPa d o
  | _ => pa
def isHbm (pa : Nat) : Bool := match locOf pa with | .hbm _ _ => true | _ => false
def isPeer (pa : Nat) : Bool := bits pa 47 46 == 2 && bit pa 45

def State.fotEnt (s : State) (die off : Nat) : W32 := (assoc s.mem.fot (die * 2 ^ 22 + off / 65536)).getD 0xFD000000
def fotOwner (e : W32) : Nat := (e.extractLsb 31 24).toNat
def fotKey (e : W32) : Nat := (e.extractLsb 23 12).toNat
def fotG (e : W32) : Bool := e.getLsbD 0
def fotRO (e : W32) : Bool := e.getLsbD 8
def fotPL (e : W32) : Bool := e.getLsbD 9
def State.keyFilled (s : State) (k : Nat) : Bool := k == 0 || s.pkg.keys.any (fun x => x.1 == k)

/-- The check of R350 and R415 of a frame's entry for an owner. -/
def State.fotAllows (s : State) (owners : List Nat) (pa : Nat) (write : Bool) : Bool :=
  match locOf pa with
  | .hbm d o =>
    let e := s.fotEnt d o
    fotG e && owners.contains (fotOwner e) && fotPL e == (bits pa 47 46 == 1) && !(write && fotRO e) && s.keyFilled (fotKey e)
  | _ => true
/-- The check of a fill or a writeback: before the FOT is enabled (R437) nothing is checked. -/
def State.fotOk (s : State) (owners : List Nat) (pa : Nat) (write : Bool) : Bool := !s.pkg.fotOn || s.fotAllows owners pa write
/-- The partition whose channel group holds an HBM address (R341, R411). -/
def chanPart (pa : Nat) : Option Nat :=
  match locOf pa with | .hbm d o => some (d * Config.partsPerDie + (hbmPlace o).group) | _ => none

/-- A walker reads and writes tables from memory by physical address (R355). -/
def State.phys8 (s : State) (pa : Nat) : W64 := BitVec.ofNat 64 (s.mem.phys.readN (keyOf pa) 8)
def State.physWrite (s : State) (pa : Nat) (bs : List Byte) : State :=
  s.updMem (fun m => { m with phys := m.phys.write (keyOf pa) bs })

/-! ## Walks (R343 to R348) -/

inductive Walk where
  | ok (t : Tlb) (s : State)
  | bad (f : AFault)

def Tlb.covers (t : Tlb) (die asid va : Nat) : Bool :=
  t.die == die && t.asid == asid && decide (t.va ≤ va) && decide (va < t.va + t.size)
def stackOf (va : Nat) : Nat := va / 2 ^ 21 % 3

def leafD (write : Bool) : W64 := if write then 0x30 else 0x10

/-- Of the entries the test names, the first n stay; the others all stay. -/
def keepFirst {α : Type} (p : α → Bool) : Nat → List α → List α
  | _, [] => []
  | n, x :: l => if p x then (match n with | 0 => keepFirst p 0 l | n + 1 => x :: keepFirst p n l) else x :: keepFirst p n l

/-- Each TLB holds 4,096 leaves and 512 pointers, the latest first (R348). -/
def State.install (s : State) (t : Tlb) : State :=
  let same := fun (x : Tlb) => x.covers t.die t.asid t.va && x.size == t.size
  s.updMem (fun m => { m with tlb := keepFirst (fun x => x.die == t.die && x.stack == t.stack) 4096 (t :: m.tlb.filter (fun x => !same x)) })
def State.cachePtr (s : State) (w : WalkEnt) : State :=
  s.updMem (fun m => { m with walks := keepFirst (fun x => x.die == w.die && x.stack == w.stack) 512 (w :: m.walks.filter (· != w)) })

/-- The checks of a leaf (R344); k: 0 read, 1 write, 2 fetch. -/
def leafCheck (s : State) (asid die va k level : Nat) (x : W64) : Except AFault Nat :=
  let fr := (x.extractLsb 47 12).toNat
  let pa := fr * 4096
  let place := (x.extractLsb 10 8).toNat
  if level == 2 && bits fr 8 0 != 0 then .error (pgf 2 2)
  else if (x.extractLsb 7 6).toNat != kindOf va then .error (pgf 3 level)
  else if bit place 2 != bit va 54 || bits place 1 0 != (if bit va 54 then bits va 53 52 else 0) then .error (pgf 4 level)
  else
    let off := va % (if level == 2 then 2 ^ 21 else 4096)
    match locOf (pa + off) with
    | .none => .error (pgf 5 level)
    | .hbm d _ =>
      if (bits pa 47 46 == 1) != bit place 2 || d != die then .error (pgf 4 level)
      else if k == 2 && !x.getLsbD 3 then .error (pgf 6 level)
      else if k == 1 && !x.getLsbD 2 then .error (flt .prot level)
      else .ok pa
    | .ext _ =>
      if !bit place 2 || bits place 1 0 != die then .error (pgf 4 level)
      else if !((s.asidEnt asid).ctl.getLsbD 0) then .error (flt .fotdeny level)
      else if k == 2 && !x.getLsbD 3 then .error (pgf 6 level)
      else if k == 1 && !x.getLsbD 2 then .error (flt .prot level)
      else .ok pa

/-- `d` says that every entry the leaf stands for has D set (R347). -/
def tlbOf (die asid va size pa : Nat) (d : Bool) (x : W64) : Tlb :=
  { die := die, stack := stackOf va, asid := asid, va := va / size * size, size := size, pa := pa / size * size,
    w := x.getLsbD 2, x := x.getLsbD 3, d := d, kind := x.extractLsb 7 6 }

/-- The block of sixteen entries of a contiguous hint merges (R346). Each entry's piece is compared with its own home die, which by
R344 agrees for every piece or for none. -/
def merges (s : State) (asid va k blk : Nat) : Bool :=
  let xs := (List.range 16).map (fun i => s.phys8 (blk + 8 * i))
  let x0 := xs.headD 0
  let f0 := (x0.extractLsb 47 12).toNat
  f0 % 16 == 0 && (xs.mapIdx (fun i x => x.getLsbD 0 && x.getLsbD 11 && (x &&& 0xFCC &&& 0x7CC) == (x0 &&& 0xFCC &&& 0x7CC)
    && (x.extractLsb 47 12).toNat == f0 + i && (x.extractLsb 63 58 == 0) && !x.getLsbD 1
    && (let a := va / 65536 * 65536 + 4096 * i
        match leafCheck s asid (homeDie a) a k 1 x with | .ok _ => true | .error _ => false))).all id

/-- What a walk has read is counted at its channels (R423). -/
def State.walked (s : State) (q : Option Nat) (l : List Nat) : State := l.foldl (fun s p => s.count p 7 8 q) s
/-- The bits that n leaves from `at_` on lack are set with one write (R347), which is counted. -/
def State.leafMark (s : State) (q : Option Nat) (at_ n : Nat) (mark : W64) : State :=
  let l := (List.range n).map (fun i => (at_ + 8 * i, s.phys8 (at_ + 8 * i)))
  if l.all (fun x => x.2 ||| mark == x.2) then s
  else
    let s := l.foldl (fun s x => s.physWrite x.1 (leBytes 8 (x.2 ||| mark).toNat)) s
    match chanPart at_ with | some p => s.count p 8 (8 * n) q | none => s

/-- One level of the walk; the level is the fuel. `rd` are the channels' partitions read so far, q the queue counted for. A level-2 leaf
with C set is a leaf whose C says nothing (log entry 136). -/
def walkFrom (s : State) (q : Option Nat) (rd : List Nat) (asid die va k : Nat) : Nat → Nat → Walk
  | 0, _ => .bad { pgf 1 0 with walk := rd, wqid := q }
  | level + 1, t =>
    let l := level + 1
    let bad := fun (rd : List Nat) (f : AFault) => Walk.bad { f with walk := rd, wqid := q }
    match locOf t with
    | .hbm d o =>
      let e := s.fotEnt d o
      if d != die then bad rd (pgf 11 l)
      else if s.pkg.fotOn && !(fotG e && (fotOwner e == s.partOn asid die || fotOwner e == 0xFD)) then bad rd (flt .fotdeny l)
      else
        let at_ := t + 8 * bits va (11 + 9 * l) (3 + 9 * l)
        let x := s.phys8 at_
        let rd := rd ++ (chanPart at_).toList
        if !x.getLsbD 0 then bad rd (if x.getLsbD 1 then pgf 10 l else pgf 1 l)
        else if x.extractLsb 62 58 != 0 || x.getLsbD 1 then bad rd (pgf 2 l)
        else if x.getLsbD 63 && l != 2 then bad rd (pgf 2 l)
        else if l == 1 || (l == 2 && x.getLsbD 63) then
          match leafCheck s asid die va k l x with
          | .error f => bad rd f
          | .ok pa =>
            let mark := leafD (k == 1)
            let blk := at_ / 128 * 128
            -- the block of a hint is read whole
            let s := s.walked q (if l == 1 && x.getLsbD 11 then rd ++ List.replicate 15 (rd.getLastD 0) else rd)
            if l == 1 && x.getLsbD 11 && merges s asid va k blk then
              let s := s.leafMark q blk 16 mark
              let tl := tlbOf die asid va 65536 pa ((List.range 16).all (fun i => (s.phys8 (blk + 8 * i)).getLsbD 5)) x
              .ok tl (s.install tl)
            else
              let s := s.leafMark q at_ 1 mark
              let tl := tlbOf die asid va (if l == 2 then 2 ^ 21 else 4096) pa (k == 1 || x.getLsbD 5) x
              .ok tl (s.install tl)
        else if x.extractLsb 11 2 != 0 then bad rd (pgf 2 l)
        else
          let t' := (x.extractLsb 47 12).toNat * 4096
          let s := if (match locOf t' with | .hbm d' _ => d' == die | _ => false)
            then s.cachePtr ⟨die, stackOf va, asid, level, va / 2 ^ (12 + 9 * level), t'⟩ else s
          match locOf t' with
          | .hbm d' _ => if d' == die then walkFrom s q rd asid die va k level t' else bad rd (pgf 11 l)
          | _ => bad rd (pgf 11 l)
    | _ => bad rd (pgf 11 l)

/-- The deepest cached pointer a walk may start at: the level of its table, and the table (R348). -/
def State.startOf (s : State) (asid die va : Nat) : Option (Nat × Nat) :=
  ([1, 2, 3, 4].findSome? (fun l =>
    (s.mem.walks.find? (fun w => w.die == die && w.stack == stackOf va && w.asid == asid && w.level == l && w.hi == va / 2 ^ (12 + 9 * l))).map
      (fun w => (l, w.pa))))

/-- Translation on the home die: TLB, then walk. A write needs a leaf with W and D (R347), a fetch one with X. -/
def translate (s : State) (asid va k : Nat) (q : Option Nat := none) : Walk :=
  let die := homeDie va
  match s.mem.tlb.find? (fun t => t.covers die asid va && (k != 1 || t.w && t.d) && (k != 2 || t.x)) with
  | some t => .ok t s
  | none =>
    match s.startOf asid die va with
    | some (l, t) => walkFrom s q [] asid die va k l t
    | none =>
      let root := (s.asidEnt asid).roots.toList.getD die 0
      if !root.getLsbD 0 then .bad (pgf 1 5)
      else walkFrom s q [] asid die va k 5 ((root.extractLsb 47 12).toNat * 4096)

/-- The checks made at the core before an access leaves it (R73, R76, R339). -/
def addrCheck (s : State) (asid va : Nat) : Option AFault :=
  if va ≥ 2 ^ 57 then some (pgf 8 0)
  else if isAperture va then
    (if kindOf va != 0 || bits va 43 42 == 3 then some (pgf 9 0) else none)
  else if kindOf va == 3 then some (pgf 3 0)
  else if s.partOn asid (homeDie va) == 0xFF then some (pgf 7 0)
  else none

/-! ## The LLC (R87, R347, R350, R352) -/

/-- The partition of a line's home slice: the address space's on the line's home die (R342). -/
def State.homePart (s : State) (asid va : Nat) : Nat := s.partOn asid (homeDie va)
/-- A carved partition (R412). -/
def State.carved (s : State) (p : Nat) : Bool := (s.pkg.cmap.toList.getD (p / Config.partsPerDie) 0).getLsbD (p % Config.partsPerDie)
/-- The sector at its home slice; one that stands in a slice of another partition, from before the address space moved, is none of it
(R342, R411). -/
def State.isAt (s : State) (asid va : Nat) (x : Sector) : Bool := x.asid == asid && x.va == sectorOf va && x.part == s.homePart asid va
def State.sector? (s : State) (asid va : Nat) : Option Sector := s.mem.llc.find? (s.isAt asid va)
def State.updSector (s : State) (asid va : Nat) (f : Sector → Sector) : State :=
  s.updMem (fun m => { m with llc := upd (s.isAt asid va) f m.llc })

/-- A fill meets a frame that another (ASID, page) pair holds, and the fill is a write or some holder, its own pair included, filled the
frame writable (R352; "writable" read as W = 1, log entry 17). Frames are HBM's. -/
def State.synonym (s : State) (asid va pa : Nat) (write : Bool) : Bool :=
  let hold := if !(isHbm pa) then [] else s.mem.llc.filter (fun x => keyOf x.pa / 4096 == keyOf pa / 4096)
  hold.any (fun x => !(x.asid == asid && x.va / 4096 == va / 4096)) && (write || hold.any (·.wr))

def State.carve (s : State) (p : Nat) : W32 := (s.part p).carve
def wgran (c : W32) : Nat := (c.extractLsb 4 0).toNat
def sgran (c : W32) : Nat := (c.extractLsb 12 8).toNat
def lgran (c : W32) : Nat := (c.extractLsb 20 16).toNat
def resways (c : W32) : Nat := (c.extractLsb 31 28).toNat

/-- A sector written back to memory (R353, R351): the frame's entry must still allow it (R350), or no data moves. HBM bytes are counted
for the channel's partition and for the queue whose range wrote last (R423). -/
def State.writeBack (s : State) (x : Sector) : State :=
  if x.dirty then
    let s := if s.fotOk [x.part] x.pa true then
        (match chanPart x.pa with | some p => s.count p 8 128 x.qid | none => s).physWrite x.pa x.data.toList
      else s
    s.updMem (fun m => { m with llc := upd (fun y => y.asid == x.asid && y.va == x.va && y.part == x.part) (fun y => { y with dirty := false }) m.llc })
  else s

/-- The chosen sectors leave the LLC, dirty ones written back; their times are kept in one (log entry 92). -/
def State.leaveLlc (s : State) (p : Sector → Bool) : State :=
  let out := s.mem.llc.filter p
  let s := out.foldl (fun s x => s.writeBack x) s
  s.updMem (fun m => { m with llc := m.llc.filter (fun x => !p x), mts := out.foldl (fun t x => max t x.rts) m.mts })

/-- The set of an LLC line (R1): its home slice and, of the slice's 256 sets, one chosen by eight address bits (log entry 18). -/
def llcSet (part va : Nat) : Nat × Nat × Nat × Nat := (homeDie va, part, sliceOf va, va / 1024 % 256)
def Sector.set (x : Sector) : Nat × Nat × Nat × Nat := llcSet x.part x.va
/-- A line is 256 bytes of one address space, in a slice of one partition. -/
def Sector.line (x : Sector) : Nat × Nat × Nat := (x.part, x.asid, x.va / 256)
/-- Room for a line in its set: of the 16 ways less those of the Reservoir, a full set gives up its oldest line (log entry 18). -/
def State.makeRoom (s : State) (asid va : Nat) : State :=
  let p := s.homePart asid va
  let lines := ((s.mem.llc.filter (fun x => x.set == llcSet p va)).map Sector.line).eraseDups
  if lines.contains (p, asid, va / 256) || lines.length < 16 - resways (s.carve p) then s
  else match lines.head? with
    | some l => s.leaveLlc (fun x => x.line == l)
    | none => s

/-- Lines of a partition's slices beyond so many ways of their sets, the oldest. -/
def State.overLines (s : State) (p ways : Nat) : List (Nat × Nat × Nat) :=
  let mine := s.mem.llc.filter (fun x => x.part == p)
  let sets := (mine.map Sector.set).eraseDups
  (sets.map (fun k =>
    let l := ((mine.filter (fun x => x.set == k)).map Sector.line).eraseDups
    l.take (l.length - ways))).flatten
/-- One way turned over to the Reservoir is emptied: its lines are written back and leave the LLC (R107). -/
def State.drainWay (s : State) (p : Nat) : State :=
  let x := s.part p
  if x.resDrain == 0 then s
  else
    let out := s.overLines p (16 - resways x.carve + (x.resDrain - 1))
    (s.leaveLlc (fun y => out.contains y.line)).updPart p (fun x => { x with resDrain := x.resDrain - 1 })
def State.drainWays (s : State) (p : Nat) : Nat → State
  | 0 => s
  | n + 1 => (s.drainWay p).drainWays p n

/-- The unit that reports a poisoned location (R7, R435): the core or slice the ADDR names; of HBM the first slice of the partition whose
channel group holds it (log entry 111). -/
def poisonSrc (a : Nat) (onChip : Bool) : Nat :=
  if onChip then srcKey (a / 2 ^ 40) (bits a 39 32) 0 0
  else match chanPart a with | some p => sliceSrc p 0 | none => sliceSrc 0 0
/-- What a faulting access leaves beside its own record: what its walk read is counted (R423); the POISON report to the physical function (R435); of a peer's answer, the free
values taken and the flow's number (R373). -/
def State.poisonRec (s : State) (f : AFault) : State :=
  let s := s.walked f.wqid f.walk
  let s := if f.drawn == 0 then s else s.updPkg (fun p => { p with fresh := p.fresh + f.drawn })
  let s := match f.flow with
    | some (p, k) => s.updPart p (fun x => { x with winSeq := assocSet x.winSeq k ((assoc x.winSeq k).getD 0 + 1) })
    | none => s
  match f.poison with
  | none => s
  | some (a, onChip) =>
    s.deviceRec { src := some (poisonSrc a onChip), code := .pgfault, cause := 13, addr := BitVec.ofNat 64 a, detail := if onChip then 1 else 0 }

def State.sectorBad (s : State) (pa : Nat) : Bool := s.mem.poison.contains (keyOf pa / 128 * 128)

/-- An access served by the LLC is counted at its home slice's partition (R33, R423), once for an instruction's accesses of one sector; a
fill is, with its bytes at the channel's partition where HBM gave them. -/
def State.llcHit (s : State) (w : Who) (va : Nat) : State :=
  if w.again then s else s.count (s.homePart w.asid va) 5 1 w.qid |>.updGroup w.gid (fun g => { g with hits := g.hits + 1 })
def State.llcMiss (s : State) (w : Who) (va pa : Nat) : State :=
  let s := s.count (s.homePart w.asid va) 6 1 w.qid
  match chanPart pa with
  | some p => (s.count p 7 128 w.qid).updGroup w.gid (fun g => { g with fills := g.fills + 1 })
  | none => s
/-- The queue whose range writes the sector, for the bytes its writeback counts (R423). -/
def State.writer (s : State) (w : Who) (va : Nat) (write : Bool) : State :=
  if write then s.updSector w.asid va (fun x => { x with qid := w.qid }) else s

/-- A write that meets a sector recorded without W or D is translated afresh before it is performed (R347). -/
def State.writable (s : State) (x : Sector) (q : Option Nat) : Except AFault State :=
  if x.w && x.d then .ok s
  else match translate s x.asid x.va 1 q with
    | .bad f => .error f
    | .ok _ s => .ok (s.updSector x.asid x.va (fun x => { x with w := true, d := true, wr := true }))

/-- LLC_FILL (R87): on a miss the address is translated, ownership and keys are checked and the sector filled. A hit is checked against no
frame's entry: a sector that the entry does not let be written back is lost then (R350, log entry 112). The new sector's times are not
below those of any that has left (log entry 92). The slices of a spare partition hold no lines (R412): none is home to an address (log entry
148). -/
def llcGet (s : State) (w : Who) (va : Nat) (write : Bool) : Except AFault State :=
  let sv := sectorOf va
  match s.sector? w.asid sv with
  | some x =>
    if s.sectorBad x.pa then .error (poisoned (keyOf x.pa / 128 * 128) false)
    else match (if write then s.writable x w.qid else .ok s) with
      | .error f => .error f
      | .ok s => .ok ((s.llcHit w sv).writer w sv write)
  | none =>
    if s.pkg.fotOn && !(s.carved (s.homePart w.asid sv)) then .error (pgf 7 0)
    else match translate s w.asid sv (if write then 1 else 0) w.qid with
    | .bad f => .error f
    | .ok t s =>
      let pa := t.pa + (sv - t.va)
      if !(s.fotOk [s.homePart w.asid sv] pa write) then .error (flt .fotdeny)
      else if s.synonym w.asid sv pa write then .error (flt .synonym)
      else if s.sectorBad pa then .error (poisoned (keyOf pa / 128 * 128) false)
      else
        let s := (s.makeRoom w.asid sv).llcMiss w sv pa
        let x : Sector := { asid := w.asid, va := sv, part := s.homePart w.asid sv, pa := pa, data := secOf (s.mem.phys.read (keyOf pa) 128), w := t.w, d := t.d || write,
                            wr := t.w || write, qid := if write then w.qid else none }
        .ok (s.updMem (fun m => { m with llc := m.llc ++ [{ x with wts := m.mts, rts := m.mts }] }))

/-! ## Waits on flags, words and barrier objects: re-tested at every write (R249, R253) -/

/-- GE or NE of R249. -/
def pollTest (p : Poll) (x : Nat) : Bool := if p.ne then x != p.cmp else decide (p.cmp ≤ x)

/-- Re-tests the waits of the groups `f` gives a value for; a bundle whose teams are all satisfied goes on. A global wait reads the
word at its home slice, whatever its scope: the satisfied core's clock passes t (R82, R249), and its unleased lines of `stale` go
(F3 on UO pages). -/
def retest (s : State) (sel : Group → Bool) (f : Group → PollAt → Option Nat) (t : Nat) (stale : L1Line → Bool := fun _ => false) : State :=
  if s.groups.any (fun g => sel g && g.bundles.any (fun b => match b.st with | .poll _ => true | _ => false)) then
    s.groups.foldl (fun s g =>
      if sel g then
        g.bundles.foldl (fun s b =>
          match b.st with
          | .poll l =>
            let l' := l.map (fun p => match f g p.at_ with
              | some x => { p with ok := p.ok || pollTest p x }
              | none => p)
            let new := (l.zip l').any (fun p => !p.1.ok && p.2.ok && (match p.2.at_ with | .glob _ _ => true | _ => false))
            let s := if new then s.updCore g.die g.core (fun c => { c with pts := max c.pts t, l1 := c.l1.filter (fun x => !(x.uo && stale x)) }) else s
            let s := s.updBundle g.id b.id (fun b => { b with st := .poll l' })
            if l'.all (·.ok) then finishWait s g.id b.id else s
          | _ => s) s
      else s) s
  else s

/-! ## The home slices (R82, R144) -/

def State.lease (s : State) (part : Nat) : Nat := ((s.part part).policy.extractLsb 7 0).toNat

/-- The waits on a sector just written. -/
def State.wakeSector (s : State) (asid va : Nat) : State :=
  match s.sector? asid va with
  | none => s
  | some x =>
    retest s (fun g => match s.range? g.rid with | some r => r.asid == asid | none => false)
      (fun _ p => match p with
        | .glob a n => if sectorOf a == sectorOf va then some (leNat (Sec.get x.data (a % 128) n)) else none
        | _ => none) x.wts (fun l => l.asid == asid && l.va == sectorOf va)

/-- A write performed at the home slice: it takes a time past every lease (R82). -/
def State.slicePut (s : State) (asid va : Nat) (bs : List (Nat × Byte)) (pts : Nat) : State × Nat :=
  match s.sector? asid va with
  | none => (s, pts)
  | some x =>
    let wts := max pts (x.rts + 1)
    (s.updSector asid va (fun x => { x with data := Sec.put x.data bs, wts := wts, rts := wts, dirty := true }) |>.wakeSector asid va, wts)

/-- The guest's copy of a sector is snooped (R405): what the guest has written reaches the home slice past the line's lease; before a write
the copy goes. -/
def State.guestOut (s : State) (asid va : Nat) (write : Bool) : State :=
  match s.sector? asid va with
  | none => s
  | some x =>
    match s.sock.lines.find? (fun l => l.sec == keyOf x.pa / 128) with
    | none => s
    | some l =>
      let s := s.updSock (fun k => { k with lines := if write then k.lines.erase l else upd (· == l) (fun l => { l with bytes := [] }) k.lines })
      if l.bytes.isEmpty then s
      else
        let (s, t) := s.slicePut asid va l.bytes s.sock.pts
        s.updSock (fun k => { k with pts := max k.pts t })

/-- A sector at its home slice for an access: in the LLC, and as the guest has written it. -/
def llcFill (s : State) (w : Who) (va : Nat) (write : Bool) : Except AFault State :=
  match llcGet s w va write with
  | .error f => .error f
  | .ok s => .ok (s.guestOut w.asid (sectorOf va) write)

def State.sliceWord (s : State) (asid va : Nat) : W32 :=
  match s.sector? asid va with
  | none => 0
  | some x => BitVec.ofNat 32 (leNat (Sec.get x.data (va % 128) 4))

def wordBytesAt (off : Nat) (x : W32) : List (Nat × Byte) := offs off (leBytes 4 x.toNat)

def SliceReq.touches (r : SliceReq) (off : Nat) : Bool :=
  match r.op with
  | .write bs => bs.any (fun b => b.1 / 4 == off / 4)
  | .red q => q.off / 4 == off / 4

/-- RED additions of one type at the head of a word's queue, and whether they make the word hot: more than eight, none of the first
eight an FP addition of a range that is logged or follows a log (R144). -/
def hotRun : List SliceReq → Option (Nat × List SliceReq)
  | [] => none
  | r :: rs =>
    match r.op with
    | .red q =>
      let run := (r :: rs).takeWhile (fun x => match x.op with | .red y => y.code == q.code | _ => false)
      let logged := fun (x : SliceReq) => match x.op with | .red y => y.plain | _ => false
      if q.code ≤ 1 && decide (run.length > 8) && !((run.take 8).any logged) then some (q.code, run.take 8) else none
    | _ => none

def redY (r : SliceReq) : W32 := match r.op with | .red q => q.y | _ => 0

/-- T = ((a0 + a1) + (a2 + a3)) + ((a4 + a5) + (a6 + a7)) of R144. -/
def hotSum (code : Nat) (l : List SliceReq) : W32 := (tree (applyOp code 0) ((l.take 8).map (fun r => some (redY r)) ++ List.replicate 24 none)).getD 0

/-- The core's L1 copy of a sector goes. -/
def CoreSt.dropLine (c : CoreSt) (asid va : Nat) : CoreSt := { c with l1 := c.l1.filter (fun l => !(l.asid == asid && l.va == sectorOf va)) }
def State.ack (s : State) (die core wts : Nat) : State := s.updCore die core (fun c => { c with acks := c.acks ++ [wts] })

/-- Whether a logged order lets this addition be performed now (R431). -/
def orderOk (r : RangeSt) (addr : Nat) (gseq : W64) (pcOff : Nat) : Bool :=
  match r.follow with
  | none => true
  | some es =>
    match es.find? (fun e => fld e 15 1 == 4 && fld e 0 8 == addr) with
    | none => true
    | some e => fld e 16 8 == gseq.toNat && fld e 24 4 == pcOff % 2 ^ 32
def orderTake (r : RangeSt) (addr : Nat) : RangeSt :=
  match r.follow with
  | none => r
  | some es => match es.find? (fun e => fld e 15 1 == 4 && fld e 0 8 == addr) with
    | none => r
    | some e => { r with follow := some (es.erase e) }

/-- Words of its sector that a request touches, by number. -/
def SliceReq.words (r : SliceReq) : List Nat := match r.op with | .write bs => bs.map (fun b => b.1 / 4) | .red q => [q.off / 4]
/-- A logged addition that is not next waits at its slice (R431). -/
def State.heldReq (s : State) (r : SliceReq) : Bool :=
  match r.op with
  | .write _ => false
  | .red q => q.code == 1 && (match s.range? q.rid with
    | none => false
    | some rg => !(orderOk rg (r.va + q.off) q.gseq (q.pc - rg.img.code).toNat))
/-- A logged addition: the log orders it among its like (R431). -/
def SliceReq.plain (r : SliceReq) : Bool := match r.op with | .write _ => false | .red q => q.plain
/-- Of a sector's requests the first that may be performed: behind one that waits stands what its core asks of the same words (R110), but
for additions that the log orders; the others pass it (log entry 71). -/
def firstReq (s : State) : List SliceReq → List SliceReq → Option SliceReq
  | _, [] => none
  | held, r :: rs =>
    if s.heldReq r || held.any (fun h => h.die == r.die && h.core == r.core && h.words.any r.words.contains && !(h.plain && r.plain)) then firstReq s (held ++ [r]) rs
    else some r
def State.nextReq (s : State) (asid sv : Nat) : Option SliceReq := firstReq s [] (s.mem.slice.filter (fun r => r.asid == asid && r.va == sv))

/-- Words of the core's own additions that wait for the log they follow: address space and address. -/
def State.heldOf (s : State) (die core : Nat) : List (Nat × Nat) :=
  s.mem.slice.filterMap (fun r => match r.op with
    | .red q => if r.die == die && r.core == core && s.heldReq r then some (r.asid, r.va + q.off) else none
    | .write _ => none)
/-- An access to an SO page, which releases (R113). -/
def isSo (va : Nat) : Bool := kindOf va == 1 && !(isAperture va)
/-- A release of a suffix at .di or wider on a page of the address: on a UO page the suffix orders nothing (R113, R221); an access to an SO
page releases whatever its suffix. -/
def releases (rel : Bool) (va : Nat) : Bool := rel && kindOf va == 0 || isSo va
/-- What must wait until they are acknowledged: a release at .di or wider (R84), an access to an SO page, a load of their bytes (R245). -/
def State.heldBack (s : State) (die core asid : Nat) (rel : Bool) (rs : List (Nat × Nat)) : Bool :=
  let l := s.heldOf die core
  !l.isEmpty && (rel || rs.any (fun x => isSo x.1 || l.any (fun h => h.1 == asid && decide (h.2 < x.1 + x.2) && decide (x.1 < h.2 + 4))))
def Graph.stateAt (g : Graph) (t : Nat) : W64 := g.state + BitVec.ofNat 64 (4 * t)
/-- A combine of the thread itself that is held for its order (R285): its release waits for it, and what it does at the word (R110, R111). -/
def Ctx.combHeld (c : Ctx) (t : Nat) (rel : Bool) (a n : Nat) : Bool :=
  match c.r.graph with
  | none => false
  | some g => g.logq.any (fun h => h.gid == c.g.id && h.tid == t &&
      (rel || decide ((g.stateAt h.t).toNat < a + n) && decide (a < (g.stateAt h.t).toNat + 4)))
/-- Whether an instruction must wait, by which some threads access n bytes each, or release: for additions of their core that its range's log
holds back, a load for those of its bytes and a release for all (log entry 71), and for the threads' own held combines (log entry 147). -/
def Ctx.heldBack (c : Ctx) (s : State) (ld : Bool) (ts : List Nat) (rel : Nat → Bool) (at_ : Nat → Nat) (n : Nat) : Bool :=
  s.heldBack c.g.die c.g.core c.r.asid (ts.any rel) (if ld then ts.map (fun t => (at_ t, n)) else []) || ts.any (fun t => c.combHeld t (rel t) (at_ t) n)

/-! ## Peers behind Canal windows (R372, R373) -/

/-- A peer package's memory behind a Canal window (R372, R373): the address names the window of the partition. -/
def State.window? (s : State) (part pa : Nat) : Option (Nat × W64 × W16 × Bool × Bool) :=
  (s.part part).win.find? (fun x => x.1 == bits pa 35 32 && x.2.2.2.1)

/-- The port a window needs: that of the partition's half (R411), down when listed (R373), before phase 7 trains it (R437), and where the
half is spare, which holds it in reset (R412). -/
def State.portDown (s : State) (part : Nat) : Bool :=
  s.pkg.portsDown.contains (part / 2) || !(s.pkg.grade.hasPort (part / 2)) || decide (s.pkg.phase < 7) || !(s.carved part)

def peerCheck (s : State) (w : Who) (pa : Nat) : Option AFault :=
  if s.portDown w.part then some (pgf 12 0)
  else match s.window? w.part pa with
    | none => some (flt .fotdeny)
    | some _ => none

/-- Whether the page of the address is a peer's: translated on its own, never cached. -/
def peerPa (s : State) (w : Who) (va : Nat) (write : Bool) : Except AFault (Option Nat × State) :=
  match s.sector? w.asid va with
  | some _ => .ok (none, s)
  | none =>
    match translate s w.asid va (if write then 1 else 0) with
    | .bad f => .error f
    | .ok t s' => if isPeer t.pa then .ok (some (t.pa + (va - t.va)), s') else .ok (none, s')

/-- The flow of a peer address within its partition: package and window (R372), as one number. -/
def flowOf (pa : Nat) : Nat := 16 * bits pa 44 36 + bits pa 35 32
/-- A store for a peer that is dropped: the record names the flow and the number. -/
def refusedStore (s : State) (x : Nat × Nat × W32 × W64 × List Byte) : State :=
  s.queueRec x.1 { cls := .device, code := .fotdeny, addr := x.2.2.2.1, time := s.ticks,
                   detail := BitVec.ofNat 64 (x.2.2.1.toNat + bits x.2.2.2.1.toNat 44 36 * 2 ^ 32 + x.2.1 * 2 ^ 44) }
/-- A peer write takes the flow's next number and leaves through the port (R373). -/
def peerSend (s : State) (w : Who) (pa : Nat) (bs : List Byte) : State :=
  let k := flowOf pa
  let n : W32 := (assoc (s.part w.part).winSeq k).getD 0
  let s := s.updPart w.part (fun p => { p with winSeq := assocSet p.winSeq k (n + 1) })
  s.updPkg (fun p => { p with canalOut := p.canalOut ++ [(w.part, bits pa 35 32, n, BitVec.ofNat 64 pa, bs)] })
/-- What was sent last is dropped and reported as refused. -/
def peerRefuse (s : State) : State :=
  match s.pkg.canalOut.getLast? with
  | some x => refusedStore (s.updPkg (fun p => { p with canalOut := p.canalOut.dropLast })) x
  | none => s
/-- A peer store: whether the peer refuses it is a free value (log entry 113). -/
def peerStore (s : State) (w : Who) (pa : Nat) (bs : List Byte) : State :=
  let (b, s) := s.freshByte
  let s := peerSend s w pa bs
  if b.getLsbD 0 then s else peerRefuse s
/-- A reduction that has left the buffer for a peer's word (R143) travels as the flow's next write, as one posted: refused as a store is
(R373, log entry 113). -/
def peerReq (s : State) (w : Who) (pa : Nat) (r : SliceReq) : State :=
  match r.op with
  | .write bs => bs.foldl (fun s b => peerStore s w (pa + b.1) [b.2]) s
  | .red q =>
    let s := s.updRange q.rid (fun g => if q.code == 1 then orderTake g (r.va + q.off) else g)
    let (bs, s) := s.freshBytes 4
    let x := leBytes 4 (applyOp q.code 0 (BitVec.ofNat 32 (leNat bs)) q.y).toNat
    match peerCheck s w (pa + q.off) with
    | none => peerStore s w (pa + q.off) x
    | some _ => peerRefuse (peerSend s w (pa + q.off) x)
/-- Whether the peer refuses or faults a load or an atomic, and how: free values (R373, log entry 113). -/
def peerAnswer (s : State) : Option AFault × State :=
  let (b, s) := s.freshByte
  let (l, s) := s.freshByte
  (match b.toNat % 4 with
    | 0 | 1 => none
    | 2 => some { code := .fotdeny, drawn := 2 }
    | _ => some { code := .pgfault, cause := 1 + b.toNat / 4 % 13, level := l.toNat % 6, drawn := 2 }, s)

/-- Whose a waiting request is: its core's. -/
def SliceReq.who (s : State) (r : SliceReq) : Who :=
  { die := r.die, core := r.core, gid := s.nextGid, rid := 0, asid := r.asid, part := r.die * Config.partsPerDie + r.core / 8,
    qid := match r.op with | .red q => (s.range? q.rid).bind (·.qid) | .write _ => none }

/-- Requests leave a slice's queue. -/
def dropReqs (s : State) (l : List SliceReq) : State := s.updMem (fun m => { m with slice := l.foldl (fun q x => q.erase x) m.slice })

/-- A request whose sector is in the LLC is performed; a hot word takes eight additions as one tree sum, at the latest of their cores'
clocks (log entry 122). -/
def sliceDo (s : State) (asid sv : Nat) (r : SliceReq) : State :=
    match r.op with
    | .write bs =>
      let (s, wts) := s.slicePut asid sv bs r.pts
      (dropReqs s [r]).ack r.die r.core wts
    | .red q =>
      let mine := s.mem.slice.filter (fun x => x.asid == asid && x.va == sv && x.touches q.off)
      let x := s.sliceWord asid (sv + q.off)
      match hotRun mine with
      | some (code, l) =>
        let (s, wts) := s.slicePut asid sv (wordBytesAt q.off (applyOp code 0 x (hotSum code l))) (l.foldl (fun n y => max n y.pts) 0)
        l.foldl (fun s y => s.ack y.die y.core wts) (dropReqs s l)
      | none =>
        let (s, wts) := s.slicePut asid sv (wordBytesAt q.off (applyOp q.code 0 x q.y)) r.pts
        let s := if q.code == 1 then s.updRange q.rid (fun rg => orderTake rg (sv + q.off)) else s
        -- the line its core filled while it waited lacks it (R110, R245)
        let s := if q.plain then s.updCore r.die r.core (fun c => c.dropLine asid sv) else s
        (dropReqs s [r]).ack r.die r.core wts

/-- The physical address of a location, for a device record (R378); 0 where none is known (log entry 146). -/
def State.paAt (s : State) (asid va : Nat) : Nat :=
  match s.sector? asid va with
  | some x => x.pa + va % 128
  | none => match translate s asid va 0 with
    | .ok t _ => t.pa + (va - t.va)
    | .bad _ => 0
/-- A request that can no longer be performed is dropped, and a device record says so (log entry 93). -/
def reqLost (s : State) (r : SliceReq) (f : AFault) : State :=
  ((dropReqs s [r]).poisonRec f).deviceRec { src := some (sliceSrc (s.homePart r.asid r.va) (sliceOf r.va)), code := f.code, cause := f.cause, level := f.level, addr := BitVec.ofNat 64 (s.paAt r.asid r.va) }

/-- SLICE_OPERATION (R144): the next request of a sector is performed. A line that has left the LLC since is filled for it afresh; one
recorded without W or D is translated afresh (R347); a peer's word has its request sent on. -/
def sliceNext (s : State) (asid sv : Nat) : State :=
  match s.nextReq asid sv with
  | none => s
  | some r =>
    match s.sector? asid sv with
    | some x => (match s.writable x (r.who s).qid with
      | .ok s => sliceDo (s.guestOut asid sv true) asid sv r
      | .error f => reqLost s r f)
    | none => match peerPa s (r.who s) sv true with
      | .error f => reqLost s r f
      | .ok (some pa, s) => (peerReq (dropReqs s [r]) (r.who s) pa r).ack r.die r.core r.pts
      | .ok (none, s) => match llcFill s (r.who s) sv true with
        | .ok s => sliceDo s asid sv r
        | .error f => reqLost s r f

/-- Every request that stands before an access arriving now at the sector (R144: in the order they are queued). -/
def performSectorN (s : State) (asid sv : Nat) : Nat → State
  | 0 => s
  | n + 1 => match s.nextReq asid sv with
    | none => s
    | some _ => performSectorN (sliceNext s asid sv) asid sv n
def performSector (s : State) (asid sv : Nat) : State := performSectorN s asid sv s.mem.slice.length

/-! ## The write-combining buffer (R83, R143) -/

def WcbEnt.reqs (e : WcbEnt) (die core pts : Nat) : List SliceReq :=
  (if e.bytes.isEmpty then [] else [{ asid := e.asid, va := e.va, op := .write e.bytes, die := die, core := core, pts := pts }]) ++
    e.reds.map (fun r => { asid := e.asid, va := e.va, op := .red r, die := die, core := core, pts := pts })

/-- The tick's order entry of a logged FP32 addition, and the word's arrival count (R429); the ring is written by Tele. -/
def State.countAdd (s : State) (rid addr : Nat) : State :=
  s.updRange rid (fun r => { r with adds := assocSet r.adds addr ((assoc r.adds addr).getD 0 + 1) })

/-- The oldest entry goes to its home slice. -/
def drainOne (s : State) (die core : Nat) : State :=
  let c := s.core die core
  match c.wcb with
  | [] => s
  | e :: rest =>
    (s.updCore die core (fun c => { c with wcb := rest })).updMem (fun m => { m with slice := m.slice ++ e.reqs die core c.pts })
def drainN (s : State) (die core : Nat) : Nat → State
  | 0 => s
  | n + 1 => drainN (drainOne s die core) die core n
def drainAll (s : State) (die core : Nat) : State := drainN s die core (s.core die core).wcb.length

/-- Acknowledgements reach the core (R82). -/
def takeAcks (s : State) (die core : Nat) : State :=
  s.updCore die core (fun c => { c with pts := c.acks.foldl max c.pts, acks := [] })

/-- A release at .di or wider, and FENCE: the buffer drains and every earlier store, atomic and reduction of the core is
acknowledged (R84). -/
def releaseCore (s : State) (die core : Nat) : State :=
  let s := drainAll s die core
  let secs := ((s.mem.slice.filter (fun r => r.die == die && r.core == core)).map (fun r => (r.asid, r.va))).eraseDups
  takeAcks (secs.foldl (fun s x => performSector s x.1 x.2) s) die core

/-- What a FENCE.sy does to its core (R85, R229): as a release, and every unleased line goes. -/
def fenceSy (s : State) (die core : Nat) : State := (releaseCore s die core).updCore die core (fun x => { x with l1 := x.l1.filter (fun l => !l.uo) })

/-- Entries of the sector leave the buffer, in order, with those before them. -/
def drainThrough (s : State) (die core asid sv : Nat) : State :=
  let q := (s.core die core).wcb
  match q.findIdx? (fun e => e.asid == asid && e.va == sv) with
  | none => s
  | some i => drainN s die core (i + 1)

/-- Store bytes into the buffer; a sixteen-entry buffer that is full drains its oldest. An open entry of the sector that holds
reductions drains first, and one that holds bytes before a reduction (log entry 94). -/
def wcbStore (s : State) (die core asid sv : Nat) (bs : List (Nat × Byte)) : State :=
  let c := s.core die core
  let mine := c.wcb.find? (fun e => e.asid == asid && e.va == sv)
  let s := match mine with
    | some e => if e.reds.isEmpty then s else drainThrough s die core asid sv
    | none => s
  let c := s.core die core
  if c.wcb.any (fun e => e.asid == asid && e.va == sv) then
    let put := fun (e : WcbEnt) => { e with bytes := e.bytes.filter (fun x => !(bs.any (fun y => y.1 == x.1))) ++ bs }
    s.updCore die core (fun c => { c with wcb := upd (fun e => e.asid == asid && e.va == sv) put c.wcb })
  else
    let s := if c.wcb.length ≥ 16 then drainOne s die core else s
    s.updCore die core (fun c => { c with wcb := c.wcb ++ [{ asid := asid, va := sv, bytes := bs, since := s.clk }] })

/-- A reduction merges with the last one on its word when type and operation agree (R143); one of another operation between them
keeps them apart (log entry 94). -/
def mergeInto (r : RedReq) : List RedReq → Option (List RedReq)
  | [] => none
  | x :: l =>
    if l.any (fun y => y.off == r.off) then (mergeInto r l).map (x :: ·)
    else if x.off == r.off && x.code == r.code && !x.plain && !r.plain then some ({ x with y := applyOp r.code 0 x.y r.y } :: l)
    else none
def mergeRed (l : List RedReq) (r : RedReq) : List RedReq := (mergeInto r l).getD (l ++ [r])

def wcbRed (s : State) (die core asid sv : Nat) (r : RedReq) : State :=
  let c := s.core die core
  let mine := c.wcb.find? (fun e => e.asid == asid && e.va == sv)
  let s := match mine with
    | some e => if e.bytes.isEmpty then s else drainThrough s die core asid sv
    | none => s
  let c := s.core die core
  if c.wcb.any (fun e => e.asid == asid && e.va == sv) then
    let put := fun (e : WcbEnt) => { e with reds := mergeRed e.reds r }
    s.updCore die core (fun c => { c with wcb := upd (fun e => e.asid == asid && e.va == sv) put c.wcb })
  else
    let s := if c.wcb.length ≥ 16 then drainOne s die core else s
    s.updCore die core (fun c => { c with wcb := c.wcb ++ [{ asid := asid, va := sv, reds := [r], since := s.clk }] })

/-- Bytes of the buffer over what the line holds: a core sees its own stores (R83). -/
def overlay (c : CoreSt) (asid va : Nat) (bs : List Byte) : List Byte :=
  match c.wcb.find? (fun e => e.asid == asid && e.va == sectorOf va) with
  | none => bs
  | some e => bs.mapIdx (fun i b => (assoc e.bytes (va % 128 + i)).getD b)

/-- Before the core reads a sector from its home slice: its own reductions of the sector that wait in its buffer go there, and every
request that stands before the read is performed (R83, R110, R144). -/
def settleOwn (s : State) (w : Who) (va : Nat) : State :=
  let s := if (s.core w.die w.core).wcb.any (fun e => e.asid == w.asid && e.va == sectorOf va && !e.reds.isEmpty)
    then drainThrough s w.die w.core w.asid (sectorOf va) else s
  performSector s w.asid (sectorOf va)

/-! ## The granules of a core store (R77, R106) -/

def State.hOf (s : State) (rid : Nat) : Nat := match s.range? rid with | some r => r.h | none => 0
/-- Kind of granule g: 0 windows, 1 scratch, 2 L1 (R77). -/
def granKind (cv : W32) (g : Nat) : Nat := if g < wgran cv then 0 else if g < wgran cv + sgran cv then 1 else 2
/-- The group holds windows or scratch in granule k. -/
def Group.occupies (g : Group) (h k : Nat) : Bool :=
  g.teams.any (fun t => decide (t.wrow < 256 * (k + 1)) && decide (256 * k < t.wrow + h)) ||
    decide (g.scrSize > 0) && decide (g.scrBase < 32768 * (k + 1)) && decide (32768 * k < g.scrBase + g.scrSize)
/-- What a granule of a core is now: while a change is pending, one that windows or scratch of a resident group stand in is still
what it was (R106). -/
def State.granNow (s : State) (part die core k : Nat) : Nat :=
  let p := s.part part
  let old := granKind p.carveOld k
  if p.carve.getLsbD 27 && old != 2 && s.groups.any (fun g => g.die == die && g.core == core && g.occupies (s.hOf g.rid) k) then old
  else granKind p.carve k
/-- Sets of 8 lines that the granules of the core's L1 hold now. -/
def State.l1Sets (s : State) (part die core : Nat) : Nat := 32 * ((List.range 32).filter (fun k => s.granNow part die core k == 2)).length

/-! ## The L1 (R81, R82, R85) -/

def CoreSt.line? (c : CoreSt) (asid va : Nat) : Option L1Line := c.l1.find? (fun l => l.asid == asid && l.va == sectorOf va)
/-- A line that a plain read hits: one of a UO page, or one under its lease (R82, R85). -/
def CoreSt.hit? (c : CoreSt) (asid va : Nat) : Option L1Line := (c.line? asid va).filter (fun l => l.uo || decide (c.pts ≤ l.e))
def CoreSt.setPts (c : CoreSt) (t : Nat) : CoreSt := { c with pts := max c.pts t }

/-- L1 lines held: 32 KiB of 128 bytes for each granule of the L1, 8 ways a set; the oldest line of a full set leaves (log entry 18). -/
def CoreSt.addLine (c : CoreSt) (l : L1Line) (sets : Nat) : CoreSt :=
  let c := c.dropLine l.asid l.va
  let same := c.l1.filter (fun x => x.va / 128 % sets == l.va / 128 % sets)
  let l1 := if same.length ≥ 8 then (match same.head? with | some o => c.l1.erase o | none => c.l1) else c.l1
  { c with l1 := l1 ++ [l] }

/-- Bytes of a sector that wait in the core's buffer. -/
def CoreSt.waiting (c : CoreSt) (asid va : Nat) : List (Nat × Byte) :=
  match c.wcb.find? (fun e => e.asid == asid && e.va == sectorOf va) with
  | some e => e.bytes
  | none => []

/-- L1_FILL (R82): the slice grants a lease and the line is filled; the sector must be present. The core's own waiting bytes stand
in the line too, so that it goes on seeing them once they have drained, and so do its own reductions (R110). The lease is that of
the core's partition (log entry 95). -/
def l1Fill (s : State) (w : Who) (va : Nat) (uo : Bool) : State :=
  let s := settleOwn s w va
  match s.sector? w.asid va with
  | none => s
  | some x =>
    let c := s.core w.die w.core
    let e := max x.rts (max c.pts x.wts + s.lease w.part)
    let s := if uo then s else s.updSector w.asid va (fun x => { x with rts := e })
    let sets := s.l1Sets w.part w.die w.core
    s.updCore w.die w.core (fun c =>
      let c := c.addLine { asid := w.asid, va := sectorOf va, pa := x.pa, data := Sec.put x.data (c.waiting w.asid va), wts := x.wts, e := e, uo := uo } sets
      if uo then c else c.setPts x.wts)

/-- The reader of a home slice has seen the sector: its clock passes the write's time (R82), and on a UO page its own unleased line
goes, so that it reads nothing older later (F3, R127). -/
def State.seen (s : State) (w : Who) (va wts : Nat) : State :=
  if w.die < 4 then s.updCore w.die w.core (fun c => (if kindOf va == 2 then c.dropLine w.asid va else c).setPts wts) else s

/-- What the core itself has waiting for the sector, in its buffer and at the slice, is performed (R83, R144). -/
def settleAll (s : State) (w : Who) (va : Nat) : State := performSector (drainThrough s w.die w.core w.asid (sectorOf va)) w.asid (sectorOf va)

/-- Bytes read at the home slice: nothing of the reader's core stands in front of it, so every party sees the one copy there (R117, R120). -/
def sliceRead (s : State) (w : Who) (va n : Nat) : List Byte × State :=
  let s := settleAll s w va
  match s.sector? w.asid va with
  | none => (List.replicate n 0, s)
  | some x => (Sec.get x.data (va % 128) n, s.seen w va x.wts)

/-- The latest time of any write performed in the package. -/
def State.latest (s : State) : Nat := s.mem.llc.foldl (fun t x => max t x.wts) s.mem.mts
/-- An acquire of a word that a peer package holds: its time is the peer's, so every write performed here before it is seen (log
entry 96). -/
def State.acqPeer (s : State) (w : Who) : State := s.updCore w.die w.core (fun c => c.setPts s.latest)

/-- A load of global memory (R82 to R86, R104, R113, R221): acq says an acquire at .di or wider. A line that it hits in the L1 is not
translated (R87). -/
def loadGlobal (s : State) (w : Who) (va n : Nat) (acq : Bool) : Except AFault (List Byte × State) :=
  let kind := kindOf va
  let c := s.core w.die w.core
  let home := kind == 1 || acq && kind == 0
  match (if home then none else c.hit? w.asid va) with
  | some l =>
    let s := if w.again then s else s.count w.part 4 1 w.qid
    .ok (overlay c w.asid va (Sec.get l.data (va % 128) n), if l.uo then s else s.updCore w.die w.core (fun c => c.setPts l.wts))
  | none =>
    match peerPa s w va false with
    | .error f => .error f
    | .ok (some pa, s) =>
      match peerCheck s w pa with
      | some f => .error f
      | none =>
        match peerAnswer s with
        | (some f, _) => .error f
        | (none, s) =>
          let s := settleAll (if kind == 1 then releaseCore s w.die w.core else s) w va
          .ok ((if home then s.acqPeer w else s).freshBytes n)
    | .ok (none, s) =>
      match llcFill s w va false with
      | .error f => .error f
      | .ok s =>
        if kind == 1 then .ok (sliceRead (releaseCore s w.die w.core) w va n)
        else if home then .ok (sliceRead s w va n)
        else
          let s := l1Fill s w va (kind == 2)
          .ok (match s.sector? w.asid va with
            | some x => overlay (s.core w.die w.core) w.asid va (Sec.get x.data (va % 128) n)
            | none => List.replicate n 0, s)

/-- A store to global memory (R83, R85, R221): rel says a release at .di or wider. The sector is filled for the write at once
(write-allocate, R87), so a fault is the store's own. -/
def storeGlobal (s : State) (w : Who) (va : Nat) (bs : List Byte) (rel : Bool) : Except AFault State :=
  let drained := fun (s : State) => if releases rel va then releaseCore s w.die w.core else s
  match peerPa s w va true with
  | .error f => .error f
  | .ok (some pa, s) =>
    match peerCheck s w pa with
    | some f => .error f
    | none => .ok (peerStore (settleAll (drained s) w va) w pa bs)
  | .ok (none, s) =>
    match llcFill s w va true with
    | .error f => .error f
    | .ok s =>
      let s := drained s
      let cells := offs (va % 128) bs
      if kindOf va == 1 then
        let s := performSector s w.asid (sectorOf va)
        let (s, wts) := s.slicePut w.asid va cells (s.core w.die w.core).pts
        .ok (s.updCore w.die w.core (fun c => c.setPts wts))
      else
        let s := s.updCore w.die w.core (fun c =>
          { c with l1 := upd (fun l => l.asid == w.asid && l.va == sectorOf va) (fun l => { l with data := Sec.put l.data cells }) c.l1 })
        .ok (wcbStore s w.die w.core w.asid (sectorOf va) cells)

/-- A read-modify-write at the home slice (R86, R241): what stands in the core's buffer for the sector goes first; `none` leaves
the word. Through a Canal window it travels as the flow's next write and its earlier value is the peer's (R373). -/
def rmwSlice (s : State) (w : Who) (va n : Nat) (f : Nat → Option Nat) : Except AFault (Nat × State) :=
  match peerPa s w va true with
  | .error e => .error e
  | .ok (some pa, s) =>
    match peerCheck s w pa with
    | some e => .error e
    | none =>
      match peerAnswer s with
      | (some e, _) => .error { e with flow := some (w.part, flowOf pa) }
      | (none, s) =>
        let (bs, s) := ((settleAll s w va).acqPeer w).freshBytes n
        .ok (leNat bs, peerSend s w pa (leBytes n ((f (leNat bs)).getD (leNat bs))))
  | .ok (none, s) =>
    match llcFill s w va true with
    | .error e => .error e
    | .ok s =>
      let s := settleAll s w va
      match s.sector? w.asid va with
      | none => .ok (0, s)
      | some x =>
        let old := leNat (Sec.get x.data (va % 128) n)
        match f old with
        | none => .ok (old, s.seen w va x.wts)
        | some y =>
          let (s, wts) := s.slicePut w.asid va (offs (va % 128) (leBytes n y)) (s.core w.die w.core).pts
          let s := takeAcks s w.die w.core
          .ok (old, s.updCore w.die w.core (fun c => (c.dropLine w.asid va).setPts wts))

/-- A sector written whole is poisoned no more (R435). -/
def State.heal (s : State) (sec : Nat) : State := s.updMem (fun m => { m with poison := m.poison.erase sec })

/-- The fill for a write of some bytes: a write of the whole sector heals its poison. -/
def fillFor (s : State) (w : Who) (va n : Nat) : Except AFault State :=
  match llcFill s w va true with
  | .error f =>
    match f.poison with
    | some (a, false) => if n == 128 && va % 128 == 0 then llcFill (s.heal a) w va true else .error f
    | _ => .error f
  | r => r

/-- An engine's access to an SO page, being its thread's, releases what its core wrote before (R109, R113); at any page it comes behind
what the thread itself has waiting for the sector (R110). -/
def soRelease (s : State) (w : Who) (va : Nat) : State := if w.die < 4 && kindOf va == 1 then releaseCore s w.die w.core else s

/-- A write by an engine, the front end or another agent at the home slice (R87, R230). -/
def agentWrite (s : State) (w : Who) (va : Nat) (bs : List Byte) : Except AFault State :=
  match peerPa s w va true with
  | .error f => .error f
  | .ok (some pa, s) =>
    match peerCheck s w pa with
    | some f => .error f
    | none => .ok (peerStore (settleAll (soRelease s w va) w va) w pa bs)
  | .ok (none, s) =>
    match fillFor s w va bs.length with
    | .error f => .error f
    | .ok s =>
      let s := settleAll (soRelease s w va) w va
      let (s, wts) := s.slicePut w.asid va (offs (va % 128) bs) (s.core w.die w.core).pts
      .ok (if w.die < 4 then s.updCore w.die w.core (fun c => c.setPts wts) else s)

/-- A read by an engine, the front end or another agent at the home slice. An engine's belongs to the thread that issued it (R109): its
core has seen the sector. -/
def agentRead (s : State) (w : Who) (va n : Nat) : Except AFault (List Byte × State) :=
  match peerPa s w va false with
  | .error f => .error f
  | .ok (some pa, s) =>
    match peerCheck s w pa with
    | some f => .error f
    | none =>
      match peerAnswer s with
      | (some f, _) => .error f
      | (none, s) => .ok ((settleAll (soRelease s w va) w va).freshBytes n)
  | .ok (none, s) =>
    match llcFill s w va false with
    | .error f => .error f
    | .ok s =>
      let s := settleAll (soRelease s w va) w va
      .ok (match s.sector? w.asid va with
        | some x => (Sec.get x.data (va % 128) n, s.seen w va x.wts)
        | none => (List.replicate n 0, s))

/-! ## Access by physical address: host, guest, policy core and the device's own tables (R87, R371, R397) -/

/-- The sector of the LLC that holds a physical address. -/
def State.sectorAt (s : State) (pa : Nat) : Option Sector := s.mem.llc.find? (fun x => keyOf x.pa / 128 == keyOf pa / 128)

/-- A byte that the guest has written and not written back (R405). -/
def State.guestByte (s : State) (pa : Nat) : Option Byte :=
  (s.sock.lines.find? (fun l => l.sec == keyOf pa / 128)).bind (fun l => assoc l.bytes (keyOf pa % 128))

/-- Bytes by physical address, as the home slices and the guest hold them. -/
def State.paRead (s : State) (pa n : Nat) : List Byte :=
  (List.range n).map (fun i =>
    match s.guestByte (pa + i), s.sectorAt (pa + i) with
    | some b, _ => b
    | none, some x => (Sec.get x.data ((pa + i) % 128) 1).headD 0
    | none, none => s.mem.phys.read1 (keyOf (pa + i)))
def State.paNat (s : State) (pa n : Nat) : Nat := leNat (s.paRead pa n)

/-- Pieces of a byte range that lie in one sector each: offset and bytes; the number of sectors is the fuel. -/
def pieces (a : Nat) (bs : List Byte) : Nat → List (Nat × List Byte)
  | 0 => []
  | n + 1 =>
    if bs.isEmpty then []
    else
      let k := 128 - a % 128
      (a, bs.take k) :: pieces (a + k) (bs.drop k) n
def piecesOf (a : Nat) (bs : List Byte) : List (Nat × List Byte) := pieces a bs (bs.length / 128 + 2)

/-- The waits on a word just written in memory, its sector in no LLC (R249). -/
def State.wakePhys (s : State) (pa : Nat) : State :=
  retest s (fun g => (s.range? g.rid).isSome) (fun g p => match p, s.range? g.rid with
    | .glob a n, some r => (match translate s r.asid a 0 with
      | .ok t _ => let q := t.pa + (a - t.va); if keyOf q / 128 == keyOf pa / 128 then some (s.paNat q n) else none
      | .bad _ => none)
    | _, _ => none) s.mem.mts (fun l => keyOf l.pa / 128 == keyOf pa / 128)

/-- The sectors, by address space and address, whose waiting requests are for a physical sector, in the LLC or not. -/
def State.queuedAt (s : State) (pa : Nat) : List (Nat × Nat) :=
  let at_ := fun (p : Nat) => keyOf p / 128 == keyOf pa / 128
  ((s.mem.slice.map (fun r => (r.asid, r.va))).eraseDups).filter (fun x =>
    match s.sector? x.1 x.2 with
    | some y => at_ y.pa
    | none => match translate s x.1 x.2 1 with | .ok t _ => at_ (t.pa + (x.2 - t.va)) | .bad _ => false)

/-- Bytes of one sector written by physical address, at no earlier time than pts: at the home slice that holds the line, behind what is
queued there (R144), else in memory, past every lease given (log entry 92). -/
def State.paPut (s : State) (pts : Nat) (x : Nat × List Byte) : State :=
  let s := if x.2.length == 128 then s.heal (keyOf x.1 / 128 * 128) else s
  let s := (s.queuedAt x.1).foldl (fun s q => performSector s q.1 q.2) s
  let s := s.physWrite x.1 x.2
  match s.sectorAt x.1 with
  | some y => (s.slicePut y.asid y.va (offs (x.1 % 128) x.2) pts).1
  | none => (s.updMem (fun m => { m with mts := max pts m.mts + 1 })).wakePhys x.1
/-- The guest's copies of the chosen sectors leave it, what it has written going home (R404, R405). -/
def State.guestFlush (s : State) (p : Nat → Bool) : State :=
  let out := s.sock.lines.filter (fun l => p l.sec)
  let s := s.updSock (fun k => { k with lines := k.lines.filter (fun l => !(p l.sec)) })
  out.foldl (fun s l => l.bytes.foldl (fun s b => s.paPut s.sock.pts (128 * l.sec + b.1, [b.2])) s) s
/-- A write by physical address; the guest's copy goes first. -/
def State.paWrite (s : State) (pa : Nat) (bs : List Byte) : State :=
  (piecesOf pa bs).foldl (fun s x => (s.guestFlush (· == keyOf x.1 / 128)).paPut 0 x) s

end Sys2Proof.Machine
end

