-- ==== Sys2Proof/Machine/Access.lean ====
section
/-! DEFINITION. A lane's access: the checks of R219 in order, what each kind of address reaches (R76, R79, R80, R89, R91, R223,
R224), and the watch slots (R296). -/

namespace Sys2Proof.Machine

/-- What an access does: load, store, or a read-modify-write under an operation code of R240 (RED and BRED are reductions). -/
inductive AKind where
  | load
  | store
  | rmw (code : Nat) (red : Bool)
  deriving DecidableEq, Repr

def AKind.writes : AKind → Bool
  | .load => false
  | _ => true
def AKind.reads : AKind → Bool
  | .store => false
  | _ => true

/-- What a checked address reaches. -/
inductive Tgt where
  | glob (va : Nat)
  | scr (off : Nat)
  | core (die num off : Nat)
  | resv (die off : Nat)
  | cell (die c byte : Nat)
  deriving DecidableEq, Repr

/-! ## The core store by offset (R77, R79, R80) -/

/-- The thread whose window holds a core-store word, and the register: row and column of R79. -/
def Group.windowAt (g : Group) (h off : Nat) : Option (Nat × Nat) :=
  let row := off / 128
  let col := off / 4 % 32
  (g.teams.find? (fun t => decide (t.wrow ≤ row) && decide (row < t.wrow + h) && decide (32 * t.idx + col < g.threads.length))).map
    (fun t => (32 * t.idx + col, row - t.wrow))

/-- What a core-store byte is: register byte or scratch byte of a resident group. -/
inductive Byte1 where
  | reg (gid t n k : Nat)
  | scratch (gid off : Nat)
  | none

def State.storeAt (s : State) (die core off : Nat) : Byte1 :=
  (s.groups.foldl (fun (acc : Byte1) g =>
    match acc with
    | .none =>
      if g.die == die && g.core == core then
        if decide (g.scrBase ≤ off) && decide (off < g.scrBase + g.scrSize) then .scratch g.id (off - g.scrBase)
        else match g.windowAt (s.hOf g.rid) off with
          | some (t, n) => .reg g.id t n (off % 4)
          | none => .none
      else .none
    | x => x) .none)

/-- An unoccupied byte reads 0 (R80). -/
def State.storeRead1 (s : State) (die core off : Nat) : Byte :=
  match s.storeAt die core off with
  | .none => 0
  | .scratch gid o => match s.group? gid with | some g => g.scratch.read1 o | none => 0
  | .reg gid t n k =>
    match s.group? gid with
    | some g => (((g.th t).getV (BitVec.ofNat 6 n)) >>> (8 * k)).setWidth 8
    | none => 0

def State.storeWrite1 (s : State) (die core off : Nat) (b : Byte) : State :=
  match s.storeAt die core off with
  | .none => s
  | .scratch gid o => s.updGroup gid (fun g => { g with scratch := g.scratch.write1 o b })
  | .reg gid t n k =>
    s.updGroup gid (fun g => g.updTh t (fun th =>
      let x := th.getV (BitVec.ofNat 6 n)
      th.setV (BitVec.ofNat 6 n) ((x &&& ~~~(0xFF#32 <<< (8 * k))) ||| (b.setWidth 32 <<< (8 * k)))))

def State.storeRead (s : State) (die core off n : Nat) : List Byte := (List.range n).map (fun i => s.storeRead1 die core (off + i))
/-- Waits in BOWT on a group's objects, after a write to its scratch (R253). -/
def State.wakeScr (s : State) (gid : Nat) : State :=
  retest s (fun g => g.id == gid) (fun g p => match p with
    | .phase o => some (g.scratch.readN (o + 4) 4)
    | _ => none) 0
def State.storeWrite (s : State) (die core off : Nat) (bs : List Byte) : State :=
  let s' := (bs.mapIdx (fun i b => (i, b))).foldl (fun s x => s.storeWrite1 die core (off + x.1) x.2) s
  match s.storeAt die core off with
  | .scratch gid _ => s'.wakeScr gid
  | _ => s'

/-! ## Scratch -/

/-- Words of the core store written whole lose their poison (R435). -/
def State.coreHeal (s : State) (die num off n : Nat) : State :=
  let whole := fun (o : Nat) => decide (off ≤ o) && decide (o + 4 ≤ off + n)
  let s := if s.mem.corePoison.isEmpty then s
    else s.updMem (fun m => { m with corePoison := m.corePoison.filter (fun p => !(p.1 == die && p.2.1 == num && whole p.2.2)) })
  if s.groups.any (fun g => g.die == die && g.core == num && g.threads.any (fun th => !th.bad.isEmpty)) then
    ((List.range (n / 4 + 1)).map (fun i => roundUp off 4 + 4 * i)).foldl (fun s o => if whole o then (match s.storeAt die num o with
      | .reg gid t r _ => s.updGroup gid (fun g => g.updTh t (fun th => { th with bad := th.bad.filter (· != BitVec.ofNat 6 r) }))
      | _ => s) else s) s
  else s

def Group.scr (g : Group) (off n : Nat) : List Byte := g.scratch.read off n
/-- Bytes into a group's scratch; words written whole lose their poison (R435). -/
def State.scrWrite (s : State) (gid off : Nat) (bs : List Byte) : State :=
  let s := match s.group? gid with
    | some g => s.coreHeal g.die g.core (g.scrBase + off) bs.length
    | none => s
  (s.updGroup gid (fun g => { g with scratch := g.scratch.write off bs })).wakeScr gid

/-! ## The range-lock table (R99, R100) -/

/-- The address a core-store byte has in the aperture (R76). -/
def coreVa (die core off : Nat) : Nat := 2 ^ 54 + die * 2 ^ 52 + 0xFF * 2 ^ 44 + 2 ^ 42 + core * 2 ^ 20 + off

/-- The group's own scratch seen through the aperture is its scratch. -/
def Group.canonRange (g : Group) (scr : Bool) (a : Nat) : Bool × Nat :=
  if !scr && isAperture a && bits a 43 42 == 1 && bits a 53 52 == g.die && bits a 41 20 == g.core
      && decide (g.scrBase ≤ bits a 19 0) && decide (bits a 19 0 < g.scrBase + g.scrSize)
  then (true, bits a 19 0 - g.scrBase) else (scr, a)

/-- Where a range of the group begins in its address space: its scratch has addresses in the core-store aperture too, so that a range
meets another in whichever way each is named, and one that runs from a window on into scratch meets both. -/
def Group.vaOf (g : Group) (scr : Bool) (a : Nat) : Nat := if scr then coreVa g.die g.core (g.scrBase + a) else a

def Lock.meets (l : Lock) (g : Group) (scr : Bool) (lo n : Nat) : Bool :=
  l.gid == g.id && decide (g.vaOf l.scr l.lo < g.vaOf scr lo + n) && decide (g.vaOf scr lo < g.vaOf l.scr l.lo + l.len)

/-- A thread's load meets a registered destination, or its write any registered range (R99). `bo` exempts BOARR and BOWT on the
object of a pending CPYL (R232). -/
def State.locked (s : State) (g : Group) (scr : Bool) (a n : Nat) (wr bo : Bool) : Bool :=
  s.eng.locks.any (fun l => l.meets g scr a n && (wr || l.dest) && !(bo && l.bo))

/-! ## The checks of R219 -/

/-- The aperture's own checks (R76, R80, R89, R91): what the range owns. -/
def apertureTgt (s : State) (c : Ctx) (va n : Nat) (k : AKind) : Except AFault Tgt :=
  let die := bits va 53 52
  let prot : Except AFault Tgt := .error (flt .prot)
  match bits va 43 42 with
  | 0 =>
    match c.r.resv.find? (fun r => r.die == die) with
    | some r => if bits va 41 0 + n ≤ r.size then .ok (.resv die (bits va 41 0)) else prot
    | none => prot
  | 1 =>
    let core := bits va 41 20
    let off := bits va 19 0
    if bits va 41 27 != 0 then prot
    else if c.r.debug then
      if die * Config.partsPerDie + core / 8 == c.g.part && s.granNow c.g.part die core (off / 32768) != 2
      then .ok (.core die core off) else prot
    else if die != c.g.die || core != c.g.core then prot
    else
      let mine := fun o => (decide (c.g.scrBase ≤ o) && decide (o < c.g.scrBase + c.g.scrSize)) || (c.g.windowAt c.r.h o).isSome
      if (List.range n).all (fun i => mine (off + i)) then .ok (.core die core off) else prot
  | _ =>
    let cell := bits va 41 6
    let byte := bits va 5 0
    match c.r.resv.find? (fun r => r.die == die) with
    | none => prot
    | some r =>
      let ok := match k with
        | .load => n == 4 && (byte == 0 || byte == 4 || decide (8 ≤ byte) && decide (byte < 48))
        | .store => n == 4 && byte == 0
        | .rmw code red => n == 4 && byte == 0 && (code == 1 || code == 11 && !red)
      if decide (cell < r.cells.length) && ok then .ok (.cell die cell byte) else prot

/-- A global or aperture access of a lane. -/
def checkAddr (s : State) (c : Ctx) (va n : Nat) (k : AKind) : Except AFault Tgt :=
  if va % n != 0 || spans va n then .error (flt .align)
  else if s.locked c.g false va n k.writes false then .error (flt .rangelock)
  else match addrCheck s c.r.asid va with
    | some f => .error f
    | none => if isAperture va then apertureTgt s c va n k else .ok (.glob va)

/-- A scratch access (R223): the offset is exact. -/
def checkScr (s : State) (c : Ctx) (o : Int) (n : Nat) (wr : Bool) : Except AFault Tgt :=
  if o % (n : Int) != 0 then .error (flt .align)
  else if o < 0 || o + n > c.g.scrSize then .error (flt .scrbound)
  else if s.locked c.g true o.toNat n wr false then .error (flt .rangelock)
  else .ok (.scr o.toNat)

/-- A window access (R224). An engine's range names the window through the aperture (R99). -/
def checkWin (s : State) (c : Ctx) (o : Int) (n : Nat) (wr : Bool) : Except AFault Tgt :=
  if o % (n : Int) != 0 then .error (flt .align)
  else
    let ok := fun x => (c.g.windowAt c.r.h x).isSome
    if o < 0 || !(ok o.toNat) || !(ok (o.toNat + n - 1)) then .error (flt .winbound)
    else if s.locked c.g false (coreVa c.g.die c.g.core o.toNat) n wr false then .error (flt .rangelock)
    else .ok (.core c.g.die c.g.core o.toNat)

/-! ## Performing a checked access -/

def RangeSt.cellGet (r : RangeSt) (die c : Nat) : Cell :=
  match r.resv.find? (fun x => x.die == die) with
  | some x => x.cells.getD c {}
  | none => {}
def RangeSt.updResv (r : RangeSt) (die : Nat) (f : Resv → Resv) : RangeSt := { r with resv := upd (fun x => x.die == die) f r.resv }
def State.cellPut (s : State) (rid die c : Nat) (x : Cell) : State :=
  s.updRange rid (fun r => r.updResv die (fun v => { v with cells := v.cells.set c x }))
/-- The word a cell shows at a byte (Table 6 of R91). -/
def Cell.word (x : Cell) (byte : Nat) : W32 :=
  if byte == 0 then x.read else if byte == 4 then x.flags else x.k.extractLsb' (32 * ((byte - 8) / 4)) 32

/-- The way that a Reservoir address lies in is empty once the access is performed: it has waited at its slice for that (R88, R107). Way k
holds the partition's offsets from k × 256 KiB on, and the ways empty in ascending order (log entry 140). -/
def State.resvReady (s : State) (rid die off : Nat) : State :=
  match (s.range? rid).bind (fun r => (r.resv.find? (fun x => x.die == die)).map (fun x => (r.asid, x.base))) with
  | some (asid, base) =>
    let p := s.partOn asid die
    let x := s.part p
    s.drainWays p (x.resDrain - (resways x.carve - 1 - (base + off) / (4 * Config.resWayBytes)))
  | none => s
def State.resvRead (s : State) (rid die off n : Nat) : List Byte :=
  match (s.range? rid).bind (fun r => r.resv.find? (fun x => x.die == die)) with
  | some x => x.data.read off n
  | none => List.replicate n 0
def State.resvWrite (s : State) (rid die off : Nat) (bs : List Byte) : State :=
  s.updRange rid (fun r => r.updResv die (fun v => { v with data := v.data.write off bs }))

/-- The time of the last write to a Reservoir sector or a cell (R82, R89). -/
def State.resvTime (s : State) (rid die : Nat) (cell : Bool) (k : Nat) : Nat :=
  match (s.range? rid).bind (fun r => r.resv.find? (fun x => x.die == die)) with
  | some x => (assoc (if cell then x.ctimes else x.times) k).getD 0
  | none => 0
/-- The core has read the sector or cell, or writes it: without leases a write takes the time after the last one, or its core's. -/
def State.resvSeen (s : State) (w : Who) (die : Nat) (cell : Bool) (k : Nat) (write : Bool) : State :=
  let t := s.resvTime w.rid die cell k
  if write then
    let t := max (s.core w.die w.core).pts (t + 1)
    (s.updRange w.rid (fun r => r.updResv die (fun v =>
      if cell then { v with ctimes := assocSet v.ctimes k t } else { v with times := assocSet v.times k t }))).updCore w.die w.core (fun c => c.setPts t)
  else s.updCore w.die w.core (fun c => c.setPts t)

/-! ## Poison in places without a physical address (R435) -/

def unitAddr (die unit byte : Nat) : Nat := die * 2 ^ 40 + unit * 2 ^ 32 + byte
/-- A Reservoir offset of a partition, as its slice (R7, R88, R342) names it: slices are numbered on their die. -/
def resUnit (die part x : Nat) : Nat := unitAddr die (128 + 4 * (part % Config.partsPerDie) + x / 256 % 4) (x / 1024 * 256 + x % 256)
def cellUnit (die part u : Nat) : Nat := unitAddr die (128 + 4 * (part % Config.partsPerDie) + u / 64) (64 * (u % 64))

def State.resBad (s : State) (w : Who) (die off n : Nat) : Option AFault :=
  match (s.range? w.rid).bind (fun r => r.resv.find? (fun x => x.die == die)) with
  | some x =>
    let pn := s.partOn w.asid die
    (s.mem.resPoison.find? (fun p => p.1 == die && p.2.1 == pn && decide (p.2.2 < x.base + off + n) && decide (x.base + off < p.2.2 + 4))).map
      (fun p => poisoned (resUnit die pn p.2.2) true)
  | none => none
def State.cellBad (s : State) (w : Who) (die c : Nat) : Option AFault :=
  match (s.range? w.rid).bind (fun r => r.resv.find? (fun x => x.die == die)) with
  | some x =>
    let pn := s.partOn w.asid die
    if s.mem.cellPoison.contains (die, pn, x.cb + c) then some (poisoned (cellUnit die pn (x.cb + c)) true) else none
  | none => none
/-- The word of the core store is poisoned: one of a window in its register, another in its place. -/
def State.wordBad (s : State) (die num o : Nat) : Bool :=
  match s.storeAt die num o with
  | .reg gid t r _ => (match s.group? gid with | some g => (g.th t).bad.contains (BitVec.ofNat 6 r) | none => false)
  | _ => s.mem.corePoison.contains (die, num, o)
def State.coreBad (s : State) (die num off n : Nat) : Option AFault :=
  (((List.range (n / 4 + 2)).map (fun i => off / 4 * 4 + 4 * i)).find? (fun o => decide (o < off + n) && s.wordBad die num o)).map
    (fun o => poisoned (unitAddr die num o) true)
/-- Reservoir words and cells written whole lose their poison. -/
def State.resHeal (s : State) (w : Who) (die off n : Nat) : State :=
  match (s.range? w.rid).bind (fun r => r.resv.find? (fun x => x.die == die)) with
  | some x =>
    let pn := s.partOn w.asid die
    s.updMem (fun m => { m with resPoison := m.resPoison.filter (fun p =>
      !(p.1 == die && p.2.1 == pn && decide (x.base + off ≤ p.2.2) && decide (p.2.2 + 4 ≤ x.base + off + n))) })
  | none => s
def State.cellHeal (s : State) (w : Who) (die c : Nat) : State :=
  match (s.range? w.rid).bind (fun r => r.resv.find? (fun x => x.die == die)) with
  | some x => s.updMem (fun m => { m with cellPoison := m.cellPoison.filter (· != (die, s.partOn w.asid die, x.cb + c)) })
  | none => s
def State.scrOff (s : State) (w : Who) (off : Nat) : Nat := match s.group? w.gid with | some g => g.scrBase + off | none => off

def tgtBad (s : State) (w : Who) (t : Tgt) (n : Nat) : Option AFault :=
  match t with
  | .glob _ => none
  | .scr off => s.coreBad w.die w.core (s.scrOff w off) n
  | .core die num off => s.coreBad die num off n
  | .resv die off => s.resBad w die off n
  | .cell die c _ => s.cellBad w die c

/-- A release at .di or wider before an access to a place on the chip (R84, R111): the buffer drains, and the core that the place
belongs to has seen what was released. -/
def relAt (s : State) (w : Who) (t : Tgt) (rel : Bool) : State :=
  match t with
  | .glob _ => s
  | .core die num _ =>
    if rel then
      let s := releaseCore s w.die w.core
      s.updCore die num (fun c => c.setPts (s.core w.die w.core).pts)
    else s
  | .resv die off => (if rel then releaseCore s w.die w.core else s).resvReady w.rid die off
  | _ => if rel then releaseCore s w.die w.core else s
/-- An acquire at .di or wider after it: a core-store word was last written under its core's clock at most. -/
def acqAt (s : State) (w : Who) (t : Tgt) (acq : Bool) : State :=
  match t with
  | .core die num _ => if acq then s.updCore w.die w.core (fun c => c.setPts (s.core die num).pts) else s
  | _ => s

def tgtLoad (s : State) (w : Who) (t : Tgt) (n : Nat) (acq : Bool) : Except AFault (List Byte × State) :=
  match tgtBad s w t n with
  | some f => .error f
  | none =>
    match t with
    | .glob va => loadGlobal s w va n acq
    | .scr off => match s.group? w.gid with | some g => .ok (g.scr off n, s) | none => .ok (List.replicate n 0, s)
    | .core die num off => .ok (s.storeRead die num off n, acqAt s w t acq)
    | .resv die off => .ok (s.resvRead w.rid die off n, (s.resvReady w.rid die off).resvSeen w die false (off / 128) false)
    | .cell die c byte =>
      match s.range? w.rid with
      | some r => .ok (leBytes 4 ((r.cellGet die c).word byte).toNat, s.resvSeen w die true c false)
      | none => .ok (List.replicate n 0, s)

def tgtStore (s : State) (w : Who) (t : Tgt) (bs : List Byte) (rel : Bool) : Except AFault State :=
  let s := match t with
    | .scr off => s.coreHeal w.die w.core (s.scrOff w off) bs.length
    | .core die num off => s.coreHeal die num off bs.length
    | .resv die off => s.resHeal w die off bs.length
    | .cell die c _ => s.cellHeal w die c
    | .glob _ => s
  match tgtBad s w t bs.length with
  | some f => .error f
  | none =>
    let s := relAt s w t rel
    match t with
    | .glob va => storeGlobal s w va bs rel
    | .scr off => .ok (s.scrWrite w.gid off bs)
    | .core die num off => .ok (s.storeWrite die num off bs)
    | .resv die off => .ok ((s.resvWrite w.rid die off bs).resvSeen w die false (off / 128) true)
    | .cell die c _ => .ok ((s.cellPut w.rid die c (Cell.store (BitVec.ofNat 32 (leNat bs)))).resvSeen w die true c true)

/-! ## Watches (R296) -/

/-- A performed access, as the watch slots see it. -/
structure Hit where
  t : Nat
  scr : Bool
  lo : Nat
  n : Nat
  rd : Bool
  wr : Bool
  also : Bool := false                     -- a second name of an access that has one already

def BkSlot.names (b : BkSlot) (rid : Nat) (gseq : W64) : Bool := b.rid == rid && (b.gseq == 0xFFFFFFFFFFFFFFFF || b.gseq == gseq)
def BkSlot.sees (b : BkSlot) (h : Hit) : Bool :=
  ((b.kind.getLsbD 0 && h.rd) || (b.kind.getLsbD 1 && h.wr)) && b.kind.getLsbD 2 == h.scr
    && decide (h.lo < b.addr.toNat + b.len) && decide (b.addr.toNat < h.lo + h.n)

/-- Accesses that overlap a watch slot of the group are noted on the bundle. -/
def noteWatch (s : State) (c : Ctx) (hs : List Hit) : State :=
  let hit := (s.part c.g.part).wt.filterMap (fun x =>
    if x.2.names c.r.rid c.g.gseq then
      let ts := (hs.filter x.2.sees).map (·.t)
      if ts.isEmpty then none else some (x.1, x.2.addr, lanesMask ts, c.c.pc)
    else none)
  if hit.isEmpty then s else s.updBundle c.g.id c.b.id (fun b => { b with watch := b.watch ++ hit })

/-- A scratch access has its offset, another its address; one that reaches the group's own scratch through the aperture has both,
and a window access (R224) neither. -/
def Tgt.hits (g : Group) (t : Nat) (k : AKind) (va n : Nat) : Tgt → List Hit
  | .scr off => [⟨t, true, off, n, k.reads, k.writes, false⟩]
  | .core .. =>
    if isAperture va then
      let x := g.canonRange false va
      ⟨t, false, va, n, k.reads, k.writes, false⟩ :: (if x.1 then [⟨t, true, x.2, n, k.reads, k.writes, true⟩] else [])
    else []
  | _ => [⟨t, false, va, n, k.reads, k.writes, false⟩]

/-! ## All lanes of one instruction -/

/-- A lane's fault. -/
def laneFault (c : Ctx) (t : Nat) (f : AFault) (addr : W64) : DFault :=
  { code := f.code, cause := f.cause, level := f.level, addr := addr, team := teamOf t, lane := laneOf t,
    lanes := lanesMask [t], pc := c.c.pc }

/-- What the lanes of an instruction have done so far. -/
structure Acc where
  s : State
  vals : List (Nat × Nat) := []
  faults : List DFault := []
  hits : List Hit := []
  nonres : List Nat := []
  wait : List Nat := []                    -- lanes whose addition waits for its log (R430, R431)

/-- Who makes a lane's access: one of a sector that the instruction has reached is coalesced with what reached it (R423). -/
def Acc.who (a : Acc) (c : Ctx) (addr : W64) : Who := { c.who with again := a.hits.any (fun h => !h.scr && h.lo / 128 == addr.toNat / 128) }
/-- A lane's checked access with its address, its check and its effect; `res` says the load names a residency predicate. One that meets
a non-resident SO page releases all the same (R221, R222). -/
def Acc.lane (a : Acc) (c : Ctx) (t : Nat) (addr : W64) (n : Nat) (k : AKind) (res : Bool) (chk : State → Except AFault Tgt)
    (run : Who → State → Tgt → Except AFault (Nat × State)) : Acc :=
  match chk a.s with
  | .error f => { a with faults := a.faults ++ [laneFault c t f addr] }
  | .ok tg =>
    match run (a.who c addr) a.s tg with
    | .error f =>
      if res && f.nonres then
        let s := a.s.poisonRec f
        { a with s := if isSo addr.toNat then releaseCore s c.g.die c.g.core else s, nonres := a.nonres ++ [t], vals := a.vals ++ [(t, 0)] }
      else
        { a with s := a.s.poisonRec f, faults := a.faults ++ [laneFault c t f addr] }
    | .ok (x, s) =>
      { a with s := s, vals := a.vals ++ [(t, x)],
               hits := a.hits ++ tg.hits c.g t k addr.toNat n }

/-- The end of an instruction's accesses: faults and watch hits noted. -/
def Acc.done (a : Acc) (c : Ctx) : State := noteWatch (a.s.dataFaults c a.faults) c a.hits

/-- A load over threads with their addresses; each lane's value is taken as the instruction issues (log entry 97). -/
def loads (s : State) (c : Ctx) (n : Nat) (acq res : Bool) (ts : List (Nat × W64)) (chk : State → Nat → W64 → Except AFault Tgt) : Acc :=
  ts.foldl (fun a x => a.lane c x.1 x.2 n .load res (fun s => chk s x.1 x.2)
    (fun w s tg => match tgtLoad s w tg n acq with
      | .ok (bs, s) => .ok (leNat bs, s)
      | .error f => .error f)) { s := s }

/-- A store over threads with addresses and values, in ascending lane home (R218). -/
def stores (s : State) (c : Ctx) (n : Nat) (rel : Bool) (ts : List (Nat × W64 × Nat)) (chk : State → Nat → W64 → Except AFault Tgt) : Acc :=
  ts.foldl (fun a x => a.lane c x.1 x.2.1 n .store false (fun s => chk s x.1 x.2.1)
    (fun w s tg => match tgtStore s w tg (leBytes n x.2.2) rel with
      | .ok s => .ok (0, s)
      | .error f => .error f)) { s := s }

end Sys2Proof.Machine
end

