-- ==== Sys2Proof/Machine/Tele.lean ====
section
/-! DEFINITION. Telemetry as the machine writes it: the trace, log and sample rings (R422, R425 to R430), order entries (R429) and
what a followed log allows (R431). -/

namespace Sys2Proof.Machine

/-! ## Rings (R422) -/

/-- Physical base and size of a ring register; none where the size code makes the ring absent. -/
def ringOf (r : W64) : Option (Nat × Nat) :=
  let k := (r.extractLsb 5 0).toNat
  if 12 ≤ k && k ≤ 30 then some ((r.extractLsb 47 12).toNat * 4096, 2 ^ k) else none

def ten (p : Part) : Bool := p.tctl.getLsbD 0
def logOn (p : Part) : Bool := p.tctl.getLsbD 4
def lstall (p : Part) : Bool := p.tctl.getLsbD 8
def sint (p : Part) : Nat := (p.tctl.extractLsb 20 16).toNat

/-- Bytes at a position of a ring, in pieces of 32 bytes: every position is a multiple of 32, so each wraps by itself. -/
def ringPut (s : State) (r : Nat × Nat) (prod : W64) (bs : List Byte) : State :=
  (List.range (ceilDiv bs.length 32)).foldl (fun s i => s.paWrite (r.1 + (prod.toNat + 32 * i) % r.2) ((bs.drop (32 * i)).take 32)) s

/-- A record of a source in its place among those of the tick (R7). -/
def ringAdd (s : State) (r : Nat × Nat) (prod : W64) (tl : Tail) (key : Nat) (bs : List Byte) : State × Tail :=
  let l := if tl.tick == s.ticks then tl.recs else []
  let after := l.dropWhile (fun x => decide (x.1 ≤ key))
  (ringPut s r (prod - BitVec.ofNat 64 (sumOf (fun x => x.2.length) after)) (bs ++ (after.map (·.2)).flatten),
   { tick := s.ticks, recs := l.takeWhile (fun x => decide (x.1 ≤ key)) ++ (key, bs) :: after })

/-- A count that saturates at 2^64 − 1 (R422). -/
def lostMore (x : W64) (n : Nat) : W64 := BitVec.ofNat 64 (min (x.toNat + n) (2 ^ 64 - 1))

def ringFits (r : Nat × Nat) (prod cons : W64) (n : Nat) : Bool := decide ((prod - cons).toNat + n ≤ r.2)

/-! ## Trace (R426 to R428) -/

def syncPacket (s : State) (p : Part) : List Byte :=
  leBytes 8 s.ticks ++ leBytes 4 p.tsync ++ leBytes 3 0 ++ leBytes 1 1 ++ List.replicate 16 0xA5
def lostPacket (s : State) (p : Part) : List Byte :=
  leBytes 8 s.ticks ++ leBytes 4 p.tdrop ++ leBytes 3 0 ++ leBytes 1 6 ++ List.replicate 16 0

/-- One packet into the ring, if it fits: that of a source in its place, one of the ring's own behind all before it and before all after. -/
def tracePut (s : State) (pn : Nat) (bs : List Byte) (key : Option Nat := none) : State :=
  let p := s.part pn
  match ringOf p.tbase with
  | none => s.updPart pn (fun p => { p with tlost := lostMore p.tlost 1 })
  | some r =>
    if ringFits r p.tprod p.tcons bs.length then
      let x := match key with
        | some k => ringAdd s r p.tprod p.ttail k bs
        | none => (ringPut s r p.tprod bs, {})
      x.1.updPart pn (fun p => { p with tprod := p.tprod + BitVec.ofNat 64 bs.length, tsync := p.tsync + 1, tsince := p.tsince + 1, ttail := x.2 })
    else s.updPart pn (fun p => { p with tlost := lostMore p.tlost 1, tdrop := p.tdrop + 1 })

/-- A sync packet is due after every 4,096 further packets. -/
def syncDue (p : Part) : Bool := ten p && decide (p.tsince ≥ 4096) && p.tdrop == 0
def traceSyncNow (s : State) (pn : Nat) : State :=
  (tracePut s pn (syncPacket s (s.part pn))).updPart pn (fun p => { p with tsince := 0 })
/-- The lost packet and the sync packet are due when packets have been dropped and there is space for both. -/
def lostDue (p : Part) : Bool :=
  ten p && decide (p.tdrop > 0) && (match ringOf p.tbase with | some r => ringFits r p.tprod p.tcons 64 | none => false)
def traceLostNow (s : State) (pn : Nat) : State :=
  let p := s.part pn
  let s := (tracePut s pn (lostPacket s p)).updPart pn (fun p => { p with tdrop := 0 })
  traceSyncNow s pn

/-- Packets of one source, which stand together; what is due first goes first. -/
def traceWrite (s : State) (pn key : Nat) (ps : List (List Byte)) : State :=
  if ten (s.part pn) then
    let s := if lostDue (s.part pn) then traceLostNow s pn else s
    let s := if syncDue (s.part pn) then traceSyncNow s pn else s
    if (s.part pn).tdrop > 0 then
      s.updPart pn (fun p => { p with tlost := lostMore p.tlost ps.length, tdrop := p.tdrop + ps.length })
    else ps.foldl (fun s b => tracePut s pn b (some key)) s
  else s

/-- Whether a bundle waits, as trace and DRDS see it. -/
def Bundle.waiting (b : Bundle) : Bool :=
  match b.st with
  | .ready | .stalled | .drain => b.outst.any (fun o => !o.pend.isEmpty)
  | _ => true

/-- The state set of a group (R428); the bundles of one Basin make one packet. -/
def stateSet (s : State) (g : Group) (r : RangeSt) : List (List Byte) :=
  let basins := (g.bundles.filterMap (fun b => match b.st with | .basin k _ => some k | _ => none)).eraseDups
  let plain := g.bundles.filter (fun b => match b.st with | .basin _ _ => false | _ => true)
  let pk := fun (pc : W64) (ts : List Nat) (waiting : Bool) =>
    let low := (ts.map laneOf).foldl min 31
    let team := ((ts.find? (fun t => laneOf t == low)).map teamOf).getD 0
    leBytes 8 pc.toNat ++ leBytes 4 (lanesMask ts).toNat ++ leBytes 1 team ++
      leBytes 1 ((decide ((teamsOf ts).length > 1)).toNat + 2 * waiting.toNat + 4 * g.halted.toNat) ++ leBytes 1 0 ++ leBytes 1 5 ++
      leBytes 8 g.gseq.toNat ++ List.replicate 8 0
  let bs := plain.map (fun b => pk b.pc b.ts (b.waiting || g.stop.isSome)) ++ basins.map (fun k =>
    let mine := g.bundles.filter (fun b => match b.st with | .basin j _ => j == k | _ => false)
    pk ((mine.head?.map (·.pc)).getD 0) (mine.map (·.ts)).flatten true)
  let xyz := fun (t : Nat × Nat × Nat) => leBytes 4 t.1 ++ leBytes 4 t.2.1 ++ leBytes 4 t.2.2
  [leBytes 8 s.ticks ++ leBytes 4 g.rid ++ leBytes 2 bs.length ++ leBytes 1 0 ++ leBytes 1 3 ++ leBytes 8 g.gseq.toNat ++
     leBytes 4 g.barph.toNat ++ leBytes 4 r.gbarph.toNat,
   xyz g.base ++ leBytes 3 0 ++ leBytes 1 4 ++ xyz g.ext ++ leBytes 4 0] ++ bs

/-! ## The log (R429, R430) -/

/-- Whether an entry of n bytes must wait (LSTALL). -/
def logWaits (s : State) (pn n : Nat) : Bool :=
  let p := s.part pn
  logOn p && lstall p && !p.lfull && (match ringOf p.lbase with | some r => !(ringFits r p.lprod p.lcons (n + 32)) | none => false)

def fullEntry (s : State) : List Byte := leBytes 8 s.ticks ++ leBytes 7 0 ++ leBytes 1 5 ++ List.replicate 16 0

/-- An entry with what follows it, a multiple of 32 bytes, in the place of its source. The answer says whether it was written. -/
def logPut (s : State) (pn key : Nat) (bs : List Byte) : State × Bool :=
  let p := s.part pn
  if logOn p && !p.lfull then
    match ringOf p.lbase with
    | none => (s, false)
    | some r =>
      if ringFits r p.lprod p.lcons (bs.length + 32) then
        let x := ringAdd s r p.lprod p.ltail key bs
        (x.1.updPart pn (fun p => { p with lprod := p.lprod + BitVec.ofNat 64 bs.length, ltail := x.2 }), true)
      else
        let s := ringPut s r p.lprod (fullEntry s)
        let s := s.updPart pn (fun p => { p with lprod := p.lprod + 32, lfull := true, ltail := {} })
        ({ s with ranges := upd (fun x => x.part == pn) (fun x => { x with ckpt := false }) s.ranges }, false)
  else (s, false)

/-- An entry of a logged range, once a checkpoint of it stands in the log. -/
def logRange (s : State) (pn key : Nat) (r : RangeSt) (bs : List Byte) : State := if r.logged && r.ckpt then (logPut s pn key bs).1 else s

/-- Whether an entry of the range must wait for room. -/
def rangeWaits (s : State) (pn : Nat) (r : RangeSt) (n : Nat) : Bool := r.logged && r.ckpt && logWaits s pn n

/-- An FP32 addition request queued at a word: counted, and its order entry, of the slice or bank unit `key` (R429). -/
def orderEntry (s : State) (pn key rid addr : Nat) (gseq pc : W64) : State :=
  match s.range? rid with
  | none => s
  | some r =>
    if r.logged then
      let s := s.countAdd rid addr
      let n := match s.range? rid with | some r => (assoc r.adds addr).getD 0 | none => 0
      logRange s pn key r (leBytes 8 addr ++ leBytes 4 rid ++ leBytes 3 0 ++ leBytes 1 4 ++ leBytes 8 gseq.toNat ++ leBytes 4 (pc - r.img.code).toNat ++
        leBytes 4 n)
    else s

/-- The pop entry (R429). -/
def popEntry (s : State) (pn key : Nat) (r : RangeSt) (gseq ticket : W64) : State :=
  logRange s pn key r (leBytes 8 s.ticks ++ leBytes 4 r.rid ++ leBytes 3 0 ++ leBytes 1 3 ++ leBytes 8 gseq.toNat ++ leBytes 8 ticket.toNat)

/-- Whether the copy that the range follows lets a delivery of this ticket to this group be next for its queue (R431). -/
def popOk (r : RangeSt) (gseq : W64) (h : Nat) (ticket : W64) : Bool :=
  match r.follow with
  | none => true
  | some es =>
    match es.find? (fun e => fld e 15 1 == 3 && fld e 24 8 / 2 ^ 48 % 16 == h) with
    | none => true
    | some e => fld e 16 8 == gseq.toNat && fld e 24 8 == ticket.toNat
def popTake (r : RangeSt) (h : Nat) : RangeSt :=
  match r.follow with
  | none => r
  | some es =>
    match es.find? (fun e => fld e 15 1 == 3 && fld e 24 8 / 2 ^ 48 % 16 == h) with
    | none => r
    | some e => { r with follow := some (es.erase e) }

/-- An addition to a Reservoir word of a range that follows a log: next in its word's order, or it waits (R431). -/
def addNext (r : RangeSt) (addr : Nat) (gseq pc : W64) : Bool := orderOk r addr gseq (pc - r.img.code).toNat

/-! ## Samples (R425) -/

/-- The sectors of a range of bytes as accesses of a thread, for SECT; 33 say more than 32. -/
def sectorHits (t : Nat) (scr : Bool) (lo n : Nat) : List Hit :=
  if n == 0 then [] else (List.range (min 33 (ceilDiv (lo % 128 + n) 128))).map (fun i => ⟨t, scr, lo / 128 * 128 + 128 * i, 1, false, false, false⟩)

/-- The record of a sampled instruction, LAT being the clk from its issue to its last return. -/
def Sample.record (x : Sample) (clk : Nat) : List Byte := x.head ++ leBytes 4 (x.ended.getD clk - x.clk) ++ x.tail

/-- Nothing of the sampled instruction is outstanding: its results have returned, its stores and reductions are acknowledged. -/
def sampleOver (s : State) (c : CoreSt) (x : Sample) : Bool :=
  x.ended.isSome || (match s.group? x.gid with | some g => g.bundles.all (fun b => b.outst.all (fun o => some o.uid != x.uid)) | none => true) &&
    x.secs.all (fun y => !(c.wcb.any (fun e => (e.asid, e.va) == y)) &&
      !(s.mem.slice.any (fun r => r.die == c.die && r.core == c.num && (r.asid, r.va) == y)))
/-- As a clk ends, sampled instructions whose last lane has returned or been acknowledged are noted with it (R425). -/
def samplesOver (s : State) : State :=
  if s.mem.cores.all (fun c => c.sampleDue.isEmpty) then s
  else s.updMem (fun m => { m with cores := m.cores.map (fun c =>
    { c with sampleDue := c.sampleDue.map (fun x => if sampleOver s c x then { x with ended := some (x.ended.getD s.clk) } else x) }) })

/-- A memory instruction has issued: counted; when one is due, its record waits for SAMPLE_RECORD. `late` says that a result of it follows.
Which lane comes last, the passes and the queueing figures are timing the model does not fix (log entry 12). -/
def memIssued (s : State) (c : Ctx) (ts : List Nat) (hits : List Hit) (late : Bool := false) : State :=
  let s := s.count c.g.part 3 1 c.r.qid
  let k := sint (s.part c.g.part)
  let n := (s.core c.g.die c.g.core).memOps
  if k == 0 then s
  else
    let s := s.updCore c.g.die c.g.core (fun x => { x with memOps := n + 1 })
    if decide (n ≥ 2 ^ k) && n % 2 ^ k == 0 then
      let xyz := fun (t : Nat × Nat × Nat) => leBytes 4 t.1 ++ leBytes 4 t.2.1 ++ leBytes 4 t.2.2
      let secs := ((hits.filter (fun h => !h.also)).map (fun h => (h.scr, h.lo / 128))).eraseDups
      let f := s.pkg.fresh
      let last : Byte := if ts.isEmpty then 0xFF else BitVec.ofNat 8 (laneOf (ts.getD ((Config.sampleByte (f + 1)).toNat % ts.length) 0))
      let head := leBytes 8 s.ticks ++ leBytes 4 c.r.rid ++ leBytes 4 (lanesMask ts).toNat ++ leBytes 8 c.g.gseq.toNat ++ leBytes 8 c.c.pc.toNat ++
        xyz c.g.base ++ xyz c.g.ext ++ leBytes 4 c.g.barph.toNat ++ leBytes 1 (min 32 secs.length) ++ [Config.sampleByte f, last, 0] ++
        ((List.range 3).map (fun i => leBytes 4 (Config.sampleClk (f + 2 + i)).toNat)).flatten
      let x : Sample := { head := head, tail := List.replicate 48 0, clk := s.clk, gid := c.g.id, uid := if late then (s.group? c.g.id).map (·.nextB) else none,
                          secs := (secs.filter (fun y => !y.1)).map (fun y => (c.r.asid, 128 * y.2)) }
      (s.updPkg (fun p => { p with fresh := f + 5 })).updCore c.g.die c.g.core (fun k => { k with sampleDue := k.sampleDue ++ [x] })
    else s

/-- A sample record into the ring (R425). -/
def samplePut (s : State) (pn : Nat) (b : List Byte) : State :=
  let p := s.part pn
  let lost := fun (s : State) => s.updPart pn (fun p => { p with slost := lostMore p.slost 1 })
  match ringOf p.sbase with
  | none => lost s
  | some r =>
    if ringFits r p.sprod p.scons 128 then (ringPut s r p.sprod b).updPart pn (fun p => { p with sprod := p.sprod + 128 })
    else lost s

end Sys2Proof.Machine
end

