-- ==== Sys2Proof/Machine/Sluice.lean ====
section
/-! DEFINITION. The Sluice of an edge range (R274 to R280, R284): its reads and writes of the graph arrays, its walks, activation and the
accumulators of ended walks. -/

namespace Sys2Proof.Machine

/-- A fault of a Sluice access with its address. -/
abbrev SErr := AFault × Nat

def RangeSt.updGraph (r : RangeSt) (f : Graph → Graph) : RangeSt := { r with graph := r.graph.map f }
def State.graph? (s : State) (rid : Nat) : Option Graph := (s.range? rid).bind (·.graph)
def State.updGraph (s : State) (rid : Nat) (f : Graph → Graph) : State := s.updRange rid (fun r => r.updGraph f)
def Graph.sluice? (g : Graph) (die : Nat) : Option Sluice := g.sluices.find? (fun x => x.die == die)
def Graph.updSluice (g : Graph) (die : Nat) (f : Sluice → Sluice) : Graph := { g with sluices := upd (fun x => x.die == die) f g.sluices }
/-- The dies of an edge range are numbered in ascending order (R276). -/
def Graph.dieNo (g : Graph) (die : Nat) : Nat := (g.sluices.filter (fun x => decide (x.die < die))).length
def Graph.dies (g : Graph) : Nat := max 1 g.sluices.length
def Graph.ownerDie (g : Graph) (v : Nat) : Nat := ((g.sluices.map (·.die)).find? (fun d => g.dieNo d == v % g.dies)).getD 0

/-- The Sluice at the home slices, for a thread of the group whose instruction it serves (R109); for no thread, no core's clock. -/
def sluWho (s : State) (r : RangeSt) (gid : Nat) : Who :=
  match s.group? gid with
  | some g => { die := g.die, core := g.core, gid := gid, rid := r.rid, asid := r.asid, part := g.part, debug := r.debug, qid := r.qid }
  | none => { die := 4, core := 0, gid := s.nextGid, rid := r.rid, asid := r.asid, part := r.part, qid := r.qid }

/-! ## Words of the arrays (R277: read and written at their home slices) -/

def sluCheck (s : State) (w : Who) (va n : Nat) : Option SErr :=
  if va % n != 0 then some (flt .align, va)
  else match addrCheck s w.asid va with
    | some f => some (f, va)
    | none => if isAperture va then some (flt .prot, va) else none

def sluRead (s : State) (w : Who) (va n : Nat) : Except SErr (Nat × State) :=
  match sluCheck s w va n with
  | some e => .error e
  | none => match agentRead s w va n with
    | .ok (bs, s) => .ok (leNat bs, s)
    | .error f => .error (f, va)
def sluWrite (s : State) (w : Who) (va : Nat) (bs : List Byte) : Except SErr State :=
  match sluCheck s w va bs.length with
  | some e => .error e
  | none => match agentWrite s w va bs with
    | .ok s => .ok s
    | .error f => .error (f, va)

def wordAt (base : W64) (i : Nat) : Nat := (base + BitVec.ofNat 64 (4 * i)).toNat
def sluWord (s : State) (w : Who) (base : W64) (i : Nat) : Except SErr (Nat × State) := sluRead s w (wordAt base i) 4

/-! ## Bitmaps and frontier queues (Table 2 of R274) -/

def Graph.mapBytes (g : Graph) : Nat := roundUp (ceilDiv g.nv 8) 256
/-- Byte of vertex v in bitmap i: 0 current, 1 next, 2 settled. -/
def Graph.mapAt (g : Graph) (i v : Nat) : Nat := (g.fbmp + BitVec.ofNat 64 (i * g.mapBytes + v / 8)).toNat
def Graph.fqAt (g : Graph) (q i : Nat) : Nat := wordAt g.fq (g.nv * q + i)

def mapBit (s : State) (w : Who) (g : Graph) (i v : Nat) : Except SErr (Bool × State) :=
  match sluRead s w (g.mapAt i v) 1 with
  | .ok (b, s) => .ok (bit b (v % 8), s)
  | .error e => .error e
def mapSet (s : State) (w : Who) (g : Graph) (i v : Nat) : Except SErr State :=
  match sluRead s w (g.mapAt i v) 1 with
  | .ok (b, s) => sluWrite s w (g.mapAt i v) [BitVec.ofNat 8 b ||| (1#8 <<< (v % 8))]
  | .error e => .error e

/-- A bitmap's bytes, written 128 at a time. -/
def mapWrite (s : State) (w : Who) (g : Graph) (i : Nat) (bs : List Byte) : Except SErr State :=
  foldE (fun s (p : Nat × List Byte) => match agentWrite s w p.1 p.2 with
    | .ok s => .ok s
    | .error f => .error (f, p.1)) (piecesOf (g.mapAt i 0) bs) s
def mapRead (s : State) (w : Who) (g : Graph) (i : Nat) : Except SErr (List Byte × State) :=
  foldE (fun (x : List Byte × State) (p : Nat × List Byte) => match agentRead x.2 w p.1 p.2.length with
    | .ok (b, s) => .ok (x.1 ++ b, s)
    | .error f => .error (f, p.1)) (piecesOf (g.mapAt i 0) (List.replicate g.mapBytes 0)) ([], s)

/-- The level-0 frontier (R276); an entry at or above NV sets no bit of it (log entry 127). -/
def graphStart (s : State) (rid gid : Nat) : Except SErr State :=
  match s.range? rid with
  | none => .ok s
  | some r =>
    match r.graph with
    | none => .ok s
    | some g =>
      if g.ready then .ok s
      else
        let w := sluWho s r gid
        let mark := fun (s : State) (i : Nat) =>
          match sluRead s w (g.fqAt 0 i) 4 with
          | .error e => Except.error e
          | .ok (v, s) =>
            if v ≥ g.nv then .ok s
            else match mapSet s w g 0 v with
              | .error e => .error e
              | .ok s => if g.settle then mapSet s w g 2 v else .ok s
        match foldE mark (List.range g.curN) s with
        | .error e => .error e
        | .ok s => match mapWrite s w g 1 (List.replicate g.mapBytes 0) with
          | .error e => .error e
          | .ok s => .ok (s.updGraph rid (fun g => { g with ready := true }))

/-! ## Combining and activation (R278 to R280) -/

/-- The descriptor's combine; 16 is FIRST. -/
def combine (op : Nat) (nil old y : W32) : W32 := if op == 16 then (if old == nil then y else old) else applyOp op 0 old y

/-- A pointer pair, checked against Table 2 of R274: the first pointer is 0, the last is NE. -/
def rowOf (s : State) (w : Who) (base : W64) (g : Graph) (i : Nat) : Except SErr (Nat × Nat × State) :=
  match sluWord s w base i with
  | .error e => .error e
  | .ok (lo, s) =>
    if i == 0 && lo != 0 then .error (flt .illop, wordAt base i)
    else match sluWord s w base (i + 1) with
      | .error e => .error e
      | .ok (hi, s) =>
        if i + 1 == g.nv && hi != g.ne then .error (flt .illop, wordAt base (i + 1))
        else if lo ≤ hi && hi ≤ g.ne then .ok (lo, hi, s) else .error (flt .illop, wordAt base i)

/-- activate(t) of R280, for a thread of the group. -/
def activate (s : State) (rid gid t : Nat) : Except SErr State :=
  match s.range? rid with
  | none => .ok s
  | some r =>
    match r.graph with
    | none => .ok s
    | some g =>
      let w := sluWho s r gid
      let settled := fun (s : State) => if g.settle then mapSet s w g 2 t else .ok s
      match mapBit s w g 1 t with
      | .error e => .error e
      | .ok (true, s) => settled s
      | .ok (false, s) =>
        match rowOf s w g.optr g t with
        | .error e => .error e
        | .ok (lo, hi, s) =>
          match mapSet s w g 1 t with
          | .error e => .error e
          | .ok s => match sluWrite s w (g.fqAt (1 - g.curQ) g.nextN) (leBytes 4 t) with
            | .error e => .error e
            | .ok s =>
              let s := s.updGraph rid (fun g => ({ g with nextN := g.nextN + 1 }).updSluice (g.ownerDie t)
                (fun x => { x with fv := x.fv + 1, feSum := x.feSum + (hi - lo) }))
              settled s

/-- Activations asked for, in order; one that faults stays with those after it. -/
def doActsN (s : State) (rid : Nat) : Nat → State × Option (SErr × W64)
  | 0 => (s, none)
  | n + 1 =>
    match (s.graph? rid).bind (fun g => g.acts.head?) with
    | none => (s, none)
    | some a =>
      match activate s rid a.2.2 a.1 with
      | .error e => (s, some (e, a.2.1))
      | .ok s => doActsN (s.updGraph rid (fun g => { g with acts := g.acts.drop 1 })) rid n
def doActs (s : State) (rid : Nat) : State × Option (SErr × W64) :=
  doActsN s rid (match s.graph? rid with | some g => g.acts.length | none => 0)
def askAct (s : State) (rid gid t : Nat) (pc : W64) : State := (doActs (s.updGraph rid (fun g => { g with acts := g.acts ++ [(t, pc, gid)] })) rid).1

/-- A word read and written at its home slice as one atomic, behind what the thread's core has waiting for it. -/
def sluRmw (s : State) (w : Who) (va : Nat) (f : W32 → W32) : Except SErr (W32 × State) :=
  match sluCheck s w va 4 with
  | some e => .error e
  | none =>
    if w.die < 4 then
      match rmwSlice (soRelease s w va) w va 4 (fun x => some (f (BitVec.ofNat 32 x)).toNat) with
      | .error f => .error (f, va)
      | .ok (old, s) => .ok (BitVec.ofNat 32 old, s)
    else
      match sluRead s w va 4 with
      | .error e => .error e
      | .ok (old, s) => match sluWrite s w va (leBytes 4 (f (BitVec.ofNat 32 old)).toNat) with
        | .error e => .error e
        | .ok s => .ok (BitVec.ofNat 32 old, s)

/-- One atomic on a state word at its home slice, and the activation it asks for. -/
def stateComb (s : State) (rid : Nat) (h : Comb) : Except SErr State :=
  match s.range? rid with
  | none => .ok s
  | some r =>
    match r.graph with
    | none => .ok s
    | some g =>
      let f := fun (old : W32) => combine g.op g.nil old h.y
      match sluRmw s (sluWho s r h.gid) (wordAt g.state h.t) f with
      | .error e => .error e
      | .ok (old, s) => .ok (if g.autoact && f old != old then askAct s rid h.gid h.t h.pc else s)

/-- Accumulators of ended walks applied in order (R279); one that faults stays. -/
def flushN (s : State) (rid die : Nat) : Nat → State × Option (SErr × W64)
  | 0 => (s, none)
  | n + 1 =>
    match ((s.graph? rid).bind (fun g => g.sluice? die)).bind (fun x => x.accs.head?) with
    | none => (s, none)
    | some a =>
      match stateComb s rid a with
      | .error e => (s, some (e, a.pc))
      | .ok s => flushN (s.updGraph rid (fun g => g.updSluice die (fun x => { x with accs := x.accs.drop 1 }))) rid die n
def flush (s : State) (rid die : Nat) : State × Option (SErr × W64) :=
  flushN s rid die (match (s.graph? rid).bind (fun g => g.sluice? die) with | some x => x.accs.length | none => 0)

/-- What a walk's accumulator combines into its target. -/
def DrawWalk.comb (d : DrawWalk) : Option Comb := d.acc.map (fun a => { t := d.t, y := a, pc := d.pc, gid := d.gid, tid := d.tid })
/-- Walks the test names end: their accumulators are to be applied. -/
def Sluice.endWalks (x : Sluice) (p : DrawWalk → Bool) : Sluice :=
  { x with walks := x.walks.filter (fun d => !p d), accs := x.accs ++ (x.walks.filter p).filterMap DrawWalk.comb }
def endWalks (s : State) (rid die : Nat) (p : DrawWalk → Bool) : State :=
  (flush (s.updGraph rid (fun g => g.updSluice die (fun x => x.endWalks p))) rid die).1

/-! ## Walks (R277) -/

/-- Mode of the next walk by R282, with the given sums. -/
def nextMode (draw : Bool) (alpha beta fv fe nv ne : Nat) : Bool := if draw then !(decide (fv * beta < nv)) else decide (fe * alpha > ne)

/-- MIDSW: a re-decision at each 4,096 triples (R284). -/
def switchDue (g : Graph) (x : Sluice) : Bool := g.midsw && x.delivered % 4096 == 0 && x.delivered != x.decided && g.emode != 2
def midSwitch (s : State) (rid die : Nat) : State :=
  match s.graph? rid with
  | none => s
  | some g =>
    match g.sluice? die with
    | none => s
    | some x =>
      if switchDue g x then
        let d := g.dies
        let m := nextMode x.mode g.alpha g.beta x.fv x.feSum (g.nv / d) (g.ne / d)
        if m == x.mode then s.updGraph rid (fun g => g.updSluice die (fun x => { x with decided := x.delivered }))
        else
          let s := endWalks s rid die (fun _ => true)
          s.updGraph rid (fun g => g.updSluice die (fun x =>
            { x with decided := x.delivered, mode := m, fi := 0, fe := 0, ti := 0, ep := if x.mode then x.ep + 1 else x.ep }))
      else s

/-- What a walk gives: a triple or none, the Sluice after it. -/
abbrev Took := Except SErr (Option Triple × Sluice × State)

def edgeWord (s : State) (w : Who) (base : W64) (e : Nat) : Except SErr (Nat × State) := if base == 0 then .ok (0, s) else sluWord s w base e

/-- Spill: the frontier's origins in queue order; the unread queue is the fuel. -/
def spillGo (w : Who) (g : Graph) (no : Nat) : Nat → State → Sluice → Took
  | 0, s, x => .ok (none, x, s)
  | n + 1, s, x =>
    if x.fi ≥ g.curN then .ok (none, x, s)
    else match sluRead s w (g.fqAt g.curQ x.fi) 4 with
      | .error e => .error e
      | .ok (o, s) =>
        let skip := { x with fi := x.fi + 1, fe := 0 }
        if o % g.dies != no then spillGo w g no n s skip
        else if o ≥ g.nv then .error (flt .illop, g.fqAt g.curQ x.fi)
        else match rowOf s w g.optr g o with
          | .error e => .error e
          | .ok (lo, hi, s) =>
            let e := lo + x.fe
            if e ≥ hi then spillGo w g no n s skip
            else match sluWord s w g.oidx e with
              | .error e => .error e
              | .ok (t, s) =>
                if t ≥ g.nv then .error (flt .illop, wordAt g.oidx e)
                else match edgeWord s w g.owt e with
                  | .error e => .error e
                  | .ok (v, s) =>
                    .ok (some { o := BitVec.ofNat 32 o, t := BitVec.ofNat 32 t, w := BitVec.ofNat 32 v, draw := false, idx := e },
                         { x with fe := x.fe + 1 }, s)

/-- The next in-edge from index e on whose origin is in the current frontier: index and origin. -/
def inScan (w : Who) (g : Graph) : Nat → State → Nat → Except SErr (Option (Nat × Nat) × State)
  | 0, s, _ => .ok (none, s)
  | n + 1, s, e =>
    match sluWord s w g.iidx e with
    | .error e => .error e
    | .ok (o, s) =>
      if o ≥ g.nv then .error (flt .illop, wordAt g.iidx e)
      else match mapBit s w g 0 o with
        | .error e => .error e
        | .ok (true, s) => .ok (some (e, o), s)
        | .ok (false, s) => inScan w g n s (e + 1)

def drawTriple (s : State) (w : Who) (g : Graph) (t : Nat) (f : Nat × Nat) : Except SErr (Triple × State) :=
  match edgeWord s w g.iwt f.1 with
  | .error e => .error e
  | .ok (v, s) => .ok ({ o := BitVec.ofNat 32 f.2, t := BitVec.ofNat 32 t, w := BitVec.ofNat 32 v, draw := true, idx := f.1 }, s)

/-- Draw: the next owned target with a delivered in-edge; the targets left are the fuel. -/
def drawGo (w : Who) (g : Graph) (no gid tid : Nat) (pc : W64) : Nat → State → Sluice → Took
  | 0, s, x => .ok (none, x, s)
  | n + 1, s, x =>
    let t := x.ti
    let skip := { x with ti := t + 1 }
    if t ≥ g.nv then .ok (none, x, s)
    else if t % g.dies != no then drawGo w g no gid tid pc n s skip
    else match (if g.settle then mapBit s w g 2 t else .ok (false, s)) with
      | .error e => .error e
      | .ok (true, s) => drawGo w g no gid tid pc n s skip
      | .ok (false, s) =>
        match rowOf s w g.iptr g t with
        | .error e => .error e
        | .ok (lo, hi, s) =>
          match inScan w g (hi - lo) s lo with
          | .error e => .error e
          | .ok (none, s) => drawGo w g no gid tid pc n s skip
          | .ok (some f, s) =>
            match drawTriple s w g t f with
            | .error e => .error e
            | .ok (tr, s) => .ok (some tr, { skip with walks := x.walks ++ [{ gid := gid, tid := tid, t := t, e := f.1 + 1, pc := pc }] }, s)

/-- A thread's walk goes on, or has no triple left. -/
def drawOn (s : State) (w : Who) (g : Graph) (d : DrawWalk) : Except SErr (Option (Triple × Nat) × State) :=
  match rowOf s w g.iptr g d.t with
  | .error e => .error e
  | .ok (_, hi, s) =>
    match inScan w g (hi - d.e) s d.e with
    | .error e => .error e
    | .ok (none, s) => .ok (none, s)
    | .ok (some f, s) => match drawTriple s w g d.t f with
      | .error e => .error e
      | .ok (tr, s) => .ok (some (tr, f.1 + 1), s)

def walkOf (gid tid : Nat) (d : DrawWalk) : Bool := d.gid == gid && d.tid == tid

def newTriple (s : State) (rid die gid tid : Nat) (pc : W64) : Except SErr (Option Triple × State) :=
  match s.range? rid with
  | none => .ok (none, s)
  | some r =>
    match r.graph, r.graph.bind (fun g => g.sluice? die) with
    | some g, some x =>
      let w := sluWho s r gid
      let no := g.dieNo die
      match (if x.mode then drawGo w g no gid tid pc (g.nv + 1) s x else spillGo w g no (g.curN + 1) s x) with
      | .error e => .error e
      | .ok (tr, x, s) =>
        let s := if tr.isSome then s.count (s.partOn r.asid die) 11 1 r.qid else s
        .ok (tr.map (fun t => { t with pc := pc, ep := x.ep }), s.updGraph rid (fun g => g.updSluice die (fun _ => { x with delivered := if tr.isSome then x.delivered + 1 else x.delivered })))
    | _, _ => .ok (none, s)

/-- What ENEXT gives one lane (R277). -/
def sluTake (s : State) (rid die gid tid : Nat) (pc : W64) : Except SErr (Option Triple × State) :=
  match graphStart s rid gid with
  | .error e => .error e
  | .ok s =>
    let s := midSwitch s rid die
    match s.range? rid with
    | none => .ok (none, s)
    | some r =>
      match r.graph, r.graph.bind (fun g => g.sluice? die) with
      | some g, some x =>
        if g.emode == 2 then .ok (none, s)
        else match x.walks.find? (walkOf gid tid) with
          | none => newTriple s rid die gid tid pc
          | some d =>
            match drawOn s (sluWho s r gid) g d with
            | .error e => .error e
            | .ok (some (tr, e), s) =>
              .ok (some { tr with pc := pc, ep := x.ep }, (s.count (s.partOn r.asid die) 11 1 r.qid).updGraph rid (fun g => g.updSluice die (fun x =>
                { x with walks := upd (walkOf gid tid) (fun d => { d with e := e }) x.walks, delivered := x.delivered + 1 })))
            | .ok (none, s) => newTriple (endWalks s rid die (walkOf gid tid)) rid die gid tid pc
      | _, _ => .ok (none, s)

/-! ## Combines of a logged range (R285) -/

/-- The current triple of a thread: the one last delivered to it, returned or not. -/
def Group.triple (g : Group) (t : Nat) : Option Triple :=
  match g.bundles.findSome? (fun b => b.outst.reverse.findSome? (fun o => (o.e.reverse.find? (fun x => x.1 == t)).map (·.2.1))) with
  | some x => x
  | none => (g.th t).tri
/-- A thread of the group holds a spill triple of the same target with a lower index, which it has not combined and may combine still. -/
def Group.mayComb (g : Group) (done : List (Nat × Nat × Nat)) (h : Comb) : Bool :=
  g.bundles.any (fun b => b.st != .elevel && b.st != .gbar && b.ts.any (fun t => match g.triple t with
    | some tr => !tr.draw && tr.t.toNat == h.t && decide (tr.idx < h.idx) && !(done.contains (g.id, t, tr.idx))
    | none => false))
/-- A Sluice in spill mode still has an edge into the target with a lower index to deliver, from a place of its queue on; the unread
queue is the fuel. -/
def owesEdge (w : Who) (g : Graph) (no : Nat) (h : Comb) : Nat → State → Nat → Nat → Bool
  | 0, _, _, _ => false
  | n + 1, s, fi, fe =>
    if fi ≥ g.curN then false
    else match sluRead s w (g.fqAt g.curQ fi) 4 with
      | .error _ => true
      | .ok (o, s) =>
        if o % g.dies != no || o ≥ g.nv then owesEdge w g no h n s (fi + 1) 0
        else match rowOf s w g.optr g o with
          | .error _ => true
          | .ok (lo, hi, s) =>
            (List.range (min hi h.idx - (lo + fe))).any (fun i => match sluWord s w g.oidx (lo + fe + i) with
              | .ok (v, _) => v == h.t
              | .error _ => true) || owesEdge w g no h n s (fi + 1) 0
/-- No combine of a lower index into the target is to come before this one (log entry 147). -/
def combFree (s : State) (r : RangeSt) (g : Graph) (h : Comb) : Bool :=
  !(g.logq.any (fun k => k.t == h.t && decide (k.idx < h.idx))) &&
    !(s.groups.any (fun x => x.rid == r.rid && x.mayComb g.combed h)) &&
    (g.emode == 2 || g.sluices.all (fun x => x.mode || !(owesEdge (sluWho s r s.nextGid) g (g.dieNo x.die) h (g.curN + 1) s x.fi x.fe)))
def combsGoN (s : State) (rid : Nat) : Nat → State × Option (SErr × W64)
  | 0 => (s, none)
  | n + 1 =>
    match s.range? rid, s.graph? rid with
    | some r, some g => (match g.logq.find? (combFree s r g) with
      | none => (s, none)
      | some h => match stateComb s rid h with
        | .error e => (s, some (e, h.pc))
        | .ok s => combsGoN (s.updGraph rid (fun g => { g with logq := g.logq.erase h })) rid n)
    | _, _ => (s, none)
/-- The held combines whose turn has come are performed, or the first fault. -/
def combsGo (s : State) (rid : Nat) : State × Option (SErr × W64) :=
  combsGoN s rid (match s.graph? rid with | some g => g.logq.length | none => 0)

/-- The held combine that is first of all, by target in ascending CSR index. -/
def logqNext (g : Graph) : Option Comb :=
  g.logq.foldl (fun acc x => match acc with
    | none => some x
    | some y => if x.t < y.t || (x.t == y.t && x.idx < y.idx) then some x else some y) none
def logqRunN (s : State) (rid : Nat) : Nat → State × Option (SErr × W64)
  | 0 => (s, none)
  | n + 1 =>
    match (s.graph? rid).bind logqNext with
    | none => (s, none)
    | some h =>
      match stateComb s rid h with
      | .error e => (s, some (e, h.pc))
      | .ok s => logqRunN (s.updGraph rid (fun g => { g with logq := g.logq.erase h })) rid n
/-- Where no thread can combine any more, all held combines are performed in their order, or the first fault. -/
def logqRun (s : State) (rid : Nat) : State × Option (SErr × W64) :=
  logqRunN s rid (match s.graph? rid with | some g => g.logq.length | none => 0)

/-! ## The start of a range -/

/-- What the EMODE requests held on the range's dies ask for: one mode where every request names it (R283). -/
def reqMode (s : State) (g : Graph) : Option Bool :=
  match g.sluices.filterMap (fun x => assoc s.eng.emode x.die) with
  | [] => none
  | q :: qs => if qs.all (· == q) then some q else none

/-- The Sluices at a launch (R276): the mode of level 0 is INIT, or what the requests ask for, and the frontier is read; a read that
faults is made again at the first ENEXT, whose record it then is. -/
def graphLaunch (s : State) (rid : Nat) : State :=
  match s.graph? rid with
  | none => s
  | some g =>
    let m := (reqMode s g).getD g.levelMode
    let s := s.updGraph rid (fun g => { g with levelMode := m, emode := if m then 1 else 0, sluices := g.sluices.map (fun x => { x with mode := m }) })
    match graphStart s rid s.nextGid with
    | .ok s => s
    | .error _ => s

/-- %emode as a lane of a die sees it at its next ENEXT (R284). -/
def emodeAt (g : Graph) (die : Nat) : W32 :=
  if g.emode == 2 then 2 else match g.sluice? die with | some x => if x.mode then 1 else 0 | none => 0

end Sys2Proof.Machine
end

