-- ==== Sys2Proof/Machine/Wait.lean ====
section
/-! DEFINITION. Waiting: parking a bundle, the mask unit (R56 to R58), barriers (R52, R63), Basins (R43, R44), implicit joins (R45),
range queues (R70, R71, R251), rings (R102, R235), and the settling of waits after an arrival. -/

namespace Sys2Proof.Machine

/-! ## Parking and merging bundles -/

/-- Threads in order of lane home; a bundle holds at most one per lane home. -/
def sortLane (ts : List Nat) : List Nat := ((List.range 32).map (fun l => ts.filter (fun t => laneOf t == l))).flatten

/-- The bundles the test names become one, ready at pc. -/
def Group.mergeB (g : Group) (p : Bundle → Bool) (pc : W64) : Group :=
  match g.bundles.filter p with
  | [] => g
  | b :: bs =>
    let m : Bundle := { b with
      id := g.nextB, pc := pc, ts := sortLane (b.ts ++ (bs.map (·.ts)).flatten), st := .ready, nm := false,
      outst := b.outst ++ (bs.map (·.outst)).flatten, haz := b.haz ++ (bs.map (·.haz)).flatten,
      watch := b.watch ++ (bs.map (·.watch)).flatten, lost := 0, age := 0, atClk := (bs.map (·.atClk)).foldl max b.atClk }
    { g with bundles := g.bundles.filter (fun x => !p x) ++ [m], nextB := g.nextB + 1 }

/-- An instruction at which the threads `ts` of the bundle wait: it counts as issued, the threads stay at its PC, the rest of the
bundle goes on as a bundle of its own. `nm`: its marker ends the run when the wait does. -/
def park (s : State) (c : Ctx) (m done : Bool) (ts : List Nat) (st : BStatus) : State :=
  let s := (s.count c.g.part 1 1 c.r.qid).count c.g.part 2 c.b.ts.length c.r.qid
  let rest := c.g.nextB
  let split := c.b.ts.any (fun t => !ts.contains t)
  let s := s.updGroup c.g.id (fun g =>
    let g := { g with issues := g.issues + 1, lanesIssued := g.lanesIssued + c.b.ts.length }
    let g := g.updBundle c.b.id (fun b =>
      { b with byp := if done then [] else (([] : List BypVal) :: b.byp).take 3, runEnded := done, lastPc := c.c.pc, skipBk := false, part := [], blks := [], acted := [] })
    let g := g.splitB c.b.id (fun t => ts.contains t)
    let g := if split then g.updBundle rest (fun b => { b with pc := c.next }) else g
    g.updBundle c.b.id (fun b => { b with st := st, npc := c.next, nm := m && !done }))
  if split && m && !done then endRun s c.g.id rest c.c.pc else s

/-! ## The mask unit (R56, R57, R58) -/

def Team.armed (t : Team) (join : Bool) (m : BitVec 4) : Option Armed := (if join then t.joins else t.waits).find? (fun a => a.mask == m)
def Team.updArmed (t : Team) (join : Bool) (f : List Armed → List Armed) : Team :=
  if join then { t with joins := f t.joins } else { t with waits := f t.waits }

/-- Bits of the threads of a team. -/
def teamMask (ts : List Nat) (team : Nat) : W32 := lanesMask (ts.filter (fun t => teamOf t == team))
/-- Lane homes of a team that hold live threads (R173). -/
def Group.liveMask (g : Group) (team : Nat) : W32 := lanesMask (g.liveTeam team)

def isJoin (team : Nat) (m : BitVec 4) (b : Bundle) : Bool := b.st == .join m && b.ts.all (fun t => teamOf t == team)

/-- A completed join or wait is disarmed; the arrivals of a join go on as one bundle, those of a wait by `Group.waitsOver`. -/
def Group.completeMask (g : Group) (team : Nat) (join : Bool) (m : BitVec 4) : Group :=
  match (g.team team).armed join m with
  | none => g
  | some a =>
    if a.val &&& ~~~a.arr == 0 then
      let g := g.updTeam team (fun t => t.updArmed join (fun l => l.filter (fun x => x.mask != m)))
      if join then
        let npc := ((g.bundles.find? (isJoin team m)).map (·.npc)).getD 0
        g.mergeB (isJoin team m) npc
      else g
    else g

/-- The bundle goes on at npc, with an issue request of its own. -/
def Bundle.wakes (b : Bundle) : Bundle := { b with st := .ready, pc := b.npc, nm := false, age := 0 }
/-- Arrivals whose WAIT is over go on, each in its own bundle: one that holds arrivals of two waits, of which one is over, leaves those of
the other behind (R57). -/
def Group.waitsOver (g : Group) : Group :=
  g.bundles.foldl (fun g b => match b.st with
    | .wait m =>
      let waits := fun (t : Nat) => ((g.team (teamOf t)).armed false m).isSome
      if b.ts.all waits then g
      else if b.ts.any waits then
        let nb := g.nextB
        (g.splitB b.id waits).updBundle nb Bundle.wakes
      else g.updBundle b.id Bundle.wakes
    | _ => g) g

/-- Threads `w` (a lane mask) of a team arrive at JOIN or WAIT m at pc. -/
def Group.arrive (g : Group) (team : Nat) (join : Bool) (m : BitVec 4) (pc : W64) (w : W32) : Group :=
  let val := (g.team team).getM m
  match (g.team team).armed join m with
  | none => (g.updTeam team (fun t => t.updArmed join (fun l => l ++ [{ mask := m, val := val, arr := w, pc := pc }]))).completeMask team join m
  | some a => (g.updTeam team (fun t => t.updArmed join (fun l => upd (fun x => x == a) (fun x => { x with arr := x.arr ||| w }) l))).completeMask team join m

/-- LEAVE m of some threads of a team: their bits leave the mask and every armed value on it (R58). -/
def Group.leaveMask (g : Group) (team : Nat) (m : BitVec 4) (w : W32) : Group :=
  let f := fun (l : List Armed) => upd (fun (a : Armed) => a.mask == m) (fun a => { a with val := a.val &&& ~~~w, arr := a.arr &&& ~~~w }) l
  let g := g.updTeam team (fun t => { (t.setM m (t.getM m &&& ~~~w)) with joins := f t.joins, waits := f t.waits })
  (g.completeMask team true m).completeMask team false m

def allMasks : List (BitVec 4) := (List.range 12).map (BitVec.ofNat 4)

/-- MASKMIS (R60): the mask's number, the armed value and the value met. -/
def maskmisRec (m : BitVec 4) (armed met : W32) (base : FRec) : FRec :=
  { base with code := .maskmis, cause := m.toNat, detail := met ++ armed }

/-- A bundle that waited behind another join of its mask arrives afresh (R57). -/
def rearrive (s : State) (gid : Nat) (b : Bundle) (m : BitVec 4) : State :=
  match s.group? gid with
  | none => s
  | some g =>
    let team := teamOf (b.ts.headD 0)
    let val := (g.team team).getM m
    let named := b.ts.filter (fun t => val.getLsbD (laneOf t))
    match (g.team team).armed true m with
    | some a => if a.pc != b.pc then s
      else if named.isEmpty then finishWait s gid b.id
      else if a.val != val then
        let t := named.headD 0
        stopGroup (s.updBundle gid b.id (fun b => { b with st := .ready })) gid
          (maskmisRec m a.val val { pc := b.pc, team := teamOf t, lane := laneOf t, lanes := lanesMask named }) (some b.id) (some b.npc)
      else s.updGroup gid (fun g =>
        let rest := g.nextB
        let g := g.splitB b.id (fun t => named.contains t)
        let g := if named.length < b.ts.length then g.updBundle rest (fun b => { b with st := .ready, pc := b.npc }) else g
        (g.updBundle b.id (fun b => { b with st := .join m })).arrive team true m b.pc (lanesMask named))
    | none =>
      if named.isEmpty then finishWait s gid b.id
      else s.updGroup gid (fun g =>
        let rest := g.nextB
        let g := g.splitB b.id (fun t => named.contains t)
        let g := if named.length < b.ts.length then g.updBundle rest (fun b => { b with st := .ready, pc := b.npc }) else g
        (g.updBundle b.id (fun b => { b with st := .join m })).arrive team true m b.pc (lanesMask named))

/-! ## Barriers -/

/-- The BAR phase completes when the arrivals equal the live threads (R52). -/
def barDone (s : State) (gid : Nat) : State :=
  match s.group? gid with
  | none => s
  | some g =>
    let bs := g.bundles.filter (fun b => b.st == .bar)
    let n := sumOf (fun b => b.ts.length) bs
    if n != 0 && n == g.live.length then
      (bs.foldl (fun s b => finishWait s gid b.id) s).updGroup gid (fun g => { g with barph := g.barph + 1, barAt := s.clk + 1 })
    else s

/-- Every live thread of the range has arrived at GBAR, and no addition of a core of it is held back. -/
def gbarDue (s : State) (rid : Nat) : Bool :=
  let gs := s.groups.filter (fun g => g.rid == rid)
  let n := sumOf (fun g => sumOf (fun (b : Bundle) => b.ts.length) (g.bundles.filter (fun b => b.st == .gbar))) gs
  n != 0 && n == sumOf (fun (g : Group) => g.live.length) gs && (match s.range? rid with | some r => r.started && r.parked.isEmpty | none => false) &&
    gs.all (fun g => (s.heldOf g.die g.core).isEmpty)
/-- The GBAR phase (R63): every arriving core releases at .dv, its range's held combines are performed, and every resuming core acquires;
F10. -/
def gbarDone (s : State) (rid : Nat) : State :=
  let gs := s.groups.filter (fun g => g.rid == rid)
  let c := logqRun s rid
  if gbarDue s rid && c.2.isNone then
    let s := c.1
    let s := gs.foldl (fun s g => releaseCore s g.die g.core) s
    let t := gs.foldl (fun t g => max t (s.core g.die g.core).pts) 0
    let s := gs.foldl (fun s g => s.updCore g.die g.core (fun c => { c with pts := max c.pts t })) s
    let s := gs.foldl (fun s g => (g.bundles.filter (fun b => b.st == .gbar)).foldl (fun s b => finishWait s g.id b.id) s) s
    s.updRange rid (fun r => { r with gbarph := r.gbarph + 1, gbarAt := s.clk + 1 })
  else s

/-! ## Implicit joins (R45) -/

/-- The PC at which every live thread of the team waits for a team-collective instruction. -/
def Group.collAt (g : Group) (team : Nat) : Option W64 :=
  let bs := g.bundles.filter (fun b => b.st == .coll team)
  let n := (g.liveTeam team).length
  (bs.map (·.pc)).find? (fun pc => n != 0 && sumOf (fun (b : Bundle) => b.ts.length) (bs.filter (fun b => b.pc == pc)) == n)
def Group.collIssue (g : Group) (team : Nat) : Group :=
  match g.collAt team with
  | none => g
  | some pc => g.mergeB (fun b => b.st == .coll team && b.pc == pc) pc

/-! ## Basins (R43, R44) -/

/-- The Basins of a core in use: number, group, key PC, lanes filed, clk of the first filing. -/
def State.basins (s : State) (die core : Nat) : List (Nat × Nat × W64 × W32 × Nat) :=
  let one := (s.groups.filter (fun g => g.die == die && g.core == core)).map (fun g =>
    g.bundles.filterMap (fun b => match b.st with
      | .basin k since => some (k, g.id, b.pc, lanesMask b.ts, since)
      | _ => none))
  let l := one.flatten
  ((l.map (·.1)).eraseDups).map (fun k =>
    let mine := l.filter (fun x => x.1 == k)
    let h := mine.headD (k, 0, 0, 0, 0)
    (k, h.2.1, h.2.2.1, mine.foldl (fun m x => m ||| x.2.2.2.1) 0, mine.foldl (fun t x => min t x.2.2.2.2) h.2.2.2.2))

/-- The Basin a thread at lane home h takes: the lowest with its key whose slot is free, else the lowest empty one. -/
def State.basinFor (s : State) (die core gid : Nat) (pc : W64) (h : Nat) : Option Nat :=
  let bs := s.basins die core
  match (List.range 32).find? (fun k => bs.any (fun x => x.1 == k && x.2.1 == gid && x.2.2.1 == pc && !(x.2.2.2.1.getLsbD h))) with
  | some k => some k
  | none => (List.range 32).find? (fun k => !(bs.any (fun x => x.1 == k)))

def inBasin (k : Nat) (b : Bundle) : Bool := match b.st with | .basin j _ => j == k | _ => false

/-- Whether a bundle of the group waits in one of the ways R44 lists. -/
def Group.atWait (g : Group) (b : Bundle) : Bool :=
  match b.st with
  | .bar | .gbar | .elevel | .join _ | .joinBehind _ | .wait _ | .coll _ | .poll _ | .lwait _ | .basin _ _ | .qpop => true
  | .ready | .stalled | .drain => g.awaits b
  | .recv _ | .dstep => false

/-- Whether a Basin of the group is due by the first or third condition of R44. -/
def Group.basinDue (g : Group) (k : Nat) : Bool :=
  let mine := g.bundles.filter (inBasin k)
  let lanes := lanesMask (mine.map (·.ts)).flatten
  let homes := lanesMask g.live
  !mine.isEmpty && (homes &&& ~~~lanes == 0 || g.bundles.all (fun b => inBasin k b || g.atWait b))

def Group.drawBasin (g : Group) (k : Nat) : Group :=
  g.mergeB (inBasin k) (((g.bundles.find? (inBasin k)).map (·.pc)).getD 0)

/-- Basins of a core that are due are drawn in order of first filing (R44); of two filed first in one clk the one whose group and bundle
stand first goes first (log entry 138). -/
def drawDue (s : State) (die core : Nat) : State :=
  let due := (s.basins die core).filter (fun x => match s.group? x.2.1 with
    | some g => g.basinDue x.1 && g.stop.isNone
    | none => false)
  match due with
  | [] => s
  | x :: xs =>
    let y := xs.foldl (fun y z => if z.2.2.2.2 < y.2.2.2.2 then z else y) x
    s.updGroup y.2.1 (fun g => g.drawBasin y.1)

/-! ## Range queues (R69 to R71, R251) -/

def RangeSt.queue? (r : RangeSt) (h : Nat) : Option RQueue := r.queues.find? (fun q => q.h == h)
def RangeSt.updQ (r : RangeSt) (h : Nat) (f : RQueue → RQueue) : RangeSt := { r with queues := upd (fun q => q.h == h) f r.queues }
/-- The declaration word of a handle (R332). -/
def RangeSt.qword (r : RangeSt) (h : Nat) : W16 := r.img.rrec.queue.getD h 0
def RangeSt.declared (r : RangeSt) (h : Nat) : Bool := r.img.rrec.qdecl.getLsbD h
def RangeSt.isGuest (r : RangeSt) (h : Nat) : Bool := (r.qword h).getLsbD 5
def RangeSt.qsize (r : RangeSt) (h : Nat) : Nat := 2 ^ ((r.qword h).extractLsb 4 0).toNat
def RangeSt.qprio (r : RangeSt) (h : Nat) : Nat := ((r.qword h).extractLsb 10 8).toNat
def RQueue.home (q : RQueue) (die : Nat) : List QEnt := (assoc q.homes die).getD []

/-- The effective priority rises by 1 for each 4,096 pop decisions, up to 7 (R71). -/
def QEnt.aged (e : QEnt) (dec : Nat) : QEnt :=
  let n := (dec - e.since) / 4096
  { e with prio := min 7 (e.prio + n), since := e.since + 4096 * n }

def RangeSt.ageDie (r : RangeSt) (die : Nat) : RangeSt :=
  let dec := (assoc r.popDec die).getD 0
  { r with queues := r.queues.map (fun q => { q with homes := q.homes.map (fun x => if x.1 == die then (x.1, x.2.map (fun e => e.aged dec)) else x) }) }

/-- A ticket (Table 4 of R251). -/
def ticketOf (h : Nat) (e : QEnt) (die size : Nat) : W64 :=
  BitVec.ofNat 64 (h * 2 ^ 48 + e.seq % 2 ^ 26 * 2 ^ 22 + die * 2 ^ 20 + e.seq % size % 2 ^ 20)

/-- The entry a pop takes at one die: highest effective priority, then oldest. -/
def RangeSt.best (r : RangeSt) (die : Nat) (mask : BitVec 16) (gseq : W64) : Option (Nat × QEnt) :=
  let cands := ((r.queues.filter (fun q => mask.getLsbD q.h)).map (fun q =>
    (q.home die).filterMap (fun e => if popOk r gseq q.h (ticketOf q.h e die (r.qsize q.h)) then some (q.h, e) else none))).flatten
  cands.foldl (fun acc x =>
    match acc with
    | none => some x
    | some y => if x.2.prio > y.2.prio || (x.2.prio == y.2.prio && x.2.ord < y.2.ord) then some x else some y) none

/-- The home tried first is the popper's die's, then the others in ascending number, wrapping (R70). -/
def RangeSt.popFind (r : RangeSt) (die : Nat) (mask : BitVec 16) (gseq : W64) : Option (Nat × Nat × QEnt) :=
  ((List.range 4).map (fun i => (die + i) % 4)).findSome? (fun d => ((r.ageDie d).best d mask gseq).map (fun x => (d, x.1, x.2)))

def closedTicket : W64 := 0x8000000000000000

/-- What a pending pop of a bundle gets now: an entry, the closed ticket, or nothing yet. -/
def servePop (s : State) (gid bid : Nat) (p : PendRes) (uid : Nat) : State :=
  match p with
  | .claim .. => s
  | .enext .. => s
  | .pop team dst off mask _ =>
    match s.group? gid with
    | none => s
    | some g =>
      match s.range? g.rid with
      | none => s
      | some r =>
        let finish := fun (s : State) (x : W64) => s.updBundle gid bid (fun b =>
          { b with outst := upd (fun (o : Outst) => o.uid == uid && o.pend.contains p) (fun o => { o with pend := o.pend.erase p, s := o.s ++ [(team, dst, x)] }) b.outst })
        match r.popFind g.die mask g.gseq with
        | some (d, h, e) =>
          let tk := ticketOf h e d (r.qsize h)
          if rangeWaits s g.part r 32 || e.rel && !(s.heldOf e.src.1 e.src.2).isEmpty then s
          else
            let s := s.updRange r.rid (fun r =>
              let r := popTake ((r.ageDie d).updQ h (fun q => { q with homes := assocSet q.homes d ((q.home d).filter (fun x => x.seq != e.seq)) })) h
              { r with popDec := assocSet r.popDec d ((assoc r.popDec d).getD 0 + 1) })
            let s := if e.rel then
                let s := releaseCore s e.src.1 e.src.2
                let t := (s.core e.src.1 e.src.2).pts
                s.updCore g.die g.core (fun c => { c with pts := max c.pts t })
              else s
            let s := s.scrWrite gid off (e.bytes.take 32)
            let s := s.updGroup gid (fun g => g.updTeam team (fun t =>
              { t with held := t.held ++ [{ word := tk, sig := BitVec.ofNat 64 (fld e.bytes 0 8), scope := fld e.bytes 8 1 % 8 }] }))
            finish (popEntry s g.part (g.src ((g.bundle? bid).map (fun b => ((b.ts.filter (fun t => teamOf t == team)).map laneOf).foldl min 31) |>.getD 0)) r g.gseq tk) tk
        | none =>
          if (List.range 16).all (fun h => !(mask.getLsbD h) || (match r.queue? h with | some q => q.closed | none => true))
          then finish s closedTicket else s

/-- Behind a QPOP a team whose ticket is still to come is parked, with its threads of the bundle; the others go on (R70, R251; log
entry 149). -/
def Group.popPark (g : Group) (bid : Nat) : Group :=
  match g.bundle? bid with
  | none => g
  | some b =>
    let stay := fun (t : Nat) => b.popTeams.contains (teamOf t)
    let nb := g.nextB
    match b.st with
    | .ready => if b.popTeams.isEmpty then g else (g.splitB bid stay).updBundle bid (fun b => { b with st := .qpop })
    | .qpop =>
      if b.popTeams.isEmpty then g.updBundle bid (fun b => { b with st := .ready, age := 0 })
      else if b.ts.all stay then g else (g.splitB bid stay).updBundle nb (fun b => { b with st := .ready, age := 0 })
    | .drain => if b.popTeams.isEmpty then g else g.splitB bid stay
    | _ => g

/-- A queue closes when its homes are empty and every live thread of the range waits in a QPOP that selects it: its team's (R70, R251). -/
def closeQueues (s : State) (rid : Nat) : State :=
  let gs := s.groups.filter (fun g => g.rid == rid)
  let waits := fun (g : Group) (t h : Nat) => g.bundles.any (fun b => b.ts.contains t && b.outst.any (fun o => o.pend.any (fun p => match p with
    | .pop team _ _ mask _ => mask.getLsbD h && team == teamOf t
    | _ => false)))
  let live := sumOf (fun (g : Group) => g.live.length) gs
  match s.range? rid with
  | none => s
  | some r =>
    let shut := (r.queues.filter (fun q => !q.closed && q.homes.all (fun x => x.2.isEmpty) && live != 0 && r.parked.isEmpty &&
      gs.all (fun g => g.live.all (fun t => waits g t q.h)))).map (·.h)
    if shut.isEmpty then s
    else s.updRange rid (fun r => { r with queues := upd (fun q => shut.contains q.h) (fun q => { q with closed := true }) r.queues })

/-! ## Rings (R102, R235, R236) -/

def Ring.tiles (r : Ring) : Nat := r.txm.toList.foldl (fun n x => n * (x.toNat + 1)) 1
def Group.ring? (g : Group) (n : Nat) : Option Ring := g.rings.find? (fun r => r.num == n)
def Group.updRing (g : Group) (n : Nat) (f : Ring → Ring) : Group := { g with rings := upd (fun r => r.num == n) f g.rings }

/-- What CLAIM gets of a ring: a slot, the end status, or nothing yet. -/
inductive Claimed where
  | slot (i : Nat)
  | done
  | wait

def Ring.claim (r : Ring) : Claimed :=
  if r.out then
    if r.claimed == r.tiles then .done
    else
      let i := r.nextOut
      let sl := r.slots.getD i {}
      if sl.st == .empty && sl.held.isNone then .slot i else .wait
  else
    let full := (List.range r.slots.length).filter (fun i => let sl := r.slots.getD i {}; sl.st == .full && sl.held.isNone)
    match full with
    | [] => if r.claimed == r.tiles && !(r.slots.any (fun sl => sl.st == .full)) then .done else .wait
    | i :: rest => .slot (rest.foldl (fun a j => if (r.slots.getD j {}).tile < (r.slots.getD a {}).tile then j else a) i)

def Ring.take (r : Ring) (i team : Nat) : Ring :=
  let sl := r.slots.getD i {}
  if r.out then
    { r with slots := r.slots.set i { sl with held := some team, tile := r.claimed }, claimed := r.claimed + 1,
             nextOut := (r.nextOut + 1) % r.slots.length }
  else { r with slots := r.slots.set i { sl with held := some team }, claimed := r.claimed + 1 }

/-- A ring unsubscribes itself once the end status has been returned and no slot is held, filling or draining (R236). -/
def Group.dropRings (g : Group) : Group :=
  { g with rings := g.rings.filter (fun r => !(r.ended && r.slots.all (fun sl => sl.held.isNone && sl.st != .filling && sl.st != .draining))) }

def slotWord (r : Ring) (i : Nat) : W64 := BitVec.ofNat 64 (i * 2 ^ 32 + (r.off + i * r.z) % 2 ^ 32)

def serveClaim (s : State) (gid bid : Nat) (p : PendRes) (uid : Nat) : State :=
  match p with
  | .pop .. => s
  | .enext .. => s
  | .claim team dst n =>
    let finish := fun (s : State) (x : W64) => s.updBundle gid bid (fun b =>
      { b with outst := upd (fun (o : Outst) => o.uid == uid && o.pend.contains p) (fun o => { o with pend := o.pend.erase p, s := o.s ++ [(team, dst, x)] }) b.outst })
    match (s.group? gid).bind (fun g => g.ring? n) with
    | none => finish s 0xFFFFFFFFFFFFFFFF
    | some r =>
      match r.claim with
      | .wait => s
      | .done => (finish s 0xFFFFFFFFFFFFFFFF).updGroup gid (fun g => (g.updRing n (fun r => { r with ended := true })).dropRings)
      | .slot i => (finish s (slotWord r i)).updGroup gid (fun g => g.updRing n (fun r => r.take i team))

/-! ## ENEXT answered (R277, R286) -/

/-- Threads of an ENEXT answered in order, until a Sluice access faults. -/
def serveEnextN (gid bid uid : Nat) (pk : BitVec 3) (pc : W64) (s : State) : List Nat → State × List Nat
  | [] => (s, [])
  | t :: ts =>
    match s.group? gid with
    | none => (s, [])
    | some g =>
      match sluTake s g.rid g.die gid t pc with
      | .error _ => (s, t :: ts)
      | .ok (tr, s) =>
        let em := match s.graph? g.rid with | some x => emodeAt x g.die | none => 0
        serveEnextN gid bid uid pk pc (s.updBundle gid bid (fun b =>
          { b with outst := upd (fun (o : Outst) => o.uid == uid && !o.pend.isEmpty) (fun o =>
              { o with e := o.e ++ [(t, tr, em)], p := o.p ++ [(t, pk, tr.isSome)] }) b.outst })) ts

def serveEnext (s : State) (gid bid : Nat) (p : PendRes) (uid : Nat) : State :=
  match p with
  | .enext ts pk pc =>
    let (s, rest) := serveEnextN gid bid uid pk pc s ts
    s.updBundle gid bid (fun b =>
      { b with outst := upd (fun (o : Outst) => o.uid == uid && o.pend.contains p) (fun o =>
          { o with pend := if rest.isEmpty then o.pend.erase p else upd (· == p) (fun _ => .enext rest pk pc) o.pend }) b.outst })
  | _ => s

/-! ## Settling -/

/-- Everything that waits for a pending pop or claim of the group; then teams park behind a QPOP, or go on. -/
def servePending (s : State) (gid : Nat) : State :=
  match s.group? gid with
  | none => s
  | some g =>
    if g.stop.isSome then s
    else g.bundles.foldl (fun s b => b.outst.foldl (fun s o => o.pend.foldl (fun s p =>
      serveEnext (serveClaim (servePop s gid b.id p o.uid) gid b.id p o.uid) gid b.id p o.uid) s) s) s
def parkPops (s : State) (gid : Nat) : State := s.updGroup gid (fun g => g.bundles.foldl (fun g b => g.popPark b.id) g)

/-- Bundles held at a marker whose results are all back end their run (R20). -/
def drainDone (s : State) (gid : Nat) : State :=
  match s.group? gid with
  | none => s
  | some g => g.bundles.foldl (fun s b => if b.st == .drain then (match s.group? gid with
      | some g => if g.canEnd b.id then endRun s gid b.id b.lastPc else s
      | none => s) else s) s

def behindDone (s : State) (gid : Nat) : State :=
  match s.group? gid with
  | none => s
  | some g => g.bundles.foldl (fun s b => match b.st with | .joinBehind m => rearrive s gid b m | _ => s) s

/-- Stalled bundles try again when something they may wait for has changed. -/
def wakeStalled (s : State) (gid : Nat) : State :=
  s.updGroup gid (fun g => { g with bundles := upd (fun b => b.st == .stalled) (fun b => { b with st := .ready }) g.bundles })

def settleGroup (s : State) (gid : Nat) : State :=
  let s := (parkPops (servePending s gid) gid).updGroup gid Group.waitsOver
  let s := behindDone (barDone (drainDone s gid) gid) gid
  match s.group? gid with
  | some g => drawDue s g.die g.core
  | none => s

/-- One pass over a range's groups; passes repeat as often as waits can release one another. What can be taken is taken before a
queue is found closed. Teams parked in QPOP are served in the order of their groups and bundles (log entry 139). -/
def settlePass (s : State) (rid : Nat) : State :=
  let gs := s.groups.filter (fun g => g.rid == rid)
  let s := (combsGo (gs.foldl (fun s g => servePending s g.id) s) rid).1
  let s := gbarDone (closeQueues s rid) rid
  gs.foldl (fun s g => settleGroup s g.id) s
def settleN (s : State) (rid : Nat) : Nat → State
  | 0 => s
  | n + 1 => settleN (settlePass s rid) rid n
/-- Waits that an arrival, an exit, an entry, a write or a result now satisfies are released. -/
def settle (s : State) (rid : Nat) : State :=
  settleN s rid (4 + sumOf (fun (g : Group) => g.bundles.length) (s.groups.filter (fun g => g.rid == rid)))

/-! ## Issuing an instruction -/

inductive Gate where
  | go (c : Ctx) (s : State)
  | stop (o : Out)

/-- The implicit join of a team-collective instruction (R45): a bundle that is the whole live team goes on; otherwise its
threads of other teams go on as a bundle of their own and the team's wait at the instruction. The instruction's team is that
of the lowest lane home (log entry 16). -/
def collGate (s : State) (c : Ctx) : Option State :=
  let team := teamOf (c.b.ts.headD 0)
  let live := c.g.liveTeam team
  if c.b.ts.length == live.length && c.b.ts.all (fun t => teamOf t == team) then none
  else
    let s := s.updGroup c.g.id (fun g => g.splitB c.b.id (fun t => teamOf t == team))
    some (settle (s.updBundle c.g.id c.b.id (fun b => { b with st := .coll team })) c.g.rid)

/-- The armed join or wait that a write of mask m by the bundle meets, with the lanes that write: the active ones of the instruction's
team (R173). -/
def Ctx.armedAt (c : Ctx) (g : BitVec 3) (m : BitVec 4) : Option (Armed × List Nat) :=
  let team := teamOf (c.b.ts.headD 0)
  let ts := (c.active g).filter (fun t => teamOf t == team)
  let tm := c.g.team team
  if ts.isEmpty then none else ((tm.armed true m).orElse (fun _ => tm.armed false m)).map (fun a => (a, ts))
/-- MASKMIS at a BALLOT whose mask is armed, before it waits for its team (R183, log entry 123). -/
def ballotMet (s : State) (p : Spec) (c : Ctx) : Option State :=
  p.arm.bind (fun x => (c.armedAt p.g x.1).map (fun a =>
    let met := lanesMask (a.2.filter (fun t => (c.g.th t).getP x.2)) &&& c.g.liveMask (teamOf (c.b.ts.headD 0))
    precise s c .maskmis x.1.toNat 0 0 (met ++ a.1.val) a.2))

/-- Poisoned words that an active thread reads of its window, by register; the bypass network gives no word of the window (R79, R435). -/
def Ctx.spoilt (c : Ctx) (p : Spec) : List (Nat × BitVec 6) :=
  (c.active p.g).flatMap (fun t => ((p.rd.flatMap RegRef.vs).filter (fun n => (c.g.th t).bad.contains n && (bypFind c.b.byp t n).isNone)).map (fun n => (t, n)))
/-- The core-store offset of a thread's register (R79). -/
def Ctx.wordOf (c : Ctx) (x : Nat × BitVec 6) : Nat := 128 * ((c.g.team (teamOf x.1)).wrow + x.2.toNat) + 4 * laneOf x.1
/-- Reading a poisoned register is a fault of its lane, which does nothing else (R435). -/
def poisonedRead (s : State) (c : Ctx) (l : List (Nat × BitVec 6)) : State :=
  let s := l.foldl (fun s x => s.poisonRec (poisoned (unitAddr c.g.die c.g.core (c.wordOf x)) true)) s
  s.dataFaults c (((l.map (·.1)).eraseDups).map (fun t =>
    laneFault c t (pgf 13 0) (BitVec.ofNat 64 (coreVa c.g.die c.g.core (c.wordOf (t, (assoc l t).getD 0))))))
/-- Elements that the instruction reads of its streams lie under additions or combines that are held back (R110, R245). -/
def Ctx.strmHeld (c : Ctx) (s : State) (p : Spec) : Bool :=
  (p.strm c).any (fun x => c.heldBack s true [x.1] (fun _ => isSo x.2.1) (fun _ => x.2.1) x.2.2)

/-- The checks every instruction passes when its bundle issues it, in this order: the window (R315), the privilege (R165), the
end of the run where the instruction ends it first (R152), an armed mask that a BALLOT names (R183), the implicit join (R45), a pending
token that it reads (R95), then RUNHAZ (R151; log entries 141 and 142), the 63 outstanding (R150), stream elements held back. A thread
that meets poison in a register it reads is not active in it (R435). -/
def gate (s : State) (p : Spec) : Gate :=
  match s.ctx with
  | none => .stop (.fault .noIssue)
  | some c =>
    let c := c.at_ p.g
    let named := guardRef p.g ++ p.rd ++ p.wr
    if overWindow c.r.h named then .stop (.next (illop s c))
    else if p.priv && !c.r.debug then .stop (.next (precise s c .illpriv 0 0 0 c.c.words c.act))
    else if (p.ends || p.coll) && !(c.g.canEnd c.b.id) then .stop (.next (settle (stallAt s c) c.g.rid))
    else if (p.ends || p.coll) && c.b.dfault.isSome then .stop (.next (endRun s c.g.id c.b.id c.c.pc))
    else
      let s1 := if p.ends || p.coll then endRun s c.g.id c.b.id c.c.pc else s
      match s1.ctx with
      | none => .stop (.fault .noIssue)
      | some c =>
        let c := c.at_ p.g
        match (match ballotMet s1 p c with
          | some s2 => some s2
          | none => if p.coll then collGate s1 c else none) with
        | some s2 => .stop (.next s2)
        | none =>
          let teams := (c.teams p.g).filter (fun t => !(c.b.part.contains t))
          if (pendingOf c teams p.rd).isSome then .stop (.next (stallAt s1 c))
          else
            match pendingOf c teams p.wr with
            | some r => .stop (.next (precise s1 c .runhaz 0 0 0 (BitVec.ofNat 64 r.detail) c.act))
            | none =>
              match named.find? (fun r => c.b.hazards.any (RegRef.meets r)) with
              | some r => .stop (.next (precise s1 c .runhaz 0 0 0 (BitVec.ofNat 64 r.detail) c.act))
              | none =>
                if p.late && decide (c.b.outst.length ≥ 63) || c.strmHeld s1 p then .stop (.next (stallAt s1 c))
                else if (c.spoilt p).isEmpty then .go c s1
                else .go { c with bad := (c.spoilt p).map (·.1) } (poisonedRead s1 c (c.spoilt p))

/-- The shape of every meaning: the gate, then the effect. -/
def issue (s : State) (p : Spec) (body : Ctx → State → State) : Out :=
  match gate s p with
  | .stop o => o
  | .go c s => .next (body c s)

end Sys2Proof.Machine
end

