-- ==== Sys2Proof/Machine/Operands.lean ====
section
/-! DEFINITION. Operand forms: immediates, displacements and the prefix's fields (R156, R159, R160), the addresses of the C formats
(R220, R242), stream operands (R93, R94), and what a lane instruction names. -/

namespace Sys2Proof.Machine

/-! ## Immediates and offsets (R159, R186) -/

def immB (i : BitVec 6) (p : Option (BitVec 25)) : Int :=
  match p with
  | none => i.toInt
  | some p => sext 31 (p.toNat * 64 + i.toNat)

/-- MOV, SMOV, MSET: 32 bits. -/
def immBW (i : BitVec 12) (p : Option (BitVec 25)) : W32 :=
  match p with
  | none => i.signExtend 32
  | some p => BitVec.ofNat 32 (p.toNat % 2 ^ 20 * 4096 + i.toNat)

def offSlea (i : BitVec 12) (p : Option (BitVec 25)) : Int :=
  match p with
  | none => i.toInt
  | some p => sext 37 (p.toNat * 4096 + i.toNat)

/-- Halfwords (R167). -/
def offD (o : OpD) : Int :=
  match o.p with
  | none => o.o.toInt
  | some p => sext 43 (p.toNat * 2 ^ 18 + o.o.toNat)
def offDp (o : OpDp) : Int :=
  match o.p with
  | none => o.o.toInt
  | some p => sext 39 (p.toNat * 2 ^ 14 + o.o.toNat)

/-- Displacement of format Cd in units. -/
def dispCd (o : OpCd) : Int :=
  match o.p with
  | none => o.i.toInt
  | some p => sext 20 (p.lo.toNat * 8 + o.i.toNat)

/-! ## Scope and ordering (R157, R160, R239) -/

def scopeOf (p : Option PfC) (dflt : Nat) : Nat := match p with | none => dflt | some p => p.scope.toNat
def ordOf (p : Option PfC) : Nat := match p with | none => 0 | some p => p.ord.toNat
def resOf (p : Option PfC) : Nat := match p with | none => 0 | some p => p.res.toNat
/-- An acquire, or a release, at .di or wider (R84). -/
def acqWide (p : Option PfC) (dflt : Nat) : Bool := ordOf p == 1 && decide (scopeOf p dflt ≥ 2)
def relWide (p : Option PfC) (dflt : Nat) : Bool := ordOf p == 2 && decide (scopeOf p dflt ≥ 2)
/-- FLGS, FLGW and QPUSH order at .gp without a prefix (R239). -/
def scopeE (p : Option PfE) : Nat := match p with | none => 1 | some p => p.scope.toNat
def ordersE (p : Option PfE) : Bool := match p with | none => true | some p => p.ord != 0
def wideE (p : Option PfE) : Bool := ordersE p && decide (scopeE p ≥ 2)

/-! ## Addresses -/

def widthOf (w : BitVec 2) : Nat := 2 ^ w.toNat
def Ctx.lane (c : Ctx) (t : Nat) (r : BitVec 6) : W32 := c.v t r

/-- [sN+vM] of format Cx. -/
def Ctx.addrCx (c : Ctx) (o : OpCx) (t : Nat) : W64 := (c.g.team (teamOf t)).sAt c.clk o.s + (c.v t o.v).setWidth 64
/-- [sN+#d] and [vN.d+#d] of format Cd. -/
def Ctx.addrCdS (c : Ctx) (o : OpCd) (t : Nat) (z : Nat) : W64 := c.s (teamOf t) o.b + w64 (dispCd o * z)
def Ctx.addrCdPair (c : Ctx) (o : OpCd) (t : Nat) (z : Nat) : W64 := c.pair t o.b + w64 (dispCd o * z)
/-- A scratch or window offset, exact (R223, R224). -/
def Ctx.offCd (c : Ctx) (o : OpCd) (t : Nat) (z : Nat) : Int := (c.v t o.b).toNat + dispCd o * z
/-- The address of format Cm (R242). -/
def Ctx.addrCm (c : Ctx) (o : OpCm) (t : Nat) : W64 :=
  let base := (c.g.team (teamOf t)).sAt c.clk o.s
  match o.p with
  | none => base
  | some p => base + w64 ((p.lo.extractLsb 16 6).toInt * 4) + (if o.i then (c.v t (p.lo.extractLsb 5 0)).setWidth 64 else 0)
def idxRegs (o : OpCm) : List RegRef := match o.p with | some p => if o.i then [.v (p.lo.extractLsb 5 0)] else [] | none => []

/-! ## Stream operands (R93, R94) -/

def strA (o : OpA) : Option Nat := match o.p with | some p => if p.qa.getLsbD 2 then some (p.qa.toNat % 4) else none | none => none
def strB (o : OpA) : Option Nat := match o.p with | some p => if p.qb.getLsbD 2 then some (p.qb.toNat % 4) else none | none => none
def usesStream (o : OpA) : Bool := (strA o).isSome || (strB o).isSome
def rmOf (o : OpA) : Nat := match o.p with | some p => p.rm.toNat | none => 0

def Stream.exts (q : Stream) : List Nat := q.exm.toList.map (fun x => x.toNat + 1)
def Stream.size (q : Stream) : Nat := q.exts.foldl (· * ·) 1
def Stream.zBytes (q : Stream) : Nat := 2 ^ q.width.toNat
/-- Byte offset of position k: mixed-radix digits of k times the strides. -/
def strOff : Nat → List Nat → List W32 → Int
  | k, e :: es, s :: ss => ((k % e : Nat) : Int) * s.toInt + strOff (k / e) es ss
  | _, _, _ => 0
def Stream.addr (q : Stream) (k : Nat) : W64 := q.base + w64 (strOff k q.exts q.st.toList)
def Stream.extend (q : Stream) (x : Nat) : W32 :=
  if q.sx then w32 (sext (8 * q.zBytes) x) else BitVec.ofNat 32 x

/-- One element: 0 for a position past the end, and for a non-resident page, which `none` reports. -/
def readElem (s : State) (c : Ctx) (q : Stream) (k : Nat) : Except AFault (Option W32 × State) :=
  if k ≥ q.size then .ok (some 0, s)
  else
    match assoc q.ahead k with
    | some x => .ok (x, s)
    | none =>
      let a := (q.addr k).toNat
      match checkAddr s c a q.zBytes .load with
      | .error f => .error f
      | .ok tg =>
        match tgtLoad s c.who tg q.zBytes false with
        | .error f => if f.nonres then .ok (none, s) else .error f
        | .ok (bs, s) => .ok (some (q.extend (leNat bs)), s)

/-- The elements of the active lanes of a team. -/
structure Elems where
  s : State
  vals : List (Nat × W32) := []
  faults : List DFault := []
  nrs : Bool := false

def readElems (s : State) (c : Ctx) (q : Stream) (ts : List Nat) : Elems :=
  ts.foldl (fun e t =>
    match readElem e.s c q (q.pos.toNat + laneOf t) with
    | .ok (some x, s) => { e with s := s, vals := e.vals ++ [(t, x)] }
    | .ok (none, s) => { e with s := s, vals := e.vals ++ [(t, 0)], nrs := true }
    | .error f => { e with s := e.s.poisonRec f, faults := e.faults ++ [laneFault c t f (q.addr (q.pos.toNat + laneOf t))] }) { s := s }

def Team.getQ (t : Team) (i : Nat) : Stream := t.q.toList.getD i {}
def Team.setQ (t : Team) (i : Nat) (x : Stream) : Team := { t with q := t.q.setIfInBounds i x }

/-- The stream advances by 32 positions; elements before the new position are dropped. -/
def Stream.advance (q : Stream) (nrs : Bool) : Stream :=
  { q with pos := q.pos + 32, nrs := q.nrs || nrs, ahead := q.ahead.filter (fun x => decide (q.pos.toNat + 32 ≤ x.1)) }

/-- The bytes that an instruction reads of its streams in the threads given, but for those read ahead: thread, address, bytes. -/
def strmReads (o : OpA) (ts : Ctx → List Nat) (c : Ctx) : List (Nat × Nat × Nat) :=
  ((strA o).toList ++ (strB o).toList).flatMap (fun i =>
    let q := (c.g.team (teamOf (c.b.ts.headD 0))).getQ i
    (ts c).filterMap (fun t =>
      let k := q.pos.toNat + laneOf t
      if decide (k < q.size) && (assoc q.ahead k).isNone then some (t, (q.addr k).toNat, q.zBytes) else none))

/-- The sources a and b of a format A instruction for the lanes `ts`: a stream named twice advances once; a lane whose element
faults takes no part. -/
structure Srcs where
  s : State
  a : Nat → W32
  b : Nat → W32
  ts : List Nat

def streamOf (s : State) (c : Ctx) (q : Option Nat) (ts : List Nat) : Elems :=
  match q with
  | none => { s := s }
  | some i => readElems s c ((c.g.team (teamOf (c.b.ts.headD 0))).getQ i) ts

def advanceOf (s : State) (c : Ctx) (q : Option Nat) (nrs : Bool) : State :=
  match q with
  | none => s
  | some i => s.updGroup c.g.id (fun g => g.updTeam (teamOf (c.b.ts.headD 0)) (fun t => t.setQ i ((t.getQ i).advance nrs)))

def srcs (s : State) (c : Ctx) (o : OpA) (ts : List Nat) : Srcs :=
  if usesStream o then
    let ea := streamOf s c (strA o) ts
    let eb := if strB o == strA o then { ea with faults := [] } else streamOf ea.s c (strB o) ts
    let s := advanceOf eb.s c (strA o) ea.nrs
    let s := if strB o == strA o then s else advanceOf s c (strB o) eb.nrs
    let fs := ea.faults ++ eb.faults
    let s := s.dataFaults c fs
    let bad := fs.map (fun f => 32 * f.team + f.lane)
    { s := s, ts := ts.filter (fun t => !(bad.contains t)),
      a := fun t => if (strA o).isSome then (assoc ea.vals t).getD 0 else c.v t o.a,
      b := fun t => if (strB o).isSome then (assoc eb.vals t).getD 0 else c.v t o.b }
  else { s := s, ts := ts, a := fun t => c.v t o.a, b := fun t => c.v t o.b }

/-! ## What lane instructions name -/

def regA (o : OpA) : List RegRef := if (strA o).isSome then [] else [.v o.a]
def regB (o : OpA) : List RegRef := if (strB o).isSome then [] else [.v o.b]

end Sys2Proof.Machine
end

