-- ==== Sys2Proof/Machine/Scalar.lean ====
section
/-! DEFINITION. Team-uniform scalars (R194 to R196), system registers (R197, R198), the timestamp and the clk count (R289). -/

namespace Sys2Proof.Machine

/-! ## Scalars -/

/-- s[d] := f once for each team with an active lane (R194). -/
def scalarOp (s : State) (g : BitVec 3) (m : Bool) (rd : List RegRef) (d : BitVec 6) (f : Ctx → Nat → W64) : Out :=
  issue s { g := g, rd := rd, wr := [.s (s5 d)] } (fun c s => fixedS s c m d ((c.teams g).map (fun t => (t, f c t))))

def execSaddA (o : OpA) (s : State) : Out :=
  scalarOp s o.g o.m [.s (s5 o.a), .s (s5 o.b)] o.d (fun c t => c.s t o.a + c.s t o.b)
def execSaddB (o : OpB) (s : State) : Out :=
  scalarOp s o.g o.m [.s (s5 o.a)] o.d (fun c t => c.s t o.a + w64 (immB o.i o.p))
def execSmulA (o : OpA) (s : State) : Out :=
  scalarOp s o.g o.m [.s (s5 o.a), .s (s5 o.b)] o.d (fun c t => c.s t o.a * c.s t o.b)
def execSmulB (o : OpB) (s : State) : Out :=
  scalarOp s o.g o.m [.s (s5 o.a)] o.d (fun c t => c.s t o.a * w64 (immB o.i o.p))
def execSlea (o : OpBW) (s : State) : Out := scalarOp s o.g o.m [] o.d (fun c _ => c.c.pc + w64 (offSlea o.i o.p))
def execSmovBw (o : OpBW) (s : State) : Out := scalarOp s o.g o.m [] o.d (fun _ _ => (immBW o.i o.p).signExtend 64)

/-- The team's active lane with the lowest lane home. -/
def Ctx.lowest (c : Ctx) (g : BitVec 3) (team : Nat) : Nat := ((c.active g).find? (fun t => teamOf t == team)).getD (32 * team)

def execSmovA (o : OpA) (s : State) : Out :=
  match o.b.toNat with
  | 0 => scalarOp s o.g o.m [.s (s5 o.a)] o.d (fun c t => c.s t o.a)
  | 1 => scalarOp s o.g o.m [.pair o.a] o.d (fun c t => c.pair (c.lowest o.g t) o.a)
  | 2 => scalarOp s o.g o.m [.v o.a] o.d (fun c t => (c.v (c.lowest o.g t) o.a).setWidth 64)
  | _ => scalarOp s o.g o.m [.v o.a] o.d (fun c t => (c.v (c.lowest o.g t) o.a).signExtend 64)

/-- SCMP: each active lane's predicate from its own team's scalars (R195). -/
def scmp (s : State) (g : BitVec 3) (m : Bool) (rd : List RegRef) (a d : BitVec 6) (b : Ctx → Nat → W64) : Out :=
  issue s { g := g, rd := rd, wr := [.p (predOf d)] } (fun c s =>
    fixedP s c m (predOf d) ((c.active g).map (fun t => (t, intCond (a.getLsbD 5) (condOf d) (c.s (teamOf t) a) (b c (teamOf t))))))
def execScmpA (o : OpA) (s : State) : Out :=
  scmp s o.g o.m [.s (s5 o.a), .s (s5 o.b)] o.a o.d (fun c t => c.s t o.b)
def execScmpB (o : OpB) (s : State) : Out :=
  scmp s o.g o.m [.s (s5 o.a)] o.a o.d (fun _ _ => w64 (immB o.i o.p))

/-! ## System registers -/

/-- The value of a system register as thread t reads it (Table 5 of R198). -/
def sysReg (c : Ctx) (t : Nat) (n : Nat) : W64 :=
  let x := c.g.shp.1
  let y := c.g.shp.2.1
  let th := c.g.th t
  let lid := fun i => if i == 0 then t % x else if i == 1 then t / x % y else t / (x * y)
  let xyz := fun (v : Nat × Nat × Nat) => BitVec.ofNat 64 (ax v (n % 4))
  let edge := fun (f : Triple → W32) => match th.tri with | some tr => (f tr).setWidth 64 | none => 0
  if n < 4 then BitVec.ofNat 64 (lid n)
  else if n < 8 then xyz c.g.ext
  else if n < 0xC then xyz c.g.base
  else if n < 0x10 then xyz c.g.shp
  else if n < 0x14 then xyz c.r.img.rrec.extent
  else match n with
    | 0x14 => c.g.gseq
    | 0x15 => BitVec.ofNat 64 (ceilDiv c.g.threads.length 32)
    | 0x16 => BitVec.ofNat 64 c.g.scrSize
    | 0x17 => BitVec.ofNat 64 (c.g.team (teamOf t)).wrow0
    | 0x18 => BitVec.ofNat 64 (laneOf t)
    | 0x19 => BitVec.ofNat 64 (teamOf t)
    | 0x1A => th.link
    | 0x1B => BitVec.ofNat 64 c.g.threads.length
    | 0x1C => BitVec.ofNat 64 c.g.core
    | 0x1D => BitVec.ofNat 64 c.g.die
    | 0x1E => BitVec.ofNat 64 c.g.part0
    | 0x1F => BitVec.ofNat 64 c.r.depth
    | 0x20 => BitVec.ofNat 64 c.r.rid
    | 0x21 => (if c.g.barAt == c.clk + 1 then c.g.barph - 1 else c.g.barph).setWidth 64
    | 0x22 => (if c.r.gbarAt == c.clk + 1 then c.r.gbarph - 1 else c.r.gbarph).setWidth 64
    | 0x24 => th.emode.setWidth 64
    | 0x25 => edge (·.o)
    | 0x26 => edge (·.t)
    | 0x27 => edge (·.w)
    | _ => 0

/-- A 64-bit value into the destination class of R197: v, pair, or s once per team. -/
def readTo (s : State) (o : OpF) (rd : List RegRef) (f : Ctx → State → Nat → W64) : Out :=
  match o.a.toNat % 4 with
  | 0 => issue s { g := o.g, rd := rd, wr := [.v o.d] } (fun c s =>
      fixedV s c o.m false o.d ((c.active o.g).map (fun t => (t, (f c s t).setWidth 32))))
  | 1 => issue s { g := o.g, rd := rd, wr := [.pair o.d] } (fun c s =>
      fixedPair s c o.m false o.d ((c.active o.g).map (fun t => (t, f c s t))))
  | _ => issue s { g := o.g, rd := rd, wr := [.s (s5 o.d)] } (fun c s =>
      fixedS s c o.m o.d ((c.teams o.g).map (fun t => (t, f c s (c.lowest o.g t)))))

def execRdsys (o : OpF) (s : State) : Out :=
  readTo s o (if decide (0x24 ≤ o.sel.toNat) then [.sys o.sel.toNat] else []) (fun c _ t => sysReg c t o.sel.toNat)
def execRdts (o : OpF) (s : State) : Out := readTo s o [] (fun _ s _ => BitVec.ofNat 64 s.ticks)
def execRdclk (o : OpF) (s : State) : Out := readTo s o [] (fun _ s _ => BitVec.ofNat 64 s.clk)

end Sys2Proof.Machine
end

