-- ==== Sys2Proof/Machine/MemOps.lean ====
section
/-! DEFINITION. Loads and stores (R220 to R225), stream images (R226, R227), prefetch and page requests (R228, R105), FENCE (R229). -/

namespace Sys2Proof.Machine

/-! ## Loads and stores of lanes -/

/-- The registers of a datum: a pair at the double width. -/
def datumRef (w : BitVec 2) (t : BitVec 6) : RegRef := if w == 3 then .pair t else .v t
/-- What a load writes for a value (R220). -/
def loadVals (w : BitVec 2) (x : Bool) (d : BitVec 6) (t n : Nat) : List (Nat × BitVec 6 × W32) :=
  if w == 3 then [(t, d, BitVec.ofNat 32 n), (t, d + 1, BitVec.ofNat 32 (n / 2 ^ 32))]
  else [(t, d, if x then w32 (sext (8 * widthOf w) n) else BitVec.ofNat 32 n)]
def storeVal (c : Ctx) (w : BitVec 2) (d : BitVec 6) (t : Nat) : Nat :=
  if w == 3 then (c.pair t d).toNat else (c.v t d).toNat % 2 ^ (8 * widthOf w)

/-- The residency predicate of R222. -/
def resRef (res : Nat) : List RegRef := if res == 0 then [] else [.p (BitVec.ofNat 3 (res - 1))]

/-- A load of each active lane; `glob` says of addresses, which `addr` forms; `chk` makes its checks. -/
def loadLanes (s : State) (g : BitVec 3) (m glob : Bool) (rd : List RegRef) (w : BitVec 2) (x : Bool) (d : BitVec 6) (p : Option PfC)
    (addr : Ctx → Nat → W64) (chk : State → Ctx → Nat → W64 → Except AFault Tgt) : Out :=
  let res := resOf p
  issue s { g := g, rd := rd, wr := datumRef w d :: resRef res, late := true } (fun c s =>
    let ts := c.active g
    if glob && c.heldBack s true ts (fun t => isSo (addr c t).toNat) (fun t => (addr c t).toNat) (widthOf w) then stallAt s c
    else
      let a := loads s c (widthOf w) (acqWide p 3) (res != 0) (ts.map (fun t => (t, addr c t))) (fun s t va => chk s c t va)
      let s := memIssued (a.done c) c ts a.hits true
      lateResult s c m ts
        { regs := datumRef w d :: resRef res,
          v := (a.vals.map (fun y => loadVals w x d y.1 y.2)).flatten,
          p := if res == 0 then [] else a.vals.map (fun y => (y.1, BitVec.ofNat 3 (res - 1), a.nonres.contains y.1)) })

/-- What a store must wait for; one to scratch or a window releases as its suffix says, and its bytes are no global ones. -/
def Ctx.storeHeld (c : Ctx) (s : State) (glob rel : Bool) (ts : List Nat) (at_ : Nat → Nat) (n : Nat) : Bool :=
  if glob then c.heldBack s false ts (fun t => releases rel (at_ t)) at_ n else c.heldBack s false ts (fun _ => rel) (fun _ => 0) 0
/-- A store of each active lane, in ascending lane home. -/
def storeLanes (s : State) (g : BitVec 3) (m glob : Bool) (rd : List RegRef) (w : BitVec 2) (d : BitVec 6) (p : Option PfC)
    (addr : Ctx → Nat → W64) (chk : State → Ctx → Nat → W64 → Except AFault Tgt) : Out :=
  issue s { g := g, rd := datumRef w d :: rd } (fun c s =>
    let ts := c.active g
    if c.storeHeld s glob (relWide p 3) ts (fun t => (addr c t).toNat) (widthOf w) then stallAt s c
    else
      let a := stores s c (widthOf w) (relWide p 3) (ts.map (fun t => (t, addr c t, storeVal c w d t))) (fun s t va => chk s c t va)
      noResult (memIssued (a.done c) c ts a.hits) c m)

def chkGlob (n : Nat) (k : AKind) (s : State) (c : Ctx) (_ : Nat) (va : W64) : Except AFault Tgt := checkAddr s c va.toNat n k

def execLdCx (w : BitVec 2) (o : OpCx) (s : State) : Out :=
  loadLanes s o.g o.m true [.s o.s, .v o.v] w o.x o.t o.p (fun c t => c.addrCx o t) (chkGlob (widthOf w) .load)
def execLdCdS (o : OpCd) (s : State) : Out :=
  loadLanes s o.g o.m true [.s (s5 o.b)] o.w o.x o.t o.p (fun c t => c.addrCdS o t (widthOf o.w)) (chkGlob (widthOf o.w) .load)
def execLdCdPair (o : OpCd) (s : State) : Out :=
  loadLanes s o.g o.m true [.pair o.b] o.w o.x o.t o.p (fun c t => c.addrCdPair o t (widthOf o.w)) (chkGlob (widthOf o.w) .load)
def execStCx (w : BitVec 2) (o : OpCx) (s : State) : Out :=
  storeLanes s o.g o.m true [.s o.s, .v o.v] w o.t o.p (fun c t => c.addrCx o t) (chkGlob (widthOf w) .store)
def execStCdS (o : OpCd) (s : State) : Out :=
  storeLanes s o.g o.m true [.s (s5 o.b)] o.w o.t o.p (fun c t => c.addrCdS o t (widthOf o.w)) (chkGlob (widthOf o.w) .store)
def execStCdPair (o : OpCd) (s : State) : Out :=
  storeLanes s o.g o.m true [.pair o.b] o.w o.t o.p (fun c t => c.addrCdPair o t (widthOf o.w)) (chkGlob (widthOf o.w) .store)

/-- Scratch and window offsets travel modulo 2^64 to name them in records; the checks take them exact (R223, R224). -/
def chkScrCd (o : OpCd) (wr : Bool) (s : State) (c : Ctx) (t : Nat) (_ : W64) : Except AFault Tgt :=
  checkScr s c (c.offCd o t (widthOf o.w)) (widthOf o.w) wr
def chkWinCd (o : OpCd) (wr : Bool) (s : State) (c : Ctx) (t : Nat) (_ : W64) : Except AFault Tgt :=
  checkWin s c (c.offCd o t (widthOf o.w)) (widthOf o.w) wr
def Ctx.offW (c : Ctx) (o : OpCd) (t : Nat) : W64 := w64 (c.offCd o t (widthOf o.w))

def execLds (o : OpCd) (s : State) : Out := loadLanes s o.g o.m false [.v o.b] o.w o.x o.t o.p (fun c t => c.offW o t) (chkScrCd o false)
def execSts (o : OpCd) (s : State) : Out := storeLanes s o.g o.m false [.v o.b] o.w o.t o.p (fun c t => c.offW o t) (chkScrCd o true)
def execLdw (o : OpCd) (s : State) : Out := loadLanes s o.g o.m false [.v o.b] o.w o.x o.t o.p (fun c t => c.offW o t) (chkWinCd o false)
def execStw (o : OpCd) (s : State) : Out := storeLanes s o.g o.m false [.v o.b] o.w o.t o.p (fun c t => c.offW o t) (chkWinCd o true)

/-! ## Team scalars (R225) -/

/-- One access for each team with an active lane, made in the name of its lowest active lane home. -/
def Ctx.leads (c : Ctx) (g : BitVec 3) : List Nat := (c.teams g).map (c.lowest g)

def execLdx (o : OpCd) (s : State) : Out :=
  let z := widthOf o.w
  issue s { g := o.g, rd := [.s (s5 o.b)], wr := [.s (s5 o.t)], late := true } (fun c s =>
    let ts := c.leads o.g
    if c.heldBack s true ts (fun t => isSo (c.addrCdS o t z).toNat) (fun t => (c.addrCdS o t z).toNat) z then stallAt s c
    else
      let a := loads s c z false false (ts.map (fun t => (t, c.addrCdS o t z))) (fun s t va => chkGlob z .load s c t va)
      let s := memIssued (a.done c) c (c.active o.g) a.hits true
      lateResult s c o.m ts
        { regs := [.s (s5 o.t)],
          s := a.vals.map (fun y => (teamOf y.1, s5 o.t, if o.x then w64 (sext (8 * z) y.2) else BitVec.ofNat 64 y.2)) })
def execStx (o : OpCd) (s : State) : Out :=
  let z := widthOf o.w
  issue s { g := o.g, rd := [.s (s5 o.b), .s (s5 o.t)] } (fun c s =>
    if c.storeHeld s true false (c.leads o.g) (fun t => (c.addrCdS o t z).toNat) z then stallAt s c
    else
      let a := stores s c z false ((c.leads o.g).map (fun t => (t, c.addrCdS o t z, (c.s (teamOf t) o.t).toNat % 2 ^ (8 * z))))
        (fun s t va => chkGlob z .store s c t va)
      noResult (memIssued (a.done c) c (c.active o.g) a.hits) c o.m)

/-! ## Stream images (R92, R226, R227) -/

def streamBytes (q : Stream) : List Byte :=
  leBytes 8 q.base.toNat ++ leBytes 8 q.pos.toNat ++ (q.st.toList.map (fun x => leBytes 4 x.toNat)).flatten ++
    (q.exm.toList.map (fun x => leBytes 4 x.toNat)).flatten ++ leBytes 1 (q.width.toNat + 4 * q.sx.toNat + 8 * q.nrs.toNat) ++
    List.replicate 7 0

/-- An image whose reserved bits are zero and whose width code is assigned. -/
def streamOk (b : List Byte) : Bool := decide (fld b 56 1 < 16) && fld b 56 1 % 4 != 3 && zeros b 57 63
def words5 (b : List Byte) (off : Nat) : Vector W32 5 := Vector.ofFn (fun i => BitVec.ofNat 32 (fld b (off + 4 * i.val) 4))
def streamFrom (b : List Byte) : Stream :=
  { base := BitVec.ofNat 64 (fld b 0 8), pos := BitVec.ofNat 64 (fld b 8 8), st := words5 b 16, exm := words5 b 36,
    width := BitVec.ofNat 2 (fld b 56 1), sx := bit (fld b 56 1) 2, nrs := bit (fld b 56 1) 3 }

def Ctx.addrQ (c : Ctx) (o : OpCd) (t : Nat) : W64 := c.s (teamOf t) o.b + w64 (dispCd o * 64)
def qNum (o : OpCd) : Nat := o.t.toNat % 4

def execQset (o : OpCd) (s : State) : Out :=
  issue s { g := o.g, rd := [.s (s5 o.b)] } (fun c s0 =>
    let read := (c.leads o.g).foldl (fun (x : State × List (Nat × List Byte) × List DFault) t =>
      let (s, l, fs) := x
      let va := c.addrQ o t
      match checkAddr s c va.toNat 64 .load with
      | .error f => (s, l, fs ++ [laneFault c t f va])
      | .ok tg => match tgtLoad s c.who tg 64 false with
        | .error f => (s.poisonRec f, l, fs ++ [laneFault c t f va])
        | .ok (bs, s) => (s, l ++ [(teamOf t, bs)], fs)) (s0, [], [])
    if c.heldBack s0 true (c.leads o.g) (fun t => isSo (c.addrQ o t).toNat) (fun t => (c.addrQ o t).toNat) 64 then stallAt s0 c
    else if read.2.1.any (fun x => !streamOk x.2) then illop s0 c
    else
      let s := read.1.dataFaults c read.2.2
      let s := s.updGroup c.g.id (fun g => read.2.1.foldl (fun g x => g.updTeam x.1 (fun t => t.setQ (qNum o) (streamFrom x.2))) g)
      noResult (memIssued s c (c.active o.g) ((c.leads o.g).flatMap (fun t => sectorHits t false (c.addrQ o t).toNat 64))) c o.m)

/-- Eight aligned 8-byte stores. -/
def execQsave (o : OpCd) (s : State) : Out :=
  issue s { g := o.g, rd := [.s (s5 o.b)] } (fun c s =>
    let put := fun (x : State × List DFault) (t : Nat) =>
      let va := c.addrQ o t
      let bs := streamBytes ((c.g.team (teamOf t)).getQ (qNum o))
      if va.toNat % 64 != 0 then (x.1, x.2 ++ [laneFault c t (flt .align) va])
      else
        let a := stores x.1 c 8 false ((List.range 8).map (fun i => (t, va + BitVec.ofNat 64 (8 * i), fld bs (8 * i) 8)))
          (fun s t va => chkGlob 8 .store s c t va)
        (noteWatch a.s c a.hits, x.2 ++ a.faults.take 1)
    let r := (c.leads o.g).foldl put (s, [])
    if c.storeHeld s true false (c.leads o.g) (fun t => (c.addrQ o t).toNat) 64 then stallAt s c
    else noResult (memIssued (r.1.dataFaults c r.2) c (c.active o.g)
      ((c.leads o.g).flatMap (fun t => sectorHits t false (c.addrQ o t).toNat 64))) c o.m)

/-! ## Hints (R228, R105) -/

/-- PREF of one address: nothing where a load would fault, at an aperture, or at a peer. -/
def prefOne (s : State) (c : Ctx) (va : W64) : State :=
  match checkAddr s c va.toNat 1 .load with
  | .ok (.glob a) =>
    if kindOf a != 1 && ((s.core c.g.die c.g.core).hit? c.who.asid a).isSome then s
    else match peerPa s c.who a false with
    | .ok (none, s1) =>
      match llcFill s1 c.who a false with
      | .error _ => s
      | .ok s2 =>
        if kindOf a == 1 then s2 else l1Fill s2 c.who a (kindOf a == 2)
    | _ => s
  | _ => s

def execPref (o : OpCx) (s : State) : Out :=
  issue s { g := o.g, rd := [.s o.s, .v o.v] } (fun c s =>
    let ts := c.active o.g
    noResult (memIssued (ts.foldl (fun s t => prefOne s c (c.addrCx o t)) s) c ts
      (ts.map (fun t => ⟨t, false, (c.addrCx o t).toNat, 1, false, false, false⟩))) c o.m)

/-- PGREQ of one address: a walk that finds V = 0, at any level (log entry 98), posts the page, merged with an unread record (R356). -/
def pgreqOne (s : State) (c : Ctx) (va : W64) : State :=
  let a := va.toNat
  if isAperture a || (addrCheck s c.r.asid a).isSome then s
  else
    match translate s c.r.asid a 0 c.r.qid with
    | .ok _ s => s
    | .bad f =>
      let s := s.poisonRec f
      if f.code == .pgfault && (f.cause == 1 || f.cause == 10) then
        let page := a / 4096 * 4096
        s.updPart (s.partOn c.r.asid (homeDie a)) (fun p => { p with
          preq := updOr (fun x => x.asid == c.r.asid && x.va == page) { asid := c.r.asid, va := page, die := homeDie a, part := c.g.part }
            (fun x => { x with count := if x.count == BitVec.allOnes 32 then x.count else x.count + 1 }) p.preq })
      else s

def execPgreq (o : OpCx) (s : State) : Out :=
  issue s { g := o.g, rd := [.s o.s, .v o.v] } (fun c s =>
    let ts := c.active o.g
    noResult (memIssued (ts.foldl (fun s t => pgreqOne s c (c.addrCx o t)) s) c ts []) c o.m)

/-! ## FENCE (R229) -/

def execFence (o : OpF) (s : State) : Out :=
  issue s { g := o.g } (fun c s =>
    let ts := c.active o.g
    if ts.isEmpty then noResult (memIssued s c ts []) c o.m
    else if !(c.g.canEnd c.b.id) || c.heldBack s false ts (fun _ => decide (2 ≤ o.sel.toNat)) (fun _ => 0) 0 then stallAt s c
    else
      let s := s.updGroup c.g.id (fun g => (g.returnAll c.b.id).updBundle c.b.id (fun b => { b with haz := [] }))
      let s := if o.sel.toNat == 5 then fenceSy s c.g.die c.g.core else if o.sel.toNat ≥ 2 then releaseCore s c.g.die c.g.core else s
      noResult (memIssued s c ts []) c o.m)

end Sys2Proof.Machine
end

