-- ==== Sys2Proof/Machine/Engine.lean ====
section
/-! DEFINITION. What the engines share: the range-lock table at issue (R99, R100), an operation's accesses, engine faults (R231),
tokens (R95), and instructions that act once for each team. -/

namespace Sys2Proof.Machine

/-! ## Instructions that act once for each team with an active lane -/

/-- A team's outcome: done; a run-precise fault of the team; a precise fault of the instruction, which acts on the state before it;
a stall of its bundle (R100). -/
inductive TeamRes where
  | ok (s : State)
  | fault (f : AFault) (addr : W64) (s : State)
  | stop (k : State → State)
  | stall

/-- Each team in order; a precise fault undoes the instruction, a stall keeps the teams that have acted. -/
def teamFold (s0 : State) (c : Ctx) (g : BitVec 3) (f : State → Nat → TeamRes) : List Nat → State → List DFault → List Nat →
    Except State (State × List DFault)
  | [], s, fs, _ => .ok (s, fs)
  | t :: ts, s, fs, done =>
    match f s t with
    | .ok s => teamFold s0 c g f ts s fs (done ++ [t])
    | .fault a addr s => teamFold s0 c g f ts (s.poisonRec a) (fs ++ [laneFault c (c.lowest g t) a addr]) (done ++ [t])
    | .stop k => .error (k s0)
    | .stall => .error ((s.dataFaults c fs).updBundle c.g.id c.b.id (fun b => { b with st := .stalled, part := b.part ++ done }))

/-- The block of a team that has still to act, as it read it when its checks passed, before its bundle stalled with other teams done
(R147, R260). -/
def Ctx.blk (c : Ctx) (t : Nat) (b : List Byte) : List Byte := (assoc c.b.blks t).getD b

/-- A team's outcome as the instruction begins, where it is a precise fault or a stall: then no team acts (R147). -/
def TeamRes.bar (s : State) (c : Ctx) : TeamRes → Option State
  | .stop k => some (k s)
  | .stall => some (stallAt s c)
  | _ => none

/-- An instruction that acts once for each of its teams that has not acted: precise faults and stalls are looked for before any acts (log
entry 131). Of teams held back behind others that have acted the blocks are kept. -/
def eachTeam (s : State) (c : Ctx) (g : BitVec 3) (f : State → Nat → TeamRes) (fin : State → State) (keep : Nat → List Byte := fun _ => []) : State :=
  let ts := (c.teams g).filter (fun t => !(c.b.part.contains t))
  let stops := ts.filter (fun t => match f s t with | .stop _ => true | _ => false)
  match (stops ++ ts).findSome? (fun t => (f s t).bar s c) with
  | some s => s
  | none =>
    match teamFold s c g f ts s [] [] with
    | .error s => s.updBundle c.g.id c.b.id (fun b => if b.part.isEmpty then b else { b with blks := (ts.filter (fun t => !(b.part.contains t) && !(keep t).isEmpty)).map (fun t => (t, keep t)) })
    | .ok (s, fs) => fin (s.dataFaults c fs)

/-- A block of n bytes in scratch at a team's offset: alignment, bound, range lock (R219); poison, unless it is only written, and whole
(R435). A barrier object that is written is read before. -/
def blockCheck (s : State) (c : Ctx) (off : W64) (n align : Nat) (wr bo : Bool) : Option AFault :=
  let o := off.toNat
  if o % align != 0 then some (flt .align)
  else if o + n > c.g.scrSize then some (flt .scrbound)
  else if s.locked c.g true o n wr bo then some (flt .rangelock)
  else if wr && !bo then none
  else s.coreBad c.g.die c.g.core (c.g.scrBase + o) n

def teamQfault (c : Ctx) (g : BitVec 3) (team : Nat) : TeamRes :=
  .stop (fun s => qfault s c ((c.active g).filter (fun t => teamOf t == team)))

/-! ## Locks at issue -/

/-- A range an operation reads or writes: in scratch or not, address, length. -/
abbrev Rng := Bool × Nat × Nat

/-- A destination overlaps a range its group has registered, or a source a destination (R100). -/
def lockMeets (s : State) (g : Group) (srcs dsts : List Rng) : Bool :=
  let meets := fun (x : Rng) (dest : Bool) =>
    decide (x.2.2 > 0) && s.eng.locks.any (fun l => l.meets g x.1 x.2.1 x.2.2 && (dest || l.dest))
  dsts.any (fun x => meets x true) || srcs.any (fun x => meets x false)

/-- Entries of the core's table in use (R99); the rows of a slot make one. -/
def lockUsed (s : State) (g : Group) : Nat :=
  let mine := s.eng.locks.filter (fun l => l.core == g.core && l.die == g.die)
  let isSlot := fun (l : Lock) => match l.op with | .slot _ _ => true | _ => false
  (mine.filter (fun l => !isSlot l)).length + (((mine.filter isSlot).map (fun l => (l.gid, l.op, l.dest))).eraseDups).length

/-- The operation reaches what the core's own held additions, or held combines of its group, wait to write (R109, R110, R285, R431). -/
def engHeld (s : State) (g : Group) (rs : List Rng) : Bool :=
  let out := (rs.filter (fun x => !x.1)).map (·.2)
  match s.range? g.rid with
  | some r => s.heldBack g.die g.core r.asid false out || (match r.graph with
    | some x => x.logq.any (fun h => h.gid == g.id && out.any (fun y => decide ((x.stateAt h.t).toNat < y.1 + y.2) && decide (y.1 < (x.stateAt h.t).toNat + 4)))
    | none => false)
  | none => false

/-- Whether an operation with these sources and destinations must wait (R100). -/
def lockBlocked (s : State) (g : Group) (srcs dsts : List Rng) : Bool :=
  let need := (srcs.filter (fun x => decide (x.2.2 > 0))).length + (dsts.filter (fun x => decide (x.2.2 > 0))).length
  lockMeets s g srcs dsts || decide (lockUsed s g + need > 64) || engHeld s g (srcs ++ dsts)

/-- The same of a slot and its tile's rows, which take an entry each. -/
def slotBlocked (s : State) (g : Group) (srcs dsts : List Rng) : Bool :=
  lockMeets s g srcs dsts || decide (lockUsed s g + 2 > 64) || engHeld s g (srcs ++ dsts)

def lockAdd (s : State) (g : Group) (op : LockOp) (srcs dsts : List Rng) : State :=
  let mk := fun (dest : Bool) (x : Rng) =>
    ({ gid := g.id, core := g.core, die := g.die, op := op, dest := dest, scr := x.1, lo := x.2.1, len := x.2.2 } : Lock)
  s.updEng (fun e => { e with locks := e.locks ++ (srcs.filter (fun x => decide (x.2.2 > 0))).map (mk false) ++
    (dsts.filter (fun x => decide (x.2.2 > 0))).map (mk true) })

/-- Locks freed; what stalled on them tries again. -/
def lockFree (s : State) (gid : Nat) (op : LockOp) : State :=
  wakeStalled (s.updEng (fun e => { e with locks := e.locks.filter (fun l => !(l.gid == gid && l.op == op)) })) gid

/-! ## Operations -/

def State.op? (s : State) (id : Nat) : Option EngOp := s.eng.ops.find? (fun o => o.id == id)
def State.updOp (s : State) (id : Nat) (f : EngOp → EngOp) : State := s.updEng (fun e => { e with ops := upd (fun o => o.id == id) f e.ops })

/-- An operation starts: registered, queued, its token pending (R95). What the core has buffered goes first (R110). -/
def startOp (s : State) (c : Ctx) (team lane : Nat) (tok : Option (BitVec 5)) (k : EngKind) (srcs dsts : List Rng) : State :=
  let s := drainAll s c.g.die c.g.core
  let id := s.eng.nextOp
  let s := s.updEng (fun e => { e with
    nextOp := id + 1, ops := e.ops ++ [{ id := id, gid := c.g.id, team := team, lane := lane, pc := c.c.pc, tok := tok, kind := k, seq := c.g.nextB }] })
  let s := lockAdd s c.g (.eng id) srcs dsts
  match tok with
  | none => s
  | some t => s.updGroup c.g.id (fun g => g.updTeam team (fun tm => { tm with pend := tm.pend ++ [t] }))

/-- A token takes its value and is pending no longer (R95); a result issued before its instruction and returned later does not
overwrite it (R194). -/
def Team.putToken (tm : Team) (seq : Nat) (t : BitVec 5) (x : W64) : Team :=
  { tm.setS t x with pend := tm.pend.erase t, sSeq := assocSet tm.sSeq t.toNat seq }
/-- A token is written (R95, R96). -/
def writeToken (s : State) (o : EngOp) (x : W64) : State :=
  match o.tok with
  | none => s
  | some t => s.updGroup o.gid (fun g => g.updTeam o.team (fun tm => tm.putToken o.seq t x))

/-- An operation ends: its token, its locks. -/
def finishOp (s : State) (o : EngOp) (x : W64) : State :=
  let s := writeToken s o x
  let s := s.updEng (fun e => { e with ops := e.ops.filter (fun y => y.id != o.id) })
  lockFree s o.gid (.eng o.id)

/-- The context an engine acts in: the operation's group and range. -/
def engCtx (s : State) (gid : Nat) : Option Ctx :=
  match s.group? gid with
  | none => none
  | some g =>
    match s.range? g.rid with
    | none => none
    | some r => some { g := g, b := { id := 0, pc := 0, ts := [] }, r := r, c := { gid := gid, bid := 0, pc := 0, len := 0, words := 0 }, act := [], clk := s.clk }

/-- An engine's read or write of bytes that lie in one sector (R87, R230). -/
def engRead1 (s : State) (c : Ctx) (scr : Bool) (a n : Nat) : Except AFault (List Byte × State) :=
  if scr then
    if a + n > c.g.scrSize then .error (flt .scrbound) else tgtLoad s c.who (.scr a) n false
  else
    match addrCheck s c.r.asid a with
    | some f => .error f
    | none =>
      if isAperture a then
        match apertureTgt s c a n .load with
        | .error f => .error f
        | .ok t => tgtLoad s c.who t n false
      else agentRead s c.who a n

def engWrite1 (s : State) (c : Ctx) (scr : Bool) (a : Nat) (bs : List Byte) : Except AFault State :=
  if scr then
    if a + bs.length > c.g.scrSize then .error (flt .scrbound) else tgtStore s c.who (.scr a) bs false
  else
    match addrCheck s c.r.asid a with
    | some f => .error f
    | none =>
      if isAperture a then
        match apertureTgt s c a bs.length .store with
        | .error f => .error f
        | .ok t => tgtStore s c.who t bs false
      else agentWrite s c.who a bs

/-- A range in sector pieces: address and length of each. -/
def spansOf (a n : Nat) : List (Nat × Nat) :=
  (List.range (n / 128 + 2)).filterMap (fun i =>
    let lo := if i == 0 then a else a / 128 * 128 + 128 * i
    let hi := min (a / 128 * 128 + 128 * (i + 1)) (a + n)
    if lo < hi then some (lo, hi - lo) else none)

/-- Bytes read up to the first fault, which comes with its address. -/
structure EngIO where
  s : State
  bytes : List Byte := []
  n : Nat := 0
  bad : Option (AFault × Nat) := none

/-- One access of a transfer, of n bytes at an address; after a fault there is none. -/
def EngIO.step (r : EngIO) (f : State → Nat → Nat → Except AFault (List Byte × State)) (a n : Nat) : EngIO :=
  if r.bad.isSome then r
  else match f r.s a n with
    | .ok (bs, s) => { r with s := s, bytes := r.bytes ++ bs, n := r.n + n }
    | .error e => { r with s := r.s.poisonRec e, bad := some (e, a) }

/-- A transfer, sector by sector; a piece that faults is moved byte by byte up to the faulting byte (R97). -/
def engMove (s : State) (f : State → Nat → Nat → Except AFault (List Byte × State)) (a n : Nat) : EngIO :=
  (spansOf a n).foldl (fun r p => match f r.s p.1 p.2 with
    | .ok _ => r.step f p.1 p.2
    | .error _ => (List.range p.2).foldl (fun r i => r.step f (p.1 + i) 1) r) { s := s }

def engRead (s : State) (c : Ctx) (scr : Bool) (a n : Nat) : EngIO := engMove s (fun s a n => engRead1 s c scr a n) a n

def engWrite (s : State) (c : Ctx) (scr : Bool) (a : Nat) (bs : List Byte) : EngIO :=
  engMove s (fun s x n => match engWrite1 s c scr x ((bs.drop (x - a)).take n) with
    | .ok s => .ok ([], s)
    | .error e => .error e) a bs.length

/-- Reads one range and writes another through a buffer, from byte `done` on: bytes now written, and the fault met (R97, R230). -/
def engCopy (s : State) (c : Ctx) (dscr sscr : Bool) (dst src len done : Nat) : EngIO :=
  let r := engRead s c sscr (src + done) (len - done)
  let w := engWrite r.s c dscr (dst + done) r.bytes
  { s := w.s, n := done + w.n, bad := match w.bad with | some x => some x | none => r.bad }

/-- The engine-fault record and stop (R231); the operation is held until the group resumes. -/
def engFault (s : State) (o : EngOp) (f : AFault) (addr : Nat) (detail : W64) : State :=
  let s := s.updOp o.id (fun o => { o with held := true })
  stopGroup s o.gid { cls := .engine, code := f.code, cause := f.cause, level := f.level, team := o.team, lane := o.lane,
                      lanes := 1#32 <<< o.lane, pc := o.pc, addr := BitVec.ofNat 64 addr, detail := detail } none none

/-! ## Barrier objects (R98) -/

/-- Takes an amount from COUNT. -/
def boTake (s : State) (gid off amount : Nat) : State :=
  match s.group? gid with
  | none => s
  | some g =>
    let count := g.scratch.readN off 4
    if amount == 0 then s
    else if amount < count then s.scrWrite gid off (leBytes 4 (count - amount))
    else
      let phase := (g.scratch.readN (off + 4) 4 + 1) % 2 ^ 32
      let init := g.scratch.readN (off + 8) 4
      let fl := g.scratch.readN (off + 12) 4
      s.scrWrite gid off (leBytes 4 init ++ leBytes 4 phase ++ leBytes 4 init ++ leBytes 4 (if amount > count then fl ||| 1 else fl))

end Sys2Proof.Machine
end

