-- ==== Sys2Proof/Machine/Copy.lean ====
section
/-! DEFINITION. Copies and copy lists (R230 to R233, R95 to R98): CPY, CPYL and the steps of the copy engine. -/

namespace Sys2Proof.Machine

/-! ## CPY -/

def isScr (r : BitVec 6) : Bool := r.getLsbD 5

/-- R230: length 0 to 2^24 or ILLOP; then the scratch bounds and R75, the destination first (log entry 143); then R100. -/
def execCpy (o : OpE) (s : State) : Out :=
  let k := s5 o.k
  issue s { g := o.g, rd := [.s (s5 o.a), .s (s5 o.b), .s k], wr := [.s k] } (fun c s =>
    let one := fun (s : State) (t : Nat) =>
      let tm := c.g.team t
      let n := (tm.sAt c.clk k).toNat
      let d := (tm.sAt c.clk (s5 o.a)).toNat
      let r := (tm.sAt c.clk (s5 o.b)).toNat
      let oob := fun (scr : Bool) (x : Nat) => scr && decide (x + n > c.g.scrSize)
      let bad := fun (scr : Bool) (x : Nat) => !scr && spans x n
      if n > 2 ^ 24 then TeamRes.stop (fun s => illop s c)
      else if n == 0 then .ok (s.updGroup c.g.id (fun g => g.updTeam t (fun tm => tm.putS c.clk c.g.nextB k 0)))
      else if oob (isScr o.a) d then .fault (flt .scrbound) (BitVec.ofNat 64 d) s
      else if oob (isScr o.b) r then .fault (flt .scrbound) (BitVec.ofNat 64 r) s
      else if bad (isScr o.a) d then .fault (flt .align) (BitVec.ofNat 64 d) s
      else if bad (isScr o.b) r then .fault (flt .align) (BitVec.ofNat 64 r) s
      else
        let src := [(isScr o.b, r, n)]
        let dst := [(isScr o.a, d, n)]
        if lockBlocked s c.g src dst then .stall
        else .ok (startOp s c t (laneOf (c.lowest o.g t)) (some k) (.copy d r (isScr o.a) (isScr o.b) n) src dst)
    -- a length that is no length faults before any team acts
    let reach := (c.teams o.g).flatMap (fun t =>
      let tm := c.g.team t
      let n := (tm.sAt c.clk k).toNat
      sectorHits t (isScr o.b) (tm.sAt c.clk (s5 o.b)).toNat n ++ sectorHits t (isScr o.a) (tm.sAt c.clk (s5 o.a)).toNat n)
    if (c.teams o.g).any (fun t => decide (((c.g.team t).sAt c.clk k).toNat > 2 ^ 24) && !(c.b.part.contains t)) then illop s c
    else eachTeam s c o.g one (fun s => noResult (memIssued s c (c.active o.g) reach) c o.m))

/-- The whole copy, as COPY_COMPLETE and COPY_FAULT see it. -/
def copyRun (s : State) (o : EngOp) : Option (Ctx × EngIO × Nat) :=
  match o.kind, engCtx s o.gid with
  | .copy d r ds ss n, some c => if o.held then none else some (c, engCopy s c ds ss d r n o.done, n)
  | _, _ => none

/-! ## CPYL -/

/-- List entries that overlap nothing registered are read, up to four pieces in flight (R232). The flag says that the next entry
is malformed or out of bounds, with its code and address: its destination before its source (log entry 144). -/
def listRead (s : State) (c : Ctx) (o : EngOp) : Nat → State × Option (AFault × Nat)
  | 0 => (s, none)
  | fuel + 1 =>
    match s.op? o.id with
    | none => (s, none)
    | some op =>
      match op.kind with
      | .copyList obj list cnt next pieces =>
        if next ≥ cnt || pieces.length ≥ 4 then (s, none)
        else
          let g := match s.group? o.gid with | some g => g | none => c.g
          let at_ := list + 32 * next
          let e := g.scr at_ 32
          let len := fld e 16 4
          let fl := fld e 20 1
          let ds := bit fl 0
          let ss := bit fl 1
          let d := fld e 0 8
          let r := fld e 8 8
          if fl ≥ 4 || !(zeros e 21 31) || len > 2 ^ 24 then (s, some (flt .illop, at_))
          -- a piece of no bytes is checked no further, as R230 has it of a copy
          else if len != 0 && ds && d + len > g.scrSize then (s, some (flt .scrbound, d))
          else if len != 0 && ss && r + len > g.scrSize then (s, some (flt .scrbound, r))
          else if len != 0 && !ds && spans d len then (s, some (flt .align, d))
          else if len != 0 && !ss && spans r len then (s, some (flt .align, r))
          else
            let src := [(ss, r, len)]
            let dst := [(ds, d, len)]
            if lockBlocked s g src dst then (s, none)
            else
              let s := lockAdd s g (.piece o.id next) src dst
              let p : Piece := { entry := next, dst := d, src := r, len := len, dscr := ds, sscr := ss }
              listRead (s.updOp o.id (fun x => { x with kind := .copyList obj list cnt (next + 1) (pieces ++ [p]) })) c o fuel
      | _ => (s, none)

/-- CPYL (R232): the list's own alignment and bound before the object's (log entry 144). -/
def execCpyl (o : OpE) (s : State) : Out :=
  issue s { g := o.g, rd := [.s (s5 o.a), .s (s5 o.b), .s (s5 o.k)] } (fun c s =>
    let one := fun (s : State) (t : Nat) =>
      let tm := c.g.team t
      let obj := tm.sAt c.clk (s5 o.k)
      let list := tm.sAt c.clk (s5 o.a)
      let n := (tm.sAt c.clk (s5 o.b)).toNat
      if n == 0 then TeamRes.ok s
      else if list.toNat % 32 != 0 then .fault (flt .align) list s
      else if obj.toNat % 16 != 0 then .fault (flt .align) obj s
      else if list.toNat + 32 * n > c.g.scrSize then .fault (flt .scrbound) list s
      else if obj.toNat + 16 > c.g.scrSize then .fault (flt .scrbound) obj s
      else
        let src := [(true, list.toNat, 32 * n)]
        let dst := [(true, obj.toNat, 16)]
        if lockBlocked s c.g src dst then .stall
        else
          let id := s.eng.nextOp
          let s := startOp s c t (laneOf (c.lowest o.g t)) none (.copyList obj.toNat list.toNat n 0 []) src []
          let s := s.updEng (fun e => { e with locks := e.locks ++
            [{ gid := c.g.id, core := c.g.core, die := c.g.die, op := .eng id, dest := true, scr := true, lo := obj.toNat, len := 16, bo := true }] })
          match s.op? id with
          | some op => .ok (listRead s c op 4).1
          | none => .ok s
    if (c.teams o.g).any (fun t => decide (((c.g.team t).sAt c.clk (s5 o.b)).toNat > 4096) && !(c.b.part.contains t)) then illop s c
    else eachTeam s c o.g one (fun s => noResult (memIssued s c (c.active o.g) []) c o.m))

/-- The oldest piece in flight of a list, performed. -/
def pieceRun (s : State) (o : EngOp) : Option (Ctx × EngIO × Piece) :=
  match o.kind, engCtx s o.gid with
  | .copyList _ _ _ _ (p :: _), some c => if o.held then none else some (c, engCopy s c p.dscr p.sscr p.dst p.src p.len p.done, p)
  | _, _ => none

/-! ## The steps of the copy engine -/

/-- COPY_COMPLETE (R230): the last byte is written and the token receives the count. -/
def execCopyComplete (op : Nat) (s : State) : Out :=
  .next (match s.op? op with
    | none => s
    | some o =>
      match copyRun s o with
      | some (_, io, n) => if io.bad.isNone then finishOp io.s o (BitVec.ofNat 64 n) else s
      | none => s)

/-- COPY_FAULT (R231, R232): a copy, a piece, or a list entry meets a fault; the rest is kept restartable. -/
def execCopyFault (op : Nat) (s : State) : Out :=
  .next (match s.op? op with
    | none => s
    | some o =>
      match copyRun s o with
      | some (_, io, _) =>
        match io.bad with
        | some (f, a) => engFault (io.s.updOp op (fun x => { x with done := io.n })) o f a (BitVec.ofNat 64 io.n)
        | none => s
      | none =>
        match pieceRun s o with
        | some (_, io, p) =>
          match io.bad with
          | some (f, a) =>
            let s := io.s.updOp op (fun x => match x.kind with
              | .copyList b l n k (_ :: ps) => { x with kind := .copyList b l n k ({ p with done := io.n } :: ps) }
              | _ => x)
            engFault s o f a (BitVec.ofNat 64 io.n)
          | none => s
        | none =>
          match engCtx s o.gid with
          | some c =>
            if o.held then s
            else match listRead s c o 4 with
              | (s, some (f, a)) => engFault s o f a 0
              | (_, none) => s
          | none => s)

/-- A list whose entries are all read and whose pieces are done frees the list and the object. -/
def listDone (s : State) (op : Nat) : State :=
  match s.op? op with
  | some o =>
    match o.kind with
    | .copyList _ _ n k [] => if k ≥ n then finishOp s o 0 else s
    | _ => s
  | none => s

/-- COPYLIST_PIECE_COMPLETE (R232): a piece takes its length from the object's COUNT and frees its ranges; further entries are
read. With no piece in flight, entries that waited for a registered range are read. -/
def execCopylistPieceComplete (op : Nat) (s : State) : Out :=
  .next (match s.op? op with
    | none => s
    | some o =>
      match pieceRun s o with
      | some (c, io, p) =>
        if io.bad.isNone then
          let obj := match o.kind with | .copyList b _ _ _ _ => b | _ => 0
          let s := io.s.updOp op (fun x => match x.kind with
            | .copyList b l n k (_ :: ps) => { x with kind := .copyList b l n k ps }
            | _ => x)
          let s := boTake s o.gid obj p.len
          let s := lockFree s o.gid (.piece op p.entry)
          let s := (listRead s c o 4).1
          settle (listDone s op) c.g.rid
        else s
      | none =>
        match engCtx s o.gid with
        | some c => if o.held then s else listDone (listRead s c o 4).1 op
        | none => s)

end Sys2Proof.Machine
end

