-- ==== Sys2Proof/Machine/Rings.lean ====
section
/-! DEFINITION. Headgate rings (R101 to R103, R234 to R236): SUBS, CLAIM, RELS and the steps of the Headgates. -/

namespace Sys2Proof.Machine

/-! ## SUBS -/

def ringFrom (num : Nat) (pc : W64) (b : List Byte) : Ring :=
  let rows := fld b 52 2 + 1
  let rowb := fld b 54 2 + 1
  { num := num, pc := pc, base := BitVec.ofNat 64 (fld b 0 8), ts := words5 b 8, txm := words5 b 28,
    pitch := BitVec.ofNat 32 (fld b 48 4), rows := rows, rowb := rowb, off := fld b 56 4, z := roundUp (rows * rowb) 256,
    out := bit (fld b 61 1) 0, slots := List.replicate (fld b 60 1 % 16 + 1) {} }

/-- Reserved fields and codes of Table 3 of R234, a RING that is no multiple of 256 among them (log entry 125). -/
def ringOk (b : List Byte) : Bool :=
  decide (fld b 52 2 < 4096) && fld b 56 4 % 256 == 0 && decide (1 ≤ fld b 60 1 ∧ fld b 60 1 ≤ 15) && decide (fld b 61 1 ≤ 1) && zeros b 62 63

def Ring.span (r : Ring) : Nat := r.slots.length * r.z
def Ring.overlaps (a b : Ring) : Bool := decide (a.off < b.off + b.span) && decide (b.off < a.off + a.span)

/-- SUBS (R234): of a ring that neither fits in scratch nor keeps clear of another the bound is reported (log entry 145). -/
def execSubs (o : OpE) (s : State) : Out :=
  let n := o.k.toNat % 8
  issue s { g := o.g, rd := [.s (s5 o.a)] } (fun c s =>
    let one := fun (s : State) (t : Nat) =>
      let off := (c.g.team t).sAt c.clk (s5 o.a)
      match blockCheck s c off 64 64 false false with
      | some f => TeamRes.fault f off s
      | none =>
        match s.group? c.g.id with
        | none => .ok s
        | some g =>
          let b := g.scr off.toNat 64
          let r := ringFrom n c.c.pc b
          if !ringOk b || decide (r.rows * r.rowb > 65536) || decide (r.tiles > 2 ^ 48) || (g.ring? n).isSome
            then teamQfault c o.g t
          else if r.off + r.span > g.scrSize then .fault (flt .scrbound) (BitVec.ofNat 64 r.off) s
          else if g.rings.any r.overlaps then teamQfault c o.g t
          -- what the thread has stored before is in the tiles (R110)
          else .ok ((drainAll s c.g.die c.g.core).updGroup g.id (fun g => { g with rings := g.rings ++ [r] }))
    eachTeam s c o.g one (fun s => noResult (memIssued s c (c.active o.g) []) c o.m))

/-! ## Tiles -/

/-- Address of row ρ of a tile (R234). -/
def Ring.rowAddr (r : Ring) (tile row : Nat) : Nat :=
  (r.base + w64 (strOff tile (r.txm.toList.map (fun x => x.toNat + 1)) r.ts.toList) + w64 ((row : Int) * r.pitch.toInt)).toNat
def Ring.rowRngs (r : Ring) (tile : Nat) : List Rng := (List.range r.rows).map (fun p => (false, r.rowAddr tile p, r.rowb))
def Ring.slotOff (r : Ring) (i : Nat) : Nat := r.off + i * r.z

/-! ## CLAIM and RELS -/

/-- CLAIM (R235): the result is outstanding while it waits. -/
def execClaim (o : OpE) (s : State) : Out :=
  let n := o.a.toNat % 8
  let d := s5 o.k
  issue s { g := o.g, wr := [.s d], late := true } (fun c s =>
    let ts := c.active o.g
    if !ts.isEmpty && (c.g.ring? n).isNone then qfault s c ts
    else
      let s := memIssued s c ts [] true
      let s := lateResult s c o.m ts { regs := [.s d], pend := (c.teams o.g).map (fun t => .claim t d n) }
      settle s c.g.rid)

/-- RELS (R236): an in slot becomes empty, an out slot starts draining with a release at .gp. -/
def execRels (o : OpE) (s : State) : Out :=
  let n := o.a.toNat % 8
  issue s { g := o.g, rd := [.s (s5 o.b)] } (fun c s =>
    let one := fun (s : State) (t : Nat) =>
      let i := bits ((c.g.team t).sAt c.clk (s5 o.b)).toNat 39 32
      match (s.group? c.g.id).bind (fun g => g.ring? n) with
      | none => teamQfault c o.g t
      | some r =>
        if (r.slots.getD i {}).held != some t || decide (i ≥ r.slots.length) then teamQfault c o.g t
        else if r.out && slotBlocked s c.g [(true, r.slotOff i, r.z)] (r.rowRngs (r.slots.getD i {}).tile) then .stall
        else
          let sl := r.slots.getD i {}
          let s := s.updGroup c.g.id (fun g => (g.updRing n (fun r => { r with
            slots := r.slots.set i { sl with st := if r.out then .draining else .empty, held := none } })).dropRings)
          if r.out then
            let s := drainAll s c.g.die c.g.core
            .ok (lockAdd s c.g (.slot n i) [(true, r.slotOff i, r.z)] (r.rowRngs sl.tile))
          else .ok s
    eachTeam s c o.g one (fun s => settle (noResult (memIssued s c (c.active o.g) []) c o.m) c.g.rid))

/-! ## The Headgates -/

def State.ringAt (s : State) (gid n : Nat) : Option (Ctx × Ring) :=
  match engCtx s gid with
  | some c => (c.g.ring? n).map (fun r => (c, r))
  | none => none

/-- TILE_FILL_START (R102, R103): a slot marked at pre-emption first, else the next slot in order with the next tile. -/
def execTileFillStart (gid n : Nat) (s : State) : Out :=
  .next (match s.ringAt gid n with
    | none => s
    | some (c, r) =>
      let i := match r.refill with | j :: _ => j | [] => r.started % r.slots.length
      let sl := r.slots.getD i {}
      let tile := if r.refill.isEmpty then r.started else sl.tile
      if r.out || (r.refill.isEmpty && decide (r.started ≥ r.tiles)) || sl.st != .empty || sl.held.isSome || c.g.stop.isSome
          || slotBlocked s c.g (r.rowRngs tile) [(true, r.slotOff i, r.z)] then s
      else
        let s := lockAdd (drainAll s c.g.die c.g.core) c.g (.slot n i) (r.rowRngs tile) [(true, r.slotOff i, r.z)]
        s.updGroup gid (fun g => g.updRing n (fun r => { r with
          slots := r.slots.set i { st := .filling, held := none, tile := tile },
          started := if r.refill.isEmpty then r.started + 1 else r.started, refill := r.refill.drop 1 })))

/-- Rows moved one after another; bytes moved and the first fault. -/
def rowsMove (s : State) (c : Ctx) (r : Ring) (i tile : Nat) : EngIO :=
  (List.range r.rows).foldl (fun io p =>
    if io.bad.isSome then io
    else
      let scr := r.slotOff i + p * r.rowb
      let x := if r.out then engCopy io.s c false true (r.rowAddr tile p) scr r.rowb 0
        else engCopy io.s c true false scr (r.rowAddr tile p) r.rowb 0
      { s := x.s, n := io.n + x.n, bad := x.bad }) { s := s }

/-- Slots whose tile is being moved and has met no fault; the Headgates move them in the order of their tiles (R101). -/
def Ring.moving (r : Ring) (st : SlotSt) : List RingSlot := r.slots.filter (fun x => x.st == st && !x.err)
def Ring.isNext (r : Ring) (st : SlotSt) (sl : RingSlot) : Bool := (r.moving st).all (fun x => decide (sl.tile ≤ x.tile))

/-- What the filling or draining slot that is next does: context, ring, slot, transfer. -/
def slotRun (s : State) (gid n i : Nat) (st : SlotSt) : Option (Ctx × Ring × RingSlot × EngIO) :=
  match s.ringAt gid n with
  | none => none
  | some (c, r) =>
    let sl := r.slots.getD i {}
    if sl.st == st && decide (i < r.slots.length) && !sl.err && r.isNext st sl then some (c, r, sl, rowsMove s c r i sl.tile) else none

/-- TILE_FILLED (R102): the last byte is written and the slot is full. -/
def execTileFilled (gid n i : Nat) (s : State) : Out :=
  .next (match slotRun s gid n i .filling with
    | none => s
    | some (c, _, sl, io) =>
      if io.bad.isSome then s
      else
        let s := io.s.updGroup gid (fun g => g.updRing n (fun r => { r with slots := r.slots.set i { sl with st := .full } }))
        settle (lockFree s gid (.slot n i)) c.g.rid)

/-- SLOT_DRAINED (R102): every byte is acknowledged and the slot is empty. -/
def execSlotDrained (gid n i : Nat) (s : State) : Out :=
  .next (match slotRun s gid n i .draining with
    | none => s
    | some (c, _, sl, io) =>
      if io.bad.isSome then s
      else
        let s := io.s.updGroup gid (fun g => (g.updRing n (fun r => { r with slots := r.slots.set i { sl with st := .empty } })).dropRings)
        settle (lockFree s gid (.slot n i)) c.g.rid)

/-- HEADGATE_FAULT (R234): the transfer meets a fault; the tile is redone whole on resume. -/
def execHeadgateFault (gid n i : Nat) (s : State) : Out :=
  .next (match (match slotRun s gid n i .filling with | some x => some x | none => slotRun s gid n i .draining) with
    | none => s
    | some (_, r, sl, io) =>
      match io.bad with
      | none => s
      | some (f, a) =>
        let s := io.s.updGroup gid (fun g => g.updRing n (fun r => { r with slots := r.slots.set i { sl with err := true } }))
        stopGroup s gid { cls := .engine, code := f.code, cause := f.cause, level := f.level, pc := r.pc, addr := BitVec.ofNat 64 a,
                             detail := BitVec.ofNat 64 (n + sl.tile * 256) } none none)

end Sys2Proof.Machine
end

