-- ==== Sys2Proof/Machine/IntLane.lean ====
section
/-! DEFINITION. Integer, bit-field, comparison, move and address instructions on lanes (R185 to R193), and the integer short
forms (R163). -/

namespace Sys2Proof.Machine

/-! ## Shapes -/

/-- d := f(a, b, d) in each active lane. -/
def laneA (s : State) (o : OpA) (useB useD : Bool) (f : W32 → W32 → W32 → W32) : Out :=
  issue s { g := o.g, rd := regA o ++ (if useB then regB o else []) ++ (if useD then [.v o.d] else []), wr := [.v o.d],
            coll := usesStream o, strm := strmReads o (Ctx.active · o.g) } (fun c s =>
    let x := srcs s c o (c.active o.g)
    fixedV x.s c o.m o.t o.d (x.ts.map (fun t => (t, f (x.a t) (x.b t) (c.v t o.d)))))

/-- d := f(a, immediate, d) in each active lane. -/
def laneB (s : State) (o : OpB) (useD : Bool) (f : W32 → W32 → W32 → W32) : Out :=
  issue s { g := o.g, rd := [.v o.a] ++ (if useD then [.v o.d] else []), wr := [.v o.d] } (fun c s =>
    fixedV s c o.m o.t o.d ((c.active o.g).map (fun t => (t, f (c.v t o.a) (w32 (immB o.i o.p)) (c.v t o.d)))))

def cmpA (s : State) (o : OpA) (f : BitVec 3 → W32 → W32 → Bool) : Out :=
  issue s { g := o.g, rd := regA o ++ regB o, wr := [.p (predOf o.d)], coll := usesStream o, strm := strmReads o (Ctx.active · o.g) } (fun c s =>
    let x := srcs s c o (c.active o.g)
    fixedP x.s c o.m (predOf o.d) (x.ts.map (fun t => (t, f (condOf o.d) (x.a t) (x.b t)))))

def cmpB (s : State) (o : OpB) (signed : Bool) : Out :=
  issue s { g := o.g, rd := [.v o.a], wr := [.p (predOf o.d)] } (fun c s =>
    fixedP s c o.m (predOf o.d) ((c.active o.g).map (fun t => (t, intCond signed (condOf o.d) (c.v t o.a) (w32 (immB o.i o.p))))))

/-! ## Lane functions (Table 2 of R187, R188, R189) -/

def clz32 (a : W32) : W32 := BitVec.ofNat 32 (if a == 0 then 32 else 31 - a.toNat.log2)
def popc32 (a : W32) : W32 := BitVec.ofNat 32 ((List.range 32).filter (fun i => a.getLsbD i)).length
def brev32 (a : W32) : W32 := maskOf ((List.range 32).filter (fun i => a.getLsbD (31 - i)))
def rot32 (a b : W32) : W32 := a.rotateLeft (b.toNat % 32)
def shl32 (a b : W32) : W32 := a <<< (b.toNat % 32)
def shr32 (a b : W32) : W32 := a >>> (b.toNat % 32)
def shra32 (a b : W32) : W32 := a.sshiftRight (b.toNat % 32)
def imin32 (signed : Bool) (a b : W32) : W32 := if intCond signed 3 a b then a else b
def imax32 (signed : Bool) (a b : W32) : W32 := if intCond signed 5 a b then a else b

def fieldPos (k : W32) : Nat := (k.extractLsb 4 0).toNat
def fieldWid (k : W32) : Nat := min (k.extractLsb 13 8).toNat 32
def bfx32 (a k : W32) : W32 :=
  let w := fieldWid k
  let f := a.toNat / 2 ^ fieldPos k % 2 ^ w
  if k.getLsbD 15 && decide (w > 0) && bit f (w - 1) then w32 ((f : Int) - 2 ^ w) else BitVec.ofNat 32 f
def bfi32 (a k d : W32) : W32 :=
  let m : W32 := BitVec.ofNat 32 ((2 ^ fieldWid k - 1) * 2 ^ fieldPos k)
  (d &&& ~~~m) ||| ((a <<< fieldPos k) &&& m)

/-! ## R187 -/

def execIaddA (o : OpA) (s : State) : Out := laneA s o true false (fun a b _ => a + b)
def execIaddB (o : OpB) (s : State) : Out := laneB s o false (fun a b _ => a + b)
def execIsubA (o : OpA) (s : State) : Out := laneA s o true false (fun a b _ => a - b)
def execIsubB (o : OpB) (s : State) : Out := laneB s o false (fun a b _ => a - b)
def execImulA (o : OpA) (s : State) : Out := laneA s o true false (fun a b _ => a * b)
def execImulB (o : OpB) (s : State) : Out := laneB s o false (fun a b _ => a * b)
def execImadA (o : OpA) (s : State) : Out := laneA s o true true (fun a b d => a * b + d)
def execImadB (o : OpB) (s : State) : Out := laneB s o true (fun a b d => a * b + d)
def execAndA (o : OpA) (s : State) : Out := laneA s o true false (fun a b _ => a &&& b)
def execAndB (o : OpB) (s : State) : Out := laneB s o false (fun a b _ => a &&& b)
def execOrA (o : OpA) (s : State) : Out := laneA s o true false (fun a b _ => a ||| b)
def execOrB (o : OpB) (s : State) : Out := laneB s o false (fun a b _ => a ||| b)
def execXorA (o : OpA) (s : State) : Out := laneA s o true false (fun a b _ => a ^^^ b)
def execXorB (o : OpB) (s : State) : Out := laneB s o false (fun a b _ => a ^^^ b)
def execRotA (o : OpA) (s : State) : Out := laneA s o true false (fun a b _ => rot32 a b)
def execRotB (o : OpB) (s : State) : Out := laneB s o false (fun a b _ => rot32 a b)
def execShlA (o : OpA) (s : State) : Out := laneA s o true false (fun a b _ => shl32 a b)
def execShlB (o : OpB) (s : State) : Out := laneB s o false (fun a b _ => shl32 a b)
def execShrA (o : OpA) (s : State) : Out := laneA s o true false (fun a b _ => shr32 a b)
def execShrB (o : OpB) (s : State) : Out := laneB s o false (fun a b _ => shr32 a b)
def execShraA (o : OpA) (s : State) : Out := laneA s o true false (fun a b _ => shra32 a b)
def execShraB (o : OpB) (s : State) : Out := laneB s o false (fun a b _ => shra32 a b)
def execClz (o : OpA) (s : State) : Out := laneA s o false false (fun a _ _ => clz32 a)
def execPopc (o : OpA) (s : State) : Out := laneA s o false false (fun a _ _ => popc32 a)
def execBrev (o : OpA) (s : State) : Out := laneA s o false false (fun a _ _ => brev32 a)
def execIminN32 (o : OpA) (s : State) : Out := laneA s o true false (fun a b _ => imin32 false a b)
def execIminI32 (o : OpA) (s : State) : Out := laneA s o true false (fun a b _ => imin32 true a b)
def execImaxN32 (o : OpA) (s : State) : Out := laneA s o true false (fun a b _ => imax32 false a b)
def execImaxI32 (o : OpA) (s : State) : Out := laneA s o true false (fun a b _ => imax32 true a b)

/-! ## R188, R189, R190 -/

def execBfxA (o : OpA) (s : State) : Out := laneA s o true false (fun a b _ => bfx32 a b)
def execBfxB (o : OpB) (s : State) : Out := laneB s o false (fun a b _ => bfx32 a b)
def execBfiA (o : OpA) (s : State) : Out := laneA s o true true bfi32
def execBfiB (o : OpB) (s : State) : Out := laneB s o true bfi32
def execIcmpN32A (o : OpA) (s : State) : Out := cmpA s o (intCond false)
def execIcmpI32A (o : OpA) (s : State) : Out := cmpA s o (intCond true)
def execIcmpN32B (o : OpB) (s : State) : Out := cmpB s o false
def execIcmpI32B (o : OpB) (s : State) : Out := cmpB s o true

/-- The low w bits of a register, sign-extended (R189). -/
def sxtOf (b : BitVec 6) (a : W32) : W64 := let w := (b.extractLsb 4 0).toNat + 1; w64 (sext w (a.toNat % 2 ^ w))

def execSxt (o : OpA) (s : State) : Out :=
  let d : Bool := o.b.getLsbD 5
  issue s { g := o.g, rd := regA o, wr := [if d then .pair o.d else .v o.d], coll := usesStream o, strm := strmReads o (Ctx.active · o.g) } (fun c s =>
    let x := srcs s c o (c.active o.g)
    if d then fixedPair x.s c o.m o.t o.d (x.ts.map (fun t => (t, sxtOf o.b (x.a t))))
    else fixedV x.s c o.m o.t o.d (x.ts.map (fun t => (t, (sxtOf o.b (x.a t)).setWidth 32))))

/-- SEL: every lane is active, G selects (R191); one that meets poison does not act (R435). -/
def execSel (o : OpA) (s : State) : Out :=
  issue s { g := 7, rd := guardRef o.g ++ regA o ++ regB o, wr := [.v o.d], coll := usesStream o, strm := strmReads o (Ctx.active · 7) } (fun c s =>
    let x := srcs s c o (c.active 7)
    fixedV x.s c o.m o.t o.d (x.ts.map (fun t => (t, if (c.g.th t).getP o.g then x.a t else x.b t))))

/-! ## Moves and addresses (R192, R193) -/

def execMovA (o : OpA) (s : State) : Out :=
  match o.b.toNat with
  | 0 => laneA s o false false (fun a _ _ => a)
  | 1 => issue s { g := o.g, rd := [.pair o.a], wr := [.pair o.d] } (fun c s =>
      fixedPair s c o.m o.t o.d ((c.active o.g).map (fun t => (t, c.pair t o.a))))
  | 2 => issue s { g := o.g, rd := [.s (s5 o.a)], wr := [.v o.d] } (fun c s =>
      fixedV s c o.m o.t o.d ((c.active o.g).map (fun t => (t, (c.s (teamOf t) o.a).setWidth 32))))
  | _ => issue s { g := o.g, rd := [.s (s5 o.a)], wr := [.pair o.d] } (fun c s =>
      fixedPair s c o.m o.t o.d ((c.active o.g).map (fun t => (t, c.s (teamOf t) o.a))))

def execMovBw (o : OpBW) (s : State) : Out :=
  issue s { g := o.g, wr := [.v o.d] } (fun c s =>
    fixedV s c o.m o.t o.d ((c.active o.g).map (fun t => (t, immBW o.i o.p))))

def execLeaA (o : OpA) (s : State) : Out :=
  issue s { g := o.g, rd := [.s (s5 o.a)] ++ regB o, wr := [.pair o.d], coll := usesStream o, strm := strmReads o (Ctx.active · o.g) } (fun c s =>
    let x := srcs s c o (c.active o.g)
    fixedPair x.s c o.m o.t o.d (x.ts.map (fun t => (t, c.s (teamOf t) o.a + (x.b t).setWidth 64))))
def execLeaB (o : OpB) (s : State) : Out :=
  issue s { g := o.g, rd := [.s (s5 o.a)], wr := [.pair o.d] } (fun c s =>
    fixedPair s c o.m o.t o.d ((c.active o.g).map (fun t => (t, c.s (teamOf t) o.a + w64 (immB o.i o.p)))))
def execIadd64A (o : OpA) (s : State) : Out :=
  issue s { g := o.g, rd := [.pair o.a, .pair o.b], wr := [.pair o.d] } (fun c s =>
    fixedPair s c o.m o.t o.d ((c.active o.g).map (fun t => (t, c.pair t o.a + c.pair t o.b))))
def execIadd64B (o : OpB) (s : State) : Out :=
  issue s { g := o.g, rd := [.pair o.a], wr := [.pair o.d] } (fun c s =>
    fixedPair s c o.m o.t o.d ((c.active o.g).map (fun t => (t, c.pair t o.a + w64 (immB o.i o.p)))))

/-! ## Short forms (R163): v registers below 32, no guard, d := d op a -/

/-- v0 to v31 of a short form. -/
def lowV (r : BitVec 5) : BitVec 6 := r.setWidth 6

/-- d := f(a, d) in every lane; `imm` says the a field is an immediate, which f then ignores. -/
def laneS (s : State) (o : OpS) (imm : Bool) (f : W32 → W32 → W32) : Out :=
  issue s { g := 7, rd := (if imm then [] else [.v (lowV o.a)]) ++ [.v (lowV o.d)], wr := [.v (lowV o.d)] } (fun c s =>
    fixedV s c o.m false (lowV o.d) ((c.active 7).map (fun t => (t, f (c.v t (lowV o.a)) (c.v t (lowV o.d))))))

def execMovShort (o : OpS) (s : State) : Out :=
  issue s { g := 7, rd := [.v (lowV o.a)], wr := [.v (lowV o.d)] } (fun c s =>
    fixedV s c o.m false (lowV o.d) ((c.active 7).map (fun t => (t, c.v t (lowV o.a)))))
def execIaddShort (o : OpS) (s : State) : Out := laneS s o false (fun a d => d + a)
def execIsubShort (o : OpS) (s : State) : Out := laneS s o false (fun a d => d - a)
def execImulShort (o : OpS) (s : State) : Out := laneS s o false (fun a d => d * a)
def execAndShort (o : OpS) (s : State) : Out := laneS s o false (fun a d => d &&& a)
def execOrShort (o : OpS) (s : State) : Out := laneS s o false (fun a d => d ||| a)
def execXorShort (o : OpS) (s : State) : Out := laneS s o false (fun a d => d ^^^ a)
def execShlShort (o : OpS) (s : State) : Out := laneS s o false (fun a d => shl32 d a)
def execShrShort (o : OpS) (s : State) : Out := laneS s o false (fun a d => shr32 d a)
def execShraShort (o : OpS) (s : State) : Out := laneS s o false (fun a d => shra32 d a)
def execIaddiShort (o : OpS) (s : State) : Out := laneS s o true (fun _ d => d + o.a.signExtend 32)

end Sys2Proof.Machine
end

