-- ==== Sys2Proof/Machine/Float.lean ====
section
/-! DEFINITION. Floating point, conversion, pack and unpack, dot products and team exchange (R202 to R215), and the floating-point
short forms (R163). -/

namespace Sys2Proof.Machine

def fw (x : Nat) : W32 := BitVec.ofNat 32 x

/-! ## R202 to R208 -/

def execFadd (y : BitVec 2) (o : OpA) (s : State) : Out :=
  laneA s o true false (fun a b _ => fw (fAdd (fmtOf y.toNat) (rmOf o) a.toNat b.toNat))
def execFsub (y : BitVec 2) (o : OpA) (s : State) : Out :=
  laneA s o true false (fun a b _ => fw (fSub (fmtOf y.toNat) (rmOf o) a.toNat b.toNat))
def execFmul (y : BitVec 2) (o : OpA) (s : State) : Out :=
  laneA s o true false (fun a b _ => fw (fMul (fmtOf y.toNat) (rmOf o) a.toNat b.toNat))
def execFfma (y : BitVec 2) (o : OpA) (s : State) : Out :=
  laneA s o true true (fun a b d => fw (fFma (fmtOf y.toNat) (rmOf o) a.toNat b.toNat d.toNat))
def execFmin (y : BitVec 2) (o : OpA) (s : State) : Out :=
  laneA s o true false (fun a b _ => fw (fMinMax (fmtOf y.toNat) false a.toNat b.toNat))
def execFmax (y : BitVec 2) (o : OpA) (s : State) : Out :=
  laneA s o true false (fun a b _ => fw (fMinMax (fmtOf y.toNat) true a.toNat b.toNat))
def execFcmp (y : BitVec 2) (o : OpA) (s : State) : Out := cmpA s o (fpCond (fmtOf y.toNat))
def execFrcp (o : OpA) (s : State) : Out := laneA s o false false (fun a _ _ => fw (fRcp (fmtOf o.b.toNat) (rmOf o) a.toNat))
def execFrsq (o : OpA) (s : State) : Out := laneA s o false false (fun a _ _ => fw (fRsq (fmtOf o.b.toNat) (rmOf o) a.toNat))
def execFex2 (o : OpA) (s : State) : Out := laneA s o false false (fun a _ _ => fw (fExp2 (fmtOf o.b.toNat) a.toNat))
def execFlg2 (o : OpA) (s : State) : Out := laneA s o false false (fun a _ _ => fw (fLog2 (fmtOf o.b.toNat) a.toNat))

/-- Integer types of F2I and I2F: bits and signedness (R200). -/
def intBits (b : BitVec 6) : Nat := 8 * 2 ^ ((b.extractLsb 4 2).toNat / 2)
def intSigned (b : BitVec 6) : Bool := b.getLsbD 2
def srcFmt (b : BitVec 6) : Fmt := fmtOf (b.extractLsb 1 0).toNat

def execF2i (o : OpA) (s : State) : Out :=
  laneA s o false false (fun a _ _ => w32 (fToInt (srcFmt o.b) (rmOf o) (intBits o.b) (intSigned o.b) a.toNat))
/-- The integer in the low bits of a register, by its type (R132). -/
def readInt (b : BitVec 6) (a : W32) : Int :=
  let x := a.toNat % 2 ^ intBits b
  if intSigned b then sext (intBits b) x else x
def execI2f (o : OpA) (s : State) : Out := laneA s o false false (fun a _ _ => fw (intToF (srcFmt o.b) (rmOf o) (readInt o.b a)))
def execFcvt (o : OpA) (s : State) : Out :=
  laneA s o false false (fun a _ _ => fw (fCvt (srcFmt o.b) (fmtOf (o.b.extractLsb 3 2).toNat) (rmOf o) a.toNat))

/-! ## PACK, UNPACK through a format slot (R138, R209 to R211) -/

def slotType (f : W64) : Nat := (f.extractLsb 3 0).toNat
def slotSigned (f : W64) : Bool := f.getLsbD 4
def slotGroup (f : W64) : Nat := 32 * 2 ^ (f.extractLsb 6 5).toNat
def slotSC (f : W64) : Bool := f.getLsbD 7
def slotZP (f : W64) : Nat := (f.extractLsb 9 8).toNat
def slotCol (f : W64) : Bool := f.getLsbD 10
def slotSoff (f : W64) : Nat := 16 * (f.extractLsb 39 16).toNat
def slotZoff (f : W64) : Nat := 16 * (f.extractLsb 63 40).toNat
def slotCount (f : W64) : Nat := match slotType f with | 2 => 4 | 3 => 8 | _ => 2
def RangeSt.slot (r : RangeSt) (i : Nat) : W64 := r.img.rrec.slots.getD i 0

/-- Scale and zero point of a metadata word (R209); 0x3C00 is 1.0. -/
def metaScale (f : W64) (w : W32) : Nat := if slotSC f then (w.extractLsb 15 0).toNat else 0x3C00
def metaZero (f : W64) (w : W32) : Nat :=
  match slotZP f with
  | 1 => (w.extractLsb 19 16).toNat
  | 2 => (w.extractLsb 23 16).toNat
  | _ => 0

def unpack32 (f : W64) (e : Nat) (x w : W32) : W32 :=
  let wd := 32 / slotCount f
  let q := x.toNat / 2 ^ (wd * e) % 2 ^ wd
  match slotType f with
  | 0 => fw (fCvt F32 B16 0 q)
  | 1 => fw (fCvt F32 F16 0 q)
  | _ => fw (dequant (if slotSigned f then sext wd q else q) (metaScale f w) (metaZero f w))

def pack32 (f : W64) (e rm : Nat) (y w d : W32) : W32 :=
  let wd := 32 / slotCount f
  let k : Nat := match slotType f with
    | 0 => B16.round rm (F32.val y.toNat)
    | 1 => F16.round rm (F32.val y.toNat)
    | _ => (quant y.toNat (metaScale f w) (metaZero f w) wd (slotSigned f) rm % (2 ^ wd : Nat)).toNat
  let m : W32 := BitVec.ofNat 32 ((2 ^ wd - 1) * 2 ^ (wd * e))
  (d &&& ~~~m) ||| BitVec.ofNat 32 (k * 2 ^ (wd * e))

def slotIx (o : OpA) : Nat := (o.b.extractLsb 5 3).toNat
def elemIx (o : OpA) : Nat := (o.b.extractLsb 2 0).toNat

def execUnpack (o : OpA) (s : State) : Out :=
  issue s { g := o.g, rd := [.pair o.a], wr := [.v o.d] } (fun c s =>
    let f := c.r.slot (slotIx o)
    if elemIx o ≥ slotCount f then illop s c
    else fixedV s c o.m o.t o.d ((c.active o.g).map (fun t => (t, unpack32 f (elemIx o) (c.v t o.a) (c.v t (o.a + 1))))))
def execPack (o : OpA) (s : State) : Out :=
  issue s { g := o.g, rd := [.pair o.a, .v o.d], wr := [.v o.d] } (fun c s =>
    let f := c.r.slot (slotIx o)
    if elemIx o ≥ slotCount f then illop s c
    else fixedV s c o.m o.t o.d ((c.active o.g).map (fun t => (t, pack32 f (elemIx o) (rmOf o) (c.v t o.a) (c.v t (o.a + 1)) (c.v t o.d)))))

/-! ## R212 -/

def dot4 (signed : Bool) (a b d : W32) : W32 :=
  (List.range 4).foldl (fun acc i =>
    let x := a.toNat / 2 ^ (8 * i) % 256
    let y := b.toNat / 2 ^ (8 * i) % 256
    acc + (if signed then w32 (sext 8 x * sext 8 y) else w32 (x * y))) d
def execDot4N8 (o : OpA) (s : State) : Out := laneA s o true true (dot4 false)
def execDot4I8 (o : OpA) (s : State) : Out := laneA s o true true (dot4 true)

/-! ## Team exchange (R213 to R215): variable results -/

/-- The source lane home of lane l, as an integer (R213). -/
def shflSrc (o : OpA) (l : Nat) (idx : W32) : Int :=
  let d : Int := o.b.toNat
  match (o.a.extractLsb 5 4).toNat with
  | 0 => (idx.toNat % 32 : Nat)
  | 1 => (l : Int) - d
  | 2 => (l : Int) + d
  | _ => (l ^^^ o.b.toNat : Nat)

def execShfl (o : OpA) (s : State) : Out :=
  let a : BitVec 6 := (o.a.extractLsb 3 0).setWidth 6
  let idx := o.a.extractLsb 5 4 == 0
  issue s { g := o.g, rd := [.v a] ++ (if idx then [.v o.b] else []), wr := [.v o.d], coll := true, late := true } (fun c s =>
    let team := teamOf (c.b.ts.headD 0)
    lateResult s c o.m (c.active o.g) { regs := [.v o.d], v := (c.active o.g).map (fun t =>
      let j := shflSrc o (laneOf t) (c.v t o.b)
      let src := if 0 ≤ j ∧ j < 32 then 32 * team + j.toNat else t
      (t, o.d, c.v (if (c.g.th src).live then src else t) a)) })

def execTred (o : OpA) (s : State) : Out :=
  issue s { g := o.g, rd := regA o, wr := [.v o.d], coll := true, late := true, strm := strmReads o (Ctx.active · o.g) } (fun c s =>
    let x := srcs s c o (c.active o.g)
    let vals := (List.range 32).map (fun h => (x.ts.find? (fun t => laneOf t == h)).map x.a)
    let r := (tree (applyOp o.b.toNat (rmOf o)) vals).getD 0
    lateResult x.s c o.m (c.active o.g) { regs := [.v o.d], v := x.ts.map (fun t => (t, o.d, r)) })

/-! ## Short forms -/

def execFaddShort (o : OpS) (s : State) : Out := laneS s o false (fun a d => fw (fAdd F32 0 d.toNat a.toNat))
def execFsubShort (o : OpS) (s : State) : Out := laneS s o false (fun a d => fw (fSub F32 0 d.toNat a.toNat))
def execFmulShort (o : OpS) (s : State) : Out := laneS s o false (fun a d => fw (fMul F32 0 d.toNat a.toNat))
def execFminShort (o : OpS) (s : State) : Out := laneS s o false (fun a d => fw (fMinMax F32 false d.toNat a.toNat))
def execFmaxShort (o : OpS) (s : State) : Out := laneS s o false (fun a d => fw (fMinMax F32 true d.toNat a.toNat))

end Sys2Proof.Machine
end

