-- ==== Sys2Proof/Machine/Atom.lean ====
section
/-! DEFINITION. Atomics, reductions and bank operations (R240 to R247), with the order entries of logged ranges (R429, R431). -/

namespace Sys2Proof.Machine

/-! ## One word operation at its place (Table 2 of R241) -/

/-- What a cell does under an operation code (Table 6 of R91). -/
def cellOp (code : Nat) (y : W32) (x : Cell) : Cell := if code == 11 then Cell.store y else x.add y

/-- A global word as an atomic that leaves it unchanged meets it too: its checks are those of a write (R219, R243). -/
def writeCheck (s : State) (w : Who) (va : Nat) : Except AFault State :=
  match peerPa s w va true with
  | .error e => .error e
  | .ok (some pa, s) => (match peerCheck s w pa with | some e => .error e | none => .ok s)
  | .ok (none, s) => llcFill s w va true

/-- A read-modify-write of one word; `f` gives the new word, or none. -/
def tgtRmw (s : State) (w : Who) (t : Tgt) (narrow rel : Bool) (f : W32 → Option W32) (cf : Cell → Cell) : Except AFault (W32 × State) :=
  let g := fun (x : Nat) => (f (BitVec.ofNat 32 x)).map BitVec.toNat
  match tgtBad s w t 4 with
  | some e => .error e
  | none =>
    match t with
    | .glob va =>
      if narrow && kindOf va != 1 then
        match writeCheck s { w with again := true } va with
        | .error e => .error e
        | .ok s =>
          match loadGlobal s w va 4 false with
          | .error e => .error e
          | .ok (bs, s) =>
            match g (leNat bs) with
            | none => .ok (BitVec.ofNat 32 (leNat bs), s)
            | some y =>
              match storeGlobal s { w with again := true } va (leBytes 4 y) false with
              | .error e => .error e
              | .ok s => .ok (BitVec.ofNat 32 (leNat bs), s)
      else
        match writeCheck s w va with
        | .error e => .error e
        | .ok _ =>
          let s := if releases rel va then releaseCore s w.die w.core else s
          match rmwSlice s w va 4 g with
          | .error e => .error e
          | .ok (x, s) => .ok (BitVec.ofNat 32 x, s)
    | .scr off =>
      let old := match s.group? w.gid with | some g => leNat (g.scr off 4) | none => 0
      .ok (BitVec.ofNat 32 old, match g old with | some y => s.scrWrite w.gid off (leBytes 4 y) | none => s)
    | .core die num off =>
      let s := acqAt (relAt s w t rel) w t (!narrow)
      let old := leNat (s.storeRead die num off 4)
      .ok (BitVec.ofNat 32 old, match g old with | some y => s.storeWrite die num off (leBytes 4 y) | none => s)
    | .resv die off =>
      let s := relAt s w t rel
      let old := leNat (s.resvRead w.rid die off 4)
      .ok (BitVec.ofNat 32 old, match g old with
        | some y => (s.resvWrite w.rid die off (leBytes 4 y)).resvSeen w die false (off / 128) true
        | none => s.resvSeen w die false (off / 128) false)
    | .cell die c _ =>
      let s := relAt s w t rel
      match s.range? w.rid with
      | none => .ok (0, s)
      | some r =>
        let x := r.cellGet die c
        .ok (x.read, (s.cellPut w.rid die c (cf x)).resvSeen w die true c true)

/-! ## Logged additions -/

def Tgt.isWord : Tgt → Bool
  | .glob _ => true
  | .resv .. => true
  | _ => false

/-- An FP32 addition may go now: at a word its entry, and those that must follow it at once, have room in the log (R430), and one performed as it issues is next in the log its
range follows (R431). -/
def addGoes (s : State) (c : Ctx) (va : Nat) (tg : Tgt) (now : Bool) (n : Nat := 1) : Bool :=
  !tg.isWord || (match s.range? c.r.rid with
    | none => true
    | some r => (!now || addNext r va c.g.gseq c.c.pc) && !(rangeWaits s c.g.part r (32 * n)))

/-- Threads whose addition has not acted yet. -/
def Ctx.left (c : Ctx) (ts : List Nat) : List Nat := ts.filter (fun t => !(c.b.acted.any (fun x => x.1 == t)))

/-- The slice or bank unit where an addition is queued (R7, R88, R342). -/
def Ctx.sliceKey (s : State) (c : Ctx) (va : Nat) : Tgt → Nat
  | .resv d off => sliceSrc (s.partOn c.r.asid d) ((((c.r.resv.find? (fun x => x.die == d)).map (·.base)).getD 0 + off) / 256 % 4)
  | _ => sliceSrc (s.homePart c.r.asid va) (sliceOf va)

/-- Lanes of an ATOM, among those that act in this try, which have an addition to come at this lane's word or at one where lanes have acted:
no other party comes between the additions at a word, so their entries find room together or wait together (R242, R430). -/
def Acc.owed (a : Acc) (at_ : Nat → Nat) (left : List Nat) (t : Nat) : Nat :=
  let begun := at_ t :: a.vals.map (fun x => at_ x.1)
  (left.filter (fun x => !(a.vals.any (fun y => y.1 == x)) && begun.contains (at_ x))).length

/-- A lane's operation, or its wait where it is an FP32 addition that may not go now. -/
def Acc.orWait (a : Acc) (c : Ctx) (code va : Nat) (chk : Except AFault Tgt) (now : Tgt → Bool) (ts : List Nat) (go : Acc) (n : Nat := 1) : Acc :=
  match chk with
  | .ok tg => if code == 1 && !(addGoes a.s c va tg (now tg) n) then { a with wait := a.wait ++ ts } else go
  | .error _ => go

/-- The end of the instruction for the threads `left`, which act in this try, with what every lane received; while lanes wait for their
log the instruction stalls and keeps what the others have done; `d` is the register an ATOM writes. -/
def Acc.orStall (a : Acc) (c : Ctx) (d : Option (BitVec 6)) (left : List Nat) (fin : State → List (Nat × Nat) → State) : State :=
  if a.wait.isEmpty then fin (a.done c) (c.b.acted.filterMap (fun x => x.2.map (fun y => (x.1, y.2))) ++ a.vals)
  else (a.done c).updBundle c.g.id c.b.id (fun b =>
    { b with st := .stalled, acted := b.acted ++ (left.filter (fun t => !(a.wait.contains t))).map (fun t => (t, d.bind (fun d => (assoc a.vals t).map (fun x => (d, x))))) })

/-- An addition has been queued at its slice or bank unit. -/
def noteAdd (s : State) (c : Ctx) (addr : Nat) (tg : Tgt) : State :=
  if tg.isWord then orderEntry (s.updRange c.r.rid (fun r => orderTake r addr)) c.g.part (c.sliceKey s addr tg) c.r.rid addr c.g.gseq c.c.pc else s

/-! ## ATOM, CAS -/

def narrowC (p : Option PfC) : Bool := decide (scopeOf p 3 ≤ 1)

/-- The accesses that lanes of the instruction have made in earlier tries. -/
def Ctx.hitBefore (c : Ctx) (s : State) (at_ : Nat → Nat) (k : AKind) : List Hit :=
  c.b.acted.flatMap (fun x => match checkAddr s c (at_ x.1) 4 k with | .ok tg => tg.hits c.g x.1 k (at_ x.1) 4 | .error _ => [])

/-- ATOM and CAS: each active lane in ascending lane home (R242, R243). -/
def atomLanes (s : State) (o : OpCm) (dat : RegRef) (code : Nat) (f : Ctx → Nat → W32 → Option W32) : Out :=
  issue s { g := o.g, rd := [.s o.s, dat] ++ idxRegs o, wr := [.v o.d], late := true } (fun c s =>
    let ts := c.active o.g
    let at_ := fun (t : Nat) => (c.addrCm o t).toNat
    if c.heldBack s (code != 1) ts (fun t => releases (relWide o.p 3) (at_ t)) at_ 4 then stallAt s c
    else
      let a := (c.left ts).foldl (fun (a : Acc) t =>
        let va := c.addrCm o t
        let k := AKind.rmw code false
        a.orWait c code va.toNat (checkAddr a.s c va.toNat 4 k) (fun _ => true) [t]
          (a.lane c t va 4 k false (fun s => checkAddr s c va.toNat 4 k) (fun w s tg =>
            match tgtRmw s w tg (narrowC o.p) (relWide o.p 3) (f c t) (cellOp code (c.v t o.v)) with
            | .error e => .error e
            | .ok (x, s) => .ok (x.toNat, if code == 1 then noteAdd s c va.toNat tg else s))) (a.owed at_ (c.left ts) t)) { s := s }
      a.orStall c (some o.d) (c.left ts) (fun s vals =>
        lateResult (memIssued s c ts (c.hitBefore s at_ (.rmw code false) ++ a.hits) true) c o.m ts { regs := [.v o.d], v := vals.map (fun x => (x.1, o.d, BitVec.ofNat 32 x.2)) }))

def atomOp (code : Nat) (o : OpCm) (s : State) : Out :=
  atomLanes s o (.v o.v) code (fun c t x => some (applyOp code 0 x (c.v t o.v)))

def execAtomAdd (o : OpCm) (s : State) : Out := atomOp 0 o s
def execAtomAddF32 (o : OpCm) (s : State) : Out := atomOp 1 o s
def execAtomMinN32 (o : OpCm) (s : State) : Out := atomOp 2 o s
def execAtomMinI32 (o : OpCm) (s : State) : Out := atomOp 3 o s
def execAtomMinF32 (o : OpCm) (s : State) : Out := atomOp 4 o s
def execAtomMaxN32 (o : OpCm) (s : State) : Out := atomOp 5 o s
def execAtomMaxI32 (o : OpCm) (s : State) : Out := atomOp 6 o s
def execAtomMaxF32 (o : OpCm) (s : State) : Out := atomOp 7 o s
def execAtomAnd (o : OpCm) (s : State) : Out := atomOp 8 o s
def execAtomOr (o : OpCm) (s : State) : Out := atomOp 9 o s
def execAtomXor (o : OpCm) (s : State) : Out := atomOp 10 o s
def execAtomXchg (o : OpCm) (s : State) : Out := atomOp 11 o s

/-- CAS: no cell accepts it (R241), which the code 64 says. -/
def execCas (o : OpCm) (s : State) : Out :=
  atomLanes s o (.pair o.v) 64 (fun c t x => if x == c.v t o.v then some (c.v t (o.v + 1)) else none)

/-! ## RED (R245) -/

/-- A RED into a global word enters the write-combining buffer, for a peer's word too (R143, R241); an addition of a logged range, or of one
that follows a log, goes on to its slice at once as its own request (R429). -/
def redGlobal (s : State) (c : Ctx) (w : Who) (va : Nat) (code : Nat) (rel : Bool) (y : W32) : Except AFault State :=
  match writeCheck s w va with
  | .error e => .error e
  | .ok s =>
    if kindOf va == 1 then
      match rmwSlice (releaseCore s w.die w.core) { w with again := true } va 4 (fun x => some (applyOp code 0 (BitVec.ofNat 32 x) y).toNat) with
      | .error e => .error e
      | .ok (_, s) => .ok (if code == 1 then noteAdd s c va (.glob va) else s)
    else
      let s := if releases rel va then releaseCore s w.die w.core else s
      let plain := code == 1 && (c.r.logged || c.r.follow.isSome)
      let s := s.updCore w.die w.core (fun x => x.dropLine w.asid va)
      let s := wcbRed s w.die w.core w.asid (sectorOf va)
        { off := va % 128, code := code, y := y, plain := plain, rid := w.rid, gseq := c.g.gseq, pc := c.c.pc }
      .ok (if plain then orderEntry (drainThrough s w.die w.core w.asid (sectorOf va)) c.g.part (c.sliceKey s va (.glob va)) c.r.rid va c.g.gseq c.c.pc else s)

def execRed (o : OpCm) (s : State) : Out :=
  let code := o.d.toNat
  issue s { g := o.g, rd := [.s o.s, .v o.v] ++ idxRegs o } (fun c s =>
    let ts := c.active o.g
    -- one to a common page waits at its slice
    let now := fun (tg : Tgt) => match tg with | .glob x => kindOf x == 1 | _ => true
    let at_ := fun (t : Nat) => (c.addrCm o t).toNat
    if c.heldBack s false ts (fun t => releases (relWide o.p 3) (at_ t)) at_ 4 then stallAt s c
    else
      let a := (c.left ts).foldl (fun (a : Acc) t =>
        let va := c.addrCm o t
        let k := AKind.rmw code true
        a.orWait c code va.toNat (checkAddr a.s c va.toNat 4 k) now [t]
          (a.lane c t va 4 k false (fun s => checkAddr s c va.toNat 4 k) (fun w s tg =>
            match tg with
            | .glob x =>
              match redGlobal s c w x code (relWide o.p 3) (c.v t o.v) with
              | .error e => .error e
              | .ok s => .ok (0, s)
            | _ =>
              match tgtRmw s w tg false (relWide o.p 3) (fun x => some (applyOp code 0 x (c.v t o.v))) (cellOp code (c.v t o.v)) with
              | .error e => .error e
              | .ok (_, s) => .ok (0, if code == 1 then noteAdd s c va.toNat tg else s)))) { s := s }
      a.orStall c none (c.left ts) (fun s _ => noResult (memIssued s c ts (c.hitBefore s at_ (.rmw code true) ++ a.hits)) c o.m))

/-! ## Bank operations (R246, R247) -/

/-- A bank operation at another place is PROT, as check 5 of R219: the page faults of check 4 come first (R241). -/
def misplaced (s : State) (c : Ctx) (t : Tgt) : AFault :=
  match t with
  | .glob va => (match translate s c.r.asid va 0 with
    | .bad f => if f.code == .pgfault then f else flt .prot
    | .ok _ _ => flt .prot)
  | _ => flt .prot

/-- Only Reservoir data takes a BOP. -/
def bopCheck (s : State) (c : Ctx) (row va : Nat) : Except AFault Tgt :=
  if row % 128 != 0 then .error (flt .align)
  else match checkAddr s c va 4 (.rmw 64 true) with
    | .error e => .error e
    | .ok (.resv d off) => .ok (.resv d off)
    | .ok t => .error (misplaced s c t)

def execBop (o : OpCm) (s : State) : Out :=
  let code := o.d.toNat
  issue s { g := o.g, rd := [.s o.s, .v o.v] } (fun c s =>
    let ts := c.active o.g
    if c.heldBack s false ts (fun _ => relWide o.p 3) (fun _ => 0) 0 then stallAt s c else
    let a := ts.foldl (fun (a : Acc) t =>
      let row := c.addrCm o t
      let va := row + BitVec.ofNat 64 (4 * laneOf t)
      a.lane c t va 4 (.rmw code true) false (fun s => bopCheck s c row.toNat va.toNat) (fun w s tg =>
        match tgtRmw s w tg false (relWide o.p 3) (fun x => some (applyOp code 0 x (c.v t o.v))) id with
        | .error e => .error e
        | .ok (_, s) => .ok (0, s))) { s := s }
    noResult (memIssued (a.done c) c ts a.hits) c o.m)

def bredCheck (s : State) (c : Ctx) (va code : Nat) : Except AFault Tgt :=
  match checkAddr s c va 4 (.rmw code true) with
  | .error e => .error e
  | .ok (.resv d off) => .ok (.resv d off)
  | .ok (.cell d n b) => .ok (.cell d n b)
  | .ok t => .error (misplaced s c t)

/-- The reductions of one team, of threads that have not acted, by address in ascending order of lowest lane home (R247). -/
def bredTeam (c : Ctx) (o : OpCm) (code : Nat) (left : List Nat) (a : Acc) (team : Nat) : Acc :=
  let ts := left.filter (fun t => teamOf t == team)
  let good := ts.filter (fun t => match bredCheck a.s c (c.addrCm o t).toNat code with | .ok _ => true | .error _ => false)
  let look := fun (a : Acc) (t : Nat) =>
    let va := c.addrCm o t
    a.lane c t va 4 (.rmw code true) false (fun s => bredCheck s c va.toNat code) (fun _ s _ => .ok (0, s))
  let a := (ts.filter (fun t => !(good.contains t))).foldl look a
  let addrs := (good.map (fun t => (c.addrCm o t).toNat)).eraseDups
  addrs.foldl (fun (a : Acc) va =>
    let mine := good.filter (fun t => (c.addrCm o t).toNat == va)
    a.orWait c code va (bredCheck a.s c va code) (fun _ => true) mine <|
    match bredCheck a.s c va code with
    | .error _ => a
    | .ok tg =>
      let a := mine.foldl look a
      let tsum := (tree (applyOp code 0) ((List.range 32).map (fun h => (mine.find? (fun t => laneOf t == h)).map (fun t => c.v t o.v)))).getD 0
      match tgtRmw a.s c.who tg false (relWide o.p 3) (fun x => some (applyOp code 0 x tsum)) (fun x => mine.foldl (fun x t => x.add (c.v t o.v)) x) with
      | .error f => { a with s := a.s.poisonRec f, faults := a.faults ++ mine.map (fun t => laneFault c t f (BitVec.ofNat 64 va)) }
      | .ok (_, s) => { a with s := if code == 1 then noteAdd s c va tg else s }) a

def execBred (o : OpCm) (s : State) : Out :=
  let code := o.d.toNat
  issue s { g := o.g, rd := [.s o.s, .v o.v] ++ idxRegs o } (fun c s =>
    let ts := c.active o.g
    if c.heldBack s false ts (fun _ => relWide o.p 3) (fun _ => 0) 0 then stallAt s c
    else
      let a := (c.teams o.g).foldl (bredTeam c o code (c.left ts)) { s := s }
      a.orStall c none (c.left ts) (fun s _ => noResult (memIssued s c ts (c.hitBefore s (fun t => (c.addrCm o t).toNat) (.rmw code true) ++ a.hits)) c o.m))

end Sys2Proof.Machine
end

