-- ==== Sys2Proof/Machine/Sync.lean ====
section
/-! DEFINITION. Flags and polled words (R248, R249), range queues and guest channels as their pushers see them (R250 to R252, R400),
barrier objects (R253), and the ageing of queue entries (R71). -/

namespace Sys2Proof.Machine

/-! ## FLGS, FLGW -/

def flgGlob (o : OpE) : Bool := o.a.getLsbD 5
def flgWidth (o : OpE) : Nat := if o.k.getLsbD 0 then 8 else 4
/-- Registers a flag instruction reads. -/
def flgRegs (o : OpE) : List RegRef := .s (s5 o.b) :: (if flgGlob o then [.s (s5 o.a)] else [])
/-- A flag at or above the range's count (R68), whatever the guards (R165). -/
def flgIll (c : Ctx) (o : OpE) : Bool := !(flgGlob o) && decide (c.g.flags.length ≤ o.k.toNat)

/-- A global word that FLGS or FLGW names: no aperture (R241). -/
def flgCheck (s : State) (c : Ctx) (va n : Nat) (k : AKind) : Except AFault Nat :=
  match checkAddr s c va n k with
  | .error e => .error e
  | .ok (.glob a) => .ok a
  | .ok _ => .error (flt .prot)

/-- Waits on a flag re-tested after a write to it. -/
def wakeFlag (s : State) (gid k : Nat) : State :=
  retest s (fun g => g.id == gid) (fun g p => match p with
    | .flag j => if j == k then some (g.flags.getD k 0).toNat else none
    | _ => none) 0

def execFlgs (o : OpE) (s : State) : Out :=
  let add := o.b.getLsbD 5
  issue s { g := o.g, rd := flgRegs o } (fun c s =>
    let one := fun (s : State) (t : Nat) =>
      let x := c.s t o.b
      if flgGlob o then
        let va := c.s t o.a
        let n := flgWidth o
        match flgCheck s c va.toNat n (if add then .rmw 0 true else .store) with
        | .error e => TeamRes.fault e va s
        | .ok a =>
          if c.heldBack s true (c.mine o.g t) (fun _ => releases (wideE o.p) a) (fun _ => a) n then .stall else
          match llcFill s c.who a true with
          | .error e => .fault e va s
          | .ok _ =>
            let s := if releases (wideE o.p) a then releaseCore s c.g.die c.g.core else s
            match rmwSlice s c.who a n (fun y => some (if add then (y + x.toNat) % 2 ^ (8 * n) else x.toNat % 2 ^ (8 * n))) with
            | .error e => .fault e va s
            | .ok (_, s) => .ok s
      else
        let k := o.k.toNat
        if c.heldBack s false (c.mine o.g t) (fun _ => wideE o.p) (fun _ => 0) 0 then .stall else
        let s := if wideE o.p then releaseCore s c.g.die c.g.core else s
        let s := s.updGroup c.g.id (fun g => { g with flags := g.flags.modify k (fun y => if add then y + x.setWidth 32 else x.setWidth 32) })
        .ok (wakeFlag s c.g.id k)
    if flgIll c o then illop s c
    else eachTeam s c o.g one (fun s => noResult s c o.m))

/-- A word read at its home slice. -/
def homeRead (s : State) (w : Who) (va n : Nat) : Except AFault (Nat × State) :=
  match peerPa s w va false with
  | .error f => .error f
  | .ok (some pa, s) =>
    match peerCheck s w pa with
    | some f => .error f
    | none =>
      match peerAnswer s with
      | (some f, _) => .error f
      | (none, s) => let (bs, s) := ((settleAll s w va).acqPeer w).freshBytes n; .ok (leNat bs, s)
  | .ok (none, s) =>
    let s := if kindOf va == 1 then releaseCore s w.die w.core else s
    match llcFill s w va false with
    | .error f => .error f
    | .ok s => let (bs, s) := sliceRead s w va n; .ok (leNat bs, s)

/-- A team's test in FLGW, its state afterwards, or its fault. -/
structure Polled where
  s : State
  polls : List Poll := []
  faults : List DFault := []

def flgTest (c : Ctx) (o : OpE) (r : Polled) (t : Nat) : Polled :=
  let ne := o.b.getLsbD 5
  let x := c.s t o.b
  if flgGlob o then
    let va := c.s t o.a
    let n := flgWidth o
    let bad := fun (e : AFault) (s : State) => { r with s := s.poisonRec e, faults := r.faults ++ [laneFault c (c.lowest o.g t) e va] }
    match flgCheck r.s c va.toNat n .load with
    | .error e => bad e r.s
    | .ok a =>
      match homeRead r.s c.who a n with
      | .error e => bad e r.s
      | .ok (y, s) =>
        let p : Poll := { team := t, at_ := .glob a n, ne := ne, cmp := x.toNat % 2 ^ (8 * n) }
        let onPeer := match peerPa s c.who a false with | .ok (some _, _) => true | _ => false
        { r with s := s, polls := r.polls ++ [{ p with ok := pollTest p y, peer := onPeer }] }
  else
    let p : Poll := { team := t, at_ := .flag o.k.toNat, ne := ne, cmp := x.toNat % 2 ^ 32 }
    { r with polls := r.polls ++ [{ p with ok := pollTest p (c.g.flags.getD o.k.toNat 0).toNat }] }

/-- FLGW: the bundle waits until every team of it that has an active lane is satisfied. A word behind a Canal window is tested
again as time passes (R249). -/
def execFlgw (o : OpE) (s : State) : Out :=
  issue s { g := o.g, rd := flgRegs o } (fun c s =>
    if flgIll c o then illop s c
    else if flgGlob o && c.heldBack s true (c.active o.g) (fun x => isSo (c.s (teamOf x) o.a).toNat) (fun x => (c.s (teamOf x) o.a).toNat) (flgWidth o)
      then stallAt s c
    else
      let r := (c.teams o.g).foldl (flgTest c o) { s := s }
      let s := r.s.dataFaults c r.faults
      if r.polls.all (·.ok) then noResult s c o.m
      else settle (park s c o.m false c.b.ts (.poll r.polls)) c.g.rid)

/-! ## QPUSH -/

/-- Table 3 of R250. -/
def entryOk (b : List Byte) : Bool :=
  let sc := fld b 8 1
  decide (1 ≤ sc ∧ sc ≤ 5) && zeros b 9 11 && fld b 0 8 % 8 == 0

/-- The append at a home (R69), or the status that refuses it: 2, then 3, then 1 (log entry 34). -/
def rangePush (s : State) (c : Ctx) (h : Nat) (b : List Byte) (rel : Bool) : State × Nat :=
  match (s.range? c.g.rid) with
  | none => (s, 3)
  | some r =>
    match r.queue? h with
    | none => (s, 3)
    | some q =>
      let d := c.g.die
      if !entryOk b then (s, 2)
      else if q.closed then (s, 3)
      else if (q.home d).length ≥ r.qsize h then (s, 1)
      else
        let n := (assoc q.pushes d).getD 0
        let e : QEnt := { bytes := b, seq := n, rel := rel, src := (d, c.g.core), prio := r.qprio h, since := (assoc r.popDec d).getD 0,
                          ord := sumOf (fun (x : RQueue) => (assoc x.pushes d).getD 0) r.queues }
        (s.updRange r.rid (fun r => r.updQ h (fun q => { q with
          homes := assocSet q.homes d (q.home d ++ [e]), pushes := assocSet q.pushes d (n + 1) })), 0)

/-- A guest packet's slots in use: destination or not, base, length (R399). -/
def guestSlots (b : List Byte) : List (Bool × Nat × Nat) :=
  let nr := fld b 1 1
  let one := fun (k off : Nat) (dest : Bool) => if k < bits nr (if dest then 3 else 1) (if dest then 2 else 0) then [(dest, fld b off 8, fld b (off + 8) 4)] else []
  one 0 16 false ++ one 1 28 false ++ one 0 40 true ++ one 1 52 true

/-- The check of a guest packet (R400, item 1). -/
def guestOk (b : List Byte) : Bool :=
  let nr := fld b 1 1
  let sc := fld b 2 1
  let idle := fun (k hi lo off : Nat) => decide (k < bits nr hi lo) || zeros b off (off + 11)
  let good := fun (x : Bool × Nat × Nat) =>
    x.2.2 == 0 || decide (x.2.2 ≤ 2 ^ 24) && decide (x.2.1 + x.2.2 ≤ 2 ^ 64) && !(spans x.2.1 x.2.2) && !(isAperture x.2.1)
  decide (nr < 16) && decide (bits nr 1 0 ≤ 2) && decide (bits nr 3 2 ≤ 2) && decide (1 ≤ sc ∧ sc ≤ 5) && fld b 3 1 == 0 &&
    fld b 8 8 % 8 == 0 && idle 0 1 0 16 && idle 1 1 0 28 && idle 0 3 2 40 && idle 1 3 2 52 && (guestSlots b).all good

def State.chan? (s : State) (n : Nat) : Option Chan := s.sock.chans.find? (fun x => x.num == n)
def State.updChan (s : State) (n : Nat) (f : Chan → Chan) : State :=
  s.updSock (fun k => { k with chans := upd (fun x => x.num == n) f k.chans })

/-- The guest half of QPUSH (R400): a status, or none for a stall by R100. -/
def guestPush (s : State) (c : Ctx) (o : OpE) (team : Nat) (b : List Byte) : Option (State × Nat) :=
  let n := 4 * c.g.part + bits (c.r.qword o.k.toNat).toNat 1 0
  if !guestOk b then some (s, 2)
  else match (if s.sock.trained && !s.sock.fenced then s.chan? n else none) with
    | none => some (s, 3)
    | some ch =>
      if ch.pkts.length ≥ ch.depth then some (s, 1)
      else
        let sl := guestSlots b
        let rng := fun (dest : Bool) => (sl.filter (fun x => x.1 == dest)).map (fun x => ((false, x.2.1, x.2.2) : Rng))
        if lockBlocked s c.g (rng false) (rng true) then none
        else
          let lane := laneOf (c.lowest o.g team)
          let p : GPkt := { seq := ch.seq, bytes := b, gid := c.g.id, rid := c.g.rid, gseq := c.g.gseq, asid := c.r.asid, team := team, lane := lane,
                            lanes := lanesMask [c.lowest o.g team], pc := c.c.pc,
                            prio := c.r.qprio o.k.toNat, part := c.g.part }
          let s := if ordersE o.p then releaseCore s c.g.die c.g.core else s
          let s := lockAdd s c.g (.guest n ch.seq) (rng false) (rng true)
          some (s.updChan n (fun ch => { ch with seq := ch.seq + 1, pkts := ch.pkts ++ [p] }), 0)

/-- QPUSH: entry (or packet) read, appended, status written. -/
def execQpush (o : OpE) (s : State) : Out :=
  let h := o.k.toNat % 16
  issue s { g := o.g, rd := [.s (s5 o.a)] } (fun c s =>
    let guest := c.r.isGuest h
    let n := if guest then 64 else 32
    let one := fun (s : State) (t : Nat) =>
      let off := c.s t o.a
      match blockCheck s c off n n false false with
      | some e => TeamRes.fault e off s
      | none =>
        match blockCheck s c (off + BitVec.ofNat 64 n) 4 4 true false with
        | some e => .fault e off s
        | none =>
          let b := match s.group? c.g.id with | some g => g.scr off.toNat n | none => []
          let fin := fun (x : State × Nat) => TeamRes.ok (x.1.scrWrite c.g.id (off.toNat + n) (leBytes 4 x.2))
          if guest then
            match (if c.heldBack s false (c.mine o.g t) (fun _ => ordersE o.p) (fun _ => 0) 0 then none else guestPush s c o t b) with
            | some x => fin x
            | none => .stall
          else if c.heldBack s false (c.mine o.g t) (fun _ => wideE o.p) (fun _ => 0) 0 then .stall
          else
            let s := if wideE o.p then releaseCore s c.g.die c.g.core else s
            fin (rangePush s c h b (ordersE o.p))
    let ts := c.active o.g
    if !ts.isEmpty && !(c.r.declared h) then qfault s c ts
    else eachTeam s c o.g one (fun s => settle (noResult s c o.m) c.g.rid))

/-! ## QPOP, QDONE -/

/-- The handles a QPOP of a team selects; none where the selection is illegal (R251, R401). -/
def qpopMask (c : Ctx) (o : OpE) (team : Nat) : Option (BitVec 16) :=
  let mask : BitVec 16 := if o.b.getLsbD 5 then (c.s team o.b).setWidth 16 else 1#16 <<< (o.b.toNat % 16)
  if o.b.getLsbD 5 && (c.s team o.b).extractLsb 63 16 != 0 then none
  else if mask == 0 || (List.range 16).any (fun h => mask.getLsbD h && (!(c.r.declared h) || c.r.isGuest h)) then none
  else some mask

/-- QPOP: the ticket is outstanding until an entry comes or every selected queue closes, and its team is parked. -/
def execQpop (o : OpE) (s : State) : Out :=
  let d := s5 o.k
  issue s { g := o.g, rd := .s (s5 o.a) :: (if o.b.getLsbD 5 then [.s (s5 o.b)] else []), wr := [.s d], late := true } (fun c s =>
    let ts := c.active o.g
    let mine := fun t => ts.filter (fun x => teamOf x == t)
    match (c.teams o.g).find? (fun t => (qpopMask c o t).isNone || decide ((c.g.team t).held.length ≥ 16)) with
    | some t => qfault s c (mine t)
    | none =>
      let res := (c.teams o.g).map (fun t => (t, blockCheck s c (c.s t o.a) 32 32 true false))
      let fs := res.filterMap (fun x => x.2.map (fun e => laneFault c (c.lowest o.g x.1) e (c.s x.1 o.a)))
      let pend := res.filterMap (fun x => match x.2 with
        | some _ => none
        | none => (qpopMask c o x.1).map (fun m => PendRes.pop x.1 d (c.s x.1 o.a).toNat m (mine x.1)))
      settle (lateResult (s.dataFaults c fs) c o.m ts { regs := [.s d], pend := pend }) c.g.rid)

/-- The signal of an entry: one added at the home slice with release at its scope; whatever that is, the task's writes stand at
their homes first (R72, F9). -/
def signalAdd (s : State) (c : Ctx) (sig : W64) : Except AFault State :=
  if sig == 0 then .ok s
  else match flgCheck s c sig.toNat 8 (.rmw 0 true) with
    | .error e => .error e
    | .ok a =>
      match llcFill s c.who a true with
      | .error e => .error e
      | .ok _ =>
        let s := releaseCore s c.g.die c.g.core
        match rmwSlice s c.who a 8 (fun y => some ((y + 1) % 2 ^ 64)) with
        | .error e => .error e
        | .ok (_, s) => .ok s

def execQdone (o : OpE) (s : State) : Out :=
  issue s { g := o.g, rd := [.s (s5 o.a)] } (fun c s =>
    let one := fun (s : State) (t : Nat) =>
      match (c.g.team t).held.find? (fun x => x.word == c.s t o.a) with
      | none => teamQfault c o.g t
      | some k =>
        if k.sig != 0 && c.heldBack s false (c.mine o.g t) (fun _ => true) (fun _ => 0) 0 then .stall else
        match signalAdd s c k.sig with
        | .error e => .fault e k.sig s
        | .ok s => .ok (s.updGroup c.g.id (fun g => g.updTeam t (fun tm => { tm with held := tm.held.erase k })))
    eachTeam s c o.g one (fun s => noResult s c o.m))

/-! ## Barrier objects -/

def execBoini (o : OpE) (s : State) : Out :=
  issue s { g := o.g, rd := [.s (s5 o.k), .s (s5 o.a)] } (fun c s =>
    let one := fun (s : State) (t : Nat) =>
      let off := c.s t o.k
      match blockCheck s c off 16 16 true false with
      | some e => TeamRes.fault e off s
      | none =>
        let n := leBytes 4 (c.s t o.a).toNat
        .ok (s.scrWrite c.g.id off.toNat (n ++ leBytes 4 0 ++ n ++ leBytes 4 0))
    if (c.teams o.g).any (fun t => c.s t o.a == 0 || (c.s t o.a).extractLsb 63 32 != 0) then illop s c
    else eachTeam s c o.g one (fun s => noResult s c o.m))

def boAmount (c : Ctx) (o : OpE) (t : Nat) : W64 := if o.a.getLsbD 5 then 1 else c.s t o.a

/-- BOARR; the release at .gp asks nothing of one core. -/
def execBoarr (o : OpE) (s : State) : Out :=
  issue s { g := o.g, rd := .s (s5 o.k) :: (if o.a.getLsbD 5 then [] else [.s (s5 o.a)]) } (fun c s =>
    let one := fun (s : State) (t : Nat) =>
      let off := c.s t o.k
      match blockCheck s c off 16 16 true true with
      | some e => TeamRes.fault e off s
      | none => .ok (boTake s c.g.id off.toNat (boAmount c o t).toNat)
    if (c.teams o.g).any (fun t => (boAmount c o t).extractLsb 63 32 != 0) then illop s c
    else eachTeam s c o.g one (fun s => noResult s c o.m))

def execBowt (o : OpE) (s : State) : Out :=
  issue s { g := o.g, rd := [.s (s5 o.k), .s (s5 o.a)] } (fun c s =>
    let res := (c.teams o.g).map (fun t => (t, blockCheck s c (c.s t o.k) 16 16 false true))
    let fs := res.filterMap (fun x => x.2.map (fun e => laneFault c (c.lowest o.g x.1) e (c.s x.1 o.k)))
    let polls := (res.filter (fun x => x.2.isNone)).map (fun x =>
      let off := (c.s x.1 o.k).toNat
      let p : Poll := { team := x.1, at_ := .phase off, ne := true, cmp := (c.s x.1 o.a).toNat % 2 ^ 32 }
      { p with ok := pollTest p (c.g.scratch.readN (off + 4) 4) })
    let s := ((res.filterMap (·.2)).foldl State.poisonRec s).dataFaults c fs
    if polls.all (·.ok) then noResult s c o.m
    else settle (park s c o.m false c.b.ts (.poll polls)) c.g.rid)

/-! ## QUEUE_ENTRY_AGING -/

/-- The rises due at a die (R71). -/
def execQueueEntryAging (rid die : Nat) (s : State) : Out := .next (s.updRange rid (fun r => r.ageDie die))

end Sys2Proof.Machine
end

