-- ==== Sys2Proof/Machine/Control.lean ====
section
/-! DEFINITION. Control flow (R167 to R170), regrouping (R43 to R45, R171), ending, waiting and stopping (R52, R63, R178 to R182), and the
steps of the Basin unit, the implicit join and returning results. -/

namespace Sys2Proof.Machine

/-! ## Branches -/

def brTarget (c : Ctx) (off : Int) : W64 := c.c.pc + w64 (2 * off)
/-- Active lanes go to `dst`, the others to the next instruction. -/
def nextOf (c : Ctx) (ts : List Nat) (dst : Nat → W64) (t : Nat) : W64 := if ts.contains t then dst t else c.next

def execBra (o : OpD) (s : State) : Out :=
  issue s { g := o.g } (fun c s => retire s c o.m false [] (nextOf c (c.active o.g) (fun _ => brTarget c (offD o))))

def execCall (o : OpD) (s : State) : Out :=
  issue s { g := o.g } (fun c s =>
    let ts := c.active o.g
    let s := s.updGroup c.g.id (fun g => ts.foldl (fun g t => g.updTh t (fun th => { th with link := c.next })) g)
    retire s c o.m false [] (nextOf c ts (fun _ => brTarget c (offD o))))

def execBrp (o : OpDp) (s : State) : Out :=
  issue s { g := o.g, rd := guardRef o.pr } (fun c s =>
    let taken := brpTaken o.c ((c.active o.g).map (fun t => (c.g.th t).getP o.pr))
    retire s c o.m false [] (fun _ => if taken then brTarget c (offDp o) else c.next))

/-- BRX and RET: the pair's target; bit 0 set raises ALIGN and no lane moves. -/
def jumpPair (o : OpA) (s : State) : Out :=
  issue s { g := o.g, rd := [.pair o.a] } (fun c s =>
    let ts := c.active o.g
    match ts.filter (fun t => (c.pair t o.a).getLsbD 0) with
    | [] => retire s c o.m false [] (nextOf c ts (fun t => c.pair t o.a))
    | t :: bad => precise s c .align 0 0 (c.pair t o.a) 0 (t :: bad))
def execBrx (o : OpA) (s : State) : Out := jumpPair o s
def execRet (o : OpA) (s : State) : Out := jumpPair o s

/-! ## REFORM -/

/-- One thread filed into a Basin, or left in its bundle (R43). -/
def fileOne (pc : W64) (gid bid : Nat) (s : State) (t : Nat) : State :=
  match s.group? gid with
  | none => s
  | some g =>
    match s.basinFor g.die g.core gid pc (laneOf t), g.bundle? bid with
    | some k, some b =>
      if b.ts == [t] then s.updBundle gid bid (fun b => { b with st := .basin k s.clk })
      else s.updGroup gid (fun g => (g.splitB bid (fun x => x != t)).updBundle g.nextB (fun b => { b with st := .basin k s.clk }))
    | _, _ => s

/-- The active threads are filed in order of lane home (log entry 99); the inactive lanes and the threads that find no slot go on as
one bundle. -/
def execReform (o : OpF) (s : State) : Out :=
  issue s { g := o.g, ends := true } (fun c s =>
    let ts := c.active o.g
    let s := retire s c o.m true [] (fun _ => c.next)
    settle (ts.foldl (fileOne c.next c.g.id c.b.id) s) c.g.rid)

/-- The Basin of a core to draw for its age (R44): 64 clk have passed since its first filing, which is the earliest of those; of
two filed in one clk as in `drawDue` (log entry 138). -/
def firstAged (s : State) (die core : Nat) : Option (Nat × Nat) :=
  let due := (s.basins die core).filter (fun x => decide (x.2.2.2.2 + 64 ≤ s.clk) && (match s.group? x.2.1 with
    | some g => g.stop.isNone
    | none => false))
  (due.foldl (fun (y : Option (Nat × Nat × Nat)) z => match y with
    | some w => if z.2.2.2.2 < w.2.2 then some (z.1, z.2.1, z.2.2.2.2) else y
    | none => some (z.1, z.2.1, z.2.2.2.2)) none).map (fun y => (y.1, y.2.1))
def drawAt (s : State) (k gid : Nat) : State :=
  match s.group? gid with
  | some g => settle (s.updGroup gid (fun g => g.drawBasin k)) g.rid
  | none => s
/-- Every Basin of a core that is due for its age, one after another. -/
def drawAged (s : State) (die core : Nat) : Nat → State
  | 0 => s
  | n + 1 => match firstAged s die core with
    | some x => drawAged (drawAt s x.1 x.2) die core n
    | none => s

/-- BASIN_AGE_DRAW (R44): the Basin that holds the bundle is drawn where it is the one to draw. -/
def execBasinAgeDraw (gid bid : Nat) (s : State) : Out :=
  .next (match (s.group? gid).bind (fun g => (g.bundle? bid).map (fun b => (g, b))) with
    | some (g, b) => match firstAged s g.die g.core with
      | some x => if x.2 == gid && inBasin x.1 b then drawAt s x.1 gid else s
      | none => s
    | none => s)

/-! ## EXIT -/

/-- Threads end (R178): their bits leave every mask, they leave their bundles, which end when empty. -/
def Group.exitThreads (g : Group) (ts : List Nat) : Group :=
  let g := { g with
    threads := g.threads.mapIdx (fun i th => if ts.contains i then { th with live := false } else th),
    bundles := (g.bundles.map (fun b => { b with ts := b.ts.filter (fun t => !ts.contains t) })).filter (fun b => !b.ts.isEmpty) }
  (teamsOf ts).foldl (fun g team =>
    let w := teamMask ts team
    allMasks.foldl (fun g m => g.leaveMask team m w) g) g

def execExit (o : OpF) (s : State) : Out :=
  issue s { g := o.g, ends := true } (fun c s =>
    let ts := c.active o.g
    let s := retire s c o.m true [] (fun _ => c.next)
    settle (s.updGroup c.g.id (fun g => g.exitThreads ts)) c.g.rid)

/-! ## NOP, YIELD -/

def execNop (o : OpF) (s : State) : Out := issue s { g := o.g } (fun c s => noResult s c o.m)
/-- The run has ended; the bundle goes behind every other (R180), as retiring places it. -/
def execYield (o : OpF) (s : State) : Out := issue s { g := o.g, ends := true } (fun c s => retire s c o.m true [] (fun _ => c.next))

/-! ## BAR, GBAR, TRAP -/

def arriveAt (o : OpF) (st : BStatus) (c : Ctx) (s : State) : State :=
  let ts := c.active o.g
  if ts.isEmpty then retire s c o.m true [] (fun _ => c.next)
  else settle (park s c o.m true ts st) c.g.rid

def execBar (o : OpF) (s : State) : Out := issue s { g := o.g, ends := true } (arriveAt o .bar)
def execGbar (o : OpF) (s : State) : Out :=
  issue s { g := o.g, ends := true } (fun c s =>
    if !c.r.img.rrec.coop && !(c.active o.g).isEmpty then precise s c .gbarnc 0 0 0 0 (c.active o.g)
    else arriveAt o .gbar c s)

/-- A software trap (R182, R291): the bundle stands after the instruction, the group stops with a record of class 3. -/
def softTrap (code : Code) (n : Nat) (o : OpF) (c : Ctx) (s : State) : State :=
  let ts := c.active o.g
  let s := retire s c o.m true [] (fun _ => c.next)
  if ts.isEmpty then s
  else
    let t := ts.headD 0
    stopGroup s c.g.id { cls := .software, code := code, team := teamOf t, lane := laneOf t, lanes := lanesMask ts, pc := c.c.pc,
                         detail := BitVec.ofNat 64 n } (some c.b.id) none

def execTrap (o : OpF) (s : State) : Out := issue s { g := o.g, ends := true } (softTrap .trap o.sel.toNat o)

/-! ## Steps of the core -/

/-- IMPLICIT_JOIN_ISSUE (R45). -/
def execImplicitJoinIssue (gid team : Nat) (s : State) : Out :=
  .next (match s.group? gid with
    | some g => if g.stop.isSome then s else s.updGroup gid (fun g => g.collIssue team)
    | none => s)

/-- RESULT_RETURN (R149): the oldest result that waits for nothing is written to its threads' windows. -/
def execResultReturn (gid bid : Nat) (s : State) : Out :=
  .next (match s.group? gid with
    | some g =>
      let s := s.updGroup gid (fun g => g.returnOne bid)
      settle (s.updBundle gid bid (fun b => { b with st := if b.st == .stalled then .ready else b.st })) g.rid
    | none => s)

end Sys2Proof.Machine
end

