-- ==== Sys2Proof/Machine/Mask.lean ====
section
/-! DEFINITION. Lane masks: JOIN, LEAVE, WAIT (R57, R58, R172), writes of masks (R173 to R176), BALLOT and ELECT (R176, R177). -/

namespace Sys2Proof.Machine

/-! ## JOIN, WAIT, LEAVE -/

def inTeam (team : Nat) (ts : List Nat) : List Nat := ts.filter (fun t => teamOf t == team)
/-- Threads whose bit the team's mask has. -/
def named (g : Group) (m : BitVec 4) (team : Nat) (ts : List Nat) : List Nat :=
  (inTeam team ts).filter (fun t => ((g.team team).getM m).getLsbD (laneOf t))

/-- MASKMIS at this instruction for the lanes of one team: nothing moves (R57, R59). -/
def maskmis (s : State) (c : Ctx) (m : BitVec 4) (armed met : W32) (ts : List Nat) : State :=
  precise s c .maskmis m.toNat 0 0 (met ++ armed) ts

/-- The bundle parked at a JOIN falls into one bundle per team, each arriving at its own unit. -/
def arriveTeams (m : BitVec 4) (pc : W64) (gid : Nat) : State → Nat → List Nat → State
  | s, _, [] => s
  | s, bid, team :: rest =>
    let nb := match s.group? gid with | some g => g.nextB | none => 0
    let s := s.updGroup gid (fun g =>
      let g := g.splitB bid (fun t => teamOf t == team)
      let w := match g.bundle? bid with | some b => lanesMask b.ts | none => 0
      let behind := match (g.team team).armed true m with | some a => a.pc != pc | none => false
      if behind then g.updBundle bid (fun b => { b with st := .joinBehind m })
      else (g.updBundle bid (fun b => { b with st := .join m })).arrive team true m pc w)
    arriveTeams m pc gid s nb rest

/-- The armed value that an arrival at pc meets. -/
def Team.meets (t : Team) (join : Bool) (m : BitVec 4) (pc : W64) : Option Armed := (t.armed join m).filter (fun a => !join || a.pc == pc)

/-- MASKMIS for a team that meets another armed value, else what `go` does. -/
def maskGo (join : Bool) (o : OpA) (s : State) (go : Ctx → State → State) : Out :=
  let m := m4 o.a
  issue s { g := o.g, ends := true } (fun c s =>
    let ts := c.active o.g
    let mine := fun t => named c.g m t ts
    let bad := fun t => match (c.g.team t).meets join m c.c.pc with
      | some a => !(mine t).isEmpty && a.val != (c.g.team t).getM m
      | none => false
    match (teamsOf ts).find? bad with
    | some t => maskmis s c m (((c.g.team t).meets join m c.c.pc).map (·.val) |>.getD 0) ((c.g.team t).getM m) (mine t)
    | none => go c s)

/-- JOIN (R57): the named threads leave their bundle and arrive. -/
def joinGo (o : OpA) (c : Ctx) (s : State) : State :=
  let m := m4 o.a
  let ts := c.active o.g
  let w := ((teamsOf ts).map (fun t => named c.g m t ts)).flatten
  if w.isEmpty then retire s c o.m true [] (fun _ => c.next)
  else settle (arriveTeams m c.c.pc c.g.id (park s c o.m true w .stalled) c.b.id (teamsOf w)) c.g.rid

def execJoin (o : OpA) (s : State) : Out := maskGo true o s (joinGo o)

/-- Whether a team's wait completes with the arrival of some lanes. -/
def Team.fills (t : Team) (m : BitVec 4) (w : W32) : Bool :=
  match t.armed false m with
  | none => t.getM m &&& ~~~w == 0
  | some a => a.val &&& ~~~(a.arr ||| w) == 0
/-- Threads of some teams arrive at a wait, in the bundle they are in: whether their teams' waits complete or not. -/
def arriveWaits (c : Ctx) (m : BitVec 4) (ts teams : List Nat) (s : State) : State :=
  s.updGroup c.g.id (fun g => teams.foldl (fun g t => g.arrive t false m c.c.pc (lanesMask (named c.g m t ts))) g)

/-- WAIT (R57): bundles are not re-formed; only threads whose wait does not complete leave a bundle whose others go on. -/
def waitGo (o : OpA) (c : Ctx) (s : State) : State :=
  let m := m4 o.a
  let ts := c.active o.g
  let mine := fun t => named c.g m t ts
  let teams := (teamsOf ts).filter (fun t => !(mine t).isEmpty)
  let full := teams.filter (fun t => (c.g.team t).fills m (lanesMask (mine t)))
  let w := ((teams.filter (fun t => !(full.contains t))).map mine).flatten
  let s := if w.isEmpty then retire s c o.m true [] (fun _ => c.next)
    else park s c o.m true w (.wait m)
  settle (arriveWaits c m ts teams s) c.g.rid

def execWait (o : OpA) (s : State) : Out := maskGo false o s (waitGo o)

def execLeave (o : OpA) (s : State) : Out :=
  issue s { g := o.g } (fun c s =>
    let ts := c.active o.g
    let s := s.updGroup c.g.id (fun g => (teamsOf ts).foldl (fun g t => g.leaveMask t (m4 o.a) (teamMask ts t)) g)
    settle (noResult s c o.m) c.g.rid)

/-! ## Writes of masks (R173) -/

/-- One write for each team with an active thread; an armed mask raises MASKMIS and nothing is written. With a join and a
wait armed the record shows the join's value (log entry 110). -/
def writeMask (s : State) (c : Ctx) (mark : Bool) (m : BitVec 4) (ts : List Nat) (x : Nat → W32) : State :=
  let val := fun t => x t &&& c.g.liveMask t
  let armed := fun t => match (c.g.team t).armed true m with
    | some a => some a
    | none => (c.g.team t).armed false m
  match (teamsOf ts).find? (fun t => (armed t).isSome) with
  | some t => maskmis s c m (((armed t).map (·.val)).getD 0) (val t) (inTeam t ts)
  | none =>
    noResult (s.updGroup c.g.id (fun g => (teamsOf ts).foldl (fun g t => g.updTeam t (fun tm => tm.setM m (val t))) g)) c mark

def execMset (o : OpBW) (s : State) : Out :=
  issue s { g := o.g } (fun c s => writeMask s c o.m (m4 o.d) (c.active o.g) (fun _ => immBW o.i o.p))

/-- The operations of R175. -/
def mlogF (op : Nat) (a b : W32) : W32 :=
  match op with
  | 0 => a &&& b
  | 1 => a ||| b
  | 2 => a ^^^ b
  | 3 => a &&& ~~~b
  | 4 => a
  | _ => ~~~a

def execMlog (o : OpA) (s : State) : Out :=
  issue s { g := o.g } (fun c s =>
    writeMask s c o.m (m4 o.d) (c.active o.g) (fun t => mlogF (mlogOp o) ((c.g.team t).getM (m4 o.a)) ((c.g.team t).getM (m4 o.b))))

/-! ## BALLOT, ELECT -/

def ballotOf (c : Ctx) (g p : BitVec 3) : W32 := lanesMask ((c.active g).filter (fun t => (c.g.th t).getP p))

def execBallot (o : OpA) (s : State) : Out :=
  let p := p3 o.a
  if o.b == 0 then
    issue s { g := o.g, rd := guardRef p, wr := [.v o.d], coll := true } (fun c s =>
      fixedV s c o.m o.t o.d ((c.active o.g).map (fun t => (t, ballotOf c o.g p))))
  else
    issue s { g := o.g, rd := guardRef p, coll := true, arm := some (m4 o.d, p) } (fun c s => writeMask s c o.m (m4 o.d) (c.active o.g) (fun _ => ballotOf c o.g p))

def execElect (o : OpA) (s : State) : Out :=
  issue s { g := o.g, wr := [.p (p3 o.d)], coll := true } (fun c s =>
    let ts := sortLane (c.active o.g)
    fixedP s c o.m (p3 o.d) (ts.map (fun t => (t, some t == ts.head?))))

end Sys2Proof.Machine
end

