-- ==== Sys2Proof/Machine/Matrix.lean ====
section
/-! DEFINITION. Matrix tiles (R138 to R142, R256 to R267), list merges (R268), the distributor and FIXUP (R66, R67, R269, R270), and the steps
of the core's array and gather unit. -/

namespace Sys2Proof.Machine

/-! ## One lane per team (R257) -/

def manyLanes (c : Ctx) (g : BitVec 3) : Bool := (c.teams g).any (fun t => decide (((c.active g).filter (fun x => teamOf x == t)).length > 1))

/-! ## The parameter block (R258, R259) -/

/-- Form: 0 MTX, 1 MTXG, 2 MTXS. -/
structure MBlk where
  form : Nat
  b : List Byte
  fa : W64
  fb : W64
  pairs : List Byte := []

def MBlk.abase (x : MBlk) : Nat := fld x.b 0 8
def MBlk.bbase (x : MBlk) : Nat := fld x.b 8 8
def MBlk.ctile (x : MBlk) : Nat := fld x.b 16 4
def MBlk.k (x : MBlk) : Nat := fld x.b 20 4
def MBlk.m (x : MBlk) : Nat := fld x.b 24 1 + 1
def MBlk.n (x : MBlk) : Nat := fld x.b 25 1 + 1
def MBlk.ctl (x : MBlk) : Nat := fld x.b 26 1
def MBlk.acc (x : MBlk) : Bool := bit x.ctl 0
def MBlk.ascr (x : MBlk) : Bool := bit x.ctl 1
def MBlk.bscr (x : MBlk) : Bool := bit x.ctl 2
def MBlk.fform (x : MBlk) : Nat := fld x.b 27 1
def MBlk.s1 (x : MBlk) : Bool := bits x.fform 1 0 == 1
def MBlk.usePairs (x : MBlk) : Bool := x.form == 2 && bit x.fform 2
def MBlk.x0 (x : MBlk) : Nat := fld x.b 28 4
def MBlk.x1 (x : MBlk) : Nat := fld x.b 32 4
def MBlk.x2 (x : MBlk) : Nat := fld x.b 36 4
def MBlk.x3 (x : MBlk) : Nat := fld x.b 40 4
def MBlk.npair (x : MBlk) : Nat := fld x.b 44 1
def MBlk.g (x : MBlk) : Nat := slotGroup x.fa

def isFp (f : W64) : Bool := decide (slotType f ≤ 1)

/-- What the block and the slots alone decide: reserved fields, ranges, alignments, types, groups, forms. -/
def MBlk.ok (x : MBlk) : Bool :=
  let pairs := x.usePairs
  let base := zeros x.b 45 127 && decide (x.m ≤ 64) && decide (x.n ≤ 64) && decide (x.ctl < 8) && x.ctile % 256 == 0 &&
    decide (32 ≤ x.k ∧ x.k ≤ 65536) && x.k % x.g == 0 && slotGroup x.fa == slotGroup x.fb &&
    (if isFp x.fa || isFp x.fb then slotType x.fa == slotType x.fb else decide (slotType x.fa ≤ 3) && decide (slotType x.fb ≤ 3))
  let byForm := match x.form with
    | 0 => x.fform == 0 && x.x0 == 0 && x.x1 == 0 && x.x2 == 0
    | 1 => x.fform == 0 && x.x0 % 2 == 0 && decide (1 ≤ x.x1 ∧ x.x1 ≤ 65536) && x.x2 == 0 && x.ascr && !(slotCol x.fa)
    | _ => decide (x.fform < 8) && decide (bits x.fform 1 0 ≤ 1) && x.x0 % 4 == 0 && x.x1 % 2 == 0 && decide (x.x2 ≤ 2 ^ 20) && !(slotCol x.fb)
  let byPairs := if pairs then !x.s1 && x.g == 32 && x.x3 % 4 == 0 && decide (x.npair ≤ 64) else x.x3 == 0 && x.npair == 0
  base && byForm && byPairs

/-! ## The pair record (R267) -/

def pairAt (p : List Byte) (i : Nat) : Nat × Nat := (fld p (4 * i) 2, fld p (4 * i + 2) 1)
def MBlk.pairList (x : MBlk) : List (Nat × Nat) := (List.range x.npair).map (pairAt x.pairs)
/-- IDX ascends strictly below K / 32. -/
def ascends (bound : Nat) : List Nat → Bool
  | [] => true
  | [a] => decide (a < bound)
  | a :: b :: l => decide (a < b) && ascends bound (b :: l)
def MBlk.pairsOk (x : MBlk) : Bool := !x.usePairs || ascends (x.k / 32) (x.pairList.map (·.1))
def MBlk.panels (x : MBlk) : Nat := if x.npair == 0 then 0 else (x.pairList.map (·.2)).foldl max 0 + 1

/-! ## Ranges (R138, R260) -/

/-- Bytes of n elements, and of n zero points. -/
def elemBytes (f : W64) (n : Nat) : Nat := match slotType f with | 2 => n | 3 => (n + 1) / 2 | _ => 2 * n
def zeroBytes (f : W64) (n : Nat) : Nat := match slotZP f with | 1 => (n + 1) / 2 | 2 => n | _ => 0

/-- The parts of an operand: elements, scales, zero points, as offset and length from its base. -/
def operandParts (f : W64) (elems groups : Nat) : List (Nat × Nat) :=
  [(0, elemBytes f elems), (slotSoff f, if slotSC f then 2 * groups else 0), (slotZoff f, zeroBytes f groups)]

/-- The smallest range that holds the parts. -/
def hull (base : Nat) (ps : List (Nat × Nat)) : Nat × Nat :=
  match ps.filter (fun p => decide (p.2 > 0)) with
  | [] => (base, 0)
  | p :: rest =>
    let lo := rest.foldl (fun a x => min a x.1) p.1
    let hi := rest.foldl (fun a x => max a (x.1 + x.2)) (p.1 + p.2)
    (base + lo, hi - lo)

def MBlk.aElems (x : MBlk) : Nat :=
  if x.form == 1 then x.x1 * x.k else if x.usePairs then x.panels * x.m * 32 else x.m * x.k
def MBlk.aGroups (x : MBlk) : Nat := (if x.form == 1 then x.x1 else x.m) * (x.k / x.g)
def MBlk.bElems (x : MBlk) : Nat := if x.form == 2 then (if x.s1 then x.x2 else 32 * x.x2) else x.k * x.n
def MBlk.bGroups (x : MBlk) : Nat := x.n * (x.k / x.g)
def MBlk.aParts (x : MBlk) : List (Nat × Nat) := operandParts x.fa x.aElems x.aGroups
def MBlk.bParts (x : MBlk) : List (Nat × Nat) := operandParts x.fb x.bElems x.bGroups
def MBlk.aRng (x : MBlk) : Rng := (x.ascr, hull x.abase x.aParts)
def MBlk.bRng (x : MBlk) : Rng := (x.bscr, hull x.bbase x.bParts)
def MBlk.cRng (x : MBlk) : Rng := (true, x.ctile, 256 * x.m)
def MBlk.pairRng (x : MBlk) : Rng := (true, x.x3, 4 * x.npair)
/-- Index vector, or ROWPTR, COLIDX and the pair record. -/
def MBlk.auxRngs (x : MBlk) : List Rng :=
  match x.form with
  | 0 => []
  | 1 => [(true, x.x0, 2 * x.m)]
  | _ => [(true, x.x0, 4 * (x.n + 1)), (true, x.x1, 2 * x.x2), x.pairRng]

/-- Two ranges overlap, in whichever way each names its bytes (as `Lock.meets`). -/
def rngMeets (g : Group) (a b : Rng) : Bool :=
  let x := g.vaOf a.1 a.2.1
  let y := g.vaOf b.1 b.2.1
  decide (a.2.2 > 0) && decide (b.2.2 > 0) && decide (x < y + b.2.2) && decide (y < x + a.2.2)

/-- R260, item 1: the first range of the list that is out of bounds or spans a region (log entry 126). -/
def rngBad (g : Group) (l : List Rng) : Option (AFault × Nat) :=
  l.findSome? (fun x =>
    if x.1 then (if decide (x.2.2 > 0) && decide (x.2.1 + x.2.2 > g.scrSize) then some (flt .scrbound, x.2.1) else none)
    else if spans x.2.1 x.2.2 then some (flt .align, x.2.1) else none)

/-! ## Issue -/

def queued (s : State) (die core : Nat) : Nat := (s.eng.mtxQ.filter (fun x => x.1 == die && x.2.1 == core)).length

def mtxTeam (c : Ctx) (o : OpE) (form : Nat) (s : State) (t : Nat) : TeamRes :=
  let off := c.s t o.a
  match blockCheck s c off 128 128 false false with
  | some e => .fault e off s
  | none =>
    match s.group? c.g.id with
    | none => .ok s
    | some g =>
      let bs := c.blk t (g.scr off.toNat 128)
      let x : MBlk := { form := form, b := bs.take 128, fa := c.r.slot (o.b.toNat % 8), fb := c.r.slot (o.b.toNat / 8) }
      let die := TeamRes.stop (fun s => illop s c)
      if !x.ok then die
      else
        match (if x.usePairs then rngBad g [x.pairRng] else none) with
        | some (e, a) => .fault e (BitVec.ofNat 64 a) s
        | none =>
          if x.usePairs && lockBlocked s g [x.pairRng] [] then .stall
          else
            let x := { x with pairs := if x.usePairs then (if bs.length > 128 then bs.drop 128 else g.scr x.x3 (4 * x.npair)) else [] }
            if !x.pairsOk || rngMeets g x.cRng x.aRng || rngMeets g x.cRng x.bRng then die
            else
              match rngBad g (x.auxRngs ++ [x.aRng, x.bRng, x.cRng]) with
              | some (e, a) => .fault e (BitVec.ofNat 64 a) s
              | none =>
                let src := [x.aRng, x.bRng] ++ x.auxRngs
                if lockBlocked s g src [x.cRng] || decide (queued s g.die g.core ≥ 8) then .stall
                else
                  let id := s.eng.nextOp
                  let s := startOp s c t (laneOf (c.lowest o.g t)) (some (s5 o.k)) (.mtx form x.b x.fa x.fb x.pairs) src [x.cRng]
                  .ok (s.updEng (fun e => { e with mtxQ := e.mtxQ ++ [(g.die, g.core, id)] }))

/-- The block of a team with its pair record, as the instruction finds them. -/
def mtxBlock (s : State) (c : Ctx) (o : OpE) (form t : Nat) : List Byte :=
  match s.group? c.g.id with
  | none => []
  | some g =>
    let x : MBlk := { form := form, b := c.blk t (g.scr (c.s t o.a).toNat 128), fa := c.r.slot (o.b.toNat % 8), fb := c.r.slot (o.b.toNat / 8) }
    if x.b.length > 128 then x.b else x.b ++ (if x.usePairs && !(lockBlocked s g [x.pairRng] []) then g.scr x.x3 (4 * x.npair) else [])

def mtxIssue (form : Nat) (o : OpE) (s : State) : Out :=
  issue s { g := o.g, rd := [.s (s5 o.a)], wr := [.s (s5 o.k)] } (fun c s =>
    if manyLanes c o.g then illop s c else eachTeam s c o.g (mtxTeam c o form) (fun s => noResult s c o.m) (mtxBlock s c o form))

def execMtx (o : OpE) (s : State) : Out := mtxIssue 0 o s
def execMtxg (o : OpE) (s : State) : Out := mtxIssue 1 o s
def execMtxs (o : OpE) (s : State) : Out := mtxIssue 2 o s

/-! ## The array's arithmetic (R140 to R142) -/

/-- Element e of an operand's bytes, as its pattern. -/
def elemBits (f : W64) (bs : List Byte) (e : Nat) : Nat :=
  match slotType f with
  | 2 => fld bs e 1
  | 3 => fld bs (e / 2) 1 / 16 ^ (e % 2) % 16
  | _ => fld bs (2 * e) 2
def elemInt (f : W64) (x : Nat) : Int :=
  let wd := if slotType f == 3 then 4 else 8
  if slotSigned f then sext wd x else x
def zeroAt (f : W64) (bs : List Byte) (gi : Nat) : Nat :=
  match slotZP f with
  | 1 => fld bs (gi / 2) 1 / 16 ^ (gi % 2) % 16
  | 2 => fld bs gi 1
  | _ => 0
def scaleAt (f : W64) (bs : List Byte) (gi : Nat) : Nat := if slotSC f then fld bs (2 * gi) 2 else 0x3C00

/-- R140 over the products. -/
def fpGroup (ps : List FV) : Nat :=
  let isInf := fun (neg : Bool) (p : FV) => match p with | .inf s => s == neg | _ => false
  let mag := ps.filterMap (fun p => match p with | .fin _ m e => if m == 0 then none else some ((m.log2 : Int) + e) | _ => none)
  if ps.any (fun p => match p with | .nan => true | _ => false) || (ps.any (isInf true) && ps.any (isInf false)) then F32.nan
  else if ps.any (isInf true) then F32.round 0 (.inf true)
  else if ps.any (isInf false) then F32.round 0 (.inf false)
  else match mag with
    | [] => 0
    | e0 :: es =>
      let unit := es.foldl max e0 - 36
      let sum := ps.foldl (fun (n : Int) p => match p with
        | .fin s m e =>
          let q : Nat := if e ≥ unit then m * 2 ^ (e - unit).toNat else m / 2 ^ (unit - e).toNat
          if s then n - q else n + q
        | _ => n) 0
      F32.round 0 (.fin (sum < 0) sum.natAbs unit)

/-- A group's sum with its two scales (R141); a sum of 0 is +0, so that a negative product of scales makes −0 (log entry 108). -/
def quantGroup (sum : Int) (sa sb : Nat) : Nat := F32.round 0 ((FV.fin (sum < 0) sum.natAbs 0).mul ((F16.val sa).mul (F16.val sb)))

/-- The bytes of an operand's three arrays. -/
structure Opnd where
  f : W64
  el : List Byte
  sc : List Byte
  zp : List Byte

/-- One K-group of one output element: `ai` and `bi` give element indices by k (none: absent), `ga` and `gb` the group indices. -/
def groupSum (a b : Opnd) (g k0 : Nat) (ai bi : Nat → Option Nat) (ga gb : Nat) : W32 :=
  let ks := (List.range g).map (k0 + ·)
  let at_ := fun (x : Opnd) (i : Option Nat) => match i with | some e => elemBits x.f x.el e | none => 0
  if isFp a.f then
    let fmt := if slotType a.f == 0 then B16 else F16
    BitVec.ofNat 32 (fpGroup (ks.map (fun k => (fmt.val (at_ a (ai k))).mul (fmt.val (at_ b (bi k))))))
  else
    let one := fun (x : Opnd) (i : Option Nat) (gi : Nat) => match i with
      | some e => elemInt x.f (elemBits x.f x.el e) - zeroAt x.f x.zp gi
      | none => 0
    let sum := ks.foldl (fun (n : Int) k => n + one a (ai k) ga * one b (bi k) gb) 0
    BitVec.ofNat 32 (quantGroup sum (scaleAt a.f a.sc ga) (scaleAt b.f b.sc gb))

/-! ## Sparse structures (R265, R266) -/

structure Sparse where
  rowptr : List Nat
  col : List Nat

def Sparse.at (x : Sparse) (j : Nat) : Nat := x.rowptr.getD j 0
/-- The scratch offset at which the rules of R265 break. -/
def sparseBad (x : MBlk) (sp : Sparse) : Option Nat :=
  let bound := if x.s1 then x.k else x.k / 32
  let row := fun j => x.x0 + 4 * j
  if sp.at 0 != 0 then some (row 0)
  else match (List.range x.n).find? (fun j => decide (sp.at (j + 1) < sp.at j)) with
    | some j => some (row (j + 1))
    | none =>
      if sp.at x.n != x.x2 then some (row x.n)
      else match (List.range x.n).find? (fun j => !(ascends bound ((sp.col.drop (sp.at j)).take (sp.at (j + 1) - sp.at j)))) with
        | some j => some (x.x1 + 2 * sp.at j)
        | none => none

/-- Element index of (k, j) in the values, if column j holds it. -/
def sparseIx (x : MBlk) (sp : Sparse) (j k : Nat) : Option Nat :=
  let key := if x.s1 then k else k / 32
  (((List.range (sp.at (j + 1) - sp.at j)).map (sp.at j + ·)).find? (fun e => sp.col.getD e 0 == key)).map
    (fun e => if x.s1 then e else 32 * e + k % 32)
def sparseHas (x : MBlk) (sp : Sparse) (g : Nat) : Bool := sp.col.any (fun c => (if x.s1 then c else 32 * c) / x.g == g)

/-! ## Running an operation -/

/-- What a run gives: C's rows and the token, or the fault with its address. -/
structure MRes where
  s : State
  bad : Option (AFault × Nat) := none
  out : List Byte := []
  tok : W64 := 0

def readParts (s : State) (c : Ctx) (scr : Bool) (base : Nat) (ps : List (Nat × Nat)) : State × List (List Byte) × Option (AFault × Nat) :=
  ps.foldl (fun r p =>
    if r.2.2.isSome || p.2 == 0 then (r.1, r.2.1 ++ [[]], r.2.2)
    else
      let io := engRead r.1 c scr (base + p.1) p.2
      (io.s, r.2.1 ++ [io.bytes], io.bad)) (s, [], none)

def opndOf (f : W64) (l : List (List Byte)) : Opnd := { f := f, el := l.getD 0 [], sc := l.getD 1 [], zp := l.getD 2 [] }

/-- The tile (R261, R264, R266, R267). -/
def mtxTile (x : MBlk) (g : Group) (a b : Opnd) : List Byte × W64 :=
  let nat := fun off n i => g.scratch.readN (off + n * i) n
  let sp : Sparse := if x.form == 2 then { rowptr := (List.range (x.n + 1)).map (nat x.x0 4), col := (List.range x.x2).map (nat x.x1 2) } else ⟨[], []⟩
  let kg := x.k / x.g
  let live := (List.range kg).filter (fun h =>
    if x.form != 2 then true
    else if x.usePairs then x.pairList.any (fun p => p.1 == h) else sparseHas x sp h)
  let panel := fun h => ((x.pairList.find? (fun p => p.1 == h)).map (·.2)).getD 0
  let cell := fun (i j : Nat) =>
    let row := if x.form == 1 then nat x.x0 2 i else i
    let ai := fun (k : Nat) =>
      if x.usePairs then some (32 * x.m * panel (k / 32) + 32 * i + k % 32)
      else if slotCol x.fa then some (k * x.m + row) else some (row * x.k + k)
    let bi := fun (k : Nat) =>
      if x.form == 2 then sparseIx x sp j k else if slotCol x.fb then some (j * x.k + k) else some (k * x.n + j)
    let c0 : W32 := if x.acc then BitVec.ofNat 32 (nat (x.ctile + 256 * i) 4 j) else 0
    live.foldl (fun c h => applyOp 1 0 c (groupSum a b x.g (h * x.g) ai bi (row * kg + h) (j * kg + h))) c0
  let rows := (List.range x.m).map (fun i =>
    ((List.range 64).map (fun j => if j < x.n then leBytes 4 (cell i j).toNat else g.scr (x.ctile + 256 * i + 4 * j) 4)).flatten)
  (rows.flatten, BitVec.ofNat 64 (live.length + (kg - live.length) * 2 ^ 32))

def mtxRun (s : State) (c : Ctx) (x : MBlk) : MRes :=
  let nat := fun off n i => c.g.scratch.readN (off + n * i) n
  let badIdx := if x.form == 1 then (List.range x.m).find? (fun i => decide (nat x.x0 2 i ≥ x.x1)) else none
  let badSp := if x.form == 2 then
      sparseBad x { rowptr := (List.range (x.n + 1)).map (nat x.x0 4), col := (List.range x.x2).map (nat x.x1 2) }
    else none
  let badP := (x.auxRngs ++ (if x.acc then [x.cRng] else [])).findSome? (fun r => (tgtBad s c.who (.scr r.2.1) r.2.2).map (fun e => (e, r.2.1)))
  if let some e := badP then { s := s.poisonRec e.1, bad := some e } else
  match badIdx, badSp with
  | some i, _ => { s := s, bad := some (flt .scrbound, x.x0 + 2 * i) }
  | none, some a => { s := s, bad := some (flt .illop, a) }
  | none, none =>
    let ra := readParts s c x.ascr x.abase x.aParts
    let rb := readParts ra.1 c x.bscr x.bbase x.bParts
    match (if ra.2.2.isSome then ra.2.2 else rb.2.2) with
    | some f => { s := rb.1, bad := some f }
    | none =>
      let r := mtxTile x c.g (opndOf x.fa ra.2.1) (opndOf x.fb rb.2.1)
      { s := rb.1, out := r.1, tok := r.2 }

/-! ## XSECT (R268) -/

/-- The merge of two lists, their lengths bounding it. -/
def merge (fuel : Nat) (la lb : List Nat) (i j : Nat) : List Byte :=
  match fuel, la, lb with
  | f + 1, a :: la', b :: lb' =>
    if a == b then leBytes 4 (a + 2 ^ 16 * i + 2 ^ 24 * j) ++ merge f la' lb' (i + 1) (j + 1)
    else if a < b then merge f la' (b :: lb') (i + 1) j
    else merge f (a :: la') lb' i (j + 1)
  | _, _, _ => []

def xsectBlock (s : State) (c : Ctx) (o : OpE) (t : Nat) : List Byte := match s.group? c.g.id with | some g => g.scr (c.s t o.a).toNat 32 | none => []
def execXsect (o : OpE) (s : State) : Out :=
  issue s { g := o.g, rd := [.s (s5 o.a)], wr := [.s (s5 o.k)] } (fun c s =>
    let one := fun (s : State) (t : Nat) =>
      let off := c.s t o.a
      match blockCheck s c off 32 32 false false with
      | some e => TeamRes.fault e off s
      | none =>
        let b := c.blk t (xsectBlock s c o t)
        let la := fld b 0 4
        let lb := fld b 4 4
        let na := fld b 8 1
        let nb := fld b 9 1
        let out := fld b 12 4
        if la % 2 != 0 || lb % 2 != 0 || decide (na > 64) || decide (nb > 64) || !(zeros b 10 11) || out % 4 != 0 || !(zeros b 16 31)
        then .stop (fun s => illop s c)
        else
          let src : List Rng := [(true, la, 2 * na), (true, lb, 2 * nb)]
          let dst : List Rng := [(true, out, 4 * min na nb)]
          match rngBad c.g (src ++ dst) with
          | some (e, a) => .fault e (BitVec.ofNat 64 a) s
          | none =>
            if lockBlocked s c.g src dst then .stall
            else .ok (startOp s c t (laneOf (c.lowest o.g t)) (some (s5 o.k)) (.xsect la lb na nb out) src dst)
    if manyLanes c o.g then illop s c else eachTeam s c o.g one (fun s => noResult s c o.m) (fun t => c.blk t (xsectBlock s c o t)))

/-! ## The distributor (R66, R67, R269) -/

/-- Groups that the dies below have dispatched, and all dies (R36). -/
def RangeSt.groupsBelow (r : RangeSt) (die : Nat) : Nat := sumOf (fun (x : Nat × Nat) => if x.1 < die then x.2 else 0) r.seqs
def RangeSt.groupTotal (r : RangeSt) : Nat := sumOf (fun (x : Nat × Nat) => x.2) r.seqs
/-- The number of a group in order of %gseq. -/
def RangeSt.groupNo (r : RangeSt) (gseq : W64) : Nat := r.groupsBelow (gseq.extractLsb 63 62).toNat + (gseq.extractLsb 61 0).toNat
/-- %gseq of the group with a number. -/
def RangeSt.gseqNo (r : RangeSt) (n : Nat) : W64 :=
  match (List.range 4).find? (fun d => decide (r.groupsBelow d ≤ n) && decide (n < r.groupsBelow (d + 1))) with
  | some d => BitVec.ofNat 64 (d * 2 ^ 62 + (n - r.groupsBelow d))
  | none => 0

/-- b(g) of R66. -/
def RangeSt.shareAt (r : RangeSt) (g : Nat) : Nat :=
  let total := r.img.dt * r.img.di
  let n := max r.groupTotal 1
  g * (total / n) + min g (total % n)

def endWord : W64 := 0x8000000000000000
/-- Segment n of group g (Table 6 of R269). -/
def RangeSt.segment (r : RangeSt) (g n : Nat) : W64 :=
  let i := r.img.di
  let b0 := r.shareAt g
  let b1 := r.shareAt (g + 1)
  let tile := b0 / i + n
  let lo := max b0 (tile * i)
  let hi := min b1 ((tile + 1) * i)
  if r.img.dt == 0 || decide (hi ≤ lo) then endWord
  else
    let first := lo - tile * i
    let role := if hi - lo == i then 0 else if first == 0 then 1 else 2
    BitVec.ofNat 64 (role * 2 ^ 57 + (hi - lo) * 2 ^ 40 + first * 2 ^ 24 + tile)

def execDist (o : OpE) (s : State) : Out :=
  let d := s5 o.k
  issue s { g := o.g, wr := [.s d], late := true } (fun c s =>
    if manyLanes c o.g || !c.r.img.rrec.coop && !(c.active o.g).isEmpty then illop s c
    else
      let one := fun (x : Group × List (Nat × BitVec 5 × W64)) (t : Nat) =>
        let w := c.r.segment (c.r.groupNo c.g.gseq) x.1.segs
        if w == endWord then (x.1, x.2 ++ [(t, d, w)])
        else ({ x.1 with segs := x.1.segs + 1, segWords := x.1.segWords ++ [w] }, x.2 ++ [(t, d, w)])
      let r := (c.teams o.g).foldl one (c.g, [])
      let s := s.updGroup c.g.id (fun g => { g with segs := r.1.segs, segWords := r.1.segWords })
      lateResult s c o.m (c.active o.g) { regs := [.s d], s := r.2 })

/-! ## FIXUP (R270) -/

def segTile (w : W64) : Nat := (w.extractLsb 23 0).toNat
def segRole (w : W64) : Nat := (w.extractLsb 58 57).toNat
/-- The contributors of a tile, ascending. -/
def RangeSt.contributors (r : RangeSt) (tile : Nat) : List Nat :=
  (List.range r.groupTotal).filter (fun g =>
    let b := r.shareAt g
    decide (b < r.shareAt (g + 1)) && b / r.img.di == tile && b % r.img.di != 0)
/-- The die where the group is that owns a tile: it holds the tile's first iteration. -/
def RangeSt.ownerDie (r : RangeSt) (s : State) (tile : Nat) : Nat :=
  match (List.range r.groupTotal).find? (fun g => decide (r.shareAt g ≤ tile * r.img.di) && decide (tile * r.img.di < r.shareAt (g + 1))) with
  | some g =>
    let n := ((r.gseqNo g).extractLsb 63 62).toNat
    ((s.groups.find? (fun x => x.rid == r.rid && x.gseq == r.gseqNo g)).map (·.die)).getD (((r.harps.find? (fun h => h.num == n)).map (·.die)).getD n)
  | none => 0
def RangeSt.fixSlot (r : RangeSt) (g : Nat) : Nat := r.img.dfix + 16384 * g
def RangeSt.slotIn (r : RangeSt) (die g : Nat) : Bool :=
  match r.resv.find? (fun x => x.die == die) with
  | some x => decide (r.fixSlot g + 16384 ≤ x.size)
  | none => false

def execFixup (o : OpE) (s : State) : Out :=
  issue s { g := o.g, rd := [.s (s5 o.a), .s (s5 o.b)], wr := [.s (s5 o.k)] } (fun c s =>
    let one := fun (s : State) (t : Nat) =>
      let off := c.s t o.a
      let w := c.s t o.b
      let words := match s.group? c.g.id with | some g => g.segWords | none => []
      let tile := segTile w
      let die := c.r.ownerDie s tile
      let mine := c.r.groupNo c.g.gseq
      let slots := if segRole w == 2 then [mine] else c.r.contributors tile
      let rng : Rng := (true, off.toNat, 16384)
      let owner := segRole w == 1
      if !c.r.img.rrec.coop || c.r.img.dt == 0 || c.r.img.rrec.nexact == 0 || w.getLsbD 63 || segRole w == 0 || !(words.contains w)
      then TeamRes.stop (fun s => illop s c)
      else if off.toNat % 256 != 0 then .fault (flt .align) off s
      else if off.toNat + 16384 > c.g.scrSize then .fault (flt .scrbound) off s
      else if !(slots.all (c.r.slotIn die)) then .fault (flt .prot) off s
      else if lockBlocked s c.g (if owner then [] else [rng]) (if owner then [rng] else []) then .stall
      else
        let s := s.updGroup c.g.id (fun g => { g with segWords := g.segWords.erase w })
        .ok (startOp s c t (laneOf (c.lowest o.g t)) (some (s5 o.k)) (.fixup owner off.toNat w) (if owner then [] else [rng]) (if owner then [rng] else []))
    if manyLanes c o.g then illop s c else eachTeam s c o.g one (fun s => noResult s c o.m))

/-- The sectors of n bytes of the Reservoir region as a core sees them, or writes them (R82, R89). -/
def State.resvSeenN (s : State) (w : Who) (die off n : Nat) (write : Bool) : State :=
  (List.range ((off + n + 127) / 128 - off / 128)).foldl (fun s i => s.resvSeen w die false (off / 128 + i) write) s
/-- Addresses of a Reservoir offset and of an exact cell (R76). -/
def resvVa (die off : Nat) : Nat := 2 ^ 54 + die * 2 ^ 52 + 0xFF * 2 ^ 44 + off
def cellVa (die k : Nat) : Nat := 2 ^ 54 + die * 2 ^ 52 + 0xFF * 2 ^ 44 + 2 * 2 ^ 42 + 64 * k

/-- Contributors of a tile that have arrived; none while one has neither arrived nor retired. -/
def arrivedOf (s : State) (r : RangeSt) (tile : Nat) : Option (List Nat) :=
  let st := (r.contributors tile).map (fun n =>
    let q := r.gseqNo n
    match s.groups.find? (fun g => g.rid == r.rid && g.gseq == q) with
    | some g => (n, if g.fixDone then some true else none)
    | none => (n, some (r.dead.any (fun x => x.2 == q && x.1 == 1))))
  if st.any (fun x => x.2.isNone) then none else some ((st.filter (fun x => x.2 == some true)).map (·.1))

/-- A contributor's deposit, or an owner's combination through an exact cell. -/
def fixRun (s : State) (c : Ctx) (owner : Bool) (off : Nat) (w : W64) : Option MRes :=
  let tile := segTile w
  let die := c.r.ownerDie s tile
  match tgtLoad s c.who (.scr off) 16384 false with
  | .error e => some { s := s.poisonRec e, bad := some (e, off) }
  | .ok (bs, s) =>
    if owner then
      match arrivedOf s c.r tile with
      | none => none
      | some gs =>
        let k := ((c.r.resv.find? (fun x => x.die == die)).map (fun x => x.cells.length)).getD 0 - 1
        let hurt := ((s.cellBad c.who die k).map (fun e => (e, cellVa die k))).orElse (fun _ =>
          gs.findSome? (fun n => (s.resBad c.who die (c.r.fixSlot n) 16384).map (fun e => (e, resvVa die (c.r.fixSlot n)))))
        match hurt with
        | some e => some { s := s.poisonRec e.1, bad := some e }
        | none =>
          let parts := gs.map (fun n => s.resvRead c.r.rid die (c.r.fixSlot n) 16384)
          let word := fun (l : List Byte) (e : Nat) => BitVec.ofNat 32 (fld l (4 * e) 4)
          let out := ((List.range 4096).map (fun e => leBytes 4 ((parts.foldl (fun (k : Cell) p => k.add (word p e)) (Cell.store (word bs e))).read).toNat)).flatten
          some { s := gs.foldl (fun s n => (s.resvReady c.r.rid die (c.r.fixSlot n)).resvSeenN c.who die (c.r.fixSlot n) 16384 false) s, out := out, tok := BitVec.ofNat 64 (1 + gs.length) }
    else some { s := s, out := bs, tok := 1 }

/-! ## The steps of the engines -/

def blkOf (form : Nat) (b : List Byte) (fa fb : W64) (pairs : List Byte) : MBlk := { form := form, b := b, fa := fa, fb := fb, pairs := pairs }

/-- Every stalled bundle of a core tries again: a place in the matrix queue is free. -/
def wakeCore (s : State) (die core : Nat) : State :=
  (s.groups.filter (fun g => g.die == die && g.core == core)).foldl (fun s g => wakeStalled s g.id) s

/-- MATRIX_START (R260): restarted commands are queued again in issue order; the array takes the first of its queue when idle. Cores
are numbered die × 128 + core. -/
def execMatrixStart (core : Nat) (s : State) : Out :=
  .next (
    let die := core / Config.coresPerDie
    let num := core % Config.coresPerDie
    let isM := fun (o : EngOp) => match o.kind with | .mtx .. => true | _ => false
    let here := fun (o : EngOp) => match s.group? o.gid with | some g => g.die == die && g.core == num | none => false
    let back := s.eng.ops.filter (fun o => isM o && here o && !o.held && !(s.eng.mtxQ.any (fun x => x.2.2 == o.id)))
    let s := s.updEng (fun e => { e with mtxQ := e.mtxQ ++ back.map (fun o => (die, num, o.id)) })
    let q := s.eng.mtxQ.filter (fun x => x.1 == die && x.2.1 == num)
    if (s.core die num).failed || q.any (fun x => match s.op? x.2.2 with | some o => o.started | none => false) then s
    else match q with
      | x :: _ => s.updOp x.2.2 (fun o => { o with started := true })
      | [] => s)

/-- What the engines would do with an operation now. -/
def opRun (s : State) (o : EngOp) : Option (Ctx × MRes) :=
  if o.held then none
  else match engCtx s o.gid with
    | none => none
    | some c =>
      match o.kind with
      | .mtx form b fa fb pairs => if o.started then some (c, mtxRun s c (blkOf form b fa fb pairs)) else none
      | .xsect la lb na nb _ =>
        let l := fun off n => (List.range n).map (fun i => c.g.scratch.readN (off + 2 * i) 2)
        let out := merge (na + nb) (l la na) (l lb nb) 0 0
        match tgtBad s c.who (.scr la) (2 * na), tgtBad s c.who (.scr lb) (2 * nb) with
        | some e, _ => some (c, { s := s.poisonRec e, bad := some (e, la) })
        | none, some e => some (c, { s := s.poisonRec e, bad := some (e, lb) })
        | none, none => some (c, { s := s, out := out, tok := BitVec.ofNat 64 (out.length / 4) })
      | .fixup owner off w => (fixRun s c owner off w).map (fun r => (c, r))
      | _ => none

/-- The result written whole, then the token; the matrix queue moves on. -/
def opDone (o : EngOp) (c : Ctx) (r : MRes) (s : State) (off : Nat) : State :=
  let s := (s.coreHeal c.g.die c.g.core (c.g.scrBase + off) r.out.length).scrWrite o.gid off r.out
  let s := s.updEng (fun e => { e with mtxQ := e.mtxQ.filter (fun x => x.2.2 != o.id) })
  settle (wakeCore (finishOp s o r.tok) c.g.die c.g.core) c.g.rid

/-- MATRIX_COMPLETE (R262). -/
def execMatrixComplete (op : Nat) (s : State) : Out :=
  .next (match s.op? op with
    | none => s
    | some o =>
      match o.kind, opRun s o with
      | .mtx _ b _ _ _, some (c, r) =>
        let u := r.s.count c.g.part 10 (r.tok.extractLsb 63 32).toNat c.r.qid
        if r.bad.isNone then opDone o c r u (fld b 16 4) else s
      | _, _ => s)

/-- XSECT_COMPLETE (R268). -/
def execXsectComplete (op : Nat) (s : State) : Out :=
  .next (match s.op? op with
    | none => s
    | some o =>
      match o.kind, opRun s o with
      | .xsect _ _ _ _ out, some (c, r) => if r.bad.isNone then opDone o c r r.s out else s
      | _, _ => s)

/-- MATRIX_FAULT (R263): the group stops, nothing is written, the command is kept to run again. -/
def execMatrixFault (op : Nat) (s : State) : Out :=
  .next (match s.op? op with
    | none => s
    | some o =>
      match opRun s o with
      | some (c, r) =>
        match r.bad with
        | some (f, a) =>
          let s := r.s.updOp op (fun x => { x with started := false })
          let s := s.updEng (fun e => { e with mtxQ := e.mtxQ.filter (fun x => x.2.2 != op) })
          wakeCore (engFault s o f a 0) c.g.die c.g.core
        | none => s
      | none => s)

/-- FIXUP_DEPOSIT_COMPLETE (R270): the partial stands in its slot, released at .dv; the contributor has arrived. -/
def execFixupDepositComplete (op : Nat) (s : State) : Out :=
  .next (match s.op? op with
    | none => s
    | some o =>
      match o.kind, opRun s o with
      | .fixup false _ w, some (c, r) =>
        if r.bad.isSome then s
        else
          let die := c.r.ownerDie s (segTile w)
          let at_ := c.r.fixSlot (c.r.groupNo c.g.gseq)
          let s := ((releaseCore r.s c.g.die c.g.core).resvReady c.r.rid die at_).resHeal c.who die at_ 16384
          let s := (s.resvWrite c.r.rid die at_ r.out).resvSeenN c.who die at_ 16384 true
          let s := s.updGroup o.gid (fun g => { g with fixDone := true })
          settle (finishOp s o r.tok) c.g.rid
      | _, _ => s)

/-- FIXUP_OWNER_COMBINE (R270): every contributor has arrived or retired; the tile takes the combined values. -/
def execFixupOwnerCombine (op : Nat) (s : State) : Out :=
  .next (match s.op? op with
    | none => s
    | some o =>
      match o.kind, opRun s o with
      | .fixup true off _, some (c, r) => if r.bad.isNone then opDone o c r r.s off else s
      | _, _ => s)

end Sys2Proof.Machine
end

