-- ==== Sys2Proof/Machine/Edge.lean ====
section
/-! DEFINITION. Edge ranges (R273 to R286): ENEXT, ECOMB, EACT, EDONE, ELEVEL, EMODE, and the steps of the Sluices. -/

namespace Sys2Proof.Machine

/-- Outside a range of kind edge the instruction is illegal (R273). -/
def edgeIssue (s : State) (p : Spec) (body : Ctx → Graph → State → State) : Out :=
  issue s p (fun c s => match c.r.img.rrec.edge, c.r.graph with
    | true, some g => body c g s
    | _, _ => illop s c)

/-- The registers of an ENEXT: pK and the four edge registers. -/
def enextRegs (k : BitVec 3) : List RegRef := [.p k, .sys 0x24, .sys 0x25, .sys 0x26, .sys 0x27]

def execEnext (o : OpE) (s : State) : Out :=
  let k := p3 o.k
  edgeIssue s { g := o.g, wr := enextRegs k, late := true } (fun c _ s =>
    let ts := c.active o.g
    settle (lateResult s c o.m ts { regs := enextRegs k, pend := if ts.isEmpty then [] else [.enext ts k c.c.pc] }) c.g.rid)

def Ctx.triple (c : Ctx) (t : Nat) : Option Triple := c.g.triple t

/-- The draw walk that delivered the lane's triple and still stands. -/
def drawWalk (g : Graph) (die gid t : Nat) (tr : Triple) : Option DrawWalk :=
  (g.sluice? die).bind (fun x => x.walks.find? (fun d => walkOf gid t d && d.t == tr.t.toNat))

/-- A spill combine of one lane: an atomic at the home slice, or, in a logged range, held for its order (R278, R285). -/
def spillComb (c : Ctx) (g : Graph) (s : State) (fs : List DFault) (t : Nat) (tr : Triple) (y : W32) : State × List DFault :=
  let va := g.stateAt tr.t.toNat
  let h : Comb := { t := tr.t.toNat, y := y, pc := if c.r.logged then c.c.pc else tr.pc, gid := c.g.id, tid := t, idx := tr.idx }
  let bad := fun (e : AFault) => (s.poisonRec e, fs ++ [laneFault c t e va])
  match flgCheck s c va.toNat 4 (.rmw 64 false) with
  | .error e => bad e
  | .ok a =>
    match llcFill s c.who a true with
    | .error e => bad e
    | .ok s =>
      if c.r.logged then (s.updGraph c.g.rid (fun g => { g with
          logq := g.logq ++ [h], combed := (c.g.id, t, tr.idx) :: g.combed.filter (fun x => !(x.1 == c.g.id && x.2.1 == t)) }), fs)
      else match stateComb s c.g.rid h with
        | .error e => bad e.1
        | .ok s => (s, fs)

/-- The lane's triple is of a draw walk that its Sluice has abandoned (R284). -/
def Ctx.abandoned (c : Ctx) (g : Graph) (tr : Triple) : Bool :=
  tr.draw && (match g.sluice? c.g.die with | some x => x.ep != tr.ep | none => true)

/-- What a lane's accumulator holds is applied, the walk goes on (R279). -/
def applyAcc (s : State) (rid die : Nat) (p : DrawWalk → Bool) : State :=
  (flush (s.updGraph rid (fun g => g.updSluice die (fun x =>
    { x with walks := upd p (fun d => { d with acc := none }) x.walks,
             accs := x.accs ++ (x.walks.filter p).filterMap DrawWalk.comb }))) rid die).1

/-- A draw combine of one lane: into the accumulator, which is applied once no in-edge of the target is left to deliver (R278, R279); on
a walk that EDONE or a boundary has ended it is applied at once (log entry 105). -/
def drawComb (c : Ctx) (g : Graph) (s : State) (t : Nat) (tr : Triple) (y : W32) : State :=
  let mine := fun (d : DrawWalk) => walkOf c.g.id t d && d.t == tr.t.toNat
  match drawWalk g c.g.die c.g.id t tr with
  | none => (flush (s.updGraph c.g.rid (fun g => g.updSluice c.g.die (fun x => { x with accs := x.accs ++ [{ t := tr.t.toNat, y := y, pc := tr.pc, gid := c.g.id, tid := t }] }))) c.g.rid c.g.die).1
  | some d =>
    let fold := fun (d : DrawWalk) => { d with acc := some (match d.acc with | none => y | some z => if g.op == 16 then z else applyOp g.op 0 z y) }
    let s := s.updGraph c.g.rid (fun g => g.updSluice c.g.die (fun sl => { sl with walks := upd mine fold sl.walks }))
    match drawOn s (sluWho s c.r c.g.id) g d with
    | .ok (none, s) => applyAcc s c.g.rid c.g.die mine
    | _ => s

/-- ECOMB of one lane. -/
def combLane (c : Ctx) (g : Graph) (a : BitVec 6) (x : State × List DFault) (t : Nat) : State × List DFault :=
  match c.triple t with
  | none => x
  | some tr =>
    let y := c.v t a
    if c.abandoned g tr then x
    else if tr.draw then (drawComb c g x.1 t tr y, x.2)
    else spillComb c g x.1 x.2 t tr y

/-- A spill combine at a word under additions held back waits, and one on an SO page, which releases (R110, R113). -/
def Ctx.combWaits (c : Ctx) (g : Graph) (s : State) (ts : List Nat) : Bool :=
  ts.any (fun t => match c.triple t with
    | some tr =>
      let a := (g.stateAt tr.t.toNat).toNat
      !tr.draw && (s.heldBack c.g.die c.g.core c.r.asid false [(a, 4)] || isSo a && c.combHeld t true 0 0)
    | none => false)

def execEcomb (o : OpE) (s : State) : Out :=
  edgeIssue s { g := o.g, rd := [.v o.a] } (fun c g s =>
    let ts := c.active o.g
    if c.combWaits g s ts then stallAt s c
    else
      let r := ts.foldl (combLane c g o.a) (s, [])
      settle (noResult (r.1.dataFaults c r.2) c o.m) c.g.rid)

/-- The triple of a lane that EACT and EDONE act on: its current one, but for one of an abandoned draw walk (R280, R284). -/
def Ctx.current (c : Ctx) (g : Graph) (t : Nat) : Option Triple := (c.triple t).filter (fun tr => !(c.abandoned g tr))

def execEact (o : OpE) (s : State) : Out :=
  edgeIssue s { g := o.g } (fun c g s =>
    noResult ((c.active o.g).foldl (fun s t => match c.current g t with
      | some tr => askAct s c.g.rid c.g.id tr.t.toNat tr.pc
      | none => s) s) c o.m)

def execEdone (o : OpE) (s : State) : Out :=
  edgeIssue s { g := o.g } (fun c g s =>
    noResult ((c.active o.g).foldl (fun s t => match c.current g t with
      | some tr => if tr.draw then endWalks s c.g.rid c.g.die (fun d => walkOf c.g.id t d && d.t == tr.t.toNat) else s
      | none => s) s) c o.m)

/-- ELEVEL does not end the run (R281). -/
def execElevel (o : OpF) (s : State) : Out :=
  edgeIssue s { g := o.g } (fun c _ s =>
    let ts := c.active o.g
    if ts.isEmpty then noResult s c o.m else settle (park s c o.m false ts .elevel) c.g.rid)

def execEmode (o : OpF) (s : State) : Out :=
  edgeIssue s { g := o.g } (fun c _ s =>
    let q : Option Bool := match o.sel.toNat with | 0 => none | 1 => some false | _ => some true
    let s := if (c.active o.g).isEmpty then s else s.updEng (fun e => { e with emode := match q with
      | some m => assocSet e.emode c.g.die m
      | none => assocDel e.emode c.g.die })
    noResult s c o.m)

/-! ## The level boundary (R281, R282, R283) -/

/-- Every live thread of the range has arrived. -/
def levelDue (s : State) (rid : Nat) : Bool :=
  let gs := s.groups.filter (fun g => g.rid == rid)
  let n := sumOf (fun g => sumOf (fun (b : Bundle) => b.ts.length) (g.bundles.filter (fun b => b.st == .elevel))) gs
  n != 0 && n == sumOf (fun (g : Group) => g.live.length) gs && gs.all (fun g => (s.heldOf g.die g.core).isEmpty) &&
    (match s.range? rid with | some r => r.parked.isEmpty | none => false)

/-- Every walk ended and every accumulator and activation performed, or the first fault. -/
def levelDrain (s : State) (rid : Nat) : State × Option (SErr × W64) :=
  match s.graph? rid with
  | none => (s, none)
  | some g =>
    let r := g.sluices.foldl (fun (r : State × Option (SErr × W64)) x =>
      let f := flush (r.1.updGraph rid (fun g => g.updSluice x.die (fun x => x.endWalks (fun _ => true)))) rid x.die
      (f.1, match r.2 with | some e => some e | none => f.2)) (s, none)
    let a := doActs r.1 rid
    (a.1, match r.2 with | some e => some e | none => a.2)

/-- The boundary belongs to the threads that have arrived: it is made for the first group of the range (R109). -/
def levelGid (s : State) (rid : Nat) : Nat := ((s.groups.find? (fun g => g.rid == rid)).map (·.id)).getD s.nextGid
/-- Steps 1 to 4 of R281; the threads are released after them. -/
def boundary (s : State) (rid : Nat) : Except SErr State :=
  match s.range? rid with
  | none => .ok s
  | some r =>
    match r.graph with
    | none => .ok s
    | some g =>
      let w := sluWho s r (levelGid s rid)
      let fv := sumOf (fun (x : Sluice) => x.fv) g.sluices
      let fe := sumOf (fun (x : Sluice) => x.feSum) g.sluices
      let m := (reqMode s g).getD (nextMode g.levelMode g.alpha g.beta fv fe g.nv g.ne)
      let em := if fv == 0 || (g.maxlv != 0 && decide (g.level + 1 ≥ g.maxlv)) then 2 else if m then 1 else 0
      match mapRead s w g 1 with
      | .error e => .error e
      | .ok (bs, s) =>
        match mapWrite s w g 0 bs with
        | .error e => .error e
        | .ok s => match mapWrite s w g 1 (List.replicate g.mapBytes 0) with
          | .error e => .error e
          | .ok s => match sluWrite s w (g.desc + 112).toNat (leBytes 4 g.level ++ leBytes 4 fv ++ leBytes 4 fe ++ leBytes 4 em) with
            | .error e => .error e
            | .ok s => .ok (s.updGraph rid (fun g =>
                { g with combed := [], level := (g.level + 1) % 2 ^ 32, levelMode := m, emode := em, curQ := 1 - g.curQ, curN := g.nextN, nextN := 0,
                         sluices := g.sluices.map (fun x => { x with mode := m, fi := 0, fe := 0, ti := 0, fv := 0, feSum := 0, delivered := 0, decided := 0 }) }))

/-- Every combine, accumulator write and activation asked for is performed, or the first fault. -/
def levelWork (s : State) (rid : Nat) : State × Option (SErr × W64) :=
  match levelDrain s rid with
  | (s, some e) => (s, some e)
  | (s, none) =>
    match logqRun s rid with
    | (s, some e) => (s, some e)
    | (s, none) => doActs s rid

/-- The whole boundary, or the fault that holds it up, its PC 0 where no ENEXT stands behind the access (log entry 30). -/
def levelEnd (s : State) (rid : Nat) : State × Option (SErr × W64) :=
  match graphStart s rid (levelGid s rid) with
  | .error e => (s, some (e, 0))
  | .ok s =>
    match levelWork s rid with
    | (s, some e) => (s, some e)
    | (s, none) =>
      match boundary s rid with
      | .error e => (s, some (e, 0))
      | .ok s => (s, none)

/-- The walks of threads that have exited end (R279), and with its last thread the range's combines are performed (R285). -/
def sluiceExit (s : State) (gid : Nat) : State :=
  match s.group? gid with
  | none => s
  | some g =>
    match s.graph? g.rid with
    | none => s
    | some _ =>
      let s := endWalks s g.rid g.die (fun d => d.gid == gid && !(g.th d.tid).live)
      match s.range? g.rid with
      | some r => if r.parked.isEmpty && s.groups.all (fun x => x.rid != g.rid || x.live.isEmpty) then (levelWork s g.rid).1 else s
      | none => s

/-- Nothing that the Sluices of the range still owe. -/
def sluiceClear (s : State) (rid : Nat) : Bool :=
  match s.graph? rid with
  | none => true
  | some g => g.acts.isEmpty && g.logq.isEmpty && g.sluices.all (fun x => x.accs.isEmpty && x.walks.all (·.acc.isNone))

/-- Step 5: %emode is set and the threads go on; a release and an acquire at .dv. -/
def levelRelease (s : State) (rid : Nat) : State :=
  let gs := s.groups.filter (fun g => g.rid == rid)
  let em := match s.graph? rid with | some g => BitVec.ofNat 32 g.emode | none => 2
  let s := gs.foldl (fun s g => releaseCore s g.die g.core) s
  let t := gs.foldl (fun t g => max t (s.core g.die g.core).pts) 0
  let s := gs.foldl (fun s g => s.updCore g.die g.core (fun c => c.setPts t)) s
  gs.foldl (fun s g =>
    -- an ENEXT still outstanding gives back step 4's value
    let s := s.updGroup g.id (fun g => { g with
      threads := g.threads.map (fun th => if th.live then { th with emode := em } else th),
      bundles := g.bundles.map (fun b => { b with outst := b.outst.map (fun o => { o with e := o.e.map (fun x => (x.1, x.2.1, em)) }) }) })
    (g.bundles.filter (fun b => b.st == .elevel)).foldl (fun s b => finishWait s g.id b.id) s) s

/-- LEVEL_BOUNDARY. -/
def execLevelBoundary (rid : Nat) (s : State) : Out :=
  .next (if levelDue s rid then
      -- arrivals release before the level's last writes are read
      let s0 := (s.groups.filter (fun g => g.rid == rid)).foldl (fun s g => releaseCore s g.die g.core) s
      match levelEnd s0 rid with
      | (s, none) => settle (levelRelease s rid) rid
      | (_, some _) => s
    else s)

/-- MIDLEVEL_SWITCH (R284). -/
def execMidlevelSwitch (rid die : Nat) (s : State) : Out := .next (midSwitch s rid die)

/-- The first Sluice access of the die that faults now: activations, accumulators, pending ENEXTs, the boundary. -/
def sluFaultOf (s : State) (rid die : Nat) : Option (State × SErr × W64) :=
  let acts := doActs s rid
  let accs := flush s rid die
  let pend := (s.groups.filter (fun g => g.rid == rid && g.die == die && g.stop.isNone)).findSome? (fun g =>
    g.bundles.findSome? (fun b => b.outst.findSome? (fun o => o.pend.findSome? (fun p => match p with
      | .enext (t :: _) _ pc => (match sluTake s rid die g.id t pc with | .error e => some (e, pc) | .ok _ => none)
      | _ => none))))
  let gs := s.groups.filter (fun g => g.rid == rid)
  let last := !gs.isEmpty && gs.all (fun g => g.live.isEmpty)
  let work := if last then levelWork s rid else if gbarDue s rid then logqRun s rid else combsGo s rid
  match acts.2, accs.2, pend, work.2 with
  | some e, _, _, _ => some (acts.1, e.1, e.2)
  | none, some e, _, _ => some (accs.1, e.1, e.2)
  | none, none, some e, _ => some (s, e.1, e.2)
  | none, none, none, some e => some (work.1, e.1, e.2)
  | none, none, none, none =>
    if levelDue s rid then match levelEnd s rid with
      | (_, some e) => some (s, e.1, e.2)
      | (_, none) => none
    else none

/-- SLUICE_FAULT (R286): every group of the range stops; what faulted is tried again after resume. -/
def execSluiceFault (rid die : Nat) (s : State) : Out :=
  .next (match sluFaultOf s rid die with
    | none => s
    | some (s, e, pc) =>
      ((s.poisonRec e.1).groups.filter (fun g => g.rid == rid && g.stop.isNone)).foldl (fun s g =>
        stopGroup s g.id { cls := .engine, code := e.1.code, cause := e.1.cause, level := e.1.level, pc := pc, addr := BitVec.ofNat 64 e.2 } none none)
        (s.poisonRec e.1))

end Sys2Proof.Machine
end

