-- ==== Sys2Proof/Machine/Agent.lean ====
section
/-! DEFINITION. The front end's own accesses (R359, R361, R362, R370): reads under a queue's key, writes with their dirty bits, completion
records and signals; and what the writes of CARVE do (R78, R106, R107). -/

namespace Sys2Proof.Machine

/-! ## Reads and writes -/

/-- The front end of a partition, at no core: die 4 has no clock. -/
def feWho (s : State) (asid part : Nat) (qid : Option Nat) (rid : Nat := 0) : Who :=
  { die := 4, core := 0, gid := s.nextGid, rid := rid, asid := asid, part := part, qid := qid }

/-- What stops a read: a fault with its address, or a frame of another key (R360). -/
inductive FeBad where
  | fault (f : AFault) (addr : Nat)
  | key
  deriving DecidableEq, Repr

/-- Whether the frame that holds an address carries the key; memory outside HBM has no FOT entry and is not checked. -/
def keyOk (s : State) (asid va : Nat) (key : Option Nat) : Bool :=
  match key, s.sector? asid va with
  | some k, some x => (match locOf x.pa with | .hbm d o => !s.pkg.fotOn || fotKey (s.fotEnt d o) == k | _ => true)
  | _, _ => true

def feCheck (s : State) (asid va : Nat) : Option AFault :=
  match addrCheck s asid va with
  | some f => some f
  | none => if isAperture va then some (flt .prot) else none

def feRead (s : State) (w : Who) (key : Option Nat) (va n : Nat) : Except FeBad (List Byte × State) :=
  foldE (fun (x : List Byte × State) (p : Nat × Nat) =>
    match feCheck x.2 w.asid p.1 with
    | some f => .error (.fault f p.1)
    | none => match agentRead x.2 w p.1 p.2 with
      | .error f => .error (.fault f p.1)
      | .ok (bs, s) => if keyOk s w.asid p.1 key then .ok (x.1 ++ bs, s) else .error .key) (spansOf va n) ([], s)

def feWrite (s : State) (w : Who) (va : Nat) (bs : List Byte) : Except (AFault × Nat) State :=
  foldE (fun (s : State) (p : Nat × Nat) =>
    match feCheck s w.asid p.1 with
    | some f => .error (f, p.1)
    | none => match agentWrite s w p.1 ((bs.drop (p.1 - va)).take p.2) with
      | .error f => .error (f, p.1)
      | .ok s => .ok s) (spansOf va bs.length) s

/-! ## Dirty tracking (R370) -/

def Queue.dtrack (q : Queue) : Bool := q.qflg.getLsbD 1
/-- Bit i of the bitmap set; a bitmap that cannot be written stays as it is. -/
def dirtyBit (s : State) (q : Queue) (i : Nat) : State :=
  let w := feWho s q.asid q.owner (some q.qid)
  let va := q.dbmp.toNat + i / 8
  match feRead s w none va 1 with
  | .error _ => s
  | .ok (b, s) => match feWrite s w va [b.headD 0 ||| (1#8 <<< (i % 8))] with
    | .ok s => s
    | .error _ => s

/-- The pages of the ring that a write of the front end touches. -/
def dirtyRing (s : State) (qid va n : Nat) : State :=
  match s.queue? qid with
  | none => s
  | some q =>
    if q.dtrack then
      let pages := (spansOf va n).filterMap (fun p =>
        if decide (q.ring.toNat ≤ p.1) && decide (p.1 < q.ring.toNat + 2 ^ q.rsize) then some ((p.1 - q.ring.toNat) / 4096) else none)
      pages.eraseDups.foldl (fun s i => dirtyBit s q i) s
    else s

/-- A write of the front end, with the dirty bits of the rings it falls into. -/
def feStore (s : State) (w : Who) (va : Nat) (bs : List Byte) : Except (AFault × Nat) State :=
  match feWrite s w va bs with
  | .error e => .error e
  | .ok s => .ok ((s.fe.queues.filter (fun q => q.asid == w.asid)).foldl (fun s q => dirtyRing s q.qid va bs.length) s)

/-- A signal written: its index in the order first written, up to 4,096; the others share the final bit. -/
def dirtySignal (s : State) (qid : Nat) (va : W64) : State :=
  match s.queue? qid with
  | none => s
  | some q =>
    if q.dtrack then
      let j := (q.sigs.findIdx? (· == va)).getD q.sigs.length
      let s := if q.sigs.contains va || q.sigs.length ≥ 4096 then s else s.updQueue qid (fun q => { q with sigs := q.sigs ++ [va] })
      dirtyBit s q (2 ^ (q.rsize - 12) + min j 4096)
    else s

/-! ## Queue faults (R360) -/

/-- The queue faults; the record names the QID and the first differing byte, 0xFF for a KEY or WPTR fault. -/
def faultQueue (s : State) (qid byte : Nat) : State :=
  (s.updQueue qid (fun q => { q with faulted := true })).deviceRec
    { src := (s.queue? qid).map (fun q => frontSrc q.owner), code := .qfault, detail := BitVec.ofNat 64 (qid + byte * 2 ^ 16) }

/-! ## Completion records and signals (R362, R287) -/

/-- The device record of a word left unwritten (R379), with its physical address (R378). -/
def unwritten (s : State) (f : AFault) (addr qid rid : Nat) : State :=
  let asid := (((s.queue? qid).map (·.asid)).or ((s.range? rid).map (·.asid))).getD 0
  (s.poisonRec f).deviceRec { src := ((s.queue? qid).map (fun q => frontSrc q.owner)).or ((s.range? rid).map (fun r => frontSrc r.part)), code := f.code, cause := f.cause, level := f.level, addr := BitVec.ofNat 64 (s.paAt asid addr),
                              detail := BitVec.ofNat 64 (qid + rid * 2 ^ 32) }

def complete (s : State) (qid : Nat) (crec : W64) (status rid : Nat) : State :=
  match s.queue? qid with
  | none => s
  | some q =>
    if crec == 0 then s
    else match feStore s (feWho s q.asid q.owner (some qid)) crec.toNat (leBytes 2 status ++ leBytes 2 0 ++ leBytes 4 rid ++ leBytes 8 s.ticks) with
      | .error e => unwritten s e.1 e.2 qid rid
      | .ok s => s

/-! ## What waits on a queue's packets and ranges (R362, R363) -/

/-- INDIRECTs whose last packet has completed complete. -/
def indSettle (s : State) (qid : Nat) : State :=
  match s.queue? qid with
  | none => s
  | some q =>
    let gone := fun (i : Indirect) => i.live.isEmpty && (match i.last with | some x => !(q.pend.contains x) | none => true)
    (q.indDone.filter gone).foldl (fun s i => complete s qid i.crec 0 0)
      (s.updQueue qid (fun q => { q with indDone := q.indDone.filter (fun i => !gone i) }))

/-- A pending packet completes. -/
def pendDone (s : State) (qid : Nat) (x : W64 × Nat) : State :=
  indSettle ((complete s qid x.1 0 0).updQueue qid (fun q => { q with pend := q.pend.erase x })) qid

/-- A range's image header with STATE 1 (R364), over the private copy it was launched from. -/
def Image.header (i : Image) (rid prio : Nat) (area : W64) (n groups : Nat) : List Byte :=
  let p := fun (b : List Byte) (off : Nat) (x : List Byte) => b.take off ++ x ++ b.drop (off + x.length)
  let b := p (p (p i.raw 4 (leBytes 4 (512 + n))) 16 (leBytes 1 1)) 20 (leBytes 4 rid)
  p (p (p b 19 (leBytes 1 prio)) 280 (leBytes 8 area.toNat ++ leBytes 4 groups)) 292 (leBytes 4 i.parent ++ leBytes 1 i.depth)
def RangeSt.header (r : RangeSt) (area : W64) (n : Nat) : List Byte := { r.img with parent := r.parent.getD 0, depth := r.depth }.header r.rid r.prio area n r.parked.length

/-- Images one after another from an address, each at an address that is a multiple of 512: bytes up to the last one's end, and where each area lies. -/
def imagesFrom (dest : Nat) : List Saved → Nat → List Byte × List Saved
  | [], _ => ([], [])
  | x :: l, off =>
    let pad := roundUp (dest + off) 512 - (dest + off)
    let area := BitVec.ofNat 64 (dest + off + pad + 512)
    let b := List.replicate pad 0 ++ x.range.header area x.bytes.length ++ x.bytes
    let r := imagesFrom dest l (off + b.length)
    (b ++ r.1, { x with va := area } :: r.2)

/-- What EXPORT writes (R369): privileged fields, RPTR, unprocessed slots, images, a blocked WAIT. -/
def exportBytes (s : State) (q : Queue) (dest : W64) : (List Byte × List Saved) × State :=
  let n := (q.wptr - q.rptr).toNat
  let slot := fun (x : List Byte × State) (i : Nat) =>
    match feRead x.2 (feWho x.2 q.asid q.owner (some q.qid)) (some q.key) (q.ring.toNat + 64 * ((q.rptr.toNat + i) % 2 ^ (q.rsize - 6))) 64 with
    | .ok (b, s) => (x.1 ++ b, s)
    | .error .key => (x.1 ++ List.replicate 64 0, faultQueue x.2 q.qid 0xFF)
    | .error _ => (x.1 ++ List.replicate 64 0, x.2)
  let sl := (List.range n).foldl slot ([], s)
  let head := q.priv ++ leBytes 4 q.rptr.toNat ++ sl.1
  let im := imagesFrom dest.toNat q.exported head.length
  ((head ++ im.1 ++ (match q.blocked with | some p => p.bytes | none => []), im.2), sl.2)

/-- The end of a QDESTROY or EXPORT once no range of the queue is live and no packet of it is being processed. -/
def endingSettle (s : State) (qid : Nat) : State :=
  match s.queue? qid with
  | none => s
  | some q =>
    match q.ending with
    | none => s
    | some e =>
      if !q.live.isEmpty || s.ranges.any (fun r => r.qid == some qid) || s.fe.parts.any (fun p => p.sel.any (fun k => k.qid == qid)) then s
      else
        let by_ := (s.queue? e.by_).getD q
        let s := if e.mode ≥ 2 then
            let x := exportBytes s q e.dest
            let w := feWho x.2 e.asid by_.owner (some e.by_)
            let s := match feStore x.2 w e.dest.toNat x.1.1 with
              | .ok s => s
              | .error f => unwritten x.2 f.1 f.2 e.by_ 0
            s.updFe (fun y => { y with
              saved := (x.1.2.map (fun v => { v with asid := e.asid })) ++ y.saved,
              exports := (e.asid, e.dest, x.1.1, { q with exported := x.1.2, ending := none }) :: y.exports })
          else s
        let s := pendDone s e.by_ (e.crec, 256 + qid)
        if e.mode == 3 then s.updQueue qid (fun q => { q with ending := none, exported := [] })
        else s.updFe (fun y => { y with queues := y.queues.filter (fun z => z.qid != qid) })

/-! ## Measurements (R418) -/

def extendM (m : BitVec 384) (x : List Byte) : BitVec 384 := Config.sha384 (leBytes 48 m.toNat ++ x)
/-- M2 extended by a register (0 CMAP, 1 CARVE, 2 POLICY) of a die or partition and its value (log entry 23). -/
def extendReg (s : State) (reg index : Nat) (value : W64) : State :=
  s.updPkg (fun k => { k with m2 := extendM k.m2 ([BitVec.ofNat 8 reg, BitVec.ofNat 8 index] ++ leBytes 8 value.toNat) })

/-- A 64-bit word at its home slice set, or added to. -/
def feWord (s : State) (w : Who) (va : W64) (add : Bool) (x : W64) : Except (AFault × Nat) State :=
  match feRead s w none va.toNat 8 with
  | .error (.fault f a) => .error (f, a)
  | .error .key => .ok s
  | .ok (bs, s) => feStore s w va.toNat (leBytes 8 (if add then BitVec.ofNat 64 (leNat bs) + x else x).toNat)

/-- A retirement's signal: one added. The record of a failed write names the queue of a range of depth 0, or none (R379); the write
is noted for the queue the range came from (R370). -/
def signalOne (s : State) (w : Who) (sig : W64) (top : Bool) (qid : Option Nat) (rid : Nat) : State :=
  if sig == 0 then s
  else match feWord s w sig true 1 with
    | .error e => unwritten s e.1 e.2 (if top then qid.getD 0xFFFF else 0xFFFF) rid
    | .ok s => match qid with
      | some q => dirtySignal s q sig
      | none => s

/-- Everything the cores have written is performed (a release at .dv or wider by every thread of a range). -/
def releaseAll (s : State) : State := s.mem.cores.foldl (fun s c => releaseCore s c.die c.num) s

/-! ## CARVE (R78, R106, R107) -/

/-- Granules whose kind a pending change alters. -/
def Part.moved (x : Part) : List Nat := (List.range 32).filter (fun k => granKind x.carve k != granKind x.carveOld k)
/-- A granule that changes is still occupied by a resident group, or a cooperative or persistent range runs on the partition (R106). -/
def carveHeld (s : State) (p : Nat) : Bool :=
  let ks := (s.part p).moved
  !ks.isEmpty && (s.groups.any (fun g => g.part == p && ks.any (g.occupies (s.hOf g.rid))) ||
    s.ranges.any (fun r => r.img.rrec.coop && r.started && r.harps.any (fun h => s.partOn r.asid h.die == p)))

/-- PEND clears once every granule has converted and every added way has drained; the packet that asked completes. -/
def carveSettle (s : State) (p : Nat) : State :=
  let x := s.part p
  if x.carve.getLsbD 27 && !carveHeld s p && x.resDrain == 0 then
    let cv := x.carve &&& 0xF7FFFFFF
    let s := s.updPart p (fun x => { x with carve := cv, carveOld := cv, carvePend := none })
    match x.carvePend with
    | some k => pendDone s k.1 (k.2, p)
    | none => s
  else s

/-- The cores of a partition (R411). -/
def coresOf (p : Nat) : List Nat := (List.range 8).map (fun i => 8 * (p % Config.partsPerDie) + i)

/-- A region lies in a Reservoir way at or above the number kept. -/
def resHeld (s : State) (p ways : Nat) : Bool :=
  s.ranges.any (fun r => r.resv.any (fun v => s.partOn r.asid v.die == p && decide (v.size > 0) && decide (v.base + v.size > ways * 4 * Config.resWayBytes)))

/-- Lines of the chosen sectors are settled: stores of theirs in the cores' buffers and at the slices are performed. -/
def settleSectors (s : State) (p : Sector → Bool) : State :=
  let sel := (s.mem.llc.filter p).map (fun x => (x.asid, x.va))
  let s := s.mem.cores.foldl (fun s c => (c.wcb.filter (fun e => sel.contains (e.asid, e.va))).foldl (fun s e => drainThrough s c.die c.num e.asid e.va) s) s
  sel.foldl (fun s x => performSector s x.1 x.2) s
/-- An L1 line as the sector it was filled from, which may have left the LLC since. -/
def L1Line.asSector (l : L1Line) : Sector := { asid := l.asid, va := l.va, part := 0xFF, pa := l.pa, data := l.data }
/-- Lines of the chosen sectors written back and dropped, from the LLC and the L1s (R351, R353); a request that still waits at one has it
filled again (log entry 93). -/
def dropSectors (s : State) (p : Sector → Bool) : State :=
  let s := settleSectors s p
  let out := s.mem.llc.filter p
  let gone := fun (l : L1Line) => out.any (fun x => x.asid == l.asid && x.va == l.va) || p l.asSector
  (s.leaveLlc p).updMem (fun m => { m with cores := m.cores.map (fun c => { c with l1 := c.l1.filter (fun l => !(gone l)) }) })

/-- A write of CARVE: the status that ignores it, or the state in which the change has begun. Reserved bits of the value are ignored (R8; log
entry 137). -/
def carveWrite (s : State) (p : Nat) (x : W32) : Except Nat State :=
  let old := s.carve p
  let bad := wgran x + sgran x + lgran x != 32 || lgran x == 0 || decide (lgran x > 16) || wgran x == 0 || decide (resways x > 8)
  if bad then .error 11
  else if old.getLsbD 27 then .error 12
  else if resways x < resways old && resHeld s p (resways x) then .error 13
  else
    let die := p / Config.partsPerDie
    let s := (coresOf p).foldl (fun s c => drainAll s die c) s
    let s := if lgran x == lgran old then s
      else (coresOf p).foldl (fun s c => s.updCore die c (fun k => { k with l1 := [] })) s
    let s := s.updPart p (fun q => { q with
      carve := (x &&& 0xF01F1F1F) ||| 0x08000000, carveOld := old, resDrain := q.resDrain + (resways x - resways old) })
    let out := s.overLines p (16 - resways x)
    -- clean lines of the ways turned over to the Reservoir leave at once (R107)
    .ok (s.leaveLlc (fun y => out.contains y.line && !(s.mem.llc.any (fun z => z.line == y.line && z.dirty))))

/-- RESERVOIR_WAY_DRAINED (R107): a way turned over to the Reservoir is emptied; when none remains PEND may clear. -/
def execReservoirWayDrained (part : Nat) (s : State) : Out := .next (carveSettle (s.drainWay part) part)

end Sys2Proof.Machine
end

