-- ==== Sys2Proof/Machine/Guest.lean ====
section
/-! DEFINITION. The Lateral socket (R396 to R410): forwarding and completing guest packets, translation requests and grants, faults of the
guest, its accesses, the fence. -/

namespace Sys2Proof.Machine

/-! ## Messages of the device (Table 3 of R402) -/

def sendMsg (s : State) (row : Nat) (nums : List Nat) (bytes : List Byte := []) : State :=
  s.updSock (fun k => { k with sent := k.sent ++ [{ row := row, nums := nums, bytes := bytes }] })

/-- A buffer of the save pool (R408): where it lies is the policy core's choice (log entry 114). -/
def State.poolAt (s : State) : Nat × State := ((Config.poolBuffer s.pkg.fresh).toNat, s.updPkg (fun k => { k with fresh := k.fresh + 1 }))

def State.sockLive (s : State) : Bool := s.sock.trained && !s.sock.fenced
/-- 20 µs and 100 µs in ticks of 1 ns (R402). -/
def us20 : Nat := 20000
def us100 : Nat := 100000

/-! ## Completion (R406) -/

/-- One packet completes: its locks are freed and its signal takes 1, or 2^32 + 1 for failure, released at its scope. -/
def completePkt (s : State) (chan : Nat) (p : GPkt) (failed : Bool) : State :=
  let s := s.updChan chan (fun c => { c with pkts := c.pkts.filter (fun x => x.seq != p.seq) })
  let s := lockFree s p.gid (.guest chan p.seq)
  let sig := fld p.bytes 8 8
  if sig == 0 then s
  else
    let w : Who := match s.group? p.gid with
      | some g => { die := g.die, core := g.core, gid := g.id, rid := p.rid, asid := p.asid, part := p.part }
      | none => feWho s p.asid p.part none p.rid
    let s := if fld p.bytes 2 1 ≥ 2 && decide (w.die < 4) then releaseCore s w.die w.core else s
    -- the add covers the guest's writes: its time passes theirs
    let s := if w.die < 4 then s.updCore w.die w.core (fun c => c.setPts s.sock.pts) else s
    match feWord s w (BitVec.ofNat 64 sig) true (if failed then 0x100000001 else 1) with
    | .ok s => s
    | .error e => (s.poisonRec e.1).deviceRec { src := some socketSrc, code := e.1.code, cause := e.1.cause, level := e.1.level, addr := BitVec.ofNat 64 (s.paAt p.asid e.2) }

def settlePkt (s : State) (p : GPkt) : State := settle s p.rid

/-! ## Grants (R403, R404) -/

def GPkt.overlaps (p : GPkt) (page : Nat) (destOnly : Bool) : Bool :=
  (guestSlots p.bytes).any (fun x => (x.1 || !destOnly) && decide (x.2.2 > 0) && decide (x.2.1 < page + 4096) && decide (page < x.2.1 + x.2.2))

/-- TCPL: tag, status (0 OUTSIDE, 1 FAULT, 2 BUSY, 3 OK, in the order of R403), then the cause, or frame, size, W and KIND. -/
def tcpl (s : State) (tag : W32) (status : Nat) (rest : List Nat) : State := sendMsg s 3 (tag.toNat :: status :: rest)

/-- A page of the leaf by its own physical address: an interleaved leaf lies in pieces of 4 KiB on the four dies (R340, R403). -/
def Grant.page (g : Grant) (k : Nat) : Nat := g.pa + 4096 * k
def Grant.covers (g : Grant) (pa : Nat) : Bool := (List.range (g.size / 4096)).any (fun k => keyOf (g.page k) / 4096 == keyOf pa / 4096)
/-- A packet neither completed nor withdrawn for good: on a channel, or saved with its range, wherever that is (R403, R408). -/
def State.pktOpen (s : State) (chan : Nat) (seq : W32) : Bool :=
  let at_ := fun (r : RangeSt) => r.parkedPkts.any (fun x => x.1 == chan && x.2.seq == seq)
  (s.chan? chan).any (fun c => c.pkts.any (fun p => p.seq == seq)) || s.ranges.any at_ || s.fe.saved.any (fun x => at_ x.range) ||
    s.fe.queues.any (fun q => (q.resumeHead ++ q.exported).any (fun x => at_ x.range)) || s.fe.exports.any (fun x => x.2.2.2.exported.any (fun y => at_ y.range))

/-- The grant and its TCPL, or the walk's fault. -/
def makeGrant (s : State) (chan : Nat) (seq : W32) (page : Nat) (write : Bool) (tag : W32) (asid : Nat) : State :=
  match translate s asid page (if write then 1 else 0) with
  | .bad f => tcpl s tag 1 [f.cause, f.code.num]
  | .ok t s =>
    let s := s.updSock (fun k => { k with grants := k.grants ++ [{ chan := chan, seq := seq, asid := asid, va := t.va, pa := t.pa, size := t.size, w := t.w }] })
    tcpl s tag 3 [t.pa, t.size, t.w.toNat, t.kind.toNat]

/-- TINV to a grant, as part of an invalidation; one sent before serves this one too. -/
def sendTinv (s : State) (g : Grant) (grp : Nat) : State :=
  match g.tinv with
  | some _ => s.updSock (fun k => { k with grants := upd (fun x => x == g) (fun x => { x with tinv := x.tinv.map (fun t => (t.1, t.2.1, t.2.2 ++ [grp])) }) k.grants })
  | none =>
    let tag := s.sock.tags
    let s := s.updSock (fun k => { k with tags := tag + 1, grants := upd (fun x => x == g) (fun x => { x with tinv := some (tag, s.ticks + us20, [grp]) }) k.grants })
    sendMsg s 4 [g.chan / 4, g.asid, g.va, g.size / 4096, tag]

/-! ## The fence (R409) -/

/-- Invalidations whose last grant has ended complete their packets (R353). -/
def invSettle (s : State) : State :=
  let open_ := fun (s : State) (grp : Nat) => s.sock.grants.any (fun g => match g.tinv with | some t => t.2.2.contains grp | none => false)
  s.fe.queues.foldl (fun s q => q.pend.foldl (fun s x =>
    if decide (x.2 ≥ 4096) && !(open_ s (x.2 - 4096)) then
      pendDone s q.qid x
    else s) s) s

/-- A TREQ that waited is answered with its grant, or with its fault (R403). -/
def answerTreq (s : State) (x : Nat × W32 × Nat × Bool × Nat × Nat) : State := makeGrant s x.1 x.2.1 x.2.2.1 x.2.2.2.1 (BitVec.ofNat 32 x.2.2.2.2.1) x.2.2.2.2.2
/-- TREQs that wait for an entry of the grant table (R403): the first is answered where one is free; each has a TINV of its own out to a grant
of a completed packet, the oldest first; where every grant belongs to a packet not completed the first is answered BUSY. -/
def treqGo (s : State) : Nat → State
  | 0 => s
  | n + 1 =>
    match s.sock.waitTcpl with
    | [] => s
    | x :: rest =>
      let less := s.updSock (fun k => { k with waitTcpl := rest })
      let done := fun (g : Grant) => !(s.pktOpen g.chan g.seq)
      let out := (s.sock.grants.filter (fun g => g.tinv.isSome && done g)).length
      if s.sock.grants.length < 4096 then treqGo (answerTreq less x) n
      else if decide (out ≥ s.sock.waitTcpl.length) then s
      else match s.sock.grants.find? (fun g => g.tinv.isNone && done g) with
        | some g => treqGo (sendTinv s g 0) n
        | none => if out == 0 then treqGo (tcpl less (BitVec.ofNat 32 x.2.2.2.2.1) 2 []) n else s
def treqSettle (s : State) : State := treqGo s (2 * s.sock.waitTcpl.length + 1)

/-- Every grant ends, what the guest holds modified is lost, and every packet fails (R409, R440). -/
def endGuest (s : State) : State :=
  let s := s.sock.waitTcpl.foldl answerTreq s
  let s := s.updSock (fun k => { k with grants := [], waitTcpl := [], lines := [] })
  let all := (s.sock.chans.map (fun c => c.pkts.map (fun p => (c.num, p)))).flatten
  let s := all.foldl (fun s x => completePkt s x.1 x.2 true) s
  let s := invSettle (s.updSock (fun k => { k with chans := k.chans.map (fun c => { c with gpre := [], gres := [] }) }))
  ((all.map (fun x => x.2.rid)).eraseDups).foldl (fun s r => settle s r) s

/-- Steps 1 to 5; the cause names why. -/
def fence (s : State) (cause : Nat) : State :=
  if !s.sockLive then s
  else
    (endGuest (s.updSock (fun k => { k with fenced := true }))).deviceRec { src := some socketSrc, code := .guestf, cause := cause }

def malformed (s : State) (row : Nat) : State := fence s (0xE0 + row)

/-- Bounds missed: TINV, GPRE, GRES, GABORT by row. -/
def boundMissed (s : State) (row : Nat) : Bool :=
  let late := fun (t : Nat) => decide (t ≤ s.ticks)
  match row with
  | 4 => s.sock.grants.any (fun g => match g.tinv with | some t => late t.2.1 | none => false)
  | 7 => s.sock.chans.any (fun c => c.gpre.any (fun x => late x.2))
  | 8 => s.sock.chans.any (fun c => c.gres.any (fun x => late x.2))
  | 9 => s.sock.chans.any (fun c => c.pkts.any (fun p => match p.abortBy with | some t => late t | none => false))
  | _ => false

/-- PORT_FENCE: a missed bound of a message row; a message that arrives with a reserved field set; a sideband held down. -/
def execPortFence (why : Byte) (s : State) : Out :=
  let w := why.toNat
  .next (if 0xF0 ≤ w then (if boundMissed s (w - 0xF0) then fence s w else s)
    else if w == 0xEF || [0xE2, 0xE4, 0xE5, 0xE6, 0xE7, 0xE8].contains w then fence s w
    else s)

/-- The packet of a channel that a message of the guest names; none fences the port. -/
def outPkt (s : State) (chan : Nat) (seq : W32) : Option GPkt :=
  (s.chan? chan).bind (fun c => c.pkts.find? (fun p => p.seq == seq && p.fwd))

/-! ## GPKT, GCPL, GFLT -/

/-- Whether saved packets of the range are still to be forwarded, here or where its groups wait for a core: its other packets follow them
(R408). -/
def State.savedFirst (s : State) (rid : Nat) : Bool :=
  s.sock.chans.any (fun c => c.pkts.any (fun p => p.rid == rid && p.saved && !p.fwd)) || (s.range? rid).any (fun r => r.parkedPkts.any (fun x => x.2.saved))

/-- GPKT: the next packet of the channel in SEQ order goes to the guest, after everything its pusher released (R400); those of a range that
has saved ones wait for these. -/
def execGpkt (chan : Nat) (s : State) : Out :=
  .next (match (s.chan? chan).bind (fun c => c.pkts.find? (fun p => !p.fwd && (p.saved || !(s.savedFirst p.rid)))) with
    | none => s
    | some p =>
      if !s.sockLive then settlePkt (completePkt s chan p true) p
      else
        let s := match s.group? p.gid with | some g => releaseCore s g.die g.core | none => s
        let s := s.updChan chan (fun c => { c with pkts := upd (fun x => x.seq == p.seq) (fun x => { x with fwd := true }) c.pkts })
        sendMsg s 1 [chan, p.seq.toNat, p.prio, p.rid, p.part] p.bytes)

/-- GCPL; that of an aborted packet has a bound. -/
def execGcpl (chan : Nat) (seq : W32) (failed : Bool) (s : State) : Out :=
  .next (if !s.sockLive then s
    else match outPkt s chan seq with
      | none => malformed s 5
      | some p =>
        if p.abortBy.any (fun t => decide (t < s.ticks)) then fence s 0xF9
        else settlePkt (treqSettle ((completePkt s chan p failed).updSock (fun k => { k with
          ended := k.ended.filter (fun x => x.2.2 == s.clk) ++ [(chan, p, s.clk)] }))) p)

/-- GFLT (R407): the record of class 5 and the group's stop, of a packet whose GCPL came in this clk too (R410); a group that has retired in
it leaves the record alone. -/
def execGflt (chan : Nat) (seq : W32) (cause : Byte) (addr : W64) (code : W16) (s : State) : Out :=
  let now := (s.sock.ended.find? (fun x => x.1 == chan && x.2.1.seq == seq && x.2.2 == s.clk)).map (·.2.1)
  .next (if !s.sockLive then s
    else match (outPkt s chan seq).or now with
      | none => malformed s 6
      | some p =>
        let d := BitVec.ofNat 64 (code.toNat + chan % 256 * 2 ^ 16 + seq.toNat * 2 ^ 32)
        if (s.group? p.gid).isSome then
          stopGroup s p.gid { cls := .guest, code := .guestf, cause := cause.toNat, team := p.team, lane := p.lane, lanes := p.lanes, pc := p.pc, addr := addr,
                              detail := d } none none
        else s.queueRec p.part { cls := .guest, code := .guestf, cause := cause.toNat, team := p.team, lane := p.lane, lanes := p.lanes, rid := p.rid, gseq := p.gseq,
                                 pc := p.pc, addr := addr, detail := d, time := s.ticks })

/-- Packets in a range's image fail: they leave it with their locks (R407, R408). -/
def failParked (s : State) (rid : Nat) (p : Nat × GPkt → Bool) : State :=
  let l := match s.range? rid with | some r => r.parkedPkts.filter p | none => []
  let s := s.updRange rid (fun r => { r with
    parkedPkts := r.parkedPkts.filter (fun x => !p x),
    parkedLocks := r.parkedLocks.filter (fun k => !(l.any (fun x => k.gid == x.2.gid && k.op == .guest x.1 x.2.seq))) })
  l.foldl (fun s x => completePkt s x.1 x.2 true) s

/-- A killed group's packets (R407): those not forwarded fail at once, withdrawn ones among them; the others are aborted, those of a channel
that awaits a GPACK once it has come. -/
def killPackets (s : State) (gid : Nat) : State :=
  let s := match s.group? gid with | some g => failParked s g.rid (fun x => x.2.gid == gid) | none => s
  let mine := (s.sock.chans.map (fun c => (c.pkts.filter (fun p => p.gid == gid)).map (fun p => (c, p)))).flatten
  mine.foldl (fun s x =>
    if !x.2.fwd then completePkt s x.1.num x.2 true
    else if x.2.abortBy.isSome then s
    else if x.1.gpre.any (fun y => y.1 == x.2.rid) then
      s.updChan x.1.num (fun c => { c with pkts := upd (fun p => p.seq == x.2.seq) (fun p => { p with killed := true }) c.pkts })
    else
      let s := s.updChan x.1.num (fun c => { c with pkts := upd (fun p => p.seq == x.2.seq) (fun p => { p with abortBy := some (s.ticks + us100) }) c.pkts })
      sendMsg s 9 [x.1.num, x.2.seq.toNat]) s

/-! ## Translation requests (R403, R404) -/

/-- TREQ. -/
def execTreq (chan : Nat) (seq : W32) (va : W64) (write : Bool) (tag : W32) (s : State) : Out :=
  .next (if !s.sockLive then s
    else match outPkt s chan seq with
      | none => malformed s 2
      | some p =>
        let page := va.toNat / 4096 * 4096
        if !(p.overlaps page write) then tcpl s tag 0 []
        else match addrCheck s p.asid page with
          | some f => tcpl s tag 1 [f.cause, f.code.num]
          | none =>
            match translate s p.asid page (if write then 1 else 0) with
            | .bad f => tcpl s tag 1 [f.cause, f.code.num]
            | .ok _ _ => treqSettle (s.updSock (fun k => { k with waitTcpl := k.waitTcpl ++ [(chan, seq, page, write, tag.toNat, p.asid)] })))

/-- TINVACK: the grants its TINV named end, the guest holding no line of theirs any more; the request that has waited longest for an entry
is answered. One past its bound is a bound missed. -/
def execTinvack (tag : Nat) (s : State) : Out :=
  .next (if !s.sockLive then s
    else
      let named := fun (g : Grant) => match g.tinv with | some t => t.1 == tag | none => false
      if !(s.sock.grants.any named) then malformed s 4
      else if s.sock.grants.any (fun g => g.tinv.any (fun t => t.1 == tag && decide (t.2.1 < s.ticks))) then fence s 0xF4
      else
        let ends := s.sock.grants.filter named
        let s := s.guestFlush (fun k => ends.any (fun g => g.covers (128 * k)))
        let s := s.updSock (fun k => { k with grants := k.grants.filter (fun g => !named g) })
        invSettle (treqSettle s))

/-! ## Saving and restoring (R408) -/

/-- GPACK: the guest's bytes and the packets it has saved. -/
def execGpack (chan rid : Nat) (bytes : List Byte) (seqs : List W32) (s : State) : Out :=
  .next (if !s.sockLive then s
    else match s.chan? chan with
      | none => malformed s 7
      | some c =>
        if !(c.gpre.any (fun x => x.1 == rid)) || decide (bytes.length > c.gsave) ||
            seqs.any (fun q => match outPkt s chan q with | some p => p.rid != rid | none => true) then malformed s 7
        else if c.gpre.any (fun x => x.1 == rid && decide (x.2 < s.ticks)) then fence s 0xF7
        else
          let dead := fun (p : GPkt) => p.rid == rid && p.fwd && (p.killed || (s.range? rid).all (·.killed))
          let named := c.pkts.filter (fun p => seqs.contains p.seq && !dead p)
          let s := s.updChan chan (fun c => { c with gpre := c.gpre.filter (fun x => x.1 != rid) })
          -- what was killed while its state was asked for is aborted now (R407)
          let s := (c.pkts.filter dead).foldl (fun s p =>
            let s := s.updChan chan (fun c => { c with pkts := upd (fun x => x.seq == p.seq) (fun x => { x with abortBy := some (s.ticks + us100) }) c.pkts })
            sendMsg s 9 [chan, p.seq.toNat]) s
          if (s.range? rid).all (·.killed) then s
          else
            let s := s.updChan chan (fun c => { c with pkts := c.pkts.filter (fun p => !(seqs.contains p.seq) || dead p) })
            s.updRange rid (fun r => { r with
              parkedPkts := r.parkedPkts ++ named.map (fun p => (chan, { p with saved := true, fwd := false })),
              parkedGuest := assocSet r.parkedGuest chan ((assoc r.parkedGuest chan).getD [] ++ bytes) }))

/-- GRACK: acceptance, or a refusal that fails every saved packet of the range, on this channel and on others, placed again or not. -/
def execGrack (chan rid : Nat) (refused : Bool) (s : State) : Out :=
  .next (if !s.sockLive then s
    else match s.chan? chan with
      | none => malformed s 8
      | some c =>
        if !(c.gres.any (fun x => x.1 == rid)) then malformed s 8
        else if c.gres.any (fun x => x.1 == rid && decide (x.2 < s.ticks)) then fence s 0xF8
        else
          let s := s.updChan chan (fun c => { c with gres := c.gres.filter (fun x => x.1 != rid) })
          let mine := (s.sock.chans.map (fun c => (c.pkts.filter (fun p => p.rid == rid && p.saved)).map (fun p => (c.num, p)))).flatten
          if refused then settle (mine.foldl (fun s x => completePkt s x.1 x.2 true) (failParked s rid (fun x => x.2.saved))) rid
          else s)

/-- Packets of a group restored on the channel of its partition that their handle names; the guest's bytes go first. -/
def unparkPkts (s : State) (r : RangeSt) (gid part : Nat) : State :=
  let mine := r.parkedPkts.filter (fun x => x.2.gid == gid)
  if mine.isEmpty then s
  else
    let to_ := fun (c : Nat) => 4 * part + c % 4
    let s := s.updRange r.rid (fun r => { r with parkedPkts := r.parkedPkts.filter (fun x => x.2.gid != gid) })
    let chans := ((mine.filter (fun x => x.2.saved)).map (·.1)).eraseDups
    let s := chans.foldl (fun s c =>
      match (s.range? r.rid).bind (fun r => assoc r.parkedGuest c) with
      | none => s
      | some b =>
        let s := s.updRange r.rid (fun r => { r with parkedGuest := assocDel r.parkedGuest c })
        if s.sockLive && (s.chan? (to_ c)).isSome then
          let (a, s) := s.poolAt
          sendMsg (s.updChan (to_ c) (fun k => { k with gres := k.gres ++ [(r.rid, s.ticks + us100)] })) 8 [to_ c, r.rid, a, b.length] b
        else s) s
    let s := s.updEng (fun e => { e with locks := e.locks.map (fun l => match l.op with
      | .guest c q => if l.gid == gid then { l with op := .guest (to_ c) q } else l
      | _ => l) })
    mine.foldl (fun s x =>
      let p := { x.2 with part := part }
      if (s.chan? (to_ x.1)).isSome then
        s.updChan (to_ x.1) (fun k =>
          let at_ := if p.saved then k.pkts.findIdx (fun y => y.rid == p.rid && !y.saved && !y.fwd) else k.pkts.length
          { k with pkts := k.pkts.take at_ ++ [p] ++ k.pkts.drop at_ })
      else completePkt s (to_ x.1) p true) s

/-! ## The guest's accesses (R397) -/

/-- Physical addresses the access covers, one for each 4 KiB. -/
def pages4k (pa n : Nat) : List Nat := (List.range (n / 4096 + 2)).filterMap (fun i =>
  let a := if i == 0 then pa else pa / 4096 * 4096 + 4096 * i
  if a < pa + n then some a else none)

def guestMay (s : State) (pa : Nat) (write : Bool) : Bool :=
  match locOf pa with
  | .hbm d o =>
    let e := s.fotEnt d o
    fotG e && fotPL e == (bits pa 47 46 == 1) && !(write && fotRO e) && (fotOwner e == 0xFE ||
      s.sock.grants.any (fun g => g.covers pa && (!write || g.w)))
  | _ => false

def State.readDone (s : State) (pa : W64) (x : Option (List Byte)) : State := s.updSock (fun k => { k with reads := k.reads ++ [(pa, x)] })
/-- The guest keeps the sector by CXL.cache, or not: which is a free value (log entry 115). -/
def State.guestKeep (s : State) (sec : Nat) (bs : List (Nat × Byte)) : State :=
  let more := fun (l : GLine) => { l with bytes := l.bytes.filter (fun x => !(bs.any (fun y => y.1 == x.1))) ++ bs }
  s.updSock (fun k => { k with lines := updOr (fun l => l.sec == sec) { sec := sec, bytes := bs } more k.lines })
/-- One sector of a guest's write: what is queued at the line goes first, and it takes a time past the line's lease (R405). It is performed
at the home, or stays in the guest's own copy until that is snooped. -/
def guestPut (s : State) (x : Nat × List Byte) : State :=
  let (b, s) := s.freshByte
  let s := if b.getLsbD 0 then s.paWrite x.1 x.2
    else
      let s := (s.queuedAt x.1).foldl (fun s q => performSector s q.1 q.2) s
      let s := match s.sectorAt x.1 with
        | some y => s.updSector y.asid y.va (fun y => { y with wts := max s.sock.pts (y.rts + 1), rts := max s.sock.pts (y.rts + 1) })
        | none => s.updMem (fun m => { m with mts := max s.sock.pts m.mts + 1 })
      s.guestKeep (keyOf x.1 / 128) (offs (keyOf x.1 % 128) x.2)
  let t := match s.sectorAt x.1 with | some y => y.wts | none => s.mem.mts
  s.updSock (fun k => { k with pts := max k.pts t })
/-- One sector of a guest's read: the guest may keep it. -/
def guestGet (s : State) (x : Nat × List Byte) : State :=
  let s := (s.queuedAt x.1).foldl (fun s q => performSector s q.1 q.2) s
  let (b, s) := s.freshByte
  if b.getLsbD 0 then s else s.guestKeep (keyOf x.1 / 128) []

/-- GUEST_ACCESS: a write is performed in the order of the home slices, or dropped; a read completes with the data, or with the CXL error
completion. -/
def execGuestAccess (pa : W64) (data : Option (List Byte)) (size : Nat) (s : State) : Out :=
  let n := match data with | some b => b.length | none => size
  let ok := s.sockLive && (pages4k pa.toNat (max n 1)).all (fun a => guestMay s a data.isSome)
  .next (if !ok then (if data.isNone then s.readDone pa none else s).deviceRec { src := some socketSrc, code := .guestf, cause := 3, addr := pa }
    else match data with
      | some b => (piecesOf pa.toNat b).foldl guestPut s
      | none =>
        let s := (piecesOf pa.toNat (List.replicate n 0)).foldl guestGet s
        s.readDone pa (some (s.paRead pa.toNat n)))

/-- GUEST_CHANNEL_CONFIGURE (R398): depth a power of two from 64 to 4,096, save size a multiple of 64 KiB up to 16 MiB. -/
def execGuestChannelConfigure (chan depth gsave : Nat) (s : State) : Out :=
  .next (if decide (chan < 256) && decide (64 ≤ depth ∧ depth ≤ 4096) && 2 ^ Nat.log2 depth == depth && gsave % 65536 == 0 &&
      decide (65536 ≤ gsave ∧ gsave ≤ 2 ^ 24)
    then
      let put := fun (l : List Chan) => updOr (fun c => c.num == chan) { num := chan, depth := depth, gsave := gsave }
        (fun c => { c with depth := depth, gsave := gsave }) l
      s.updSock (fun k => { k with chans := put k.chans })
    else s)

end Sys2Proof.Machine
end

