-- ==== Sys2Proof/Machine/Harp.lean ====
section
/-! DEFINITION. The Harps (R29 to R40, R61, R62): grids and orders, cutting, splitting and donating, placing groups on cores, and the
retirement of a group. -/

namespace Sys2Proof.Machine

abbrev P3 := Nat × Nat × Nat
def zip3 (f : Nat → Nat → Nat) (a b : P3) : P3 := (f a.1 b.1, f a.2.1 b.2.1, f a.2.2 b.2.2)

/-! ## Positions of a grid in order (R30, Table 2) -/

def gridOf (sz shp : P3) : P3 := zip3 ceilDiv sz shp

/-- The eight subcubes of side h at b, in order of the interleave, x at bit 0. -/
def octants (b : P3) (h : Nat) : List P3 := (List.range 8).map (fun i => (b.1 + h * (i % 2), b.2.1 + h * (i / 2 % 2), b.2.2 + h * (i / 4)))
/-- Positions of the grid that lie in a subcube. -/
def octCount (g o : P3) (h : Nat) : Nat := vol (zip3 (fun n x => min (n - x) h) g o)
/-- The subcube that position k falls in, and its index there. -/
def octAt (g : P3) (h : Nat) : List P3 → Nat → P3 × Nat
  | [], k => ((0, 0, 0), k)
  | o :: os, k => if k < octCount g o h || os.isEmpty then (o, k) else octAt g h os (k - octCount g o h)
def mortonAt (g : P3) : Nat → P3 → Nat → P3
  | 0, b, _ => b
  | l + 1, b, k => let x := octAt g (2 ^ l) (octants b (2 ^ l)) k; mortonAt g l x.1 x.2
def mortonLevel (g : P3) : Nat := Nat.log2 (max g.1 (max g.2.1 g.2.2)) + 1

def posAt (ord : Nat) (g : P3) (k : Nat) : P3 :=
  match ord with
  | 1 => (k / g.2.1 % g.1, k % g.2.1, k / (g.1 * g.2.1))
  | 2 => mortonAt g (mortonLevel g) (0, 0, 0) k
  | 3 =>
    let y := k / g.1 % g.2.1
    let z := k / (g.1 * g.2.1)
    (if (y + g.2.1 * z) % 2 == 1 then g.1 - 1 - k % g.1 else k % g.1, y, z)
  | 4 => let k := vol g - 1 - k; (k % g.1, k / g.1 % g.2.1, k / (g.1 * g.2.1))
  | _ => (k % g.1, k / g.1 % g.2.1, k / (g.1 * g.2.1))

/-! ## Boxes -/

def Box.grid (b : Box) : P3 := gridOf b.sz b.shp
/-- Base, relative to the box, and in-extent size of the tile at a position (R31). -/
def Box.tile (b : Box) (p : P3) : P3 × P3 :=
  let lo := zip3 (· * ·) p b.shp
  (lo, zip3 min b.shp (zip3 (· - ·) b.sz lo))
def Box.next (b : Box) : P3 × P3 := b.tile (posAt b.ord b.grid b.done)
/-- Groups still to come. -/
def Box.left (b : Box) : Nat := vol b.grid - b.done

/-- A run of positions on each axis as a box: low corner and size. -/
def Box.part (b : Box) (x y z : Nat × Nat) : Option (P3 × P3) :=
  if x.1 < x.2 && y.1 < y.2 && z.1 < z.2 then
    let lo := zip3 (· * ·) (x.1, y.1, z.1) b.shp
    let hi := zip3 min (zip3 (· * ·) (x.2, y.2, z.2) b.shp) b.sz
    some (zip3 (· + ·) b.lo lo, zip3 (· - ·) hi lo)
  else none

/-- The undispatched rest of a box as up to three boxes (R34); a row that no group has entered counts among the rows that follow. -/
def Box.split (b : Box) : List (P3 × P3) :=
  let g := b.grid
  let col := b.ord == 1
  let gp := if col then g.2.1 else g.1
  let gq := if col then g.1 else g.2.1
  let a := b.done % gp
  let rev := b.ord == 4
  let r := b.done / gp % gq
  let r := if rev then gq - 1 - r else r
  let c := b.done / (gp * gq)
  let c := if rev then g.2.2 - 1 - c else c
  let desc := rev || b.ord == 3 && (r + gq * c) % 2 == 1
  let mk := fun (p q z : Nat × Nat) => if col then b.part q p z else b.part p q z
  let one := if a == 0 then none else mk (if desc then (0, gp - a) else (a, gp)) (r, r + 1) (c, c + 1)
  let two := mk (0, gp) (if rev then (0, if a == 0 then r + 1 else r) else (if a == 0 then r else r + 1, gq)) (c, c + 1)
  let three := mk (0, gp) (0, gq) (if rev then (0, c) else (c + 1, g.2.2))
  [one, two, three].filterMap id

/-- Iterations the first k positions of a Morton walk cover. -/
def octIters (b : Box) (o : P3) (h : Nat) : Nat :=
  vol (zip3 (· - ·) (zip3 min b.sz (zip3 (· * ·) (o.1 + h, o.2.1 + h, o.2.2 + h) b.shp)) (zip3 min b.sz (zip3 (· * ·) o b.shp)))
def mortonIters (b : Box) : Nat → P3 → Nat → Nat
  | 0, o, k => if k == 0 then 0 else octIters b o 1
  | l + 1, o, k =>
    let os := octants o (2 ^ l)
    let x := octAt b.grid (2 ^ l) os k
    sumOf (fun y => octIters b y (2 ^ l)) (os.takeWhile (· != x.1)) + mortonIters b l x.1 x.2

/-- Iterations not yet dispatched. -/
def Box.rem (b : Box) : Nat :=
  if b.done == 0 then vol b.sz
  else if b.ord == 2 then vol b.sz - mortonIters b (mortonLevel b.grid) (0, 0, 0) b.done
  else sumOf (fun x => vol x.2) b.split

def Harp.rem (h : Harp) : Nat := sumOf Box.rem h.boxes

/-- A decision applied to every box of the list, which never passes 16 (R34). -/
def Harp.apply (h : Harp) (shp : P3) (ord : Nat) : Harp :=
  let n := h.boxes.length
  let one := fun (x : List Box × Nat) (b : Box) =>
    let left := x.2 - 1
    if b.done == 0 then (x.1 ++ [{ b with shp := shp, ord := ord }], left)
    else
      let ps := b.split
      if b.ord == 2 || decide (x.1.length + ps.length + left > 16) then (x.1 ++ [b], left)
      else (x.1 ++ ps.map (fun p => { lo := p.1, sz := p.2, shp := shp, ord := ord }), left)
  { h with boxes := (h.boxes.foldl one ([], n)).1, shp := shp, ord := ord }

/-! ## Cut records (R35) -/

/-- The Harp of a share, by the number the share has kept from its launch. -/
def RangeSt.harp? (r : RangeSt) (share : Nat) : Option Harp := r.harps.find? (fun h => h.num == share)
def RangeSt.updHarp (r : RangeSt) (share : Nat) (f : Harp → Harp) : RangeSt := { r with harps := upd (fun h => h.num == share) f r.harps }
def State.updHarp (s : State) (rid share : Nat) (f : Harp → Harp) : State := s.updRange rid (fun r => r.updHarp share f)
/-- The share a die's Harp turns to: of those that a resumed image brought to it, the first with work left. -/
def RangeSt.turn (r : RangeSt) (die : Nat) : Option Harp :=
  let l := r.harps.filter (fun h => h.die == die)
  (l.find? (fun h => !h.boxes.isEmpty || h.due.isSome)).or l.head?
/-- %gseq of the next group of a share: the number of the die whose Harp dispatches it, and that die's count (R36). -/
def RangeSt.nextGseq (r : RangeSt) (h : Harp) : W64 := BitVec.ofNat 64 (h.die * 2 ^ 62 + (assoc r.seqs h.die).getD 0)
/-- The same by the share's own number and count, as a cut list names it. -/
def Harp.first (h : Harp) : W64 := BitVec.ofNat 64 (h.num * 2 ^ 62 + h.count)

def cutRecord (s : State) (r : RangeSt) (why : Nat) (h : Harp) (shp : P3) (ord : Nat) : List Byte :=
  leBytes 8 s.ticks ++ leBytes 4 r.rid ++ leBytes 1 h.die ++ leBytes 1 (why + 16 * ord) ++ leBytes 2 0 ++ leBytes 8 (r.nextGseq h).toNat ++
    leBytes 2 shp.1 ++ leBytes 2 shp.2.1 ++ leBytes 2 shp.2.2 ++ leBytes 2 h.boxes.length

/-- A record to the range's trace stream and log, in the rings of the die's partition. Those of a launch stand in the log behind its
checkpoint (R431; log entry 130). -/
def putCut (s : State) (r : RangeSt) (die : Nat) (b : List Byte) (launch : Bool := false) : State :=
  let p := s.partOn r.asid die
  logRange (traceWrite s p (harpSrc die) [b]) p (if launch then frontSrc r.part else harpSrc die) r b
/-- The shape and order of a list record, in its place among the die's groups (R37). -/
def pinFirst (b : List Byte) : W64 := BitVec.ofNat 64 (fld b 16 8)
/-- The record is for the die's next group: FIRST is its %gseq, or 0 for the first (log entry 101). -/
def firstIs (b : List Byte) (h : Harp) : Bool := pinFirst b == h.first || h.count == 0 && pinFirst b == 0
def pinShape (b : List Byte) : P3 := (fld b 24 2, fld b 26 2, fld b 28 2)
def pinOrder (b : List Byte) : Nat := bits (fld b 13 1) 7 4

/-- The record written for one of the list: the list's die, order, FIRST and shape, reason 7, the boxes after the decision. -/
def pinRecord (s : State) (rid : Nat) (h : Harp) (b : List Byte) : List Byte :=
  leBytes 8 s.ticks ++ leBytes 4 rid ++ leBytes 1 (fld b 12 1 % 4) ++ leBytes 1 (7 + 16 * pinOrder b) ++ leBytes 2 0 ++ leBytes 8 (pinFirst b).toNat ++
    leBytes 2 (pinShape b).1 ++ leBytes 2 (pinShape b).2.1 ++ leBytes 2 (pinShape b).2.2 ++ leBytes 2 h.boxes.length

def cutNow (s : State) (rid share why : Nat) (shp : P3) (ord : Nat) (launch : Bool := false) : State :=
  match s.range? rid with
  | none => s
  | some r => match r.harp? share with
    | none => s
    | some h => putCut s r h.die (cutRecord s r why h shp ord) launch

/-! ## Deciding (R32, R33) -/

/-- Of shapes of one n, the smaller x, then the smaller y. -/
def betterShape (large : Bool) (a b : P3) : Bool :=
  if vol a != vol b then (if large then decide (vol a > vol b) else decide (vol a < vol b))
  else decide (a.1 < b.1) || a.1 == b.1 && decide (a.2.1 < b.2.1)
def bestShape (large : Bool) (l : List P3) : Option P3 :=
  l.foldl (fun acc x => match acc with | none => some x | some y => if betterShape large x y then some x else some y) none

/-- Row-major, Morton, serpentine, column-major, reversed, row-major. -/
def nextOrder (mask ord : Nat) : Nat :=
  let cyc := [0, 2, 3, 1, 4]
  let i := (cyc.findIdx? (· == ord)).getD 0
  (((List.range 5).map (fun j => cyc.getD ((i + j + 1) % 5) 0)).find? (bit mask)).getD ord

/-- (maximum − minimum) / mean of clk per iteration exceeds t / 64. -/
def spreadOver (l : List GStat) (t : Nat) : Bool :=
  let d := l.foldl (fun n g => n * max g.iters 1) 1
  let rs := l.map (fun g => g.clk * (d / max g.iters 1))
  let hi := rs.foldl max 0
  let lo := rs.foldl min hi
  decide (64 * (hi - lo) * rs.length > t * sumOf id rs)

/-- The decision of a cut point: reason, shape, order. -/
def decideCut (pol : W64) (r : RangeSt) (h : Harp) : Nat × P3 × Nat :=
  let hloc := (pol.extractLsb 39 32).toNat
  let its := sumOf (·.iters) h.stats
  let fills := sumOf (·.fills) h.stats
  let hits := sumOf (·.hits) h.stats
  let n := vol h.shp
  let kept := (4, h.shp, h.ord)
  let local_ := match h.prevB, h.prevH with
    | some b, some q => decide (64 * fills * b.2 ≥ hloc * b.1 * its) && decide (hits * q.2 ≤ q.1 * its)
    | _, _ => false
  if spreadOver h.stats (pol.extractLsb 31 24).toNat then
    match bestShape true (r.shapes.filter (fun x => decide (vol x < n))) with
    | some x => (1, x, h.ord)
    | none => kept
  else if local_ then (2, h.shp, nextOrder r.img.ordm h.ord)
  else if sumOf (·.lanes) h.stats < (pol.extractLsb 23 18).toNat * sumOf (·.issues) h.stats then
    match bestShape false (r.shapes.filter (fun x => decide (n < vol x))) with
    | some x => (3, x, h.ord)
    | none => kept
  else kept

/-! ## Donating (R39) -/

/-- What the donor gives of its last box, and what it keeps. -/
def donateBox (h : Harp) : Option (Box × List Box) :=
  match h.boxes.getLast? with
  | none => none
  | some b =>
    let before := h.boxes.dropLast
    if b.done == 0 && decide (2 * vol b.sz ≤ h.rem) then some (b, before)
    else
      let g := b.grid
      match [2, 1, 0].find? (fun i => decide (ax g i > 1)) with
      | none => none
      | some o =>
        let far := (List.range b.done).foldl (fun m k => max m (ax (posAt b.ord g k) o + 1)) 0
        let r := ax g o - far
        let n := (r + 1) / 2
        if n == 0 then none
        else
          let at_ := (ax g o - n) * ax b.shp o
          let put := fun (t : P3) (x : Nat) => if o == 0 then (x, t.2.1, t.2.2) else if o == 1 then (t.1, x, t.2.2) else (t.1, t.2.1, x)
          some ({ b with lo := put b.lo (ax b.lo o + at_), sz := put b.sz (ax b.sz o - at_), done := 0 },
                before ++ [{ b with sz := put b.sz at_ }])

/-- The request served is that of the lowest die (log entry 20). -/
def askedDie (r : RangeSt) (h : Harp) : Option Harp := (sortOn (·.die) (r.harps.filter (fun x => x.asked && x.num != h.num))).head?
def canDonate (r : RangeSt) (h : Harp) : Option Harp :=
  if r.img.attr.getLsbD 0 && !r.img.rrec.coop && decide (sumOf Box.left h.boxes ≥ 64) then askedDie r h else none

def donate (s : State) (rid share : Nat) : State :=
  match s.range? rid with
  | none => s
  | some r =>
    match r.harp? share with
    | none => s
    | some h =>
      match canDonate r h, donateBox h with
      | some d, some (b, rest) =>
        let s := s.updHarp rid share (fun h => { h with boxes := rest })
        let s := cutNow s rid share 6 b.shp b.ord
        let s := s.updHarp rid d.num (fun h => { h with boxes := h.boxes ++ [b], asked := false, shp := b.shp, ord := b.ord })
        cutNow s rid d.num 5 b.shp b.ord
      | _, _ => s

/-! ## The cut (R32, R34, R430) -/

/-- Whether the records of a cut must wait for room in the logs. -/
def cutWaits (s : State) (r : RangeSt) (h : Harp) : Bool :=
  rangeWaits s (s.partOn r.asid h.die) r (if (canDonate r h).isSome then 64 else 32) ||
    (match canDonate r h with | some d => rangeWaits s (s.partOn r.asid d.die) r 32 | none => false)

/-- A decision takes effect: its record, the boxes, the donation. The iterations in the list at the cut are counted before the
donation (log entry 100). -/
def cutApply (s : State) (rid share : Nat) (x : Nat × P3 × Nat) : State :=
  let s := s.updHarp rid share (fun h =>
    let h := if x.1 == 4 then h else h.apply x.2.1 x.2.2
    { h with due := none })
  let s := cutNow s rid share x.1 x.2.1 x.2.2
  let s := s.updHarp rid share (fun h => { h with remAt := h.rem })
  donate s rid share

/-- A decision held for the log is tried again. -/
def cutRetry (s : State) (rid share : Nat) : State :=
  match s.range? rid with
  | none => s
  | some r => match r.harp? share with
    | none => s
    | some h => match h.due with
      | none => s
      | some x => if cutWaits s r h then s else cutApply s rid share x

/-- The Harp that has a group's share, on whatever die the group has run (R33). -/
def State.harpOf (s : State) (g : Group) : Option Harp := (s.range? g.rid).bind (fun r => r.harp? g.share)
/-- Whether the end of the group brings its share's Harp to a cut point (R32). -/
def cutsNow (s : State) (g : Group) : Bool :=
  match s.range? g.rid with
  | none => false
  | some r => !(r.img.attr.getLsbD 3 || r.img.rrec.coop || r.killed) && (match r.harp? g.share with
    | none => false
    | some h => decide (h.fin + 1 ≥ 64) && decide (8 * (h.finIt + vol g.ext) ≥ h.remAt) && h.due.isNone)

/-- A finished group's measures; at a cut point the decision (R32). -/
def finished (s : State) (g : Group) : State :=
  match s.range? g.rid with
  | none => s
  | some r =>
    if r.img.attr.getLsbD 3 || r.img.rrec.coop || r.killed then s
    else
      let st : GStat := { iters := vol g.ext, clk := s.clk - g.age0, issues := g.issues, lanes := g.lanesIssued, fills := g.fills, hits := g.hits }
      let s := s.updHarp g.rid g.share (fun h => { h with fin := h.fin + 1, finIt := h.finIt + st.iters, stats := (st :: h.stats).take 32 })
      match s.harpOf g with
      | none => s
      | some h =>
        if decide (h.fin ≥ 64) && decide (8 * h.finIt ≥ h.remAt) && h.due.isNone then
          let p := s.partOn r.asid h.die
          let x := decideCut (s.part p).policy r h
          let its := sumOf (·.iters) h.stats
          let s := s.count p 12 1 r.qid
          let s := s.updHarp g.rid g.share (fun h => { h with
            fin := 0, finIt := 0, remAt := h.rem, cuts := h.cuts + 1, due := some x,
            prevB := some (sumOf (·.fills) h.stats, its), prevH := some (sumOf (·.hits) h.stats, its) })
          cutRetry s g.rid g.share
        else s

/-! ## Residency (R40, R51, R61) -/

/-- R15. -/
def scratchOf (rr : RRec) (n : Nat) : Nat := roundUp (rr.sbase + rr.sper * n) 256
def teamsFor (n : Nat) : Nat := ceilDiv n 32
/-- Whether a group of n threads fits an empty core of a partition. -/
def shapeFits (cv : W32) (h : Nat) (rr : RRec) (n : Nat) : Bool :=
  decide (teamsFor n * h ≤ wgran cv * 256) && decide (scratchOf rr n ≤ sgran cv * 32768)

/-- Allowed extents of an axis: multiples of MULT from MIN to MAX by STEP. -/
def axisExtents (a : Nat × Nat × Nat × Nat × Nat) : List Nat :=
  if a.2.2.1 == 0 then [] else
  (List.range 1024).filterMap (fun i =>
    let e := a.1 + i * a.2.2.1
    if decide (1 ≤ e) && decide (e ≤ a.2.1) && decide (e ≤ 1024) && (a.2.2.2.1 != 0 && e % a.2.2.2.1 == 0) then some e else none)
def axisOf (rr : RRec) (i : Nat) : Nat × Nat × Nat × Nat × Nat := if i < rr.dims then rr.shp.getD i (1, 1, 1, 1, 1) else (1, 1, 1, 1, 1)
def allowedShapes (rr : RRec) (h : Nat) (carves : List W32) : List P3 :=
  let zs := axisExtents (axisOf rr 2)
  let ys := axisExtents (axisOf rr 1)
  let xs := axisExtents (axisOf rr 0)
  let yz := (zs.map (fun z => (ys.filter (fun y => decide (y * z ≤ rr.ceil))).map (fun y => (y, z)))).flatten
  let all := (yz.map (fun p => (xs.filter (fun x => decide (x * p.1 * p.2 ≤ rr.ceil))).map (fun x => (x, p.1, p.2)))).flatten
  all.filter (fun t => carves.all (fun cv => shapeFits cv h rr (vol t)))
def firstShape (rr : RRec) : P3 :=
  let f := fun i => (axisOf rr i).2.2.2.2
  (f 0, f 1, f 2)

/-- The cores of a carved partition that have not failed; those of another are spare (R412). -/
def State.goodCores (s : State) (p : Nat) : List Nat :=
  if s.carved p then (coresOf p).filter (fun c => !(s.core (p / Config.partsPerDie) c).failed) else []
def State.resident (s : State) (die core : Nat) : List Group := s.groups.filter (fun g => g.die == die && g.core == core)

/-- Groups of n threads that an empty core holds. -/
def coreHolds (cv : W32) (h : Nat) (rr : RRec) (n : Nat) : Nat :=
  if shapeFits cv h rr n then
    let a := min 16 (2048 / max n 1)
    let a := min a (wgran cv * 256 / max h 1 / max (teamsFor n) 1)
    if scratchOf rr n == 0 then a else min a (sgran cv * 32768 / scratchOf rr n)
  else 0
/-- The capacity of R61 on a die. -/
def coopCapacity (s : State) (p h : Nat) (rr : RRec) (n : Nat) : Nat := (s.goodCores p).length * coreHolds (s.carve p) h rr n

/-- The lowest start at which n units are free below lim, a multiple of the units used. -/
def lowestFree (used : List (Nat × Nat)) (lo n lim : Nat) : Option Nat :=
  ((lo :: used.map (fun x => x.1 + x.2)).filter (fun w => decide (lo ≤ w) && decide (w + n ≤ lim) &&
    used.all (fun x => decide (w + n ≤ x.1) || decide (x.1 + x.2 ≤ w) || n == 0))).min?

/-- Base rows of the teams in order. Every team holds lane home 0, so teams share no row. -/
def placeRows (h lim : Nat) : Nat → List (Nat × Nat) → Option (List Nat)
  | 0, _ => some []
  | k + 1, used =>
    match lowestFree used 0 h lim with
    | none => none
    | some w => (placeRows h lim k (used ++ [(w, h)])).map (fun l => w :: l)

/-- Where a core has room for a group: base rows and scratch base. -/
def coreRoom (s : State) (p core h n scr : Nat) : Option (List Nat × Nat) :=
  let die := p / Config.partsPerDie
  let gs := s.resident die core
  let cv := s.carve p
  if decide (gs.length ≥ 16) || decide (sumOf (fun (g : Group) => g.threads.length) gs + n > 2048) then none
  else
    let rows := (gs.map (fun g => g.teams.map (fun t => (t.wrow, s.hOf g.rid)))).flatten
    let scrs := (gs.filter (fun g => g.scrSize != 0)).map (fun g => (g.scrBase, g.scrSize))
    match placeRows h (wgran cv * 256) (teamsFor n) rows, lowestFree scrs (wgran cv * 32768) scr ((wgran cv + sgran cv) * 32768) with
    | some r, some b => some (r, b)
    | _, _ => none

def freeThreads (s : State) (die core : Nat) : Nat := 2048 - sumOf (fun (g : Group) => g.threads.length) (s.resident die core)
/-- The fitting core with the most free threads, the lowest on a tie. -/
def pickCore (s : State) (p h n scr : Nat) : Option (Nat × List Nat × Nat) :=
  let die := p / Config.partsPerDie
  ((s.goodCores p).filterMap (fun c => (coreRoom s p c h n scr).map (fun x => (c, x)))).foldl (fun acc x =>
    match acc with
    | none => some x
    | some y => if freeThreads s die x.1 > freeThreads s die y.1 then some x else some y) none

/-- Nothing is placed while granules change, or while a cooperative range accepted before waits for space (R62, R106). After one write that
also raises RESWAYS it resumes when PEND clears (log entry 121). -/
def placeBlocked (s : State) (r : RangeSt) (p : Nat) : Bool :=
  (s.carve p).getLsbD 27 && !(s.part p).moved.isEmpty ||
    (s.ranges.takeWhile (fun x => x.rid != r.rid || r.img.rrec.coop == false)).any (fun x =>
      x.rid != r.rid && x.img.rrec.coop && !x.started && !x.killed && x.harps.any (fun h => s.partOn x.asid h.die == p))

/-! ## Dispatch -/

/-- A new group's threads, teams and bundles (R25, R41, R50, R287). -/
def newGroup (s : State) (r : RangeSt) (h : Harp) (p : Nat) (shp base ext : P3) (at_ : Nat × List Nat × Nat) : Group :=
  let n := vol shp
  let em := match r.graph with | some g => emodeAt g h.die | none => 0
  let pc := r.img.code + BitVec.ofNat 64 r.img.rrec.body
  let s0 : Vector W64 32 := ((Vector.replicate 32 (0 : W64)).setIfInBounds 0 r.img.arg0).setIfInBounds 1 r.img.arg1
  { id := s.nextGid, rid := r.rid, die := h.die, core := at_.1, part := p, part0 := p, gseq := r.nextGseq h, share := h.num, shp := shp, base := base, ext := ext,
    threads := (List.range n).map (fun t => { team := teamOf t, lane := laneOf t, emode := em }),
    teams := (List.range (teamsFor n)).map (fun i => { idx := i, s := s0, wrow := at_.2.1.getD i 0, wrow0 := at_.2.1.getD i 0 }),
    bundles := (List.range (teamsFor n)).map (fun i =>
      { id := i, pc := pc, ts := (List.range n).filter (fun t => teamOf t == i) }),
    nextB := teamsFor n, scrBase := at_.2.2, scrSize := scratchOf r.img.rrec n,
    flags := List.replicate r.img.rrec.nflag 0, halted := r.rangeHalt, age0 := s.clk }

/-- The first box's next group goes to a core that fits it; none where none does. -/
def placeNext (s : State) (rid share : Nat) : Option State :=
  match s.range? rid with
  | none => none
  | some r =>
    match r.harp? share with
    | none => none
    | some h =>
      match h.boxes with
      | [] => none
      | b :: rest =>
        let p := s.partOn r.asid h.die
        let n := vol b.shp
        match pickCore s p r.h n (scratchOf r.img.rrec n) with
        | none => none
        | some at_ =>
          let t := b.next
          let g := newGroup s r h p b.shp (zip3 (· + ·) b.lo t.1) t.2 at_
          let s := { s with groups := s.groups ++ [g], nextGid := s.nextGid + 1 }
          let b' := { b with done := b.done + 1 }
          let boxes := if b'.left == 0 then rest else b' :: rest
          let s := s.updHarp rid share (fun h => { h with count := h.count + 1, boxes := boxes, asked := h.asked || boxes.isEmpty })
          let s := s.updRange rid (fun r => { r with seqs := assocSet r.seqs h.die ((assoc r.seqs h.die).getD 0 + 1) })
          some (s.count p 13 1 r.qid)

/-- A list record whose group is next is applied and written with reason 7. -/
def pinApply (s : State) (rid share : Nat) (b : List Byte) (launch : Bool := false) : State :=
  let s := s.updHarp rid share (fun h => { h.apply (pinShape b) (pinOrder b) with pins := h.pins.drop 1 })
  match s.range? rid with
  | none => s
  | some r => match r.harp? share with
    | none => s
    | some h => putCut s r h.die (pinRecord s rid h b) launch

/-- The pinned decision that stands before the next group: none where its record has no room in the log. -/
def pinDue (s : State) (rid share : Nat) : Option State :=
  match s.range? rid with
  | none => some s
  | some r =>
    match (r.harp? share).bind (fun h => h.pins.head?.map (fun b => (h, b))) with
    | none => some s
    | some (h, b) =>
      if !(firstIs b h) || h.boxes.isEmpty then some s
      else if rangeWaits s (s.partOn r.asid h.die) r 32 then none
      else some (pinApply s rid share b)

/-! ## Groups of a resumed image (R366, R387) -/

/-- Threads filed in a Basin before are filed again on the new core; without a Basin they go on (R43). -/
def refile (s : State) (gid : Nat) : State :=
  match s.group? gid with
  | none => s
  | some g =>
    g.bundles.foldl (fun s b => match b.st with
      | .basin _ _ =>
        let s := s.updBundle gid b.id (fun b => { b with st := .ready })
        match b.ts with
        | [t] => (match s.basinFor g.die g.core gid b.pc (laneOf t) with
          | some k => s.updBundle gid b.id (fun b => { b with st := .basin k s.clk })
          | none => s)
        | _ => s
      | _ => s) s

/-- Words of the tests named are read again at their homes (R249: a wait holds on what stands when it is re-tested). -/
def rereadPolls (s : State) (gid : Nat) (sel : Poll → Bool) : State :=
  match engCtx s gid with
  | none => s
  | some c =>
    c.g.bundles.foldl (fun s b => match b.st with
      | .poll l => (l.filter sel).foldl (fun s p => match p.at_ with
        | .glob va n => (match homeRead s c.who va n with
          | .ok (x, s) => retest s (fun g => g.id == gid) (fun _ q => if q == p.at_ then some x else none) (s.core c.g.die c.g.core).pts
          | .error _ => s)
        | _ => s) s
      | _ => s) s

/-- A group back on a core tests its waits again. -/
def repoll (s : State) (gid : Nat) : State :=
  wakeStalled (rereadPolls s gid (fun _ => true)) gid

/-- Waits in LWAIT that are over: the handles all retired; the acquire takes their time (R288). -/
def lwaitDone (r : RangeSt) (hs : List Nat) : Bool := hs.all (fun h => r.children.any (fun c => c.handle == h && c.retired))
def lwaitTime (r : RangeSt) (hs : List Nat) : Nat := r.children.foldl (fun t c => if hs.contains c.handle then max t c.t else t) 0
def wakeLwait (s : State) (rid : Nat) : State :=
  match s.range? rid with
  | none => s
  | some r =>
    (s.groups.filter (fun g => g.rid == rid)).foldl (fun s g => g.bundles.foldl (fun s b => match b.st with
      | .lwait hs =>
        if lwaitDone r hs then finishWait (s.updCore g.die g.core (fun c => c.setPts (lwaitTime r hs))) g.id b.id else s
      | _ => s) s) s

/-- A group put back on a core: its windows and scratch there, its locks and operations restored. A group stopped by a fault
posts its record again (R387). -/
def unpark (s : State) (r : RangeSt) (g : Group) (p : Nat) (at_ : Nat × List Nat × Nat) : State :=
  let g' := { g with core := at_.1, part := p, scrBase := at_.2.2, hardAt := false,
                     teams := g.teams.mapIdx (fun i t => { t with wrow := at_.2.1.getD i 0 }) }
  let ops := r.parkedOps.filter (fun o => o.gid == g.id)
  let locks := (r.parkedLocks.filter (fun l => l.gid == g.id)).map (fun l => { l with core := at_.1, die := g.die })
  let s := { s with groups := s.groups ++ [g'] }
  let s := s.updRange r.rid (fun r => { r with parked := r.parked.filter (fun x => x.id != g.id), parkedOps := r.parkedOps.filter (fun o => o.gid != g.id),
                                               parkedLocks := r.parkedLocks.filter (fun l => l.gid != g.id) })
  let mq := (ops.filter (fun o => match o.kind with | .mtx .. => true | _ => false)).map (fun o => (g.die, at_.1, o.id))
  let s := s.updEng (fun e => { e with ops := e.ops ++ ops, locks := e.locks ++ locks, mtxQ := e.mtxQ ++ mq })
  let s := unparkPkts s r g.id p
  -- every thread acts as if it had executed FENCE.sy (R129); the core's clock passes every clock a thread may have seen (log entry 65)
  let s := fenceSy s g.die at_.1
  let s := s.updCore g.die at_.1 (fun c => c.setPts (s.mem.cores.foldl (fun t x => max t x.pts) 0))
  let s := wakeLwait (repoll (refile s g.id) g.id) r.rid
  let s := match g.stop with
    | some st =>
      let s := s.updFq (fun x => { x with posted := x.posted.filter (fun y => y.2.2.gid != some g.id) })
      (s.updGroup g.id (fun g => { g with stop := some { st with posted := none } })).queueRec p { st.frec with reposted := true, gid := some g.id }
    | none => s
  settle s r.rid

/-- Whether the Harp may place groups of the range at all. -/
def mayPlace (s : State) (r : RangeSt) (die : Nat) : Bool :=
  r.pre.isNone && !r.killed && !placeBlocked s r (s.partOn r.asid die)

/-- The next group of a die's part of a resumed image goes to a core of that die's partition, or of another partition of the range where
none there fits it (R388). -/
def placeParked (s : State) (rid die : Nat) : Option State :=
  match s.range? rid with
  | none => none
  | some r =>
    match r.parked.find? (fun g => g.die == die) with
    | none => none
    | some g =>
      (die :: (r.harps.map (·.die)).eraseDups.filter (fun d => d != die && mayPlace s r d)).findSome? (fun d =>
        let p := s.partOn r.asid d
        (pickCore s p r.h g.threads.length g.scrSize).map (fun at_ => unpark s r { g with die := d } p at_))

/-! ## The events -/

/-- GROUP_DISPATCH. Groups of a resumed image go first. -/
def dispatchOne (s : State) (rid die : Nat) : State :=
  match (s.range? rid).bind (fun r => r.turn die) with
  | none => s
  | some h =>
    let s := cutRetry s rid h.num
    match s.range? rid with
    | none => s
    | some r =>
      if !mayPlace s r die || !r.started || (r.harp? h.num).any (fun h => h.due.isSome) then s
      else if r.parked.any (fun g => g.die == die) then (placeParked s rid die).getD s
      else match pinDue s rid h.num with
        | none => s
        | some s => (placeNext s rid h.num).getD s
def execGroupDispatch (rid die : Nat) (s : State) : Out := .next (dispatchOne s rid die)

/-- Every group of a cooperative range, parked or new, placed; none where one does not fit. -/
def placeAllN (rid die : Nat) : Nat → State → Option State
  | 0, s => some s
  | n + 1, s =>
    match (placeParked s rid die).or (((s.range? rid).bind (fun r => r.turn die)).bind (fun h => placeNext s rid h.num)) with
    | some s => placeAllN rid die n s
    | none => none
def coopLeft (r : RangeSt) (die : Nat) : Nat :=
  (r.parked.filter (fun g => g.die == die)).length + sumOf (fun (h : Harp) => if h.die == die then sumOf Box.left h.boxes else 0) r.harps
def placeCoop (s : State) (r : RangeSt) : Option State :=
  (r.harps.map (·.die)).eraseDups.foldl (fun acc d => match acc with
    | none => none
    | some s => placeAllN r.rid d (coopLeft r d) s) (some s)

/-- COOP_PLACEMENT (R62). -/
def execCoopPlacement (rid : Nat) (s : State) : Out :=
  .next (match s.range? rid with
    | none => s
    | some r =>
      if r.started || !r.img.rrec.coop || !(r.harps.all (fun h => mayPlace s r h.die)) then s
      else match placeCoop s r with
        | none => s
        | some s => settle (s.updRange rid (fun r => { r with started := true })) rid)

/-! ## GROUP_RETIRE (R27) -/

def groupDone (s : State) (g : Group) : Bool :=
  g.live.isEmpty && g.stop.isNone && (sluiceClear s g.rid || s.groups.any (fun x => x.rid == g.rid && !x.live.isEmpty)) && !(s.eng.ops.any (fun o => o.gid == g.id)) && !(s.eng.locks.any (fun l => l.gid == g.id)) &&
    !(s.sock.chans.any (fun c => c.pkts.any (fun p => p.gid == g.id)))

/-- The group leaves its core. -/
def retireGroup (s : State) (g : Group) : State :=
  let s := { s with groups := s.groups.filter (fun x => x.id != g.id) }
  let s := s.updRange g.rid (fun r =>
    if r.img.dt == 0 then r else { r with dead := r.dead ++ [(if g.fixDone then 1 else 0, g.gseq)] })
  settle (carveSettle (finished s g) g.part) g.rid
def execGroupRetire (gid : Nat) (s : State) : Out :=
  .next (match s.group? gid with
    | none => s
    | some g =>
      let s := if g.live.isEmpty && g.stop.isNone then sluiceExit s gid else s
      if groupDone s g then retireGroup s g else s)

end Sys2Proof.Machine
end

