-- ==== Sys2Proof/Machine/Launch.lean ====
section
/-! DEFINITION. Launch images (R332, R364), the checks of a launch (R366, R367), its acceptance, the retirement and the killing of a
range (R27, R383), LAUNCH and LWAIT (R287, R288). -/

namespace Sys2Proof.Machine

/-! ## Launch images -/

def patch (b : List Byte) (off : Nat) (x : List Byte) : List Byte := b.take off ++ x ++ b.drop (off + x.length)

/-- The range record at offset 64 of an image (R332); a persistent range is cooperative (R65), one of kind edge persistent (R273). -/
def rrecFrom (b : List Byte) : RRec :=
  let o := fun (n : Nat) => 64 + n
  let axis := fun (i : Nat) => (fld b (o (28 + 10 * i)) 2, fld b (o (30 + 10 * i)) 2, fld b (o (32 + 10 * i)) 2, fld b (o (34 + 10 * i)) 2, fld b (o (36 + 10 * i)) 2)
  let at_ := fld b (o 9) 1
  { body := fld b (o 4) 4, dims := fld b (o 8) 1, coop := bit at_ 0 || bit at_ 1 || bit at_ 2, persist := bit at_ 1, edge := bit at_ 2, nflag := fld b (o 10) 1,
    ext := (fld b (o 16) 4 + 1, fld b (o 20) 4 + 1, fld b (o 24) 4 + 1), shp := [axis 0, axis 1, axis 2], ceil := fld b (o 58) 2,
    sbase := fld b (o 60) 4, sper := fld b (o 64) 4, resb := fld b (o 68) 4, nexact := fld b (o 72) 2, qdecl := BitVec.ofNat 16 (fld b (o 74) 2),
    queue := (List.range 16).map (fun i => BitVec.ofNat 16 (fld b (o (76 + 2 * i)) 2)), graph := BitVec.ofNat 64 (fld b (o 108) 8),
    slots := (List.range 8).map (fun i => BitVec.ofNat 64 (fld b (o (124 + 8 * i)) 8)) }

/-- Reserved fields and values of a record. -/
def queueWordOk (x : W16) : Bool :=
  (x &&& 0xF8C0) == 0 && (if x.getLsbD 5 then x.extractLsb 4 2 == 0 else true)
def rrecOk (b : List Byte) : Bool :=
  let r := rrecFrom b
  zeros b 75 79 && zeros b 180 187 && zeros b 252 255 && decide (fld b 73 1 < 8) && decide (1 ≤ r.dims ∧ r.dims ≤ 3) && decide (r.nflag ≤ 64) &&
    decide (1 ≤ r.ceil ∧ r.ceil ≤ 1024) && decide (r.nexact ≤ 256) && r.queue.all queueWordOk &&
    (List.range 16).all (fun i => !(r.qdecl.getLsbD i) || (r.queue.getD i 0).getLsbD 5 ||
      decide (6 ≤ (r.queue.getD i 0).toNat % 32 ∧ (r.queue.getD i 0).toNat % 32 ≤ 20))

def imageFrom (va : W64) (b : List Byte) : Image :=
  let di := fld b 260 2
  { va := va, raw := b, config := BitVec.ofNat 64 (fld b 8 8), saved := fld b 16 1 == 1, attr := BitVec.ofNat 8 (fld b 17 1), ordm := fld b 18 1,
    prio := fld b 19 1 % 8, rid := fld b 20 4, code := BitVec.ofNat 64 (fld b 24 8), pvec := (List.range 4).map (fun i => fld b (32 + 2 * i) 2),
    sig := BitVec.ofNat 64 (fld b 40 8), arg0 := BitVec.ofNat 64 (fld b 48 8), arg1 := BitVec.ofNat 64 (fld b 56 8), rrec := rrecFrom b,
    dt := fld b 256 4, di := if di == 0 then 65536 else di, dfix := fld b 264 4, ncut := fld b 268 4, cuts := BitVec.ofNat 64 (fld b 272 8),
    parent := fld b 292 4, depth := fld b 296 1 }

/-- Check 2 of R366: MAGIC and reserved fields; a value outside what Table 7 gives counts among them (log entry 21). -/
def imageOk (b : List Byte) : Bool :=
  b.length == 512 && fld b 0 4 == 0x474D494C && decide (fld b 16 1 ≤ 1) && decide (fld b 17 1 < 16) && decide (fld b 18 1 < 32) &&
    decide (fld b 19 1 < 8) && zeros b 262 263 && zeros b 297 511 && decide (fld b 256 4 ≤ 2 ^ 24) && decide (fld b 268 4 ≤ 2 ^ 20) &&
    decide (fld b 296 1 ≤ 10) && (fld b 16 1 == 1 || fld b 20 4 == 0 && fld b 280 8 == 0) && rrecOk b

/-- Check 3 (R329): the device's grade, revision 1. -/
def configOk (grade : Grade) (c : W64) : Bool :=
  c.extractLsb 63 16 == 0 && c.extractLsb 15 8 == 1 && decide (1 ≤ (c.extractLsb 7 4).toNat ∧ (c.extractLsb 7 4).toNat ≤ 8) &&
    (c.extractLsb 3 0).toNat == grade.num

/-- Check 7 (R138, R139). -/
def slotOk (x : W64) : Bool :=
  let ty := (x.extractLsb 3 0).toNat
  let zp := (x.extractLsb 9 8).toNat
  decide (ty ≤ 3) && x.extractLsb 6 5 != 3 && zp != 3 && x.extractLsb 15 11 == 0 &&
    (decide (ty ≥ 2) || !x.getLsbD 4 && !x.getLsbD 7 && zp == 0) && (zp == 0 || x.getLsbD 7) && (zp != 1 || ty == 3) && (zp != 2 || ty == 2)

/-! ## The graph descriptor (R274, R275) -/

def graphOk (va : Nat) (b : List Byte) : Bool :=
  let op := fld b 80 1
  let fl := fld b 81 1
  let nv := fld b 0 4
  let rng := fun (x : Nat) => decide (1 ≤ x ∧ x ≤ 2 ^ 31)
  va % 128 == 0 && decide (op ≤ 7 ∨ op = 9 ∨ op = 16) && decide (fl < 16) && zeros b 82 83 && zeros b 104 111 &&
    ((fld b 40 8 == 0) == (fld b 48 8 == 0)) && rng nv && rng (fld b 84 4) && rng (fld b 88 4) && decide (fld b 92 4 ≤ nv) &&
    (!bit fl 1 || decide (2 ≤ op ∧ op ≤ 9))

def graphFrom (va : W64) (b : List Byte) (dies : List Nat) : Graph :=
  let q := fun (off : Nat) => BitVec.ofNat 64 (fld b off 8)
  let fl := fld b 81 1
  let draw := bit fl 2
  { desc := va, nv := fld b 0 4, ne := fld b 4 4, optr := q 8, oidx := q 16, iptr := q 24, iidx := q 32, owt := q 40, iwt := q 48, state := q 56,
    fbmp := q 64, fq := q 72, op := fld b 80 1, autoact := bit fl 0, midsw := bit fl 1, settle := bit fl 3, alpha := fld b 84 4,
    beta := fld b 88 4, maxlv := fld b 96 4, nil := BitVec.ofNat 32 (fld b 100 4), levelMode := draw, emode := if draw then 1 else 0,
    curN := fld b 92 4, sluices := dies.map (fun d => { die := d, mode := draw }) }

/-! ## Shares (R38) -/

/-- B0 to B4. -/
def bound (rr : RRec) (pvec : List Nat) (k : Nat) : Nat :=
  let e := rr.ext
  let p := match rr.dims with | 1 => 1 | 2 => e.1 | _ => e.1 * e.2.1
  let l := match rr.dims with | 1 => e.1 | 2 => e.1 * e.2.1 | _ => vol e
  if k ≥ 4 then l else p * (l * sumOf id (pvec.take k) / (256 * p))
/-- A die's share: low corner and size; none where it is empty. -/
def shareBox (rr : RRec) (pvec : List Nat) (d : Nat) : Option (P3 × P3) :=
  let e := rr.ext
  let b0 := bound rr pvec d
  let b1 := bound rr pvec (d + 1)
  if b1 ≤ b0 then none
  else match rr.dims with
    | 1 => some ((b0, 0, 0), (b1 - b0, 1, 1))
    | 2 => some ((0, b0 / e.1, 0), (e.1, (b1 - b0) / e.1, 1))
    | _ => some ((0, 0, b0 / (e.1 * e.2.1)), (e.1, e.2.1, (b1 - b0) / (e.1 * e.2.1)))
def shareDies (pvec : List Nat) : List Nat := (List.range 4).filter (fun d => pvec.getD d 0 != 0)

/-- Check 5: the vector sums to 256, and each die with a share holds a carved partition (R412) and a root of the address space (R339). -/
def pvecOk (s : State) (asid : Nat) (pvec : List Nat) : Bool :=
  sumOf id pvec == 256 && (shareDies pvec).all (fun d => s.carved (s.partOn asid d) && ((s.asidEnt asid).roots.toList.getD d 0).getLsbD 0)

/-! ## Cut lists (R37) -/

def risesFrom : List Nat → Bool
  | a :: b :: l => decide (a < b) && risesFrom (b :: l)
  | _ => true
def cutDie (b : List Byte) : Nat := fld b 12 1 % 4
def records32 (b : List Byte) : Nat → List (List Byte)
  | 0 => []
  | n + 1 => b.take 32 :: records32 (b.drop 32) n

/-- Check 10. -/
def cutsOk (rr : RRec) (ordm : Nat) (shapes : List P3) (dies : List Nat) (l : List (List Byte)) : Bool :=
  l.all (fun b => shapes.contains (pinShape b) && bit ordm (pinOrder b) && decide (pinOrder b ≤ 4)) &&
    (List.range 4).all (fun d => risesFrom ((l.filter (fun b => cutDie b == d)).map (fun b => (pinFirst b).toNat))) &&
    (!rr.coop || dies.all (fun d => (l.filter (fun b => cutDie b == d)).map (fun b => firstIs b { die := d }) == [true]))

/-! ## The Reservoir region and exact cells on a die (R89, R91) -/

def resvOn (s : State) (p : Nat) : List Resv :=
  (s.ranges.map (fun r => r.resv.filter (fun v => s.partOn r.asid v.die == p && v.die == p / Config.partsPerDie))).flatten
/-- Base of a region and of its cells: the lowest that is free. Slices of a spare partition hold none (R412). -/
def resvRoom (s : State) (p size n : Nat) : Option (Nat × Nat) :=
  let l := resvOn s p
  if !(s.carved p) && decide (size + n > 0) then none else
  match lowestFree ((l.filter (fun v => decide (v.size > 0))).map (fun v => (v.base, v.size))) 0 size (resways (s.carve p) * 4 * Config.resWayBytes),
        lowestFree ((l.filter (fun v => !v.cells.isEmpty)).map (fun v => (v.cb, v.cells.length))) 0 n 256 with
  | some b, some c => some (b, c)
  | _, _ => none

/-! ## Cooperative shapes (R61) -/

def groupsIn (sz shp : P3) : Nat := vol (gridOf sz shp)
/-- The shape a Harp chooses on its die; none: over capacity. -/
def coopShape (s : State) (p h : Nat) (rr : RRec) (shapes : List P3) (sz : P3) : Option P3 :=
  let fits := fun (t : P3) => decide (groupsIn sz t ≤ coopCapacity s p h rr (vol t))
  match bestShape true shapes with
  | none => none
  | some big =>
    if decide (groupsIn sz big > coopCapacity s p h rr (vol big)) then none
    else if fits (firstShape rr) then some (firstShape rr)
    else bestShape false (shapes.filter fits)

/-! ## Logs followed (R431) -/

/-- Entries of a log copy with what follows each; 32-byte steps are the fuel. -/
def logEntries : Nat → List Byte → List (List Byte × List Byte)
  | 0, _ => []
  | n + 1, b =>
    if b.length < 32 then []
    else
      let e := b.take 32
      let rest := b.drop 32
      let k := match fld e 15 1 with | 1 => fld e 16 8 | 2 => (fld rest 1 1 % 4 + 1) * 64 | _ => 0
      (e, rest.take k) :: logEntries n (rest.drop (roundUp k 32))

structure Followed where
  image : List Byte
  cuts : List (List Byte)
  rest : List (List Byte)

/-- What RCTL of a partition names: the logged image, the cut records after it, the pop and order entries. -/
def followOf (s : State) (p : Nat) : Option Followed :=
  let x := s.part p
  if !x.rctl.getLsbD 32 then none
  else
    let rid := (x.rctl.extractLsb 31 0).toNat
    let es := logEntries (x.rlen.toNat / 32) (s.paRead x.rbase.toNat x.rlen.toNat)
    let mine := es.dropWhile (fun e => !(fld e.1 15 1 == 1 && fld e.1 8 4 == rid))
    match mine with
    | [] => some { image := [], cuts := [], rest := [] }
    | c :: l => some
        { image := c.2, cuts := (l.filter (fun e => fld e.1 15 1 == 0 && fld e.1 8 4 == rid)).map (·.1),
          rest := (l.filter (fun e => (fld e.1 15 1 == 3 || fld e.1 15 1 == 4) && fld e.1 8 4 == rid)).map (·.1) }

/-- Two cut records agree apart from TIME and WHY[3:0]. -/
def cutSame (a b : List Byte) : Bool :=
  fld a 8 5 == fld b 8 5 && bits (fld a 13 1) 7 4 == bits (fld b 13 1) 7 4 && a.drop 14 == b.drop 14
def cutsSame (a b : List (List Byte)) : Bool :=
  (List.range 4).all (fun d =>
    let x := a.filter (fun r => cutDie r == d)
    let y := b.filter (fun r => cutDie r == d)
    x.length == y.length && (x.zip y).all (fun z => cutSame z.1 z.2))

/-! ## A launch (R366, R367) -/

/-- A launch as the front end has it after R365 or R287. -/
structure LaunchReq where
  asid : Nat
  part : Nat
  qid : Option Nat := none
  crec : W64 := 0
  key : Option Nat := none
  va : W64
  raw : List Byte
  log : Bool := false
  debugOk : Bool := false
  follow : Bool := false          -- LFLG[3] set
  parent : Option Nat := none
  own : Bool := false             -- pre-empted for priority by the front end itself (R384)
  entered : Option Nat := none    -- decisions when its packet entered the queue (R368); none: a child, which enters now

inductive Launched where
  | ok (s : State) (rid : Nat)
  | refused (status : Nat) (s : State)
  | waits                         -- for room in a log (R430) or on the cores (R366)

/-- A frame read for the launch carries another key than its queue's (R360). -/
def LaunchReq.keyFault (q : LaunchReq) (s : State) : State := match q.qid with | some k => faultQueue s k 0xFF | none => s

/-- Ranges read from another device's bytes, where none of their groups and operations has a number in use here; those numbers pass. -/
def State.adopt (s : State) (rs : List RangeSt) : Option State :=
  let gs := (rs.map (fun r => r.parked.map (·.id))).flatten
  let os := (rs.map (fun r => r.parkedOps.map (·.id))).flatten
  if gs.all (fun g => decide (s.nextGid ≤ g)) && os.all (fun o => decide (s.eng.nextOp ≤ o)) then
    some (({ s with nextGid := gs.foldl (fun n g => max n (g + 1)) s.nextGid }).updEng (fun e => { e with nextOp := os.foldl (fun n o => max n (o + 1)) e.nextOp }))
  else none
/-- An area that another device of the REV wrote (R364). -/
def foreignSaved (s : State) (w : Who) (q : LaunchReq) (va : W64) (b : List Byte) : Option Saved × State :=
  match Config.savedArea s.nextGid s.eng.nextOp b with
  | none => (none, s)
  | some r => match s.adopt [r] with
    | none => (none, s)
    | some s => if r.parked.length == fld q.raw 288 4 then (some { asid := w.asid, va := va, bytes := b, range := { r with rid := fld q.raw 20 4 } }, s) else (none, s)

/-- A saved area: what this package wrote, by the bytes that stand at its address, or else what the bytes say (R364, log entry 13). -/
def findSaved (s : State) (w : Who) (q : LaunchReq) : Option Saved × State :=
  let va := BitVec.ofNat 64 (fld q.raw 280 8)
  match feRead s w q.key va.toNat (fld q.raw 4 4 - 512) with
  | .error .key => (none, q.keyFault s)
  | .error _ => (none, s)
  | .ok (b, s) =>
    match (s.fe.saved.find? (fun x => x.asid == w.asid && x.va == va && x.bytes == b)).or (s.fe.saved.find? (fun x => x.bytes == b)) with
    | some x => (some x, s)
    | none => foreignSaved s w q va b

/-- The safe-point table registered last for a code address (R334, R335). -/
def safeOf (s : State) (asid : Nat) (code : W64) : Option (List (Nat × BitVec 72)) :=
  (s.fe.containers.find? (fun c => c.1 == asid && c.2.1 == code.toNat)).map (·.2.2.2)

/-- Pinned cut list, graph and shapes of a new launch: checks 8 to 10. -/
structure Fresh where
  s : State
  graph : Option Graph
  shapes : List P3
  pins : List (List Byte)

/-- The cut list an image names: none where it is not pinned; unreadable, the state. -/
def readCuts (s : State) (q : LaunchReq) (w : Who) (img : Image) : Except State (List (List Byte) × State) :=
  if !img.attr.getLsbD 3 then .ok ([], s)
  else match feRead s w q.key img.cuts.toNat (32 * img.ncut) with
    | .error .key => .error (q.keyFault s)
    | .error _ => .error s
    | .ok (b, s) => .ok (records32 b img.ncut, s)

def freshChecks (s : State) (q : LaunchReq) (w : Who) (img : Image) (h : Nat) (fol : Option Followed) : Except (Nat × State) Fresh :=
  let dies := shareDies img.pvec
  let gr : Except (Nat × State) (Option Graph × State) :=
    if !img.rrec.edge then .ok (none, s)
    else match feRead s w q.key img.rrec.graph.toNat 128 with
      | .error .key => .error (9, q.keyFault s)
      | .error _ => .error (9, s)
      | .ok (b, s) => if graphOk img.rrec.graph.toNat b then .ok (some (graphFrom img.rrec.graph b dies), s) else .error (9, s)
  match gr with
  | .error e => .error e
  | .ok (g, s) =>
    let shapes := allowedShapes img.rrec h (dies.map (fun d => s.carve (s.partOn q.asid d)))
    if !(shapes.contains (firstShape img.rrec)) then .error (2, s)
    else match readCuts s q w img with
      | .error s => .error (4, s)
      | .ok (l, s) =>
        if (!img.attr.getLsbD 3 || cutsOk img.rrec img.ordm shapes dies l) && fol.all (fun f => cutsSame l f.cuts) then .ok ⟨s, g, shapes, l⟩
        else .error (4, s)

/-- Checks 11 and 12 of one die: the status, or the region and the cooperative shape. Too few free cells answer RES_CAPACITY (log entry
128). -/
def dieChecks (s : State) (q : LaunchReq) (img : Image) (h : Nat) (shapes : List P3) (pins : List (List Byte)) (d : Nat) : Except Nat (Nat × Nat × Option P3) :=
  let p := s.partOn q.asid d
  match resvRoom s p (roundUp img.rrec.resb 256) img.rrec.nexact with
  | none => .error 8
  | some (b, c) =>
    if !img.rrec.coop then .ok (b, c, none)
    else match shareBox img.rrec img.pvec d with
      | none => .ok (b, c, none)
      | some sh =>
        match pins.find? (fun x => cutDie x == d) with
        | some x =>
          if decide (groupsIn sh.2 (pinShape x) ≤ coopCapacity s p h img.rrec (vol (pinShape x))) then .ok (b, c, some (pinShape x)) else .error 6
        | none => match coopShape s p h img.rrec shapes sh.2 with
          | some t => .ok (b, c, some t)
          | none => .error 6

def firstOrder (ordm : Nat) : Nat := ((List.range 5).find? (bit ordm)).getD 0

/-- The Harp of a die at launch. -/
def harpFor (img : Image) (pins : List (List Byte)) (d : Nat) (coop : Option P3) : Harp :=
  let mine := pins.filter (fun x => cutDie x == d)
  let ord := if img.rrec.coop then (match mine with | x :: _ => pinOrder x | [] => firstOrder img.ordm) else firstOrder img.ordm
  let shp := coop.getD (firstShape img.rrec)
  let boxes : List Box := match shareBox img.rrec img.pvec d with
    | some sh => [{ lo := sh.1, sz := sh.2, shp := shp, ord := ord }]
    | none => []
  { die := d, boxes := boxes, shp := shp, ord := ord, remAt := sumOf (fun (b : Box) => vol b.sz) boxes, pins := mine }

/-- Bytes a launch puts in the log of its leader, and whether they must wait. -/
def launchWaits (s : State) (q : LaunchReq) (logged : Bool) (n : Nat) (dies : List Nat) : Bool :=
  logged && (logWaits s q.part (32 + roundUp n 32 + 32 * dies.length) || dies.any (fun d => logWaits s (s.partOn q.asid d) 32))

/-- The checkpoint entry with the image (R429). -/
def checkpoint (s : State) (r : RangeSt) (image : List Byte) (key : Nat := frontSrc r.part) : State :=
  if r.logged then
    let e := leBytes 8 s.ticks ++ leBytes 4 r.rid ++ leBytes 3 0 ++ leBytes 1 1 ++ leBytes 8 image.length ++ leBytes 8 0
    let x := logPut s r.part key (e ++ image ++ List.replicate (roundUp image.length 32 - image.length) 0)
    if x.2 then x.1.updRange r.rid (fun r => { r with ckpt := true }) else x.1
  else s

/-- The initial records (R35, R37, R62). -/
def initialCuts (s : State) (rid : Nat) : State :=
  match s.range? rid with
  | none => s
  | some r => r.harps.foldl (fun s h =>
      if h.boxes.isEmpty then s
      else if r.img.rrec.coop then (match h.pins with
        | b :: _ => pinApply s rid h.num b true
        | [] => cutNow s rid h.num 0 h.shp h.ord true)
      else if h.pins.head?.any (fun b => firstIs b h) then s
      else cutNow s rid h.num 0 h.shp h.ord true) s

/-- A range that follows the log has been accepted: RCTL.EN clears (R431). -/
def State.followed (s : State) (part : Nat) : State := s.updPart part (fun p => { p with rctl := p.rctl &&& ~~~(0x100000000 : W64) })

/-- The range of an image that starts. -/
def acceptNew (f : Fresh) (q : LaunchReq) (img : Image) (h : Nat) (safe : List (Nat × BitVec 72)) (rooms : List (Nat × Nat × Nat × Option P3))
    (fol : Option Followed) : State × Nat :=
  let s := f.s
  let rid := s.fe.nextRid
  let rr := img.rrec
  let dies := rooms.map (·.1)
  let par := q.parent.bind s.range?
  let r : RangeSt :=
    { rid := rid, asid := q.asid, qid := q.qid, crec := q.crec, part := q.part, prio := img.prio, depth := match par with | some p => p.depth + 1 | none => 0, parent := q.parent, img := img,
      h := h, safe := safe, debug := img.attr.getLsbD 1, logged := img.attr.getLsbD 2 || q.log || par.any (·.logged),
      follow := if q.follow then fol.map (·.rest) else none, enteredAt := q.entered.getD (s.part q.part).decisions, harps := rooms.map (fun x => harpFor img f.pins x.1 x.2.2.2),
      queues := ((List.range 16).filter (fun i => rr.qdecl.getLsbD i && !(rr.queue.getD i 0).getLsbD 5)).map (fun i =>
        { h := i, homes := dies.map (fun d => (d, [])), pushes := dies.map (fun d => (d, 0)) }),
      resv := rooms.map (fun x => { die := x.1, base := x.2.1, size := roundUp rr.resb 256, cb := x.2.2.1, cells := List.replicate rr.nexact {} }),
      graph := f.graph, started := !rr.coop, shapes := f.shapes }
  let s := { s with ranges := s.ranges ++ [r] }.updFe (fun x => { x with nextRid := (if rid + 1 < 2 ^ 32 then rid + 1 else 1), accepted := (s.clk, q.part) })
  let s := if q.follow && fol.isSome then s.followed q.part else s
  -- the cut records of the launch follow its checkpoint in the log (R431)
  (graphLaunch (initialCuts (checkpoint s r img.raw) rid) rid, rid)

/-- Keys that go to one place, with that place. -/
def joinAt (f : Nat → Nat) (keys : List Nat) : List (Nat × List Nat) := (keys.map f).eraseDups.map (fun d => (d, keys.filter (fun k => f k == d)))
/-- A queue whose homes go to other dies: of homes that meet on one, the entries of the first come first, and each keeps the pop decisions
it has seen. -/
def RQueue.moveDies (q : RQueue) (f : Nat → Nat) (dec top : Nat → Nat) : RQueue :=
  let pushed := fun (d : Nat) => (assoc q.pushes d).getD 0
  { q with
    homes := (joinAt f (q.homes.map (·.1))).map (fun x => (x.1, (x.2.foldl (fun (acc : List QEnt × Nat) d =>
      (acc.1 ++ (q.home d).map (fun e => { e with ord := e.ord + acc.2, since := e.since + top x.1 - dec d }), acc.2 + pushed d)) ([], 0)).1)),
    pushes := (joinAt f (q.pushes.map (·.1))).map (fun x => (x.1, sumOf pushed x.2)) }
/-- A range on other dies: what it holds of each die goes to the die that takes its place. -/
def RangeSt.moveDies (r : RangeSt) (f : Nat → Nat) : RangeSt :=
  let dec := fun (d : Nat) => (assoc r.popDec d).getD 0
  let top := fun (d : Nat) => ((r.popDec.filter (fun x => f x.1 == d)).map (·.2)).foldl max 0
  { r with
    harps := r.harps.map (fun h => { h with die := f h.die }),
    queues := r.queues.map (fun q => q.moveDies f dec top),
    popDec := (joinAt f (r.popDec.map (·.1))).map (fun x => (x.1, top x.1)),
    resv := r.resv.map (fun v => { v with die := f v.die }),
    graph := r.graph.map (fun g => { g with sluices := g.sluices.map (fun x => { x with die := f x.die }) }),
    parked := r.parked.map (fun g => { g with die := f g.die }) }
/-- The saved range on the dies of a vector: its dies in order go to the dies with a share in order, those left over to the last (R388, log
entry 104). -/
def RangeSt.onDies (r : RangeSt) (pvec : List Nat) : RangeSt :=
  let old := (r.harps.map (·.die)).eraseDups
  let new := shareDies pvec
  r.moveDies (fun d => new.getD (min (old.findIdx (· == d)) (new.length - 1)) d)

/-- Checks 11 and 12 of a saved range on one die: the region and cells there again (R89, R91), and the cooperative capacity. One die holds one
region of a range, and one Sluice (log entry 104). -/
def savedDie (s : State) (asid : Nat) (r : RangeSt) (die : Nat) : Except Nat (List Resv) :=
  let p := s.partOn asid die
  let hs := r.harps.filter (fun h => h.die == die)
  let big := (hs.map (fun h => vol h.shp)).foldl max 0
  let coop := !r.img.rrec.coop || decide (coopLeft r die ≤ coopCapacity s p r.h r.img.rrec big) && (r.graph.isNone || decide (hs.length ≤ 1))
  let vs := r.resv.filter (fun v => v.die == die && decide (v.size + v.cells.length > 0))
  match vs with
  | [] => if coop then .ok [] else .error 6
  | v :: more => match resvRoom s p v.size v.cells.length with
    | none => .error 8
    | some x => if !more.isEmpty then .error 8 else if coop then .ok [{ v with base := x.1, cb := x.2 }] else .error 6
/-- The status of the lowest-numbered die that refuses, or the regions on all (R366, R367). -/
def savedRooms (s : State) (asid : Nat) (r : RangeSt) : Except Nat (List Resv) :=
  foldE (fun (l : List Resv) (d : Nat) => match savedDie s asid r d with
    | .ok x => .ok (l ++ x)
    | .error e => .error e) (r.harps.map (·.die)).eraseDups []

/-- A saved image resumes: its own shapes, cut state and groups stand, and its safe-point table (R335, R366); the EMODE requests saved
with it are held on its dies again (R286). -/
def acceptSaved (s : State) (q : LaunchReq) (img : Image) (r : RangeSt) (resv : List Resv) (area : List Byte) (fol : Option Followed) : State × Nat :=
  let r := { r with asid := q.asid, qid := q.qid, crec := q.crec, part := q.part, prio := img.prio, resv := resv, pre := none,
                    enteredAt := q.entered.getD r.enteredAt, started := !r.img.rrec.coop, ckpt := false, want := none, logged := r.logged || img.attr.getLsbD 2 || q.log,
                    follow := if fol.isSome then fol.map (·.rest) else r.follow,
                    img := { img with rrec := r.img.rrec, depth := r.img.depth } }
  let held := match r.graph with | some g => g.sluices.filterMap (fun (x : Sluice) => x.req.map (fun m => (x.die, m))) | none => []
  let s := s.updEng (fun e => { e with emode := held.foldl (fun l x => assocSet l x.1 x.2) e.emode })
  let s := { s with ranges := s.ranges ++ [r] }
  let s := if fol.isSome then s.followed q.part else s
  (settle (checkpoint s r (q.raw ++ area)) r.rid, r.rid)

/-- The checks in order, and the acceptance. -/
def tryLaunch (s : State) (q : LaunchReq) : Launched :=
  let w := feWho s q.asid q.part q.qid
  -- of ranges accepted in one clk those of a lower partition number come first (R391)
  if s.fe.accepted.1 == s.clk && decide (q.part < s.fe.accepted.2) then .waits
  else if !(imageOk q.raw) then .refused 17 s
  else
    let img := imageFrom q.va q.raw
    let fol := if q.follow then followOf s q.part else none
    let h := 8 * (img.config.extractLsb 7 4).toNat
    let (sv, s) := if img.saved then findSaved s w q else (none, s)
    let moved := sv.map (fun x => (x, x.range.onDies img.pvec))
    if img.attr.getLsbD 1 && !q.debugOk then .refused 18 s
    else if img.saved && (q.parent.isSome || sv.isNone || s.ranges.any (fun r => r.rid == img.rid)) then .refused 17 s
    else if fol.any (fun f => f.image != q.raw ++ (match sv with | some x => x.bytes | none => [])) then .refused 17 s
    else if !(configOk s.pkg.grade img.config) then .refused 1 s
    else match safeOf s q.asid img.code with
      | none => .refused 14 s
      | some safe =>
        if !(pvecOk s q.asid img.pvec) then .refused 5 s
        else if img.ordm == 0 then .refused 3 s
        else if !(img.rrec.slots.all slotOk) then .refused 7 s
        else match moved with
          | some (x, r) =>
            match (if fol.isSome then readCuts s q w img else .ok ([], s)) with
            | .error s => .refused 4 s
            | .ok (cuts, s) =>
              if fol.any (fun f => !(cutsSame cuts f.cuts)) then .refused 4 s
              else match savedRooms s q.asid r with
                | .error e => if q.own then .waits else .refused e s
                | .ok resv =>
                  if launchWaits s q (r.logged || img.attr.getLsbD 2 || q.log) (512 + x.bytes.length) [] then .waits
                  else let y := acceptSaved s q img r resv x.bytes fol; .ok y.1 y.2
          | none =>
            match freshChecks s q w img h fol with
            | .error e => .refused e.1 e.2
            | .ok f =>
              let dies := shareDies img.pvec
              let one := fun (l : List (Nat × Nat × Nat × Option P3)) (d : Nat) => match dieChecks f.s q img h f.shapes f.pins d with
                | .ok x => .ok (l ++ [(d, x)])
                | .error e => .error e
              match foldE one dies [] with
              | .error e => .refused e s
              | .ok rooms =>
                let logged := img.attr.getLsbD 2 || q.log || (q.parent.bind s.range?).any (·.logged)
                if launchWaits s q logged 512 dies then .waits
                else let y := acceptNew f q img h safe rooms fol; .ok y.1 y.2

/-! ## Killing (R383) -/

/-- What the Sluices of a range still owe is dropped with its last live thread when a group of it is killed. -/
def State.dropSluiceWork (s : State) (rid : Nat) : State :=
  s.updGraph rid (fun g => { g with acts := [], logq := [], sluices := g.sluices.map (fun x => { x with accs := [], walks := [] }) })

/-- KILL group: every thread exits, engine work is dropped, guest packets end by R407. -/
def killGroupNow (s : State) (gid : Nat) : State :=
  match s.group? gid with
  | none => s
  | some g =>
    let s := s.updGroup gid (fun g => { (g.exitThreads g.live) with stop := none, halted := false, rings := [] })
    let s := s.updEng (fun e => { e with
      ops := e.ops.filter (fun o => o.gid != gid),
      mtxQ := e.mtxQ.filter (fun x => !(e.ops.any (fun o => o.id == x.2.2 && o.gid == gid))),
      locks := e.locks.filter (fun l => l.gid != gid || (match l.op with | .guest _ _ => true | _ => false)) })
    let s := s.updFq (fun x => { x with pending := x.pending.filter (fun y => y.2.gid != some gid || y.2.second) })
    let s := if (s.groups.filter (fun x => x.rid == g.rid)).all (fun x => x.live.isEmpty) then s.dropSluiceWork g.rid else s
    settle (killPackets s gid) g.rid

/-- Ranges that wait at the heads of their queues. -/
def State.waiting (s : State) : List RangeSt := (s.fe.queues.map (fun q => q.resumeHead.map (·.range))).flatten
/-- Ranges below a range, itself first; the number of ranges is the fuel. -/
def descend (s : State) : Nat → List Nat → List Nat
  | 0, l => l
  | n + 1, l =>
    let new := ((s.ranges ++ s.waiting).filter (fun r => r.parent.any (fun p => l.contains p) && !(l.contains r.rid))).map (·.rid)
    if new.isEmpty then l else descend s n (l ++ new)

/-- KILL range: its groups, what it has not dispatched, its children. -/
def killOne (s : State) (rid : Nat) : State :=
  let s := failParked s rid (fun _ => true)
  let s := s.updRange rid (fun r => { r with
    killed := true, pre := none, want := none, parked := [], parkedOps := [], parkedLocks := [], parkedPkts := [], parkedGuest := [],
    harps := r.harps.map (fun h => { h with boxes := [], due := none }) })
  (s.groups.filter (fun g => g.rid == rid)).foldl (fun (s : State) g => killGroupNow s g.id) s
/-- Those of them that wait at a queue's head leave it to be killed. -/
def recallHeads (s : State) (l : List Nat) : State :=
  let back := s.waiting.filter (fun r => l.contains r.rid)
  if back.isEmpty then s
  else
    let s := s.updFe (fun y => { y with queues := y.queues.map (fun q => { q with resumeHead := q.resumeHead.filter (fun x => !(l.contains x.range.rid)) }) })
    { s with ranges := s.ranges ++ back.map (fun r => { r with pre := none, resv := [] }) }
def killRangeNow (s : State) (rid : Nat) : State :=
  let l := descend s (s.ranges.length + s.waiting.length) [rid]
  l.foldl killOne (recallHeads s l)

/-! ## RANGE_RETIRE (R27, R28) -/

/-- A child's retirement noted in its parent's record, wherever that is: live, waiting at its queue's head, saved, exported. -/
def childRetired (s : State) (r : RangeSt) (t : Nat) : State :=
  match r.parent with
  | none => s
  | some p =>
    let f := fun (x : RangeSt) => { x with children := upd (fun c => c.rid == r.rid) (fun c => { c with retired := true, t := t }) x.children }
    let g := fun (l : List Saved) => upd (fun (x : Saved) => x.range.rid == p) (fun x => { x with range := f x.range }) l
    let s := (s.updRange p f).updFe (fun e => { e with
      saved := g e.saved, queues := e.queues.map (fun q => { q with exported := g q.exported, resumeHead := g q.resumeHead }),
      exports := e.exports.map (fun x => (x.1, x.2.1, x.2.2.1, { x.2.2.2 with exported := g x.2.2.2.exported })) })
    settle (wakeLwait s p) p

def rangeDone (s : State) (r : RangeSt) : Bool :=
  !(s.mem.slice.any (fun x => s.heldReq x && (match x.op with | .red q => q.rid == r.rid | .write _ => false))) && r.harps.all (fun h => h.boxes.isEmpty) && r.parked.isEmpty && !(s.groups.any (fun g => g.rid == r.rid)) && r.children.all (·.retired) && r.pre.isNone

/-- The LAUNCH of a range completes: at its retirement, or KILLED when its image is saved by a disposition (R362, R383). -/
def launchEnds (s : State) (r : RangeSt) (status : Nat) : State :=
  match r.qid, r.parent with
  | some q, none =>
    let off := fun (i : Indirect) => { i with live := i.live.filter (· != r.rid) }
    endingSettle (indSettle ((complete s q r.crec status r.rid).updQueue q (fun q => { q with
      live := q.live.filter (· != r.rid), ind := q.ind.map off, indDone := q.indDone.map off })) q) q
  | _, _ => s

def execRangeRetire (rid : Nat) (s : State) : Out :=
  .next (match s.range? rid with
    | none => s
    | some r =>
      if !(rangeDone s r) then s
      else
        let s := releaseAll s
        let t := s.mem.cores.foldl (fun t c => max t c.pts) 0
        let s := signalOne s (feWho s r.asid r.part r.qid rid) r.img.sig r.parent.isNone r.qid rid
        let s := { s with ranges := s.ranges.filter (fun x => x.rid != rid) }
        let s := childRetired (launchEnds s r (if r.killed then 20 else 0)) r t
        match r.qid with | some k => endingSettle s k | none => s)

/-! ## LAUNCH (R287) -/

def Group.leader (g : Group) (team : Nat) : Option Nat := (g.liveTeam team).head?

/-- Check of the descriptor's own fields. -/
def descOk (b : List Byte) : Bool := decide (fld b 20 1 < 32) && decide (fld b 21 1 < 8) && zeros b 22 23 && zeros b 48 63 && fld b 24 8 % 8 == 0

/-- Nonzero extents over an image's (R287, R365). -/
def patchExt (raw : List Byte) (e : List Nat) : List Byte :=
  (e.mapIdx (fun i x => (i, x))).foldl (fun b x => if x.2 == 0 then b else patch b (80 + 4 * x.1) (leBytes 4 (x.2 - 1))) raw

/-- The child's private image: the template under the descriptor. -/
def childImage (c : Ctx) (b raw : List Byte) : List Byte :=
  let attr := fld raw 17 1
  let attr := if bit attr 1 && !c.r.debug then attr - 2 else attr
  let raw := patchExt (patch raw 17 (leBytes 1 attr)) [fld b 8 4, fld b 12 4, fld b 16 4]
  let raw := if fld b 20 1 == 0 then raw else patch raw 18 (leBytes 1 (fld b 20 1))
  let raw := patch raw 19 (leBytes 1 (min (fld b 21 1) c.r.prio))
  let raw := if zeros raw 32 39 then patch raw (32 + 2 * c.g.die) (leBytes 2 256) else raw
  patch (patch (patch raw 40 (leBytes 8 (fld b 24 8) ++ leBytes 8 (fld b 32 8) ++ leBytes 8 (fld b 40 8))) 292 (leBytes 4 c.r.rid)) 296
    (leBytes 1 (c.r.depth + 1))

/-- One team's LAUNCH: the status word, or a wait for room in the log. -/
def launchOne (s : State) (c : Ctx) (b : List Byte) : Option (State × Nat) :=
  let r := (s.range? c.g.rid).getD c.r
  let key := (r.qid.bind s.queue?).map (·.key)
  let w := feWho s r.asid c.g.part r.qid
  if !descOk b then some (s, 16)
  else if (r.children.filter (fun x => !x.retired)).length ≥ 4096 then some (s, 10)
  else if fld b 0 8 % 512 != 0 then some (s, 17)
  else match feRead s w key (fld b 0 8) 512 with
    | .error .key => some (match r.qid with | some k => faultQueue s k 0xFF | none => s, 17)
    | .error _ => some (s, 17)
    | .ok (raw, s) =>
      match tryLaunch s { asid := r.asid, part := c.g.part, qid := r.qid, key := key, va := BitVec.ofNat 64 (fld b 0 8),
                          raw := if imageOk raw then childImage c b raw else raw, debugOk := r.debug, parent := some r.rid } with
      | .refused e s => some (s, e)
      | .waits => none
      | .ok s rid =>
        let hd := r.nextHandle
        let s := s.updRange r.rid (fun r => { r with nextHandle := hd + 1, children := r.children ++ [{ handle := hd, rid := rid, gid := c.g.id }] })
        some (s.updGroup c.g.id (fun g => { g with children := g.children ++ [hd] }), hd * 2 ^ 32)

def execLaunch (o : OpE) (s : State) : Out :=
  issue s { g := o.g, rd := [.s (s5 o.a)] } (fun c s =>
    let ts := c.active o.g
    let wrong := fun (t : Nat) => ts.filter (fun x => teamOf x == t) != (c.g.leader t).toList
    if (c.teams o.g).any wrong then illop s c
    else if c.r.depth ≥ 10 && !ts.isEmpty then precise s c .depth 0 0 0 0 ts
    else
      let one := fun (s : State) (t : Nat) =>
        let off := c.s t o.a
        match blockCheck s c off 64 64 false false, blockCheck s c (off + 64) 8 8 true false with
        | some f, _ => TeamRes.fault f off s
        | none, some f => .fault f off s
        | none, none =>
          match launchOne s c (match s.group? c.g.id with | some g => g.scr off.toNat 64 | none => []) with
          | none => .stall
          | some x => .ok (x.1.scrWrite c.g.id (off.toNat + 64) (leBytes 8 x.2))
      eachTeam s c o.g one (fun s => noResult s c o.m))

/-! ## LWAIT (R288) -/

def allOnes64 : W64 := BitVec.allOnes 64
/-- The handles a team waits for; none: an illegal handle. -/
def lwaitOf (c : Ctx) (o : OpE) (t : Nat) : Option (List Nat) :=
  let x := c.s t o.a
  if x == allOnes64 then some c.g.children
  else if x.extractLsb 63 32 != 0 || decide (x.toNat ≥ c.r.nextHandle) then none
  else some [x.toNat]

def execLwait (o : OpE) (s : State) : Out :=
  issue s { g := o.g, rd := [.s (s5 o.a)] } (fun c s =>
    let l := (c.teams o.g).map (lwaitOf c o)
    if l.any (·.isNone) then illop s c
    else
      let hs := (l.filterMap id).flatten.eraseDups
      if lwaitDone c.r hs then
        noResult (if hs.isEmpty then s else s.updCore c.g.die c.g.core (fun k => k.setPts (lwaitTime c.r hs))) c o.m
      else settle (park s c o.m false c.b.ts (.lwait hs)) c.g.rid)

end Sys2Proof.Machine
end

