-- ==== Sys2Proof/Machine/Preempt.lean ====
section
/-! DEFINITION. Pre-emption (R319 to R321, R384 to R389): the request, stops at safe points and by the watchdog, the image. -/

namespace Sys2Proof.Machine

/-! ## Asking and beginning -/

/-- Where the image goes when a range is asked for twice: to a disposition's IMG before an EXPORT's area, and there before its own queue's head
(log entry 129). -/
def preRank (why : Nat) : Nat := if why == 1 then 2 else if why == 2 then 1 else 0
/-- A range is to be pre-empted (R384). One whose pre-emption has begun goes on with it, to the place of the higher rank. -/
def wantPre (s : State) (rid why : Nat) (dest : W64) : State :=
  s.updRange rid (fun r =>
    if r.killed then r
    else match r.pre with
      | some p => if decide (preRank why > preRank p.why) then { r with pre := some { p with why := why, dest := dest } } else r
      | none => if r.want.any (fun w => decide (preRank w.1 > preRank why)) then r else { r with want := some (why, dest) })

/-- Guest packets at a pre-emption (R408): those not forwarded are withdrawn; the guest is asked for its state of the others. -/
def preGuest (s : State) (rid : Nat) : State :=
  s.sock.chans.foldl (fun (s : State) c =>
    let mine := c.pkts.filter (fun p => p.rid == rid)
    -- one whose state the guest has taken back is saved no more
    let back := fun (p : GPkt) => { p with saved := p.saved && s.sock.chans.any (fun k => k.gres.any (fun x => x.1 == rid)) }
    let s := s.updRange rid (fun r => { r with parkedPkts := r.parkedPkts ++ (mine.filter (fun p => !p.fwd)).map (fun p => (c.num, back p)) })
    let s := s.updChan c.num (fun c => { c with pkts := c.pkts.filter (fun p => p.rid != rid || p.fwd) })
    if mine.any (·.fwd) && !(c.gpre.any (fun x => x.1 == rid)) && s.sockLive then
      let (a, s) := s.poolAt
      sendMsg (s.updChan c.num (fun c => { c with gpre := c.gpre ++ [(rid, s.ticks + us100)] })) 7 [c.num, rid, a, c.gsave]
    else s) s

/-- PREEMPT_REQUEST: the Harps stop dispatching (mayPlace), the guest is asked, the watchdog's time begins. -/
def execPreemptRequest (rid : Nat) (s : State) : Out :=
  .next (match (s.range? rid).bind (·.want) with
    | none => s
    | some w => preGuest (s.updRange rid (fun r => { r with want := none, pre := some { since := s.ticks, dest := w.2, why := w.1 } })) rid)

/-! ## Stopping -/

/-- The bundle stands at a valid safe point (R319). -/
def atSafePoint (r : RangeSt) (b : Bundle) : Bool :=
  b.runEnded && b.outst.isEmpty && (b.st == .ready || b.st == .stalled) && r.safe.any (fun e => r.img.code + BitVec.ofNat 64 e.1 == b.pc)

/-- The bundle has stopped for pre-emption: at a safe point, where it waits, with its group, or by the watchdog (R385, R389). -/
def bundleStopped (g : Group) (b : Bundle) : Bool :=
  b.safe || g.hardAt || g.stop.isSome || g.halted ||
    (match b.st with
     | .ready => false
     | .stalled | .drain => b.outst.any (fun o => !o.pend.isEmpty) || g.awaits b
     | _ => true)

def execSafePointStop (gid bid : Nat) (s : State) : Out :=
  .next (match s.group? gid with
    | none => s
    | some g => match s.range? g.rid, g.bundle? bid with
      | some r, some b => if r.pre.isSome && atSafePoint r b then s.updBundle gid bid (fun b => { b with safe := true }) else s
      | _, _ => s)

/-- Ticks in which an operation of a range to be stopped waited for room in the log: the watchdog does not count them (R430). -/
def logHolds (s : State) (ticks : Nat) : State :=
  { s with ranges := s.ranges.map (fun r => match r.pre with
    | some p => if s.groups.any (fun g => g.rid == r.rid && rangeWaits s g.part r 32 && g.bundles.any (fun b => b.st == .stalled))
        then { r with pre := some { p with waited := p.waited + ticks } } else r
    | none => r) }

/-- The watchdog (R385): 50,000 ticks after the request the bundles that still run stop with their results returned, their run state kept
(R377), and none of the range issues any more; one record of class 6, where a bundle was so stopped (log entry 134). -/
def hardStop (s : State) (rid : Nat) : State :=
  match s.range? rid with
  | none => s
  | some r => match r.pre with
    | none => s
    | some p =>
      let gs := s.groups.filter (fun g => g.rid == rid)
      let n := sumOf (fun (g : Group) => (g.bundles.filter (fun b => !bundleStopped g b)).length) gs
      if p.hard || decide (s.ticks < p.since + 50000 + p.waited) then s
      else
        let s := s.updRange rid (fun r => { r with pre := some { p with hard := true } })
        let s := gs.foldl (fun (s : State) g => s.updGroup g.id (fun g =>
          { (g.bundles.foldl (fun (g : Group) b => if bundleStopped g b then g else g.quiet b.id) g) with hardAt := true })) s
        if n == 0 then s else s.queueRec r.part { cls := .hardStop, rid := rid, detail := BitVec.ofNat 64 n, time := s.ticks }

/-- HARD_STOP: the watchdog's time has come. -/
def execHardStop (rid : Nat) (s : State) : Out := .next (hardStop s rid)

/-! ## The image (R385, R386, R387) -/

/-- Registers a safe point does not name read zero after resume (R321). -/
def maskThread (m : BitVec 72) (th : Thread) : Thread :=
  { th with v := th.v.mapIdx (fun i x => if m.getLsbD i then x else 0), p := th.p &&& m.extractLsb' 64 7 }
def saveGroup (r : RangeSt) (g : Group) : Group :=
  let mask := fun (t : Nat) => (g.bundles.find? (fun b => b.ts.contains t && b.safe)).bind (fun b =>
    (r.safe.find? (fun e => r.img.code + BitVec.ofNat 64 e.1 == b.pc)).map (·.2))
  let fillers := fun (x : Ring) => (List.range x.slots.length).filter (fun i => (x.slots.getD i {}).st == .filling || x.refill.contains i)
  { g with
    threads := g.threads.mapIdx (fun i th => match mask i with | some m => maskThread m th | none => th),
    teams := g.teams.map (fun t => { t with q := t.q.map (fun q => { q with ahead := [] }) }),
    bundles := g.bundles.map (fun b => { b with safe := false }),
    rings := g.rings.map (fun x => { x with
      refill := sortOn (fun i => (x.slots.getD i {}).tile) (fillers x),
      slots := x.slots.map (fun sl => if sl.st == .filling then { sl with st := .empty, err := false } else sl) }) }

/-- Everything of the range that the image holds (R364): groups, operations from their start, locks but those of filling slots. -/
def parkRange (s : State) (r : RangeSt) : RangeSt :=
  let gs := s.groups.filter (fun g => g.rid == r.rid)
  let mine := fun (gid : Nat) => gs.any (fun g => g.id == gid)
  let filling := fun (l : Lock) => match l.op with
    | .slot n i => gs.any (fun g => g.id == l.gid && g.rings.any (fun x => x.num == n && (x.slots.getD i {}).st == .filling))
    | _ => false
  { r with
    pre := none, want := none,
    graph := r.graph.map (fun g => { g with sluices := g.sluices.map (fun x => { x with req := assoc s.eng.emode x.die }) }),
    parked := r.parked ++ gs.map (saveGroup r),
    parkedOps := r.parkedOps ++ (s.eng.ops.filter (fun o => mine o.gid)).map (fun o => { o with started := false, held := (gs.any (fun g => g.id == o.gid && g.stop.isSome)) && o.held }),
    parkedLocks := r.parkedLocks ++ s.eng.locks.filter (fun l => mine l.gid && !filling l) }

/-- Whether the engines are quiet enough (R387): no slot drains, no guest packet is out; and no reduction of the range waits for its log at a
slice, since every RED is performed before the image is written (R129, R254). -/
def quiesced (s : State) (r : RangeSt) : Bool :=
  (s.groups.filter (fun g => g.rid == r.rid)).all (fun g =>
    g.bundles.all (bundleStopped g) && g.rings.all (fun x => x.slots.all (fun sl => sl.st != .draining || sl.err))) &&
  s.sock.chans.all (fun c => !(c.pkts.any (fun p => p.rid == r.rid)) && !(c.gpre.any (fun x => x.1 == r.rid))) &&
  s.mem.slice.all (fun x => match x.op with | .red q => q.rid != r.rid || !(s.heldReq x) | .write _ => true)

/-- The range leaves its cores (R385). -/
def unplace (s : State) (rid : Nat) : State :=
  let gone := s.groups.filter (fun g => g.rid == rid)
  let mine := fun (gid : Nat) => gone.any (fun g => g.id == gid)
  let s := s.updEng (fun e => { e with
    mtxQ := e.mtxQ.filter (fun x => !(e.ops.any (fun o => o.id == x.2.2 && mine o.gid))), ops := e.ops.filter (fun o => !mine o.gid),
    locks := e.locks.filter (fun l => !mine l.gid) })
  let s := { s with groups := s.groups.filter (fun g => g.rid != rid), ranges := s.ranges.filter (fun r => r.rid != rid) }
  -- what is not posted yet is posted still (R389, R390); a disposition of either posting counts no more (R388)
  let s := s.updFq (fun x => { x with
    posted := x.posted.filter (fun y => !(y.2.2.gid.any mine)),
    pending := x.pending.map (fun y => if y.2.gid.any mine then (y.1, { y.2 with gid := none }) else y) })
  ((gone.map (·.part)).eraseDups).foldl (fun s p => carveSettle s p) s

/-- A saved range waits at the head of its queue, entered now. -/
def reenter (s : State) (q : Nat) (x : Saved) : State :=
  let n := s.fe.seqno
  let dec := match s.queue? q with | some k => (s.part k.owner).decisions | none => 0
  (s.updFe (fun y => { y with seqno := n + 1 })).updQueue q (fun q => { q with
    resumeHead := q.resumeHead ++ [{ x with range := { x.range with enteredAt := dec, entryNo := n } }] })

/-- Where the image of a pre-empted range goes. -/
def placeImage (s : State) (x : Saved) (p : Preempt) : State :=
  let r := x.range
  match p.why, r.qid with
  | 1, _ =>
    let area := p.dest + 512
    let w := feWho s r.asid r.part r.qid r.rid
    let s := match feStore s w p.dest.toNat (r.header area x.bytes.length ++ x.bytes) with
      | .ok s => s
      | .error e => unwritten s e.1 e.2 (r.qid.getD 0xFFFF) r.rid
    launchEnds (s.updFe (fun y => { y with saved := { x with asid := r.asid, va := area } :: y.saved })) r 20
  | 2, some q =>
    endingSettle (s.updQueue q (fun q => { q with live := q.live.filter (· != r.rid), exported := q.exported ++ [x] })) q
  | _, some q => reenter s q x
  | _, none => s

/-- PREEMPT_IMAGE_WRITE. -/
def execPreemptImageWrite (rid : Nat) (s : State) : Out :=
  .next (match s.range? rid with
    | none => s
    | some r0 => match r0.pre with
      | none => s
      | some p =>
        let s := preGuest s rid
        let r := (s.range? rid).getD r0
        if !(quiesced s r) then s
        else
          -- returned results are written to their lanes, and every thread acts as if it had executed FENCE.sy (R129, R215)
          let s := (s.groups.filter (fun g => g.rid == rid)).foldl (fun s g =>
            fenceSy (s.updGroup g.id Group.quieted) g.die g.core) s
          let x := (s.updPkg (fun k => { k with fresh := k.fresh + 1 })).freshBytes (512 * max r.harps.length 1 + Config.savedTail s.pkg.fresh)
          let saved : Saved := { asid := r.asid, va := 0, bytes := x.1, range := parkRange x.2 r }
          let img := saved.range.header (if p.why == 1 then p.dest + 512 else 0) x.1.length ++ x.1
          if r.logged && logWaits x.2 r.part (32 + roundUp img.length 32) then s
          else placeImage (unplace (checkpoint x.2 r img policySrc) rid) saved p)

/-! ## PRIORITY_PREEMPT (R384) -/

/-- Whether a group of the range can be placed now, or all of a cooperative one (R40, R62). One that waits at its queue's head needs its
Reservoir region and cells too (R366). -/
def State.roomFor (s : State) (r : RangeSt) : Bool :=
  let here := (s.range? r.rid).isSome
  let s := if here then s else { s with ranges := s.ranges ++ [r] }
  (here || (match savedRooms s r.asid r with | .ok _ => true | .error _ => false)) &&
    (if r.img.rrec.coop then r.harps.all (fun h => mayPlace s r h.die) && (placeCoop s r).isSome
     else r.harps.any (fun h => mayPlace s r h.die &&
       (if r.parked.any (fun g => g.die == h.die) then (placeParked s r.rid h.die).isSome else (placeNext s r.rid h.num).isSome)))

/-- Of the launched ranges of which nothing could be placed for 2^AGE decisions, a resumed image or one that waits at its queue's head among
them, and of which nothing can be placed now, that of the highest effective priority, the first accepted of equals. -/
def starved (s : State) (p : Nat) : Option (RangeSt × Nat) :=
  let age := ((s.part p).policy.extractLsb 11 8).toNat
  let dec := (s.part p).decisions
  let heads := (s.fe.queues.filter (fun q => q.owner == p)).filterMap (fun q => q.resumeHead.head?.map (·.range))
  let waits := (s.ranges.filter (fun r => r.part == p && r.pre.isNone && !r.killed && (r.harps.all (fun h => h.count == 0) || !r.parked.isEmpty) &&
    !(s.groups.any (fun g => g.rid == r.rid)) && decide (r.enteredAt + 2 ^ age ≤ dec))) ++
    heads.filter (fun r => decide (r.enteredAt + 2 ^ age ≤ dec))
  ((waits.filter (fun r => !(s.roomFor r))).map (fun r => (r, min 7 (r.prio + (dec - r.enteredAt) / 2 ^ age)))).foldl (fun acc x =>
    match acc with
    | none => some x
    | some y => if y.2 < x.2 then some x else some y) none

/-- The running range of lowest priority, and among equals the highest RID. -/
def victim (s : State) (p : Nat) : Option RangeSt :=
  (s.ranges.filter (fun r => r.pre.isNone && r.want.isNone && !r.killed && s.groups.any (fun g => g.rid == r.rid && g.part == p))).foldl (fun acc r =>
    match acc with
    | none => some r
    | some x => if r.prio < x.prio || (r.prio == x.prio && r.rid > x.rid) then some r else some x) none

/-- Whether the save pool has room is not given (log entry 22). -/
def execPriorityPreempt (part : Nat) (s : State) : Out :=
  .next (match starved s part, victim s part with
    | some x, some v =>
      if x.2 ≥ v.prio + 2 && v.rid != x.1.rid && v.qid.isSome then
        let n := s.pkg.fresh
        let s := s.updPkg (fun k => { k with fresh := n + 1 })
        if Config.poolRoom n then wantPre s v.rid 0 0 else s
      else s
    | _, _ => s)

end Sys2Proof.Machine
end

