-- ==== Sys2Proof/Machine/FrontEnd.lean ====
section
/-! DEFINITION. The front end (R358 to R370): doorbells, heads and their priorities, the packet check, and the packets. -/

namespace Sys2Proof.Machine

/-! ## Doorbells -/

def ringSlots (rsize : Nat) : Nat := 2 ^ (rsize - 6)
/-- Index of the first byte in which two blocks differ. -/
def firstDiff (a b : List Byte) : Option Nat := (List.range a.length).find? (fun i => a.getD i 0 != b.getD i 0)

/-- A write of the doorbell page QID of a function's BAR0, which has a page for each QID of the function's own (R371); the register is
named by 1,024 times the function, plus QID (log entry 24). -/
def doorbell (s : State) (reg : Nat) (value : W64) : State :=
  let qid := reg % 1024
  match (s.queue? qid).filter (fun q => q.fn == reg / 1024) with
  | none => s
  | some q =>
    let w := value.extractLsb 31 0
    let bad := decide (ringSlots q.rsize < (w - q.rptr).toNat)
    let differs := fun (s : State) =>
      if !value.getLsbD 32 then none
      else match feRead s (feWho s q.qcbAsid q.owner (some qid)) (some q.key) q.qcb.toNat 24 with
        | .ok (b, _) => firstDiff q.priv b
        | .error _ => some 0xFF
    if s.pkg.phase != 9 || value.extractLsb 63 33 != 0 || q.faulted then s
    else if bad then faultQueue s qid 0xFF
    else match differs s with
      | some i => faultQueue s qid i
      | none =>
        let s := match feStore s (feWho s q.qcbAsid q.owner (some qid)) (q.qcb.toNat + 28) (leBytes 4 w.toNat) with
          | .ok s => s
          | .error _ => s
        let n := s.fe.seqno
        let dec := (s.part q.owner).decisions
        let ahead := fun (x : W32) => decide (0 < (x - (q.rptr - 1)).toNat ∧ (x - (q.rptr - 1)).toNat ≤ 2 ^ 18)
        (s.updFe (fun y => { y with seqno := n + 1 })).updQueue qid (fun q => { q with wptr := w, bells := q.bells.filter (fun b => ahead b.1) ++ [(w, dec, n)] })

/-- DOORBELL_WRITE. -/
def execDoorbellWrite (reg : Nat) (value : W64) (s : State) : Out := .next (doorbell s reg value)
/-- DOORBELL_RESYNC: the same write with RESYNC set. -/
def execDoorbellResync (reg : Nat) (value : W64) (s : State) : Out := .next (doorbell s reg (value ||| 0x100000000))

/-! ## The packet check (R361) -/

def halfSum : List Byte → Nat
  | a :: b :: l => a.toNat + 256 * b.toNat + halfSum l
  | _ => 0
def genOk (b : List Byte) : Bool := (List.range (b.length / 64)).all (fun i => fld b (64 * i + 63) 1 == fld b 3 1)
def typeUnits (t : Nat) : Nat := if t == 1 then 2 else 1
def pfOnly (t : Nat) : Bool := decide (6 ≤ t ∧ t ≤ 12)
def mult (b : List Byte) (off n m : Nat) : Bool := fld b off n % m == 0

/-- Reserved bytes and values of the operands of each type (Tables 4 and 6); the operands end before byte 63. -/
def operandsOk (b : List Byte) : Bool :=
  match fld b 0 1 with
  | 0 => zeros b 16 62
  | 1 => mult b 16 8 512 && decide (fld b 36 1 < 32) && decide (fld b 37 1 < 16) && decide (fld b 38 1 < 8) && zeros b 39 39 && zeros b 56 62 &&
      zeros b 86 87 && zeros b 92 126
  | 2 => mult b 16 8 256 && mult b 24 4 64 && decide (64 ≤ fld b 24 4 ∧ fld b 24 4 ≤ 2 ^ 24) && decide (fld b 28 1 < 2) && zeros b 29 62
  | 3 => mult b 16 8 8 && decide (fld b 32 1 < 2) && zeros b 33 62
  | 4 => mult b 16 8 8 && decide (fld b 32 1 < 2) && decide (1 ≤ fld b 33 1 ∧ fld b 33 1 ≤ 5) && zeros b 34 62
  | 5 => decide (fld b 16 2 < 4096) && decide (fld b 18 1 < 16) && zeros b 19 23 && mult b 24 8 4096 && zeros b 36 62
  | 6 => decide (fld b 20 1 < 64) && zeros b 21 62
  | 7 => mult b 16 8 128 && decide (fld b 24 2 < 1024) && zeros b 26 62
  | 8 => decide (fld b 24 2 < 1024) && decide (fld b 26 1 < 3) && (fld b 26 1 != 2 || mult b 16 8 512) && zeros b 27 62
  | 9 | 10 => decide (fld b 24 2 < 1024) && zeros b 26 62
  | 11 => zeros b 16 19 && decide (fld b 20 1 < 64) && zeros b 21 23 && zeros b 32 62
  | 12 => zeros b 16 19 && decide (fld b 20 1 < 64) && decide (fld b 21 1 < 16) && zeros b 22 23 && mult b 24 8 (2 ^ 32) &&
      decide (fld b 32 2 < 4096) && decide (fld b 34 1 < 4) && zeros b 35 62
  | _ => false

/-- An INVAL of another ASID, or of all, needs PF. -/
def invalPriv (q : Queue) (b : List Byte) : Bool := fld b 0 1 == 5 && (fld b 16 2 != q.asid || bit (fld b 18 1) 0)

/-- Status of the packet check; 0 passes. -/
def packetStatus (q : Queue) (indirect : Bool) (b : List Byte) : Nat :=
  let t := fld b 0 1
  if !genOk b || halfSum b % 65536 != 0xFFFF then 15
  else if decide (t > 12) || fld b 1 1 != typeUnits t - 1 || decide (fld b 2 1 > 1) || fld b 6 2 != 0 || !(mult b 8 8 16) || !(operandsOk b) ||
      (t == 2 && indirect) then 16
  else if (pfOnly t || invalPriv q b) && !q.qflg.getLsbD 0 then 18
  else 0

/-! ## Heads of queues (R362, R363, R368) -/

/-- Units of 64 bytes left at the head, in the buffer or the ring, and where unit i stands. -/
def Queue.left (q : Queue) : Nat := match q.ind with | some x => (x.len - x.pos) / 64 | none => (q.wptr - q.rptr).toNat
def Queue.unitVa (q : Queue) (i : Nat) : Nat :=
  match q.ind with
  | some x => x.buf.toNat + x.pos + 64 * i
  | none => q.ring.toNat + 64 * ((q.rptr.toNat + i) % ringSlots q.rsize)
/-- Line k of the buffer: fetched in one read, once (R363). -/
def lineOf (s : State) (q : Queue) (k : Nat) : Except FeBad (List Byte × State) :=
  match (s.queue? q.qid).bind (·.ind) with
  | none => .ok ([], s)
  | some x => match assoc x.lines k with
    | some b => .ok (b, s)
    | none => match feRead s (feWho s q.asid q.owner (some q.qid)) (some q.key) (x.buf.toNat + 256 * k) (min 256 (x.len - 256 * k)) with
      | .error e => .error e
      | .ok (b, s) => .ok (b, s.updQueue q.qid (fun q => { q with ind := q.ind.map (fun x => { x with lines := x.lines ++ [(k, b)] }) }))
def readUnit (s : State) (q : Queue) (i : Nat) : Except FeBad (List Byte × State) :=
  match q.ind with
  | none => feRead s (feWho s q.asid q.owner (some q.qid)) (some q.key) (q.unitVa i) 64
  | some x =>
    let o := x.pos + 64 * i
    match lineOf s q (o / 256) with
    | .ok (b, s) => .ok ((b.drop (o % 256)).take 64, s)
    | .error e => .error e
def readUnits (s : State) (q : Queue) (l : List Nat) : Except FeBad (List Byte × State) :=
  foldE (fun (x : List Byte × State) i => match readUnit x.2 q i with
    | .ok (b, s) => .ok (x.1 ++ b, s)
    | .error e => .error e) l ([], s)

/-- A head: its packet, whether its SIZE can be trusted, its status, its PRIO and its entry. -/
structure Head where
  pkt : Packet
  sized : Bool
  status : Nat
  prio : Nat
  entry : Nat × Nat
  resumes : Option Saved := none

def later (a b : Nat × Nat) : Nat × Nat := if a.2 < b.2 then b else a
/-- The entry of the head: the first doorbell that covered its slot, or the end of the wait before it. -/
def Queue.entry (q : Queue) : Nat × Nat :=
  let at_ := if q.ind.isSome then q.rptr - 1 else q.rptr
  match q.bells.find? (fun b => decide (0 < (b.1 - at_).toNat ∧ (b.1 - at_).toNat ≤ 2 ^ 18)) with
  | some b => later b.2 q.floor
  | none => q.floor

/-- Everything before the head has completed. -/
def Queue.quietBefore (q : Queue) : Bool := q.live.isEmpty && q.pend.isEmpty && q.indDone.isEmpty

/-- What waits behind the head enters the queue now (R368). -/
def enterNow (s : State) (qid : Nat) : State :=
  match s.queue? qid with
  | none => s
  | some q =>
    let n := s.fe.seqno
    let e := ((s.part q.owner).decisions, n)
    (s.updFe (fun y => { y with seqno := n + 1 })).updQueue qid (fun q => { q with floor := e })

/-- The head of a queue as a decision sees it, with the reads it took; none: nothing to take. A ring that cannot be read faults; the
pre-empted ranges of a faulted queue run on (R360). -/
def headOf (s : State) (q : Queue) : Option Head × State :=
  match q.resumeHead with
  | x :: _ =>
    (some { pkt := { qid := q.qid, bytes := [], units := 0, resume := true }, sized := true, status := 0, prio := x.range.prio,
            entry := (x.range.enteredAt, x.range.entryNo), resumes := some x }, s)
  | [] =>
    if q.faulted || q.stopped || q.blocked.isSome || q.left == 0 then (none, s)
    else match readUnits s q [0] with
      | .error _ => (none, faultQueue s q.qid 0xFF)
      | .ok (b0, s) =>
        let sized := decide (fld b0 1 1 < 4) && decide (fld b0 1 1 < q.left)
        let n := if sized then fld b0 1 1 + 1 else 1
        match readUnits s q ((List.range n).drop 1) with
        | .error _ => (none, faultQueue s q.qid 0xFF)
        | .ok (b1, s) =>
          let b := b0 ++ b1
          -- a packet that runs on past the last slot written is torn (log entry 102)
          let st := if decide (fld b0 1 1 < 4) && !sized then 15 else packetStatus q q.ind.isSome b
          let h : Head := { pkt := { qid := q.qid, bytes := b, units := n, indirect := q.ind.isSome }, sized := sized, status := st,
                            prio := if fld b 0 1 == 1 then min (fld b 38 1 % 8) q.pceil else q.pceil, entry := q.entry }
          if st != 0 || fld b 2 1 != 1 || q.atBarrier then (some h, s)
          else if !q.quietBefore then (none, s)
          else
            let s := (enterNow s q.qid).updQueue q.qid (fun q => { q with atBarrier := true })
            (some { h with entry := match s.queue? q.qid with | some q => q.entry | none => h.entry }, s)

/-- Effective priority (R368). -/
def effPrio (s : State) (part : Nat) (prio : Nat) (entry : Nat) : Nat :=
  min 7 (prio + ((s.part part).decisions - entry) / 2 ^ ((s.part part).policy.extractLsb 11 8).toNat)
def better (s : State) (part : Nat) (a b : Head) : Bool :=
  let x := effPrio s part a.prio a.entry.1
  let y := effPrio s part b.prio b.entry.1
  decide (x > y) || (x == y && decide (a.entry.2 < b.entry.2))

/-! ## Moving on -/

/-- A packet of a queue that is ending has been processed: a range it launched meets what the ending does to the queue's ranges (R369,
R374). -/
def consumeEnd (s : State) (qid : Nat) : State :=
  match (s.queue? qid).bind (·.ending) with
  | none => s
  | some e =>
    let rs := (s.ranges.filter (fun r => r.qid == some qid && !r.killed && r.pre.isNone && r.want.isNone)).map (·.rid)
    endingSettle (match e.mode with
      | 0 => s
      | 1 => rs.foldl killRangeNow s
      | _ => rs.foldl (fun s r => wantPre s r 2 0) s) qid

/-- The packet is consumed: RPTR is written, or the place in the buffer moves; the buffer's last packet leaves what it waits for. -/
def moveOn (s : State) (p : Packet) (live : List Nat) (last : Option (W64 × Nat)) : State :=
  match s.queue? p.qid with
  | none => s
  | some q =>
    let s := (s.updPart q.owner (fun x => { x with sel := none })).updQueue p.qid (fun q => { q with atBarrier := false })
    match q.ind with
    | some x =>
      let pos := x.pos + 64 * p.units
      let x := { x with pos := pos, live := live, last := last, lines := x.lines.filter (fun l => decide (pos / 256 ≤ l.1)) }
      if x.pos < x.len then s.updQueue q.qid (fun q => { q with ind := some x })
      else indSettle (s.updQueue q.qid (fun q => { q with ind := none, indDone := q.indDone ++ [x] })) q.qid
    | none =>
      let r := q.rptr + BitVec.ofNat 32 p.units
      let s := s.updQueue q.qid (fun q => { q with rptr := r })
      match feStore s (feWho s q.qcbAsid q.owner (some q.qid)) (q.qcb.toNat + 24) (leBytes 4 r.toNat) with
      | .ok s => s
      | .error _ => s

def consume (s : State) (p : Packet) (live : List Nat) (last : Option (W64 × Nat)) : State := consumeEnd (moveOn s p live last) p.qid

def Packet.crec (p : Packet) : W64 := BitVec.ofNat 64 (fld p.bytes 8 8)
/-- The packet is processed and complete. -/
def finish (s : State) (p : Packet) (status : Nat) : State := complete (consume s p [] none) p.qid p.crec status 0
/-- The packet is processed and completes later. -/
def finishLater (s : State) (p : Packet) (what : Nat) : State :=
  consume (s.updQueue p.qid (fun q => { q with pend := q.pend ++ [(p.crec, what)] })) p [] (some (p.crec, what))

/-- The entry of a fetched packet in a logged queue (R429). -/
def packetEntry (s : State) (q : Queue) (p : Packet) : State :=
  let e := leBytes 8 s.ticks ++ leBytes 2 q.qid ++ leBytes 5 0 ++ leBytes 1 2 ++ leBytes 4 q.rptr.toNat ++ leBytes 12 0
  (logPut s q.owner (frontSrc q.owner) (e ++ p.bytes ++ List.replicate (roundUp p.bytes.length 32 - p.bytes.length) 0)).1

/-- The choice among the partition's queues. -/
def decideHead (s : State) (part : Nat) : Option Head × State :=
  (s.fe.queues.filter (fun q => q.owner == part)).foldl (fun (x : Option Head × State) q =>
    let y := headOf x.2 q
    match x.1, y.1 with
    | some a, some b => (some (if better y.2 part b a then b else a), y.2)
    | none, b => (b, y.2)
    | a, none => (a, y.2)) (none, s)

/-- A pre-empted or imported range resumes, or waits for room (R366, R384). Its checkpoint is the image as saved (R429). -/
def resumeNow (s : State) (q : Queue) (x : Saved) : State :=
  let r := x.range
  match savedRooms s q.asid r with
  | .error _ => s
  | .ok resv =>
    let req : LaunchReq := { asid := q.asid, part := q.owner, qid := some q.qid, crec := r.crec, va := r.img.va, raw := r.header 0 x.bytes.length, own := true }
    if launchWaits s req r.logged (512 + x.bytes.length) [] then s
    else (acceptSaved (s.updQueue q.qid (fun q => { q with resumeHead := q.resumeHead.drop 1 })) req { r.img with prio := r.prio } r resv x.bytes none).1

/-- FRONT_END_DISPATCH: one decision. A rejected packet ends here; the others are held for their own rows. -/
def execFrontEndDispatch (part : Nat) (s : State) : Out :=
  .next (if (s.part part).sel.isSome then s
    else
      let x := decideHead s part
      match x.1 with
      | none => x.2
      | some h =>
        let s := x.2
        match s.queue? h.pkt.qid with
        | none => s
        | some q =>
          let logged := q.qflg.getLsbD 2 && !h.pkt.resume
          if logged && logWaits s part (32 + roundUp h.pkt.bytes.length 32) then s
          else
            let s := s.updPart part (fun p => { p with decisions := p.decisions + 1 })
            let s := if logged then packetEntry s q h.pkt else s
            match h.resumes with
            | some r => resumeNow s q r
            | none =>
              if h.status != 0 then (if h.sized then finish s h.pkt h.status else consume s h.pkt [] none)
              else s.updPart part (fun p => { p with sel := some h.pkt }))

/-- The packet held for a row of this type. -/
def State.held (s : State) (part ty : Nat) : Option (Packet × Queue) :=
  match (s.part part).sel with
  | none => none
  | some p => if fld p.bytes 0 1 == ty then (s.queue? p.qid).map (fun q => (p, q)) else none

def Queue.who (q : Queue) (s : State) : Who := feWho s q.asid q.owner (some q.qid)

/-! ## NOP, LAUNCH, INDIRECT -/

def execNopPacket (part : Nat) (s : State) : Out :=
  .next (match s.held part 0 with | some x => finish s x.1 0 | none => s)

/-- The private image (Table 6 of R365). -/
def launchImage (q : Queue) (b raw : List Byte) : List Byte :=
  let keep := fun (off n to_ : Nat) (r : List Byte) => if fld b off n == 0 then r else patch r to_ (leBytes n (fld b off n))
  let raw := patchExt raw [fld b 24 4, fld b 28 4, fld b 32 4]
  let raw := keep 37 1 17 (keep 36 1 18 raw)
  let raw := patch raw 19 (leBytes 1 (min (fld b 38 1) q.pceil))
  let raw := keep 40 8 32 raw
  let raw := if zeros raw 32 39 then patch raw (32 + 2 * (q.owner / Config.partsPerDie)) (leBytes 2 256) else raw
  let raw := keep 48 8 40 raw
  let raw := patch raw 48 (leBytes 8 (fld b 64 8) ++ leBytes 8 (fld b 72 8))
  if fld b 80 4 == 0 then raw
  else patch (patch raw 256 (leBytes 4 (fld b 80 4) ++ leBytes 2 (fld b 84 2))) 264 (leBytes 4 (fld b 88 4))

/-- LAUNCH (R366). -/
def execLaunchPacket (part : Nat) (s : State) : Out :=
  .next (match s.held part 1 with
    | none => s
    | some (p, q) =>
      let pf := q.qflg.getLsbD 0
      if bit (fld p.bytes 37 1) 1 && !pf then finish s p 18
      else match feRead s (q.who s) (some q.key) (fld p.bytes 16 8) 512 with
        | .error .key => finish (faultQueue s q.qid 0xFF) p 17
        | .error (.fault _ _) => finish s p 17
        | .ok (raw, s) =>
          let req : LaunchReq :=
            { asid := q.asid, part := q.owner, qid := some q.qid, crec := p.crec, key := some q.key, va := BitVec.ofNat 64 (fld p.bytes 16 8),
              raw := if imageOk raw then launchImage q p.bytes raw else raw, log := q.qflg.getLsbD 2, debugOk := pf, follow := bit (fld p.bytes 37 1) 3,
              entered := some q.entry.1 }
          match tryLaunch s req with
          | .refused e s => finish s p e
          | .waits => s
          | .ok s rid => consume (s.updQueue q.qid (fun q => { q with live := q.live ++ [rid] })) p [rid] none)

/-- Every frame of a buffer has RO = 1. -/
def sealedFrames (s : State) (asid buf len : Nat) : Bool :=
  (List.range (len / 4096 + 2)).all (fun i =>
    let va := if i == 0 then buf else buf / 4096 * 4096 + 4096 * i
    decide (buf + len ≤ va) || (match translate s asid va 0 with
      | .bad _ => false
      | .ok t _ => match locOf (t.pa + (va - t.va)) with
        | .hbm d o => fotRO (s.fotEnt d o)
        | _ => false))

/-- INDIRECT (R363). -/
def execIndirect (part : Nat) (s : State) : Out :=
  .next (match s.held part 2 with
    | none => s
    | some (p, q) =>
      let sealed_ := bit (fld p.bytes 28 1) 0
      if sealed_ && !(sealedFrames s q.asid (fld p.bytes 16 8) (fld p.bytes 24 4)) then finish s p 19
      else
        consumeEnd ((moveOn s p [] none).updQueue q.qid (fun q => { q with
          ind := some { buf := BitVec.ofNat 64 (fld p.bytes 16 8), len := fld p.bytes 24 4, crec := p.crec, isSealed := sealed_ } })) q.qid)

/-! ## WAIT, WRITE -/

def waitHolds (b : List Byte) (x : Nat) : Bool := if fld b 32 1 == 1 then x != fld b 24 8 else decide (fld b 24 8 ≤ x)
/-- The test of a WAIT; a word that cannot be read does not satisfy it, a frame of another key faults the queue. -/
def waitTest (s : State) (q : Queue) (b : List Byte) : Bool × State :=
  match feRead s (q.who s) (some q.key) (fld b 16 8) 8 with
  | .ok (x, s) => (waitHolds b (leNat x), s)
  | .error .key => (false, faultQueue s q.qid 0xFF)
  | .error _ => (false, s)

/-- What a blocked WAIT is listed as among the packets still to complete. -/
def waitTag : Nat := 2048

def execWaitPacket (part : Nat) (s : State) : Out :=
  .next (match s.held part 3 with
    | none => s
    | some (p, q) =>
      let x := waitTest s q p.bytes
      if x.1 then finish (enterNow x.2 q.qid) p 0
      else finishLater (x.2.updQueue q.qid (fun q => { q with blocked := some p })) p waitTag)

/-- WAIT_PACKET_SATISFIED: the packets behind it enter the queue now (R368). -/
def execWaitPacketSatisfied (qid : Nat) (s : State) : Out :=
  .next (match s.queue? qid with
    | none => s
    | some q => match q.blocked with
      | none => s
      | some p =>
        let x := waitTest s q p.bytes
        if !x.1 || q.faulted || q.stopped then x.2
        else pendDone ((enterNow x.2 qid).updQueue qid (fun q => { q with blocked := none })) qid (p.crec, waitTag))

/-- WRITE. -/
def execWrite (part : Nat) (s : State) : Out :=
  .next (match s.held part 4 with
    | none => s
    | some (p, q) =>
      let va := BitVec.ofNat 64 (fld p.bytes 16 8)
      let add := fld p.bytes 32 1 == 1
      -- an ADD reads the word for the queue (R360)
      let key := add && (match feRead s (q.who s) (some q.key) va.toNat 8 with | .error .key => true | _ => false)
      let s := if key then faultQueue s q.qid 0xFF
        else match feWord s (q.who s) va add (BitVec.ofNat 64 (fld p.bytes 24 8)) with
          | .ok s => dirtySignal s q.qid va
          | .error e => unwritten s e.1 e.2 q.qid 0
      finish s p 0)

/-! ## INVAL (R353, R404) -/

/-- A range of pages under an ASID, or all. -/
structure InvalRange where
  asid : Option Nat
  lo : Nat
  hi : Nat

def InvalRange.has (r : InvalRange) (asid va n : Nat) : Bool := (match r.asid with | some a => a == asid | none => true) && decide (va < r.hi) && decide (r.lo < va + n)

def invalidate (s : State) (r : InvalRange) (t c b : Bool) : State :=
  let mine := fun (x : Sector) => r.has x.asid x.va 128
  let s := if b then
      let s := settleSectors s mine
      (s.mem.llc.filter mine).foldl (fun s x => s.writeBack x) s
    else s
  let s := if c then dropSectors s mine else s
  if t || c then s.updMem (fun m => { m with
    tlb := m.tlb.filter (fun x => !(r.has x.asid x.va x.size)),
    walks := m.walks.filter (fun w => !(r.has w.asid (w.hi * 2 ^ (12 + 9 * w.level)) (2 ^ (12 + 9 * w.level)))) })
  else s

def execInval (part : Nat) (s : State) : Out :=
  .next (match s.held part 5 with
    | none => s
    | some (p, _) =>
      let f := fld p.bytes 18 1
      let base := fld p.bytes 24 8
      let n := fld p.bytes 32 4
      let r : InvalRange :=
        { asid := if bit f 0 then none else some (fld p.bytes 16 2), lo := if n == 0 then 0 else base, hi := if n == 0 then 2 ^ 57 else base + 4096 * n }
      let s := invalidate s r (bit f 1) (bit f 2) (bit f 3)
      let gs := if bit f 1 || bit f 2 then s.sock.grants.filter (fun g => r.has g.asid g.va g.size) else []
      if gs.isEmpty then finish s p 0
      else
        let grp := s.fe.invs
        let s := gs.foldl (fun s g => sendTinv s g grp) (s.updFe (fun y => { y with invs := grp + 1 }))
        finishLater s p (4096 + grp))

/-! ## PARTCFG, POLICY, CWIN -/

def execPartcfg (part : Nat) (s : State) : Out :=
  .next (match s.held part 6 with
    | none => s
    | some (p, q) =>
      let t := fld p.bytes 20 1
      let x := BitVec.ofNat 32 (fld p.bytes 16 4)
      match carveWrite s t x with
      | .error e => finish s p e
      | .ok s =>
        let s := extendReg (s.updPart t (fun y => { y with carvePend := some (q.qid, p.crec) })) 1 t ((s.carve t &&& 0xF7FFFFFF).setWidth 64)
        carveSettle (finishLater s p t) t)

/-- Table 8. -/
def policyOk (w : W64) : Bool :=
  w.extractLsb 63 40 == 0 && w.extractLsb 17 12 == 0 && decide (64 ≤ (w.extractLsb 39 32).toNat) && w.extractLsb 31 24 != 0 &&
    decide (1 ≤ (w.extractLsb 23 18).toNat ∧ (w.extractLsb 23 18).toNat ≤ 32) && decide (8 ≤ (w.extractLsb 11 8).toNat ∧ (w.extractLsb 11 8).toNat ≤ 12) &&
    w.extractLsb 7 0 != 0
def policyWrite (s : State) (p : Nat) (w : W64) : State := extendReg (s.updPart p (fun x => { x with policy := w })) 2 p w

def execPolicyPacket (part : Nat) (s : State) : Out :=
  .next (match s.held part 11 with
    | none => s
    | some (p, _) =>
      let w := BitVec.ofNat 64 (fld p.bytes 24 8)
      if policyOk w then finish (policyWrite s (fld p.bytes 20 1) w) p 0 else finish s p 16)

def execCwin (part : Nat) (s : State) : Out :=
  .next (match s.held part 12 with
    | none => s
    | some (p, _) =>
      let f := fld p.bytes 34 1
      let w := (fld p.bytes 21 1, BitVec.ofNat 64 (fld p.bytes 24 8), BitVec.ofNat 16 (fld p.bytes 32 2), bit f 0, bit f 1)
      finish (s.updPart (fld p.bytes 20 1) (fun x => { x with win := x.win.filter (fun y => y.1 != w.1) ++ [w] })) p 0)

/-! ## QCREATE, QDESTROY, EXPORT, IMPORT -/

/-- The privileged fields of a control block (R359). -/
def queueFrom (qid : Nat) (qcb : W64) (asid : Nat) (b : List Byte) : Queue :=
  { qid := qid, qcb := qcb, qcbAsid := asid, priv := b.take 24, ring := BitVec.ofNat 64 (fld b 0 8), rsize := fld b 8 1, owner := fld b 9 1,
    asid := fld b 10 2, pceil := fld b 12 1, qflg := BitVec.ofNat 8 (fld b 13 1), key := fld b 14 2, dbmp := BitVec.ofNat 64 (fld b 16 8) }
def Queue.fieldsOk (q : Queue) : Bool :=
  decide (12 ≤ q.rsize ∧ q.rsize ≤ 24) && q.ring.toNat % 2 ^ q.rsize == 0 && decide (q.owner < 64) && decide (q.asid < 4096) && decide (q.pceil < 8) &&
    decide (q.qflg.toNat < 8) && decide (q.key < 4096) && q.dbmp.toNat % 8 == 0
def vfHas (s : State) (part : Nat) : Bool := s.pkg.vfs.any (fun v => v.2.getLsbD part)

/-- The function a queue is made for: the PF, or the lowest VF bound to its owner. -/
def fnOf (s : State) (q : Queue) : Nat :=
  if q.qflg.getLsbD 0 then 0
  else (((List.range 64).drop 1).find? (fun v => (assoc s.pkg.vfs v).any (fun m => m.getLsbD q.owner))).getD 0

/-- A queue made from a control block: the status, or the state that has it. -/
def makeQueue (s : State) (qid : Nat) (qcb : W64) (asid : Nat) (b : List Byte) : Except Nat State :=
  let n := queueFrom qid qcb asid b
  if (s.queue? qid).isSome || !n.fieldsOk || !(zeros b 32 127) then .error 16
  else if !n.qflg.getLsbD 0 && !(vfHas s n.owner) then .error 18
  else if !(s.carved n.owner) then .error 16
  else .ok (s.updFe (fun y => { y with queues := y.queues ++ [{ n with fn := fnOf s n }] }))

def execQcreate (part : Nat) (s : State) : Out :=
  .next (match s.held part 7 with
    | none => s
    | some (p, q) =>
      match feRead s (q.who s) (some q.key) (fld p.bytes 16 8) 128 with
      | .error .key => finish (faultQueue s q.qid 0xFF) p 16
      | .error _ => finish s p 16
      | .ok (b, s) => match makeQueue s (fld p.bytes 24 2) (BitVec.ofNat 64 (fld p.bytes 16 8)) q.asid b with
        | .error e => finish s p e
        | .ok s => finish s p 0)

/-- Fetching stops; what happens to the queue's ranges follows the mode (0 WAIT, 1 KILL, 2 SAVE, 3 EXPORT). -/
def beginEnding (s : State) (p : Packet) (q : Queue) (qid mode : Nat) : State :=
  match s.queue? qid with
  | none => finish s p 16
  | some z =>
    if z.ending.isSome then finish s p 16
    else
      let e : Ending := { mode := mode, by_ := q.qid, crec := p.crec, dest := BitVec.ofNat 64 (fld p.bytes 16 8), asid := q.asid }
      let s := finishLater s p (256 + qid)
      let s := s.updQueue qid (fun z => { z with stopped := true, ending := some e })
      let heads := z.resumeHead
      let off := fun (z : Queue) => { z with resumeHead := [], live := z.live.filter (fun r => !(heads.any (fun x => x.range.rid == r))) }
      let s := match mode with
        | 0 => s
        | 1 =>
          let s := s.updQueue qid (fun z => { z with resumeHead := [] })
          let s : State := { s with ranges := s.ranges ++ heads.map (fun (x : Saved) => { x.range with pre := none, resv := [] }) }
          ((s.ranges.filter (fun r => r.qid == some qid)).map (·.rid)).foldl killRangeNow s
        | _ =>
          let s := s.updQueue qid (fun z => { off z with exported := heads })
          ((s.ranges.filter (fun r => r.qid == some qid)).map (·.rid)).foldl (fun s r => wantPre s r 2 0) s
      endingSettle s qid

def execQdestroy (part : Nat) (s : State) : Out :=
  .next (match s.held part 8 with
    | none => s
    | some (p, q) => beginEnding s p q (fld p.bytes 24 2) (fld p.bytes 26 1))

def execExportPacket (part : Nat) (s : State) : Out :=
  .next (match s.held part 9 with
    | none => s
    | some (p, q) => beginEnding s p q (fld p.bytes 24 2) 3)

/-- What stands at SRC: what an EXPORT of this package wrote, or else what the bytes say (R369, log entry 13). -/
def exportAt (s : State) (p : Packet) (q : Queue) : Option (List Byte × Queue × State) :=
  let at_ := fun (n : Nat) => feRead s (q.who s) (some q.key) (fld p.bytes 16 8) n
  match s.fe.exports.find? (fun x => match at_ x.2.2.1.length with | .ok (b, _) => b == x.2.2.1 | .error _ => false) with
  | some x => some (x.2.2.1, x.2.2.2, s)
  | none =>
    match (match at_ 28 with | .ok (h, _) => at_ (Config.exportLen h) | .error e => .error e) with
    | .error _ => none
    | .ok (b, _) => (Config.exportedQueue s.nextGid s.eng.nextOp b).bind (fun o => (s.adopt (o.exported.map (·.range))).map (fun s => (b, o, s)))
/-- A frame read there carries another key than the queue's (R360). -/
def exportKeyed (s : State) (p : Packet) (q : Queue) : Bool :=
  let keyed := fun (n : Nat) => match feRead s (q.who s) (some q.key) (fld p.bytes 16 8) n with
    | .error .key => true
    | _ => false
  keyed 28 || s.fe.exports.any (fun x => keyed x.2.2.1.length) ||
    (match feRead s (q.who s) (some q.key) (fld p.bytes 16 8) 28 with | .ok (h, _) => keyed (Config.exportLen h) | .error _ => false)

/-- IMPORT (R369): slots, a blocked WAIT and images are restored from what an EXPORT wrote. -/
def execImportPacket (part : Nat) (s : State) : Out :=
  .next (match s.held part 10 with
    | none => s
    | some (p, q) =>
      if exportKeyed s p q then finish (faultQueue s q.qid 0xFF) p 16
      else match s.queue? (fld p.bytes 24 2), exportAt s p q with
      | some z, some (bytes, o, u) =>
        if z.rsize != o.rsize then finish s p 16
        else
          let s := u
          let n := (o.wptr - o.rptr).toNat
          let slot := fun (s : State) (i : Nat) =>
            match feStore s (z.who s) (z.ring.toNat + 64 * ((o.rptr.toNat + i) % ringSlots z.rsize)) ((bytes.drop (28 + 64 * i)).take 64) with
            | .ok s => s
            | .error _ => s
          let s := (List.range n).foldl slot s
          let e := ((s.part z.owner).decisions, s.fe.seqno)
          let s := s.updFe (fun y => { y with seqno := y.seqno + 1 })
          let s := s.updQueue z.qid (fun z => { z with
            rptr := o.rptr, wptr := o.wptr, blocked := o.blocked.map (fun b => { b with qid := z.qid }), ind := o.ind, indDone := o.indDone, floor := e,
            bells := [(o.wptr, e)], pend := z.pend ++ o.pend.filter (fun y => y.2 == waitTag), stopped := false,
            live := z.live ++ (o.exported.filter (fun y => y.range.parent.isNone)).map (·.range.rid), resumeHead := [] })
          let s := match feStore s (feWho s z.qcbAsid z.owner (some z.qid)) (z.qcb.toNat + 24) (leBytes 4 o.rptr.toNat ++ leBytes 4 o.wptr.toNat) with
            | .ok s => s
            | .error _ => s
          finish (o.exported.foldl (fun s y => reenter s z.qid { y with range := { y.range with qid := some z.qid } }) s) p 0
      | _, _ => finish s p 16)

end Sys2Proof.Machine
end

