-- ==== Sys2Proof/Machine/Links.lean ====
section
/-! DEFINITION. Canal links (R372, R373), the host's accesses (R371), and container registration (R334, R335, R418). -/

namespace Sys2Proof.Machine

/-! ## Canal: accesses that arrive -/

/-- An atomic's new bytes (R241): operations 0 to 11 on a word, otherwise a compare and swap of two operands. -/
def atomBytes (code : Nat) (old operands : List Byte) : List Byte :=
  let x : W32 := BitVec.ofNat 32 (leNat (old.take 4))
  let y : W32 := BitVec.ofNat 32 (fld operands 0 4)
  leBytes 4 (if code ≤ 11 then applyOp code 0 x y else if x == y then BitVec.ofNat 32 (fld operands 4 4) else x).toNat

/-- The access is performed under the destination's own translation; a load's value, an atomic's and a fault go back to the source. -/
def peerAccess (s : State) (asid va : Nat) (data : Option PeerData) (size : Nat) : State :=
  let w := feWho s asid (s.partOn asid (homeDie va)) none
  let read := fun (n : Nat) => match feRead s w none va n with
    | .ok x => Except.ok x
    | .error (.fault f _) => .error (s.poisonRec f)
    | .error .key => .error s
  let write := fun (s : State) (b : List Byte) => match feWrite s w va b with | .ok s => s | .error e => s.poisonRec e.1
  match data with
  | some ⟨b, none⟩ => write s b
  | some ⟨b, some code⟩ => (match read 4 with | .ok x => write x.2 (atomBytes code x.1 b) | .error s => s)
  | none => (match read size with | .ok x => x.2 | .error s => s)

/-- CANAL_REMOTE_ACCESS: taken only from packages in the import mask of the address space. A write or an atomic of an ordered flow goes
to the reorder buffer under its number, whether taken or not, so that the numbers behind it may pass. -/
def execCanalRemoteAccess (package part window asid : Nat) (va : W64) (data : Option PeerData) (size : Nat) (ordered : Option W32) (s : State) : Out :=
  let taken := s.fe.imports.contains (asid, package)
  .next (match ordered, data with
    | some seq, some b => s.updPkg (fun k => { k with
        canal := k.canal ++ [{ package := package, part := part, win := window, seq := seq, asid := asid, va := va.toNat, data := b, taken := taken }] })
    | _, _ => if taken then peerAccess s asid va.toNat data size else s)

/-- The number an ordered flow passes next. -/
def State.flowNext (s : State) (package part window : Nat) : W32 :=
  ((s.pkg.canalNext.find? (fun x => x.1 == package && x.2.1 == part && x.2.2.1 == window)).map (·.2.2.2)).getD 0

/-- CANAL_ORDERED_PASS: of what has arrived on the flow, in whatever order, the one of the next number is performed; its home slice's
acknowledgement lets the one after it pass (R123). -/
def execCanalOrderedPass (package part window : Nat) (s : State) : Out :=
  let n := s.flowNext package part window
  .next (match s.pkg.canal.find? (fun x => x.package == package && x.part == part && x.win == window && x.seq == n) with
    | none => s
    | some x =>
      let s := if x.taken then peerAccess s x.asid x.va (some x.data) 0 else s
      let at_ := fun (y : Nat × Nat × Nat × W32) => y.1 == package && y.2.1 == part && y.2.2.1 == window
      s.updPkg (fun k => { k with
        canal := k.canal.erase x, canalNext := updOr at_ (package, part, window, 0) (fun _ => (package, part, window, n + 1)) k.canalNext }))

/-- CANAL_PORT_DOWN: of the stores sent, those still queued at the port are dropped and reported; which had left is a free value
(log entry 9). -/
def execCanalPortDown (port : Nat) (s : State) : Out :=
  .next (if !(s.pkg.grade.hasPort port) || s.pkg.portsDown.contains port then s
    else
      let mine := s.pkg.canalOut.filter (fun x => x.1 / 2 == port)
      let s := s.updPkg (fun k => { k with portsDown := k.portsDown ++ [port], canalOut := k.canalOut.filter (fun x => x.1 / 2 != port) })
      mine.foldl (fun s x => let b := s.freshByte; if b.1.getLsbD 0 then b.2 else refusedStore b.2 x) s)

/-! ## The host's memory accesses (R350, R371) -/

/-- The host's own memory (R371, CXL.cache): region 0b10 with PA[45] = 0. -/
def isHostMem (pa : Nat) : Bool := bits pa 47 46 == 2 && !bit pa 45

/-- The host takes lines of its memory that the LLC holds: each is written back, behind what is queued at it, and for a write it leaves. -/
def State.snoop (s : State) (pa n : Nat) (write : Bool) : State :=
  (piecesOf pa (List.replicate n 0)).foldl (fun s x => match s.sectorAt x.1 with
    | none => s
    | some y =>
      let s := performSector s y.asid y.va
      if write then s.leaveLlc (fun z => z.asid == y.asid && z.va == y.va)
      else match s.sector? y.asid y.va with
        | some z => s.writeBack z
        | none => s) s

/-- HOST_MEM_ACCESS: device memory in frames of OWNER 0xFF only, from phase 4 on and whether the FOT is enabled or not (R437), another access
ending as an unsupported request, a write dropped; its own memory coherently with the LLC. -/
def execHostMemAccess (pa : W64) (data : Option (List Byte)) (size : Nat) (s : State) : Out :=
  let n := match data with | some b => b.length | none => size
  let ps := pages4k pa.toNat (max n 1)
  let hbm := fun (a : Nat) => match locOf a with | .hbm _ _ => true | _ => false
  .next (if decide (s.pkg.phase < 4) || decide (s.pkg.phase > 9) then s
    else if ps.all isHostMem then
      (match data with
        | some b => (s.snoop pa.toNat n true).paWrite pa.toNat b
        | none => s.snoop pa.toNat n false)
    else if !(ps.all hbm) then s
    else if !(ps.all (fun a => s.fotAllows [0xFF] a data.isSome)) then s.deviceRec { code := .fotdeny, addr := pa }
    else match data with
      | some b => s.paWrite pa.toNat b
      | none => s)

/-! ## Registration of a container (R334) -/

/-- Offsets of instructions or IMM prefixes in a code section (R146, R158, R331); the bytes are the fuel. -/
def boundaries : Nat → List Byte → Nat → List Nat
  | 0, _, _ => []
  | n + 1, b, off =>
    match b with
    | b0 :: b1 :: _ =>
      let k := lenOf b0 b1
      if k ≤ b.length then off :: boundaries n (b.drop k) (off + k) else []
    | _ => []

def safeEntry (b : List Byte) : Nat × BitVec 72 := (fld b 0 4, BitVec.ofNat 72 (fld b 4 9))
def entries16 (b : List Byte) : Nat → List (List Byte)
  | 0 => []
  | n + 1 => b.take 16 :: entries16 (b.drop 16) n

/-- The checks of R334. -/
def safeTableOk (h : Nat) (code : List Byte) (es : List (List Byte)) : Bool :=
  let bs := boundaries code.length code 0
  let l := es.map safeEntry
  decide (1 ≤ es.length ∧ es.length ≤ 2 ^ 20) && es.all (fun e => zeros e 13 15) && risesFrom (l.map (·.1)) && l.all (fun e => bs.contains e.1) &&
    l.all (fun e => (List.range 64).all (fun i => decide (i < h) || !e.2.getLsbD i) && !e.2.getLsbD 71)

/-- CONTAINER_REGISTRATION, accepted from phase 9 on (R437): the table is checked and copied, and the registration's status kept; a table that fails, or a section that
cannot be read (log entry 107), leaves the container unregistered. -/
def execContainerRegistration (part asid : Nat) (code : W64) (codeSize : Nat) (safe : W64) (safeSize : Nat) (config : W64) (s : State) : Out :=
  let w := feWho s asid part none
  let key := (asid, code.toNat)
  let put := fun (s : State) (status : Nat) (new : List (Nat × Nat × W64 × List (Nat × BitVec 72))) => s.updFe (fun y => { y with
    containers := y.containers.filter (fun c => !(c.1 == asid && c.2.1 == code.toNat)) ++ new,
    registered := updOr (·.1 == key) (key, status) (fun _ => (key, status)) y.registered })
  let off := fun (s : State) => put s 14 []
  let h := 8 * (config.extractLsb 7 4).toNat
  .next (if s.pkg.phase != 9 then s else match feRead s w none code.toNat codeSize with
    | .error _ => off s
    | .ok (cb, s) => match feRead s w none safe.toNat safeSize with
      | .error _ => off s
      | .ok (sb, s) =>
        let es := entries16 sb (safeSize / 16)
        if safeSize % 16 == 0 && safeTableOk h cb es then
          (put s 0 [(asid, code.toNat, config, es.map safeEntry)]).updPart part (fun x => { x with m4 := extendM x.m4 (leBytes 48 (Config.sha384 (cb ++ sb)).toNat ++ leBytes 1 part) })
        else off s)

end Sys2Proof.Machine
end

