-- ==== Sys2Proof/Machine/Debug.lean ====
section
/-! DEFINITION. Markers and debugging: MARK (R290), BRK (R291), the debug instructions (R292 to R298), and the halts of breakpoints and
watches. -/

namespace Sys2Proof.Machine

/-! ## MARK -/

def markPacket (s : State) (c : Ctx) (o : OpF) (team : Nat) : List Byte :=
  leBytes 8 s.ticks ++ leBytes 4 c.r.rid ++ leBytes 1 o.sel.toNat ++ leBytes 2 0 ++ leBytes 1 2 ++
    leBytes 4 (c.c.pc - c.r.img.code).toNat ++ leBytes 4 (c.s team o.a).toNat ++ leBytes 8 c.g.gseq.toNat

/-- The source of what an instruction makes for a team: the team's lowest active lane home (R7). -/
def Ctx.teamSrc (c : Ctx) (o : OpF) (t : Nat) : Nat := c.g.src ((((c.active o.g).filter (fun x => teamOf x == t)).map laneOf).foldl min 31)
/-- MARK: one record for each active team (R7). -/
def execMark (o : OpF) (s : State) : Out :=
  issue s { g := o.g, rd := [.s (s5 o.a)] } (fun c s =>
    noResult ((c.teams o.g).foldl (fun s t => traceWrite s c.g.part (c.teamSrc o t) [markPacket s c o t]) s) c o.m)

/-! ## Halting (R293, R377) -/

/-- The group halts: every bundle stops at its boundary with its results written and its run state kept; a data fault of a run not
ended is reported first, taking the boundary as the end of its run. -/
def haltGroup (s : State) (gid : Nat) : State :=
  let s := s.updGroup gid (fun g => g.quieted)
  let s := match s.group? gid with
    | none => s
    | some g => match g.bundles.find? (fun (b : Bundle) => b.dfault.isSome) with
      | none => s
      | some b => match b.dfault with
        | some d => stopGroup s gid (d.frec g .runPrecise false b.lastPc) (some b.id) none
        | none => s
  s.updGroup gid (fun g => { g with halted := true })
/-- A group of a resumed image that waits for a core is at its boundaries as it stands. -/
def setParkedHalt (s : State) (rid gid : Nat) (h : Bool) : State :=
  s.updRange rid (fun r => { r with parked := upd (fun g => g.id == gid) (fun g => { g with halted := h }) r.parked })

/-! ## BRK -/

def execBrk (o : OpF) (s : State) : Out :=
  issue s { g := o.g, ends := true } (fun c s =>
    let ts := c.active o.g
    if ts.isEmpty || !(s.attachedTo c.r) then softTrap .brk o.sel.toNat o c s
    else
      let s := haltGroup (retire s c o.m true [] (fun _ => c.next)) c.g.id
      s.postEvent c.g.part (debugEvent 3 0 c.r.rid c.g.gseq c.c.pc 0 (lanesMask ts)))

/-! ## The control block (R292) -/

structure DBlock where
  rid : Nat
  gseq : W64
  addr : W64
  len : Nat
  slot : Nat
  kind : Byte
  team : Nat
  lane : Nat
  buf : Nat

def dblock (b : List Byte) : DBlock :=
  { rid := fld b 0 4, gseq := BitVec.ofNat 64 (fld b 8 8), addr := BitVec.ofNat 64 (fld b 16 8), len := fld b 24 4, slot := fld b 28 1,
    kind := BitVec.ofNat 8 (fld b 29 1), team := fld b 30 1, lane := fld b 31 1, buf := fld b 32 4 }
def DBlock.all (b : DBlock) : Bool := b.gseq == 0xFFFFFFFFFFFFFFFF

def putStatus (s : State) (gid blk st : Nat) (state : Option Nat) : State :=
  let s := s.scrWrite gid (blk + 36) (leBytes 4 st)
  match state with
  | some x => s.scrWrite gid (blk + 40) (leBytes 8 x)
  | none => s

/-- One team's block: its checks, then the action, which answers the status and the result word; `wr`: BUF is written. -/
def debugTeam (s : State) (c : Ctx) (o : OpF) (bufBytes : Nat) (wr : Bool) (act : State → DBlock → State × Nat × Option Nat) (team : Nat) : TeamRes :=
  let off := c.s team o.a
  let b := match s.group? c.g.id with | some g => g.scr off.toNat 64 | none => []
  let x := dblock b
  match blockCheck s c off 64 64 false false, blockCheck s c (off + 36) 12 4 true false with
  | some f, _ => .fault f off s
  | none, some f => .fault f off s
  | none, none =>
    if !(zeros b 4 7) || !(zeros b 48 63) || decide (x.kind.toNat ≥ 16) then .stop (fun s => illop s c)
    else match (if bufBytes == 0 then none else blockCheck s c (BitVec.ofNat 64 x.buf) bufBytes 64 wr false) with
      | some f => .fault f (BitVec.ofNat 64 x.buf) s
      | none => let r := act s x; .ok (putStatus r.1 c.g.id off.toNat r.2.1 r.2.2)

/-- The target range, or why not: 1 none, 3 of another partition or the debug range itself. -/
def debugRange (s : State) (c : Ctx) (b : DBlock) : Except Nat RangeSt :=
  match s.range? b.rid with
  | none => .error 1
  | some r =>
    if r.rid == c.r.rid || !(r.harps.any (fun h => s.partOn r.asid h.die == c.g.part)) then .error 3 else .ok r
/-- The groups a block names: those on cores, and those of a resumed image that wait for one. -/
def targets (s : State) (r : RangeSt) (b : DBlock) : List Group :=
  (s.groups.filter (fun g => g.rid == r.rid) ++ r.parked).filter (fun g => b.all || g.gseq == b.gseq)

/-- An action on the groups a block names. -/
def onTargets (c : Ctx) (act : State → RangeSt → List Group → DBlock → State × Nat × Option Nat) (s : State) (b : DBlock) : State × Nat × Option Nat :=
  match debugRange s c b with
  | .error e => (s, e, none)
  | .ok r =>
    let gs := targets s r b
    if gs.isEmpty && !b.all then (s, 1, none) else act s r gs b

/-- A group of the range that no Harp has dispatched yet may have this %gseq (log entry 132). -/
def RangeSt.toCome (r : RangeSt) (q : W64) : Bool :=
  !r.killed && r.harps.any (fun h => h.die == (q.extractLsb 63 62).toNat && decide ((assoc r.seqs h.die).getD 0 ≤ (q.extractLsb 61 0).toNat)) &&
    r.harps.any (fun h => !h.boxes.isEmpty)

/-- An action for the groups a block names, dispatched or still to come (chapter "Program: a debug stub", call 8). -/
def onNamed (c : Ctx) (act : State → RangeSt → DBlock → State × Nat × Option Nat) (s : State) (b : DBlock) : State × Nat × Option Nat :=
  match debugRange s c b with
  | .error e => (s, e, none)
  | .ok r => if b.all || !(targets s r b).isEmpty || r.toCome b.gseq then act s r b else (s, 1, none)

/-- An action on one halted group. -/
def onHalted (c : Ctx) (act : State → Group → DBlock → State × Nat × Option Nat) : State → DBlock → State × Nat × Option Nat :=
  onTargets c (fun s _ gs b => match b.all, gs with
    | false, g :: _ => if g.halted then act s g b else (s, 2, none)
    | _, _ => (s, 1, none))

/-- The shape of a debug instruction (R272, R292). -/
def debugInstr (o : OpF) (bufBytes : Nat) (wr : Bool) (s : State) (act : Ctx → State → DBlock → State × Nat × Option Nat) (fin : Ctx → State → State) : Out :=
  issue s { g := o.g, rd := [.s (s5 o.a)], priv := true } (fun c s => eachTeam s c o.g (fun s t => debugTeam s c o bufBytes wr (act c) t) (fin c))
def plainFin (o : OpF) (c : Ctx) (s : State) : State := settle (noResult s c o.m) c.g.rid

/-! ## DHALT, DRESUME (R293) -/

def execDhalt (o : OpF) (s : State) : Out :=
  debugInstr o 0 true s (fun c => onTargets c (fun s r gs b =>
    let s := s.updRange r.rid (fun r => { r with attached := true })
    let live := gs.filter (fun g => !g.halted)
    if live.isEmpty && (!b.all || r.rangeHalt) then (s, 2, none)
    else
      let s := if b.all then s.updRange r.rid (fun r => { r with rangeHalt := true }) else s
      (live.foldl (fun s g => (setParkedHalt (haltGroup s g.id) r.rid g.id true).postEvent g.part (debugEvent 4 0 r.rid g.gseq 0 0 0)) s, 0, none))) (plainFin o)

def execDresume (o : OpF) (s : State) : Out :=
  debugInstr o 0 true s (fun c => onTargets c (fun s r gs b =>
    let down := gs.filter (·.halted)
    if down.isEmpty && !r.rangeHalt then (s, 2, none)
    else
      let s := if b.all then s.updRange r.rid (fun r => { r with rangeHalt := false }) else s
      (down.foldl (fun s g => settle (setParkedHalt (s.updGroup g.id (fun g => { g with halted := false })) r.rid g.id false) r.rid) s, 0, none))) (plainFin o)

/-! ## DSTEP (R294) -/

def Group.bundleOf (g : Group) (t : Nat) : Option Bundle := g.bundles.find? (fun b => b.ts.contains t)
/-- The bundle waits, other than for the results of a marked instruction. -/
def Bundle.stepWaits (b : Bundle) : Bool :=
  match b.st with
  | .ready | .stalled | .drain => false
  | _ => true

/-- One team's DSTEP: the step itself is the machine's next move (step). -/
def dstepTeam (s : State) (c : Ctx) (o : OpF) (team : Nat) : TeamRes :=
  let blk := (c.s team o.a).toNat
  let ask := fun (s : State) (g : Group) (b : DBlock) =>
    let t := 32 * b.team + b.lane
    match (if decide (b.lane < 32) && (g.th t).live then g.bundleOf t else none) with
    | none => (s, 1, none)
    | some x => if x.stepWaits then (s, 4, none)
      else ({ s with dsteps := s.dsteps ++ [{ gid := c.g.id, bid := c.b.id, blk := blk, target := g.id, thread := t }] }, 256, none)
  match debugTeam s c o 0 true (onHalted c ask) team with
  | .ok s' => if s'.dsteps.length == s.dsteps.length then .ok s' else .ok { s with dsteps := s'.dsteps }
  | x => x

def execDstep (o : OpF) (s : State) : Out :=
  issue s { g := o.g, rd := [.s (s5 o.a)], priv := true } (fun c s =>
    eachTeam s c o.g (fun s t => dstepTeam s c o t) (fun s =>
      if s.dsteps.any (fun d => d.gid == c.g.id && d.bid == c.b.id) then park s c o.m false c.b.ts .dstep else settle (noResult s c o.m) c.g.rid))

/-- A step has ended: STATUS and the mask are written, and the debug bundle goes on once none of its steps is left. -/
def dstepEnd (s : State) (d : DStep) (st : Nat) (mask : Option Nat) : State :=
  let s := putStatus { s with dsteps := s.dsteps.erase d } d.gid d.blk st mask
  if s.dsteps.any (fun x => x.gid == d.gid && x.bid == d.bid) then s
  else match (s.group? d.gid).bind (fun g => g.bundle? d.bid) with
    | some b => if b.st == .dstep then finishWait s d.gid d.bid else s
    | none => s

/-- What an outstanding DSTEP asks of the machine now: nothing yet, an end with a status, or an issue. -/
inductive DAsk where
  | later
  | fin (st : Nat)
  | go (bid : Nat)
  deriving DecidableEq, Repr

/-- The group's core issues: its rails are up, it has not failed, its partition's power budget does not withhold issue (R433, R434, R436). -/
def coreIssues (s : State) (g : Group) : Bool := !(s.part g.part).withheld && !s.pkg.railsOff && !(s.core g.die g.core).failed

/-- A stalled instruction is tried once in each clk. The step of a group of a resumed image that waits for a core comes once it has one. -/
def askOf (s : State) (d : DStep) : DAsk :=
  match s.group? d.target with
  | none => match s.ranges.findSome? (fun r => r.parked.find? (fun g => g.id == d.target)) with
    | some g => if g.halted then .later else .fin 2
    | none => .fin 1
  | some g =>
    if !g.halted then .fin 2
    else match g.bundleOf d.thread with
      | none => .fin 1
      | some b => match b.st with
        | .ready | .stalled =>
          if g.stop.isSome then .fin 2 else if !(coreIssues s g) || b.st == .stalled && b.atClk == s.clk + 1 then .later else .go b.id
        | .drain => .later
        | _ => .fin 4

/-! ## Breakpoints and watches (R295, R296) -/

/-- The slot of a bundle about to issue at a breakpoint. -/
def breakAt (s : State) (g : Group) (b : Bundle) : Option Nat :=
  if b.skipBk then none
  else ((s.part g.part).bk.find? (fun x => x.2.names g.rid g.gseq && x.2.addr == b.pc)).map (·.1)

def breakHalt (s : State) (gid bid : Nat) : State :=
  match s.group? gid with
  | none => s
  | some g => match g.bundle? bid with
    | none => s
    | some b => match breakAt s g b with
      | none => s
      | some k =>
        let s := (haltGroup s gid).updBundle gid bid (fun b => { b with skipBk := true })
        s.postEvent g.part (debugEvent 1 k g.rid g.gseq b.pc 0 (lanesMask b.ts))

def watchHalt (s : State) (gid bid : Nat) : State :=
  match s.group? gid with
  | none => s
  | some g => match g.bundle? bid with
    | none => s
    | some b =>
      if b.watch.isEmpty then s
      else
        let s := (haltGroup s gid).updBundle gid bid (fun b => { b with watch := [] })
        b.watch.foldl (fun s x => s.postEvent g.part (debugEvent 2 x.1 g.rid g.gseq x.2.2.2 x.2.1 x.2.2.1)) s

def mayIssue (g : Group) (b : Bundle) : Bool := (b.st == .ready || b.st == .stalled) && g.stop.isNone && !g.halted

/-- The step has been made: its status, the mask issued, and the watch hits of what it accessed. An instruction that stalls has
not issued. The group halts again: its results are written, their registers stay outstanding in the run (R215, R254, R294; log entry
124). -/
def dstepDone (s : State) (d : DStep) (mask : W32) : State :=
  match (s.group? d.target).bind (fun g => g.bundleOf d.thread) with
  | none => dstepEnd s d 0 (some mask.toNat)
  | some b =>
    if b.st == .stalled then s
    else dstepEnd ((watchHalt s d.target b.id).updGroup d.target Group.quieted) d (if b.stepWaits then 4 else 0) (some mask.toNat)

/-- BREAKPOINT_HALT. -/
def execBreakpointHalt (gid bid : Nat) (s : State) : Out :=
  .next (match (s.group? gid).bind (fun g => (g.bundle? bid).map (fun b => (g, b))) with
    | some (g, b) => if mayIssue g b then breakHalt s gid bid else s
    | none => s)

/-- WATCHPOINT_HALT. -/
def execWatchpointHalt (gid bid : Nat) (s : State) : Out := .next (watchHalt s gid bid)

/-- A slot set or cleared; one of another live range is refused. -/
def setSlot (s : State) (c : Ctx) (r : RangeSt) (b : DBlock) (n : Nat) (sel : Part → List (Nat × BkSlot)) (put : Part → List (Nat × BkSlot) → Part) : State × Nat × Option Nat :=
  let taken := match assoc (sel (s.part c.g.part)) b.slot with
    | some x => x.owner != c.r.rid && (s.range? x.owner).isSome
    | none => false
  if decide (b.slot ≥ n) || taken then (s, 5, none)
  else
    let x : BkSlot := { owner := c.r.rid, rid := r.rid, gseq := b.gseq, addr := b.addr, len := b.len, kind := b.kind }
    (s.updPart c.g.part (fun p => put p (if b.kind.getLsbD 3 then assocSet (sel p) b.slot x else assocDel (sel p) b.slot)), 0, none)

def execDbkpt (o : OpF) (s : State) : Out :=
  debugInstr o 0 true s (fun c => onNamed c (fun s r b => setSlot s c r b 8 (·.bk) (fun p l => { p with bk := l }))) (plainFin o)

def execDwatch (o : OpF) (s : State) : Out :=
  debugInstr o 0 true s (fun c => onNamed c (fun s r b =>
    if b.kind.getLsbD 3 && !(decide (1 ≤ b.len ∧ b.len ≤ 4096)) then (s, 5, none)
    else setSlot s c r b 4 (·.wt) (fun p l => { p with wt := l }))) (plainFin o)

/-! ## DRDS (R297) -/

/-- The thread waits in one of the waits of selector 0. -/
def threadWaits (b : Bundle) (t : Nat) : Bool :=
  (match b.st with
    | .bar | .gbar | .elevel | .join _ | .joinBehind _ | .wait _ | .poll _ | .lwait _ | .coll _ | .basin _ _ => true
    | _ => false) ||
  b.outst.any (fun o => o.pend.any (fun p => match p with
    | .pop _ _ _ _ ts => ts.contains t
    | .claim team _ _ => teamOf t == team
    | .enext .. => false))

def armedBytes (tm : Team) (m : BitVec 4) : List Byte :=
  let j := tm.armed true m
  let w := tm.armed false m
  let x := fun (a : Option Armed) (f : Armed → W32) => leBytes 4 ((a.map f).getD 0).toNat
  x j (·.val) ++ x j (·.arr) ++ x w (·.val) ++ x w (·.arr) ++ leBytes 8 ((j.map (fun (a : Armed) => a.pc)).getD 0).toNat

/-- Table 7. -/
def drdsBytes (g : Group) (sel team lane : Nat) : List Byte :=
  let tm := g.team team
  let ths := (List.range 32).map (fun l => 32 * team + l)
  match sel with
  | 0 =>
    let pc := fun (t : Nat) => if (g.th t).live then ((g.bundleOf t).map (·.pc)).getD 0 else 0
    let wait := ths.filter (fun t => (g.th t).live && (match g.bundleOf t with | some b => threadWaits b t | none => false))
    (ths.map (fun t => leBytes 8 (pc t).toNat)).flatten ++ leBytes 4 (g.liveMask team).toNat ++ leBytes 4 (lanesMask wait).toNat
  | 1 =>
    let th := g.th (32 * team + lane)
    (th.v.toList.map (fun x => leBytes 4 x.toNat)).flatten ++ leBytes 1 th.p.toNat
  | 2 =>
    let armed := fun (join : Bool) => sumOf (fun (m : BitVec 4) => if (tm.armed join m).isSome then 2 ^ m.toNat else 0) allMasks
    (tm.m.toList.map (fun x => leBytes 4 x.toNat)).flatten ++ leBytes 4 (armed true + 65536 * armed false) ++ (allMasks.map (armedBytes tm)).flatten
  | 3 =>
    let at_ := fun (i : Nat) => lanesMask ((g.liveTeam i).filter (fun t => match g.bundleOf t with | some b => b.st == .bar | none => false))
    leBytes 4 g.barph.toNat ++ ((List.range g.teams.length).map (fun i => leBytes 4 (at_ i).toNat)).flatten
  | _ => (tm.s.toList.map (fun x => leBytes 8 x.toNat)).flatten

def execDrds (o : OpF) (s : State) : Out :=
  debugInstr o 512 true s (fun c => onHalted c (fun s g b =>
    let thread := 32 * b.team + b.lane
    if o.sel != 3 && decide (g.teams.length ≤ b.team) || o.sel == 1 && !(decide (b.lane < 32 ∧ thread < g.threads.length)) then (s, 1, none)
    else (s.scrWrite c.g.id b.buf (drdsBytes g o.sel.toNat b.team b.lane), 0, none))) (plainFin o)

/-! ## DMBOX (R298) -/

def execDmboxSend (o : OpF) (s : State) : Out :=
  debugInstr o 64 false s (fun c s b =>
    let p := s.part c.g.part
    let m := match s.group? c.g.id with | some g => g.scr b.buf 64 | none => []
    if p.outbox.length ≥ 16 then (s, 4, none) else (s.updPart c.g.part (fun p => { p with outbox := p.outbox ++ [m] }), 0, none)) (plainFin o)

/-- The first event or message of the mailbox goes to a waiting block. -/
def takeEvent (s : State) (gid part : Nat) (x : Nat × Nat) : Option State :=
  match (s.part part).events with
  | [] => none
  | e :: rest => some (putStatus ((s.updPart part (fun p => { p with events := rest })).scrWrite gid x.2 e) gid x.1 0 none)

/-- Blocks of a bundle that wait in DMBOX.RECV are served in order. -/
def serveRecv (s : State) (gid bid part : Nat) : List (Nat × Nat) → State
  | [] => finishWait s gid bid
  | x :: l => match takeEvent s gid part x with
    | none => s.updBundle gid bid (fun b => { b with st := .recv (x :: l) })
    | some s => serveRecv s gid bid part l

/-- Every bundle that waits in DMBOX.RECV. -/
def serveRecvs (s : State) : State :=
  s.groups.foldl (fun s g => g.bundles.foldl (fun s b => match b.st with
    | .recv l => if (s.part g.part).events.isEmpty then s else serveRecv s g.id b.id g.part l
    | _ => s) s) s

/-- One team's DMBOX.RECV: its block waits unless a message is there; the blocks that wait are kept with the bundle. -/
def recvTeam (s : State) (c : Ctx) (o : OpF) (team : Nat) : TeamRes :=
  let blk := (c.s team o.a).toNat
  let got := fun (s : State) (b : DBlock) => (s, 256 + b.buf, (none : Option Nat))
  match debugTeam s c o 64 true got team with
  | .ok _ =>
    let buf := (dblock (match s.group? c.g.id with | some g => g.scr blk 64 | none => [])).buf
    .ok (s.updBundle c.g.id c.b.id (fun b => { b with st := .recv ((match b.st with | .recv l => l | _ => []) ++ [(blk, buf)]) }))
  | x => x

def execDmboxRecv (o : OpF) (s : State) : Out :=
  issue s { g := o.g, rd := [.s (s5 o.a)], priv := true } (fun c s =>
    eachTeam s c o.g (fun s t => recvTeam s c o t) (fun s =>
      match (s.group? c.g.id).bind (fun g => g.bundle? c.b.id) with
      | none => s
      | some b => match b.st with
        | .recv l => serveRecvs (park s c o.m false c.b.ts (.recv l))
        | _ => noResult s c o.m))

/-! ## The mailbox from outside (R298) -/

/-- HOST_DEBUG_MESSAGE: 64 bytes, TYPE 0x80 to 0xFF. -/
def execHostDebugMessage (part : Nat) (msg : List Byte) (s : State) : Out :=
  .next (if msg.length == 64 && decide (fld msg 0 1 ≥ 0x80) then serveRecvs (s.postEvent part msg) else s)

/-- DEBUG_MAILBOX_READ: the oldest message is read. -/
def execDebugMailboxRead (part : Nat) (s : State) : Out := .next (s.updPart part (fun p => { p with outbox := p.outbox.drop 1 }))

end Sys2Proof.Machine
end

