-- ==== Sys2Proof/Machine/MemEvents.lean ====
section
/-! DEFINITION. The steps the memory side makes of itself (R81 to R87, R94, R144). A core is named by 128 × die + its number. -/

namespace Sys2Proof.Machine

def coreDie (core : Nat) : Nat := core / Config.coresPerDie
def coreNum (core : Nat) : Nat := core % Config.coresPerDie
/-- The partition that owns a core (R411). -/
def corePart (core : Nat) : Nat := Config.partsPerDie * coreDie core + coreNum core / 8
def coreWho (s : State) (core asid : Nat) : Who :=
  { die := coreDie core, core := coreNum core, gid := s.nextGid, rid := 0, asid := asid, part := corePart core }

/-- L1_FILL: a line of RC or UO data absent or past its lease is filled. -/
def execL1Fill (core asid : Nat) (va : W64) (s : State) : Out :=
  let a := va.toNat
  let c := s.core (coreDie core) (coreNum core)
  let live := match c.line? asid a with
    | some l => l.uo || decide (c.pts ≤ l.e)
    | none => false
  .next (if live || (addrCheck s asid a).isSome || isAperture a || kindOf a == 1 then s
    else match peerPa s (coreWho s core asid) a false with
      | .ok (none, s) => (match llcFill s (coreWho s core asid) a false with
        | .ok s => l1Fill s (coreWho s core asid) a (kindOf a == 2)
        | .error _ => s)
      | _ => s)

/-- LLC_FILL: a sector absent is filled, for a read or a write. A fill that faults has no effect of its own. -/
def execLlcFill (asid : Nat) (va : W64) (write : Bool) (s : State) : Out :=
  let a := va.toNat
  let w := feWho s asid (s.partOn asid (homeDie a)) none
  .next (if (s.sector? asid a).isSome || (addrCheck s asid a).isSome || isAperture a then s
    else match peerPa s w a write with
      | .ok (none, s) => (match llcFill s w a write with
        | .ok s => s
        | .error _ => s)
      | _ => s)

/-- STORE_ACKNOWLEDGE: the oldest acknowledgement on its way reaches the core. -/
def execStoreAcknowledge (core : Nat) (s : State) : Out :=
  .next (match (s.core (coreDie core) (coreNum core)).acks with
    | [] => s
    | t :: rest => s.updCore (coreDie core) (coreNum core) (fun c => { c with pts := max c.pts t, acks := rest }))

/-- WCB_TIMEOUT_DRAIN: 32 clk after the oldest entry opened. -/
def execWcbTimeoutDrain (core : Nat) (s : State) : Out :=
  .next (match (s.core (coreDie core) (coreNum core)).wcb with
    | [] => s
    | e :: _ => if e.since + 32 ≤ s.clk then drainOne s (coreDie core) (coreNum core) else s)

/-- PTS_TICK: one rise for each 256 clk. -/
def execPtsTick (core : Nat) (s : State) : Out :=
  .next (if (s.core (coreDie core) (coreNum core)).ptsTicks < s.clk / 256 then
      s.updCore (coreDie core) (coreNum core) (fun c => { c with pts := c.pts + 1, ptsTicks := c.ptsTicks + 1 })
    else s)

/-- SLICE_OPERATION: the next request at the sector is performed. -/
def execSliceOperation (asid : Nat) (va : W64) (s : State) : Out := .next (sliceNext s asid (sectorOf va.toNat))

/-- STREAM_READAHEAD: the next element not yet read, within 128 positions past POS; one that faults is left to its consumer. -/
def execStreamReadahead (gid team q : Nat) (s : State) : Out :=
  .next (match engCtx s gid with
    | none => s
    | some c =>
      let x := (c.g.team team).getQ q
      let pos := x.pos.toNat
      match (List.range 128).find? (fun i => (assoc x.ahead (pos + i)).isNone && decide (pos + i < x.size)) with
      | none => s
      | some i => match readElem s c x (pos + i) with
        | .error _ => s
        | .ok (v, s) => s.updGroup gid (fun g => g.updTeam team (fun t => t.setQ q { x with ahead := x.ahead ++ [(pos + i, v)] })))

end Sys2Proof.Machine
end

