-- ==== Sys2Proof/Machine/FaultEvents.lean ====
section
/-! DEFINITION. Fault queues (R378 to R381) and dispositions (R382, R383). -/

namespace Sys2Proof.Machine

/-- The record of Table 2. -/
def FRec.bytes (f : FRec) : List Byte :=
  leBytes 1 (f.cls.num + (if f.second then 8 else 0) + (if f.reposted then 16 else 0)) ++ leBytes 1 f.code.num ++ leBytes 1 f.code2 ++
    leBytes 1 f.nmore ++ leBytes 1 f.cause ++ leBytes 1 f.level ++ leBytes 1 f.team ++ leBytes 1 f.lane ++ leBytes 4 f.rid ++
    leBytes 4 f.lanes.toNat ++ leBytes 8 f.gseq.toNat ++ leBytes 8 f.pc.toNat ++ leBytes 8 f.pc2.toNat ++ leBytes 8 f.addr.toNat ++
    leBytes 8 f.detail.toNat ++ leBytes 8 f.time

/-- A record that stops a group: primary, of classes 0 to 3 or 5. -/
def FRec.stops (f : FRec) : Bool := !f.second && (match f.cls with | .device | .hardStop => false | _ => true)

/-- A queue's control block (Table 4): where it stands, ring, slots, dispositions, PROD, CONS. -/
structure FqBlock where
  at_ : Nat
  ring : Nat
  slots : Nat
  dispb : Nat
  prod : W64
  cons : W64
  lost : W64

/-- The block of a queue; one with a reserved bit set, or a field outside what Table 4 allows, describes no queue (R9; log entry 103). -/
def fqBlock (s : State) (queue : Nat) : Option FqBlock :=
  s.fq.table.bind (fun t =>
    let a := t + 64 * queue
    let z := fun (lo n : Nat) => s.paNat (a + lo) n == 0
    let size := s.paNat (a + 8) 1
    if !(z 9 7) || !(z 48 16) || !(decide (6 ≤ size ∧ size ≤ 16)) || s.paNat a 8 % 4096 != 0 || s.paNat (a + 16) 8 % 8 != 0 then none
    else some
      { at_ := a, ring := s.paNat a 8, slots := 2 ^ size, dispb := s.paNat (a + 16) 8, prod := BitVec.ofNat 64 (s.paNat (a + 24) 8),
        cons := BitVec.ofNat 64 (s.paNat (a + 32) 8), lost := BitVec.ofNat 64 (s.paNat (a + 40) 8) })

/-- The order of records of one queue: TIME, then source (R381, R7). -/
def FRec.before (f g : FRec) : Bool :=
  decide (f.time < g.time) || f.time == g.time && decide (f.src.getD policySrc < g.src.getD policySrc)
/-- A data fault that a group of the partition has detected and not reported, its run going on, comes before the record (R378, R381; log
entry 133). -/
def earlierFault (s : State) (queue : Nat) (f : FRec) : Bool :=
  s.groups.any (fun g => g.part == queue && g.bundles.any (fun b => b.dfault.any (fun d =>
    { f with time := d.time, src := some (b.src g) }.before f)))
/-- The record next in that order, among those the test admits, where no fault before it is still to be reported. -/
def nextRec (s : State) (queue : Nat) (p : FRec → Bool) : Option (Nat × FRec) :=
  ((s.fq.pending.filter (fun x => x.1 == queue && p x.2)).foldl (fun acc x =>
    match acc with
    | none => some x
    | some y => if x.2.before y.2 then some x else some y) none).filter (fun x => !(earlierFault s queue x.2))

def dropRec (s : State) (x : Nat × FRec) : State := s.updFq (fun q => { q with pending := q.pending.erase x })

/-- FAULT_RECORD_POST: the record and then PROD; a full queue keeps a record that stops a group waiting and drops others. -/
def execFaultRecordPost (queue : Nat) (s : State) : Out :=
  .next (match fqBlock s queue with
    | none => s
    | some b =>
      if (b.prod - b.cons).toNat ≥ b.slots then
        match nextRec s queue (fun f => !f.stops) with
        | none => s
        | some x => (dropRec s x).paWrite (b.at_ + 40) (leBytes 8 (if b.lost == BitVec.allOnes 64 then b.lost else b.lost + 1).toNat)
      else
        match nextRec s queue (fun _ => true) with
        | none => s
        | some x =>
          let s := (dropRec s x).paWrite (b.ring + 64 * (b.prod.toNat % b.slots)) x.2.bytes
          let s := s.paWrite (b.at_ + 24) (leBytes 8 (b.prod + 1).toNat)
          let s := if queue < 64 then s.count queue 14 1 ((s.range? x.2.rid).bind (·.qid)) else s
          -- of a group saved since, the record is posted again at its resume (R388)
          if x.2.stops && x.2.gid.all (fun g => (s.group? g).isSome) then
            let s := s.updFq (fun q => { q with posted := q.posted ++ [(queue, b.prod.toNat, x.2)] })
            match x.2.gid with
            | some g => s.updGroup g (fun g => { g with stop := g.stop.map (fun st => { st with posted := some (queue, b.prod.toNat) }) })
            | none => s
          else s)

/-! ## Dispositions -/

def actionOf (w : Nat) : Nat := if 1 ≤ w % 8 ∧ w % 8 ≤ 5 then w % 8 else 3

/-- The primary record of a slot that CONS has passed, with its disposition word. -/
def disposed (s : State) (queue slot : Nat) : Option (Nat × FRec × Nat) :=
  (fqBlock s queue).bind (fun b =>
    (s.fq.posted.find? (fun x => x.1 == queue && x.2.1 % b.slots == slot && decide (0 < (b.cons - BitVec.ofNat 64 x.2.1).toNat) &&
        decide ((b.cons - BitVec.ofNat 64 x.2.1).toNat ≤ b.slots))).map (fun x => (x.2.1, x.2.2, s.paNat (b.dispb + 8 * slot) 8)))

/-- The action of a slot is carried out when it is this one. -/
def act (s : State) (queue slot action : Nat) (f : State → Nat → FRec → Nat → State) : Out :=
  .next (match disposed s queue slot with
    | none => s
    | some x =>
      if actionOf x.2.2 != action then s
      else
        let s := s.updFq (fun q => { q with posted := q.posted.filter (fun y => !(y.1 == queue && y.2.1 == x.1)), taken := assocSet q.taken queue (x.1 + 1) })
        match x.2.1.gid with
        | some g => f s g x.2.1 x.2.2
        | none => s)

/-- The group runs on: restartable operations go again, waits are looked at afresh. -/
def runOn (s : State) (gid : Nat) (skip : Bool) : State :=
  let s := wakeStalled (resumeGroup s gid skip) gid
  match s.group? gid with
  | some g => settle s g.rid
  | none => s

def execResume (queue slot : Nat) (s : State) : Out := act s queue slot 1 (fun s g _ _ => runOn s g false)
def execSkip (queue slot : Nat) (s : State) : Out := act s queue slot 2 (fun s g f _ => runOn s g (f.cls == .precise))
def execKillGroup (queue slot : Nat) (s : State) : Out := act s queue slot 3 (fun s g _ _ => killGroupNow s g)
def execKillRange (queue slot : Nat) (s : State) : Out := act s queue slot 4 (fun s _ f _ => killRangeNow s f.rid)
def execSaveRange (queue slot : Nat) (s : State) : Out := act s queue slot 5 (fun s _ f w => wantPre s f.rid 1 (BitVec.ofNat 64 (w / 512 * 512)))

end Sys2Proof.Machine
end

