-- ==== Sys2Proof/Machine/BringUp.lean ====
section
/-! DEFINITION. Reset and bring-up (R411 to R419, R437 to R440): the boot ROM, HBM training, the bring-up mailbox, the function mailboxes
(R424), the socket's reset. -/

namespace Sys2Proof.Machine

/-! ## The boot ROM (R417, R418, R437) -/

/-- PACKAGE_RESET: rails up; everything at reset but what is held across it: TRIP, what is fused (the grade and the SVN minimum), memory outside HBM, the
number of the next draw and free value; M0 takes the ROM's own hash. Phase 1 advances by itself. -/
def execPackageReset (s : State) : Out :=
  let r := State.reset
  .next { r with
    agenda := s.agenda,
    mem := { r.mem with phys := s.mem.phys },
    pkg := { r.pkg with grade := s.pkg.grade, phase := 2, trip := s.pkg.trip, minSvn := s.pkg.minSvn, m0 := extendM 0 (leBytes 48 Config.romHash.toNat),
                        keys := [(0, Config.randomKey s.pkg.draws)], draws := s.pkg.draws + 1, fresh := s.pkg.fresh } }

/-- FIRMWARE_VERIFY: the key's hash, the signature over the image's hash, the SVN, which is the one the image carries (log entry 116). -/
def execFirmwareVerify (image : List Byte) (svn : W32) (sig key : BitVec 768) (s : State) : Out :=
  let h := Config.sha384 image
  let ok := Config.sha384 (leBytes 96 key.toNat) == Config.fusedKeyHash && Config.ecdsaOk key h sig && decide (s.pkg.minSvn.toNat ≤ svn.toNat)
  .next (if s.pkg.phase != 2 || svn != Config.imageSvn image then s
    else if ok then s.updPkg (fun k => { k with phase := 3, svn := svn, m1 := extendM k.m1 (leBytes 48 h.toNat ++ leBytes 4 svn.toNat) })
    else s.updPkg (fun k => { k with phase := 15 }))

/-! ## Frames (R349 to R351, R416) -/

def frameBytes : Nat := 65536
def fotBytes : Nat := 2 ^ 26
def asidTableBytes : Nat := 2 ^ 18
/-- Frames of a die's offsets [off, off + n), by FOT index. -/
def framesOf (die off n : Nat) : List Nat := (List.range (ceilDiv (off % frameBytes + n) frameBytes)).map (fun i => die * 2 ^ 22 + off / frameBytes + i)
/-- The frames of the policy core's own tables. -/
def State.ownFrames (s : State) : List Nat :=
  let one := fun (pa : W64) (n : Nat) => match locOf pa.toNat with
    | .hbm d o => framesOf d o n
    | _ => []
  one s.mem.fotAt fotBytes ++ one s.mem.asidAt asidTableBytes

/-- HBM_TRAINED: every frame zero, the tables placed, every entry OWNER 0xFD, KEY 0, G 1 for the tables' own frames only. Phase 3
advances by itself. -/
def execHbmTrained (fotAt asidAt : W64) (s : State) : Out :=
  .next (if s.pkg.phase != 3 then s
    else
      let s := s.updMem (fun m => { m with phys := m.phys.filter (fun c => decide (2 ^ 47 ≤ c.1)), poison := [], fotAt := fotAt, asidAt := asidAt, fot := [] })
      let s := s.updMem (fun m => { m with fot := s.ownFrames.map (fun i => (i, (0xFD000001 : W32))) })
      s.updPkg (fun k => { k with phase := 4 }))

/-- An entry of the FOT is written with its ownership sync: lines written back and dropped, the guest's copies among them, translations
dropped, the frame zero-filled under a new owner or key (R351, R405, R416). -/
def fotWrite (s : State) (i : Nat) (e : W32) : State :=
  let base := localPa (i / 2 ^ 22) (i % 2 ^ 22 * frameBytes)
  let inFrame := fun (a : Nat) => decide (base ≤ keyOf a ∧ keyOf a < base + frameBytes)
  let old := (assoc s.mem.fot i).getD 0xFD000000
  let s := dropSectors (s.guestFlush (fun k => inFrame (128 * k))) (fun x => inFrame x.pa)
  let s := s.updMem (fun m => { m with tlb := m.tlb.filter (fun t => !((List.range (t.size / 4096)).any (fun k => inFrame (t.pa + 4096 * k)))) })
  let s := s.updMem (fun m => { m with fot := assocSet m.fot i e })
  if e.extractLsb 31 12 == old.extractLsb 31 12 then s
  else s.updMem (fun m => { m with phys := m.phys.clear base frameBytes, poison := m.poison.filter (fun a => !inFrame a) })

/-- What must end first: grants that reach the frames (R404), and a sealed buffer that the write would unseal (R363). -/
def State.reaching (s : State) (fs : List Nat) : List Grant :=
  let inF := fun (a : Nat) => match locOf a with | .hbm d o => fs.contains (d * 2 ^ 22 + o / frameBytes) | _ => false
  s.sock.grants.filter (fun g => (List.range (g.size / 4096)).any (fun k => inF (g.pa + 4096 * k)))
def State.unseals (s : State) (fs : List Nat) (e : W32) : Bool :=
  !fotRO e && s.fe.queues.any (fun q => (q.ind.toList ++ q.indDone).any (fun x => x.isSealed &&
    (List.range ((x.buf.toNat + x.len - 1) / 4096 - x.buf.toNat / 4096 + 1)).any (fun i => match translate s q.asid (x.buf.toNat / 4096 * 4096 + 4096 * i) 0 with
      | .ok t _ => (match locOf (t.pa + (x.buf.toNat / 4096 * 4096 + 4096 * i - t.va)) with
        | .hbm d o => fs.contains (d * 2 ^ 22 + o / frameBytes) && fotRO (s.fotEnt d o)
        | _ => false)
      | .bad _ => false)))

/-! ## The bring-up mailbox (R439) -/

def respond (s : State) (status result : Nat) : State :=
  s.updPkg (fun k => { k with
    bursp := ((Vector.replicate 16 0).mapIdx (fun i _ => (leBytes 4 status ++ leBytes 4 result ++ leBytes 8 0).getD i 0)), budb := 0 })

/-- Every byte outside the operands is zero. -/
def onlyBytes (b : List Byte) (l : List (Nat × Nat)) : Bool :=
  (List.range 64).all (fun i => b.getD i 0 == 0 || i == 0 || l.any (fun x => decide (x.1 ≤ i) && decide (i ≤ x.2)))

/-- A request of this OP: its phases and operand bytes, then what it does: a status and the state, or nothing yet. -/
def request (s : State) (op lo hi : Nat) (l : List (Nat × Nat)) (f : State → List Byte → Option (Nat × Nat × State)) : Out :=
  let b := s.pkg.bureq.toList
  .next (if s.pkg.budb != 1 || fld b 0 1 != op || decide (s.pkg.phase < 3) || decide (s.pkg.phase > 9) then s
    else if !(decide (lo ≤ s.pkg.phase ∧ s.pkg.phase ≤ hi)) || !(onlyBytes b l) then respond s 16 0
    else match f s b with
      | none => s
      | some (st, res, s') => if st == 0 then respond s' 0 res else respond s st 0)

def done (s : State) : Option (Nat × Nat × State) := some (0, 0, s)
def refuse (s : State) (st : Nat) : Option (Nat × Nat × State) := some (st, 0, s)

/-- The frames a request names exist: their offsets are populated (R341). -/
def rangeOk (die off n : Nat) : Bool :=
  decide (die < 4) && off % frameBytes == 0 && n % frameBytes == 0 && decide (off + n ≤ 2 ^ 38) &&
    (List.range 16).all (fun g => decide (off + n ≤ g * 2 ^ 34 + Config.hbmGroupBytes) || decide ((g + 1) * 2 ^ 34 ≤ off) || n == 0)

/-- Entries of a range written alike; what must end first is asked to end, and the request waits. -/
def writeFrames (s : State) (die off n : Nat) (e : W32) (sync : Bool) : Option (Nat × Nat × State) :=
  let fs := framesOf die off n
  if fs.any (fun i => s.ownFrames.contains i) then refuse s 18
  else if !sync then done (s.updMem (fun m => { m with fot := fs.foldl (fun l i => assocSet l i e) m.fot }))
  else
    let gs := s.reaching fs
    if !gs.isEmpty then
      let grp := s.fe.invs
      if gs.all (·.tinv.isSome) then none
      else some (256, grp, gs.foldl (fun s g => if g.tinv.isSome then s else sendTinv s g grp) (s.updFe (fun y => { y with invs := grp + 1 })))
    else if s.unseals fs e then none
    else done (fs.foldl (fun s i => fotWrite s i e) s)

/-- As request, for the requests that change frames: 256 marks a state in which the request still waits. -/
def frameRequest (s : State) (op lo hi : Nat) (l : List (Nat × Nat)) (f : State → List Byte → Option (Nat × Nat × State)) : Out :=
  let b := s.pkg.bureq.toList
  let open_ := s.pkg.budb == 1 && fld b 0 1 == op && decide (max lo 3 ≤ s.pkg.phase ∧ s.pkg.phase ≤ min hi 9) && onlyBytes b l
  match (if open_ then f s b else none) with
  | some (256, _, s') => .next s'
  | _ => request s op lo hi l f

def fotOf (owner key : Nat) (pl ro g : Bool) : W32 :=
  BitVec.ofNat 32 (owner * 2 ^ 24 + key * 2 ^ 12 + pl.toNat * 512 + ro.toNat * 256 + g.toNat)

/-- GRANT. -/
def execGrant (s : State) : Out :=
  frameRequest s 1 4 9 [(1, 5), (8, 23)] (fun s b =>
    let f := fld b 3 1
    if !(decide (fld b 2 1 = 0xFE ∨ fld b 2 1 = 0xFF)) || decide (f ≥ 4) || decide (fld b 4 2 ≥ 4096) || !(rangeOk (fld b 1 1) (fld b 8 8) (fld b 16 8)) then
      refuse s 16
    else writeFrames s (fld b 1 1) (fld b 8 8) (fld b 16 8) (fotOf (fld b 2 1) (fld b 4 2) (bit f 0) (bit f 1) true) (decide (s.pkg.phase ≥ 5)))

/-- ASSIGN. -/
def execAssign (s : State) : Out :=
  frameRequest s 2 6 9 [(1, 1), (3, 5), (8, 23)] (fun s b =>
    let p := fld b 1 1
    let off := fld b 8 8
    let n := fld b 16 8
    if decide (p ≥ 64) || decide (fld b 3 1 ≥ 2) || decide (fld b 4 2 ≥ 4096) || fld b 4 2 == 0 || !(s.keyFilled (fld b 4 2)) ||
        !(rangeOk (p / 16) off n) || off / 2 ^ 34 != p % 16 || (n != 0 && (off + n - 1) / 2 ^ 34 != p % 16) || !(s.carved p) then refuse s 16
    else writeFrames s (p / 16) off n (fotOf p (fld b 4 2) (bit (fld b 3 1) 0) false true) true)

/-- REVOKE. -/
def execRevoke (s : State) : Out :=
  frameRequest s 3 5 9 [(1, 1), (8, 23)] (fun s b =>
    if !(rangeOk (fld b 1 1) (fld b 8 8) (fld b 16 8)) then refuse s 16
    else writeFrames s (fld b 1 1) (fld b 8 8) (fld b 16 8) (fotOf 0xFD 0 false false false) true)

/-- FQTABLE. -/
def execFqtable (s : State) : Out :=
  request s 4 4 4 [(8, 15)] (fun s b =>
    let pa := fld b 8 8
    let own := (pages4k pa (65 * 64)).any (fun a => match locOf a with
      | .hbm d o => s.ownFrames.contains (d * 2 ^ 22 + o / frameBytes)
      | _ => false)
    let host := (pages4k pa (65 * 64)).all (fun a => match locOf a with
      | .hbm d o => fotOwner (s.fotEnt d o) == 0xFF && fotG (s.fotEnt d o)
      | _ => false)
    if own then refuse s 18 else if host then done (s.updFq (fun q => { q with table := some pa })) else refuse s 16)

/-- CLOCK. -/
def execClock (s : State) : Out :=
  request s 5 4 4 [(1, 1)] (fun s b =>
    if decide (fld b 1 1 ≥ 2) then refuse s 16 else done (s.updPkg (fun k => { k with fixedClk := bit (fld b 1 1) 0, mhz := if bit (fld b 1 1) 0 then 700 else k.mhz })))

/-- BUDGET. -/
def execBudget (s : State) : Out :=
  request s 6 4 6 [(1, 3)] (fun s b =>
    let p := fld b 1 1
    let w := fld b 2 2
    let others := sumOf (fun (x : Part) => x.budget) (s.fe.parts.filter (fun x => x.num != p))
    if decide (p ≥ 64) || decide (w < 1 ∨ 3600 < w) || decide (3600 < others + w) then refuse s 16 else done (s.updPart p (fun x => { x with budget := w })))

/-- The fields of an ASID entry (R339). -/
def asidEntOk (b : List Byte) : Bool :=
  (List.range 4).all (fun d =>
    let r := BitVec.ofNat 64 (fld b (8 * d) 8)
    r.extractLsb 63 48 == 0 && r.extractLsb 11 1 == 0 && (fld b (32 + d) 1 == 0xFF || fld b (32 + d) 1 / 16 == d)) && decide (fld b 36 1 < 2)
def asidEntFrom (asid : Nat) (b : List Byte) : AsidEnt :=
  { asid := asid, roots := (Vector.replicate 4 0).mapIdx (fun d _ => BitVec.ofNat 64 (fld b (8 * d) 8)),
    parts := (Vector.replicate 4 0).mapIdx (fun d _ => BitVec.ofNat 8 (fld b (32 + d) 1)), ctl := BitVec.ofNat 8 (fld b 36 1) }

/-- ASIDSET. -/
def execAsidset (s : State) : Out :=
  request s 7 6 9 [(2, 3), (8, 44)] (fun s b =>
    let a := fld b 2 2
    let e := (b.drop 8).take 37
    if decide (a ≥ 4096) || !(asidEntOk e) || s.fe.queues.any (fun q => q.asid == a) then refuse s 16
    else done (s.updMem (fun m => { m with asids := updOr (fun x => x.asid == a) { asid := a } (fun _ => asidEntFrom a e) m.asids })))

/-- A partition's registers return to reset as its bit is set (R413, R418). -/
def carvePart (s : State) (p : Nat) : State :=
  let d := dfltPart p
  s.updPart p (fun x => { x with carve := d.carve, carveOld := d.carveOld, carvePend := none, resDrain := 0, policy := d.policy, bk := [], wt := [], m4 := 0 })

/-- A partition's units become spare as its bit is cleared (R412): its slices hold no lines any more, nor the L1s of its cores, and no
translation of its address spaces stays on its die. -/
def sparePart (s : State) (p : Nat) : State :=
  let s := s.updMem (fun m => { m with tlb := m.tlb.filter (fun t => !(t.die == p / Config.partsPerDie && s.partOn t.asid t.die == p)) })
  (coresOf p).foldl (fun s c => s.updCore (p / Config.partsPerDie) c (fun k => { k with l1 := [] })) (dropSectors s (fun x => x.part == p))

/-- What keeps a partition carved (R413). -/
def carveHolds (s : State) (p : Nat) : Bool :=
  s.fe.queues.any (fun q => q.owner == p) || (s.ranges ++ s.waiting).any (fun r => r.part == p || r.harps.any (fun h => s.partOn r.asid h.die == p)) ||
    s.mem.fot.any (fun x => fotOwner x.2 == p) || vfHas s p

/-- CMAP: bits set at any time, cleared only when nothing holds the partition; a clearing write otherwise is ignored, and so is one that
names a partition the grade lacks. -/
def execCmap (s : State) : Out :=
  request s 8 6 9 [(1, 1), (4, 7)] (fun s b =>
    let d := fld b 1 1
    let v := BitVec.ofNat 32 (fld b 4 4)
    let old := s.pkg.cmap.toList.getD d 0
    let at_ := fun (t : Nat → Bool) => (List.range 16).filter t
    if decide (d ≥ 4) || v.extractLsb 31 16 != 0 then refuse s 16
    else if (at_ (fun i => v.getLsbD i)).any (fun i => decide (i ≥ s.pkg.grade.parts)) then done s
    else if (at_ (fun i => old.getLsbD i && !v.getLsbD i)).any (fun i => carveHolds s (16 * d + i)) then done s
    else
      let s := (at_ (fun i => v.getLsbD i && !old.getLsbD i)).foldl (fun s i => carvePart s (16 * d + i)) s
      let s := (at_ (fun i => old.getLsbD i && !v.getLsbD i)).foldl (fun s i => sparePart s (16 * d + i)) s
      done (extendReg (s.updPkg (fun k => { k with cmap := k.cmap.setIfInBounds d v })) 0 d (v.setWidth 64)))

/-- CARVE. -/
def execCarve (s : State) : Out :=
  request s 9 6 6 [(1, 1), (4, 7)] (fun s b =>
    let p := fld b 1 1
    if decide (p ≥ 64) then refuse s 16
    else match carveWrite s p (BitVec.ofNat 32 (fld b 4 4)) with
      | .error e => refuse s e
      | .ok s => done (carveSettle (extendReg s 1 p ((s.carve p &&& 0xF7FFFFFF).setWidth 64)) p))

/-- POLICY. -/
def execPolicy (s : State) : Out :=
  request s 10 6 6 [(1, 1), (8, 15)] (fun s b =>
    let w := BitVec.ofNat 64 (fld b 8 8)
    if decide (fld b 1 1 ≥ 64) || !(policyOk w) then refuse s 16 else done (policyWrite s (fld b 1 1) w))

/-! ## Keys (R415) -/

def slotNamed (s : State) (k : Nat) : Bool := s.mem.fot.any (fun x => fotKey x.2 == k)
def fillSlot (s : State) (k : Nat) (x : Option (BitVec 256)) : State :=
  s.updPkg (fun p => { p with
    keys := p.keys.filter (fun y => y.1 != k) ++ (match x with | some v => [(k, v)] | none => []), m2 := extendM p.m2 ([3] ++ leBytes 2 k) })

/-- KEYLOAD. -/
def execKeyload (s : State) : Out :=
  request s 11 6 9 [(1, 1), (4, 5), (8, 47)] (fun s b =>
    let k := fld b 4 2
    let wrap := (b.drop 8).take 40
    if decide (fld b 1 1 ≥ 2) || k == 0 || decide (k ≥ 4096) || slotNamed s k then refuse s 16
    else if fld b 1 1 == 0 then
      (if wrap.all (· == 0) then done ((fillSlot s k (some (Config.randomKey s.pkg.draws))).updPkg (fun p => { p with draws := p.draws + 1 })) else refuse s 16)
    else match Config.unwrapKey wrap with
      | some x => done (fillSlot s k (some x))
      | none => refuse s 16)

/-- KEYDROP. -/
def execKeydrop (s : State) : Out :=
  request s 12 6 9 [(4, 5)] (fun s b =>
    let k := fld b 4 2
    if k == 0 || decide (k ≥ 4096) || slotNamed s k then refuse s 16 else done (fillSlot s k none))

/-- VFBIND. -/
def execVfbind (s : State) : Out :=
  request s 13 6 9 [(1, 1), (8, 15)] (fun s b =>
    let v := fld b 1 1
    let m := BitVec.ofNat 64 (fld b 8 8)
    if decide (v < 1 ∨ 63 < v) || (List.range 64).any (fun p => m.getLsbD p && !(s.carved p)) then refuse s 16
    else done (s.updPkg (fun k => { k with vfs := assocSet k.vfs v m })))

/-! ## ADVANCE (R437), the socket (R440) -/

/-- The socket is trained with a guest, whose identity and measurement extend M3, or left untrained; a link that does not come up again at
a reset extends M3 all the same (R440). -/
def trainSocket (s : State) (ident : Option (List Byte)) (up : Bool) : State :=
  let s := s.updSock (fun k => { k with trained := ident.isSome && up, fenced := false, chans := [], grants := [], waitTcpl := [], lines := [] })
  match ident with
  | some x => s.updPkg (fun k => { k with m3 := extendM k.m3 x })
  | none => s

/-- ADVANCE: waits until the current step is complete; the FOT is enabled on entry to phase 5, links trained on entry to 7 and 8. -/
def execAdvance (stepDone : Bool) (ident : Option (List Byte)) (s : State) : Out :=
  request s 14 4 8 [] (fun s _ =>
    if !stepDone then none
    else
      let n := s.pkg.phase + 1
      let s := s.updPkg (fun k => { k with phase := n, fotOn := k.fotOn || decide (n ≥ 5), portsDown := if n == 7 then [] else k.portsDown })
      some (0, n, if n == 8 then trainSocket s ident true else s))

/-- SOCKET_RESET (R440). -/
def execSocketReset (ident : List Byte) (trained : Bool) (s : State) : Out :=
  .next (if decide (s.pkg.phase < 8) || decide (s.pkg.phase > 9) then s else trainSocket (endGuest s) (some ident) trained)

/-! ## The mailboxes of the functions (R419, R424) -/

def State.box (s : State) (fn : Nat) : List Byte × List Byte × W64 :=
  ((s.pkg.vfBox.find? (fun x => x.1 == fn)).map (·.2)).getD (List.replicate 64 0, List.replicate 64 0, 0)
def State.setBox (s : State) (fn : Nat) (x : List Byte × List Byte × W64) : State :=
  s.updPkg (fun k => { k with vfBox := updOr (fun y => y.1 == fn) (fn, x) (fun _ => (fn, x)) k.vfBox })
/-- The response: status in byte 0; then the doorbell returns to 0. -/
def answer (s : State) (fn status : Nat) (x : List Byte) : State :=
  s.setBox fn ((s.box fn).1, leBytes 8 status ++ x ++ List.replicate (56 - x.length) 0, 0)

/-- COUNT: accumulator e over the function's live queues. -/
def execCount (fn : Nat) (s : State) : Out :=
  let b := s.box fn
  let e := fld b.1 1 1
  .next (if b.2.2 != 1 || fld b.1 0 1 != 1 then s
    else if decide (e ≥ 16) || !(zeros b.1 2 63) then answer s fn 16 []
    else answer s fn 0 (leBytes 8 s.ticks ++ leBytes 8 (sumOf (fun (q : Queue) => q.accs.getD e 0) (s.fe.queues.filter (fun q => q.fn == fn)))))

/-- The report (Table 2 of R419). -/
def reportBytes (s : State) (p : Nat) (nonce : List Byte) : List Byte :=
  let m := fun (x : BitVec 384) => leBytes 48 x.toNat
  let b := nonce ++ m s.pkg.m0 ++ m s.pkg.m1 ++ m s.pkg.m2 ++ m s.pkg.m3 ++ m (s.part p).m4 ++
    leBytes 4 (s.pkg.grade.num + s.pkg.fixedClk.toNat * 16 + p * 256) ++ leBytes 4 s.pkg.svn.toNat ++ List.replicate 104 0
  b ++ leBytes 96 (Config.attestSign s.pkg.m0 s.pkg.m1 (Config.sha384 b)).toNat

/-- ATTEST: the report goes to the buffer in host memory. -/
def execAttest (fn : Nat) (s : State) : Out :=
  let b := s.box fn
  let p := fld b.1 1 1
  .next (if b.2.2 != 1 || fld b.1 0 1 != 2 then s
    else if !(zeros b.1 2 7) then answer s fn 16 []
    else if decide (p ≥ 64) || (fn != 0 && !((assoc s.pkg.vfs fn).any (fun m => m.getLsbD p))) then answer s fn 18 []
    else answer (s.paWrite (2 ^ 47 + fld b.1 8 8 % 2 ^ 45) (reportBytes s p ((b.1.drop 16).take 48))) fn 0 [])

end Sys2Proof.Machine
end

