-- ==== Sys2Proof/Machine/Registers.lean ====
section
/-! DEFINITION. Register writes by the host (R8, R422, R424, R438), trace, log and samples as rows of their own (R425 to R430), power,
temperature and self-test (R433 to R436). -/

namespace Sys2Proof.Machine

/-! ## TCTL (R422, R428, R430) -/

/-- TEN rises: a sync packet, then the state set of every group on the partition's cores, in the order of R7. -/
def traceStart (s : State) (p : Nat) : State :=
  let s := traceSyncNow (s.updPart p (fun x => { x with tsync := 0, tsince := 0, tdrop := 0 })) p
  (s.groups.filter (fun g => g.part == p)).foldl (fun s g => match s.range? g.rid with
    | some r => traceWrite s p (g.src ((g.bundles.map (fun b => laneOf (b.ts.headD 0))).foldl min 31)) (stateSet s g r)
    | none => s) s

/-- LEN rises: logging of a range goes on at its next checkpoint. -/
def logStart (s : State) (p : Nat) : State :=
  let s := s.updPart p (fun x => { x with lfull := false, ltail := {} })
  { s with ranges := upd (fun r => r.part == p) (fun r => { r with ckpt := false }) s.ranges }

def sintOk (x : W64) : Bool := let n := (x.extractLsb 20 16).toNat; n == 0 || decide (8 ≤ n ∧ n ≤ 24)

/-- A write of TCTL; one of a reserved SINT is ignored whole. -/
def tctlWrite (s : State) (p : Nat) (x : W64) : State :=
  if s.pkg.phase != 9 || !(sintOk x) then s
  else
    let old := (s.part p).tctl
    let s := s.updPart p (fun y => { y with tctl := x &&& 0x1F0111 })
    let s := if x.getLsbD 0 && !old.getLsbD 0 then traceStart s p else s
    if x.getLsbD 4 && !old.getLsbD 4 then logStart s p else s

/-- TRACE_ENABLE, TRACE_DISABLE, LOG_ENABLE: writes of TCTL that change one bit. -/
def execTraceEnable (part : Nat) (s : State) : Out := .next (tctlWrite s part ((s.part part).tctl ||| 1))
def execTraceDisable (part : Nat) (s : State) : Out := .next (tctlWrite s part ((s.part part).tctl &&& ~~~1))
def execLogEnable (part : Nat) (s : State) : Out := .next (tctlWrite s part ((s.part part).tctl ||| 16))

/-! ## REGISTER_WRITE (R8)

The model numbers the registers (log entry 24). -/

def baseMask : W64 := 0x0000FFFFFFFFF03F

/-- Where the log has room, what waited for it goes on (R430). -/
def logMoved (s : State) : State := s.ranges.foldl (fun s r => settle s r.rid) s

/-- Writes of the telemetry block (Table 1 of R422). -/
def telemetryWrite (s : State) (reg p : Nat) (x : W64) : State :=
  match reg with
  | 0 => if sintOk x then logMoved (tctlWrite s p x) else s
  | 1 => s.updPart p (fun y => { y with sbase := x &&& baseMask })
  | 2 => s.updPart p (fun y => { y with tbase := x &&& baseMask, ttail := {} })
  | 3 => logMoved (s.updPart p (fun y => { y with lbase := x &&& baseMask, ltail := {} }))
  | 4 => s.updPart p (fun y => { y with scons := x })
  | 5 => s.updPart p (fun y => { y with tcons := x })
  | 6 => logMoved (s.updPart p (fun y => { y with lcons := x }))
  | 7 => s.updPart p (fun y => { y with rctl := x &&& 0x1FFFFFFFF })
  | 8 => s.updPart p (fun y => { y with rbase := x })
  | 9 => s.updPart p (fun y => { y with rlen := x })
  | n => if decide (16 ≤ n ∧ n < 32) then s.updPart p (fun y => { y with cnt := y.cnt.setIfInBounds (n - 16) x }) else s

/-- BUDB: a 1 sends the request; a reserved OP is answered at once. -/
def budbWrite (s : State) (x : W64) : State :=
  if s.pkg.budb == 1 || x.extractLsb 31 0 != 1 || decide (s.pkg.phase < 3) || decide (s.pkg.phase > 9) then s
  else
    let op := fld s.pkg.bureq.toList 0 1
    let s := s.updPkg (fun k => { k with budb := 1 })
    if decide (1 ≤ op ∧ op ≤ 14) then s else respond s 16 0

/-- The doorbell of a function's mailbox. -/
def boxDoorbell (s : State) (fn : Nat) (x : W64) : State :=
  let b := s.box fn
  if b.2.2 == 1 || x != 1 then s
  else
    let s := s.setBox fn (b.1, b.2.1, 1)
    if fld b.1 0 1 == 1 || fld b.1 0 1 == 2 then s else answer s fn 16 []

/-- Writes by the physical function in its configuration space, and what the policy core sets for it: DSTAT.TRIP (W1C), ECCC, BUREQ,
BUDB, an import mask, a queue of its own making, the fused minimum SVN, the words of the IDE keys. -/
def policyRegs (s : State) (reg index : Nat) (x : W64) : State :=
  match reg with
  | 32 => s.updPkg (fun k => { k with trip := k.trip && !x.getLsbD 8 })
  | 33 => s.updPkg (fun k => { k with eccc := x })
  | 34 => if s.pkg.budb == 1 || decide (index ≥ 8) then s
      else s.updPkg (fun k => { k with bureq := k.bureq.mapIdx (fun i b => if i / 8 == index then (leBytes 8 x.toNat).getD (i % 8) 0 else b) })
  | 35 => budbWrite s x
  | 38 => if decide (s.pkg.phase < 3) || decide (s.pkg.phase > 9) then s else s.updFe (fun y => { y with
      imports := (y.imports.filter (fun m => m != (index / 512, index % 512))) ++ (if x.getLsbD 0 then [(index / 512, index % 512)] else []) })
  | 39 =>
    if s.pkg.phase != 9 then s
    else match feRead s (feWho s (index / 1024) 0 none) none x.toNat 128 with
      | .error _ => s
      | .ok (b, s) => match makeQueue s (index % 1024) x (index / 1024) b with
        | .ok s => s
        | .error _ => s
  | 42 => if index < 8 then s.updPkg (fun k => { k with ide := assocSet k.ide index x }) else s
  | 40 => s.updPkg (fun k => { k with minSvn := if decide (3 ≤ k.phase ∧ k.phase ≤ 9) && decide (k.minSvn.toNat ≤ k.svn.toNat) then k.svn else k.minSvn })
  | _ => s

/-- The record of Table 6 of R356. -/
def PReq.record (x : PReq) : List Byte := leBytes 8 x.va ++ leBytes 2 x.asid ++ leBytes 1 x.die ++ leBytes 1 x.part ++ leBytes 4 x.count.toNat
/-- The driver reads the oldest page-request record of a partition (R356). -/
def pageRead (s : State) (p : Nat) : State :=
  match (s.part p).preq with
  | [] => s
  | x :: l => s.updPart p (fun y => { y with preq := l, preqRead := x.record })

/-- The device status capability of PF 0's configuration space, as it reads from phase 1 on (Table 3 of R438). -/
def capability (s : State) : List Byte :=
  leBytes 4 (0x0001000B + Config.capNext.toNat * 2 ^ 20) ++ leBytes 4 (0x0058 + 1 * 2 ^ 16 + 0xB4 * 2 ^ 20) ++
    leBytes 4 (s.pkg.phase + 256 * s.pkg.trip.toNat) ++ leBytes 4 0 ++ leBytes 8 s.pkg.eccc.toNat ++ leBytes 8 0 ++
    (s.pkg.fcore.toList.map (fun x => leBytes 16 x.toNat)).flatten ++ s.pkg.bureq.toList ++ s.pkg.bursp.toList ++ leBytes 4 s.pkg.budb.toNat

/-- BAR2 takes writes in phase 9 (R437); registers of the PF's configuration space act from phase 1 on, in BOOT_DENIED too (R417). -/
def execRegisterWrite (reg index : Nat) (value : W64) (s : State) : Out :=
  .next (if s.pkg.phase == 0 then s
    else if reg < 32 then (if s.pkg.phase == 9 && decide (index < 64) then telemetryWrite s reg index value else s)
    else if reg == 36 then
      let fn := index / 8
      let b := s.box fn
      if s.pkg.phase != 9 || b.2.2 == 1 || decide (fn ≥ 64) then s
      else s.setBox fn ((List.range 64).map (fun i => if i / 8 == index % 8 then (leBytes 8 value.toNat).getD (i % 8) 0 else b.1.getD i 0), b.2.1, b.2.2)
    else if reg == 37 then (if s.pkg.phase == 9 && decide (index < 64) then boxDoorbell s index value else s)
    else if reg == 41 then (if s.pkg.phase == 9 then pageRead s index else s)
    else policyRegs s reg index value)

/-! ## Samples and trace housekeeping -/

/-- SAMPLE_RECORD: the oldest sampled instruction of a core whose last lane has returned or been acknowledged is written. -/
def execSampleRecord (core : Nat) (s : State) : Out :=
  .next (match (s.core (coreDie core) (coreNum core)).sampleDue.find? (sampleOver s (s.core (coreDie core) (coreNum core))) with
    | none => s
    | some x => samplePut (s.updCore (coreDie core) (coreNum core) (fun c => { c with sampleDue := c.sampleDue.erase x })) (corePart core) (x.record s.clk))

def execTraceSync (part : Nat) (s : State) : Out := .next (if syncDue (s.part part) then traceSyncNow s part else s)
def execTraceLostRecovery (part : Nat) (s : State) : Out := .next (if lostDue (s.part part) then traceLostNow s part else s)

/-! ## Power, temperature, self-test -/

/-- A partition's power over the window in watts: above its budget where the row lists it, at most that otherwise; the value is free (log
entry 118). -/
def measure (s : State) (overs : List Nat) (p : Nat) : State :=
  let (bs, s) := s.freshBytes 2
  let w := fun (x : Part) => if overs.contains p then x.budget + 1 + leNat bs else leNat bs % (x.budget + 1)
  s.updPart p (fun x => { x with power := w x, withheld := decide (w x > x.budget) })
/-- POWER_WINDOW (R433): what a 1 ms window measured. -/
def execPowerWindow (watts amps : Nat) (overs : List Nat) (s : State) : Out :=
  .next (if s.pkg.fixedClk then
      ((List.range 64).filter (s.carved ·)).foldl (fun s p => measure s overs p) s
    else if watts > 3600 || amps > 7500 then s.updPkg (fun k => { k with mhz := max 350 (k.mhz - 25) })
    else if watts < 3420 && amps < 7125 then s.updPkg (fun k => { k with mhz := min 700 (k.mhz + 25) })
    else s)

/-- THERMAL_THROTTLE, TEMPERATURE_BELOW_95C (R434): while a die is listed every core clock is halved. -/
def execThermalThrottle (die : Nat) (s : State) : Out :=
  .next (if decide (die < 4) && !(s.pkg.hot.contains die) then s.updPkg (fun k => { k with hot := k.hot ++ [die] }) else s)
def execTemperatureBelow95c (die : Nat) (s : State) : Out := .next (s.updPkg (fun k => { k with hot := k.hot.filter (· != die) }))
/-- The core clock in units of half a MHz. -/
def State.coreRate (s : State) : Nat := if s.pkg.hot.isEmpty then 2 * s.pkg.mhz else s.pkg.mhz

/-- THERMAL_TRIP: the core rails go; no record. -/
def execThermalTrip (s : State) : Out := .next (s.updPkg (fun k => { k with railsOff := true, trip := true }))

/-- CORE_SELFTEST_FAIL (R2, R436): FCORE, the gate, and a stop of each resident group as on poison. -/
def execCoreSelftestFail (die core : Nat) (s : State) : Out :=
  .next (if decide (die ≥ 4) || decide (core ≥ s.pkg.grade.cores) then s
    else
      let s := s.updPkg (fun k => { k with fcore := k.fcore.setIfInBounds die (k.fcore.toList.getD die 0 ||| (1#128 <<< core)) })
      let s := s.updCore die core (fun c => { c with failed := true })
      (s.groups.filter (fun g => g.die == die && g.core == core)).foldl (fun s g =>
        stopGroup s g.id { cls := .runPrecise, code := .pgfault, cause := 13, time := s.ticks, pc := ((g.bundles.head?).map (·.pc)).getD 0 } none none) s)

end Sys2Proof.Machine
end

