-- ==== Sys2Proof/Machine/Sched.lean ====
section
/-! DEFINITION. What a step of the machine is made of: fetching an instruction (R146, R161, R162), which move comes next (log entry 1), and
what an issue meets before its instruction: a safe point (R319), a watch or breakpoint (R295, R296). -/

namespace Sys2Proof.Machine

/-! ## Fetch -/

/-- The length of the instruction at pc; 4 where its first halfword cannot be read (log entry 119). -/
def lenAt (s : State) (x : Except (AFault × Nat) (List Byte × State)) : Nat × State :=
  match x with
  | .ok (h, s) => (lenOf (h.getD 0 0) (h.getD 1 0), s)
  | .error _ => (4, s)
/-- Why a fetch did not complete: a frame check and a synonym are a PGFAULT too (R146; log entry 81). -/
def fetchFault (f : AFault) : AFault :=
  match f.code with
  | .fotdeny | .synonym => { f with code := .pgfault }
  | _ => f
/-- One halfword: its page must have X set. A fetch meets no aperture. -/
def fetchHalf (s : State) (w : Who) (a : Nat) : Except (AFault × Nat) (List Byte × State) :=
  match addrCheck s w.asid a with
  | some f => .error (f, a)
  | none =>
    if isAperture a then .error (pgf 6 0, a)
    else match translate s w.asid a 2 with
      | .bad f => .error (fetchFault f, a)
      | .ok _ s => match agentRead s w a 2 with
        | .error f => .error (fetchFault f, a)
        | .ok x => .ok x

def fetchHalves (s : State) (w : Who) (l : List Nat) : Except (AFault × Nat) (List Byte × State) :=
  foldE (fun (x : List Byte × State) a => match fetchHalf x.2 w a with
    | .ok y => .ok (x.1 ++ y.1, y.2)
    | .error e => .error e) l ([], s)

/-- The bytes of the instruction at pc: 2, 4, or 8 with a prefix. -/
def fetch (s : State) (w : Who) (pc : Nat) : Except (AFault × Nat) (List Byte × State) :=
  match fetchHalf s w pc with
  | .error e => .error e
  | .ok (h, s) =>
    let n := lenOf (h.getD 0 0) (h.getD 1 0)
    match fetchHalves s w ((List.range (n / 2 - 1)).map (fun i => pc + 2 + 2 * i)) with
    | .error e => .error e
    | .ok (t, s) => .ok (h ++ t, s)

/-- A fetch reads at the home slice, for no group's account. -/
def fetchWho (s : State) (g : Group) (r : RangeSt) : Who :=
  { die := 4, core := 0, gid := s.nextGid, rid := r.rid, asid := r.asid, part := g.part, qid := r.qid }

/-! ## Moves -/

/-- What a step does: a state, or an instruction on a state, with the DSTEP it answers and the lane mask. -/
inductive Todo where
  | now (s : State)
  | run (i : Instr) (s : State) (d : Option (DStep × W32))

/-- Requests made at one moment are of one age, behind every other of their core (R47): they take their ages together. -/
def ageAll (s : State) : State :=
  let aged := fun (g : Group) => upd (fun b => b.age == 0 && b.st == .ready) (fun b => { b with age := s.freshAge g.die g.core }) g.bundles
  { s with groups := s.groups.map (fun g => { g with bundles := aged g }) }

/-- Where the bundle that has issued stands now: a watch hit halts its group at this boundary (R296), and a Basin that its wait leaves due
is drawn (R44). -/
def atBoundary (s : State) : State :=
  match s.cur with
  | none => s
  | some c =>
    let s := watchHalt s c.gid c.bid
    match s.group? c.gid with
    | none => s
    | some g => if g.bundles.any (fun b => match b.st with | .basin _ _ => true | _ => false) then settle s g.rid else s

/-- After an instruction or a stop: an answered DSTEP, what its boundary asks for, mail that has come. -/
def wrapUp (d : Option (DStep × W32)) (s : State) : State :=
  ageAll (serveRecvs (atBoundary (match d with
    | some x => dstepDone s x.1 x.2
    | none => s)))

/-- The bundle fetches and issues the instruction at its PC. -/
def issueAt (s : State) (gid bid : Nat) (d : Option DStep) : Todo :=
  match s.group? gid with
  | none => .now s
  | some g => match g.bundle? bid, s.range? g.rid with
    | some b, some r =>
      let d := d.map (fun x => (x, lanesMask b.ts))
      let s := s.updBundle gid bid (fun b => { b with st := .ready, atClk := s.clk + 1 })
      let at_ := fun (s : State) (n : Nat) (x : W64) => { s with cur := some { gid := gid, bid := bid, pc := b.pc, len := n, words := x } }
      let stop := fun (s : State) (f : Ctx → State) => Todo.now (wrapUp d (match s.ctx with | some c => f c | none => s))
      match fetch s (fetchWho s g r) b.pc.toNat with
      | .error (f, a) =>
        let x := lenAt s (fetchHalf s (fetchWho s g r) b.pc.toNat)
        let s := at_ (x.2.poisonRec f) x.1 0
        stop s (fun c => precise s c f.code f.cause f.level (BitVec.ofNat 64 a) 0 c.b.ts)
      | .ok (bs, s) =>
        let s := at_ s bs.length (BitVec.ofNat 64 (leNat bs))
        match decode bs with
        | .ok (i, _) => .run i s d
        | .error _ => stop s (fun c => illop s c)
    | _, _ => .now s

/-- The bundle may contend for issue. -/
def canIssue (s : State) (g : Group) (b : Bundle) : Bool :=
  (b.st == .ready || b.st == .stalled) && g.stop.isNone && !g.halted && !g.hardAt && !b.safe && coreIssues s g

/-- A bundle about to issue: first what its boundary asks for. -/
def moveIssue (s : State) (gid bid : Nat) : Todo :=
  match s.group? gid with
  | none => .now s
  | some g => match g.bundle? bid, s.range? g.rid with
    | some b, some r =>
      if !(canIssue s g b) then .now s
      else if !b.watch.isEmpty then .run (.watchpointHalt gid bid) s none
      else if r.pre.isSome && atSafePoint r b then .run (.safePointStop gid bid) s none
      else if (breakAt s g b).isSome then .run (.breakpointHalt gid bid) s none
      else issueAt s gid bid none
    | _, _ => .now s

/-! ## Time -/

/-- Cores with a resident group are counted, for the group's partition and for its range's queue, and matrix arrays at work (R423). -/
def countCores (s : State) : State :=
  let at_ := (s.groups.map (fun g => (g.part, 128 * g.die + g.core))).eraseDups
  let qs := (s.groups.filterMap (fun g => ((s.range? g.rid).bind (·.qid)).map (fun q => (q, 128 * g.die + g.core)))).eraseDups
  let s := qs.foldl (fun s x => s.updQueue x.1 (Queue.bump 0 1)) (at_.foldl (fun s x => s.count x.1 0 1 none) s)
  (s.eng.ops.filter (fun o => o.started && (match o.kind with | .mtx .. => true | _ => false))).foldl (fun s o => match s.group? o.gid with
    | some g => s.count g.part 9 1 ((s.range? g.rid).bind (·.qid))
    | none => s) s

/-- Each core's logical clock has risen once for each 256 clk (R82). -/
def tickCores (s : State) : State :=
  let n := s.clk / 256
  s.updMem (fun m => { m with cores := m.cores.map (fun c => { c with pts := c.pts + (n - c.ptsTicks), ptsTicks := max c.ptsTicks n }) })

/-- Entries of a write-combining buffer that have stood for 32 clk go to their home slices, the oldest first (R83). -/
def drainAgedN (s : State) (die core : Nat) : Nat → State
  | 0 => s
  | n + 1 => match (s.core die core).wcb with
    | e :: _ => if e.since + 32 ≤ s.clk then drainAgedN (drainOne s die core) die core n else s
    | [] => s

/-- What falls due as a clk passes (R44, R82, R83, R106, R385); a wait on a word behind a Canal window is tested again (R249). -/
def fallDue (s : State) : State :=
  let s := tickCores s
  let s := s.mem.cores.foldl (fun s c => drainAgedN s c.die c.num c.wcb.length) s
  let s := ((s.groups.map (fun g => (g.die, g.core))).eraseDups).foldl (fun s x => drawAged s x.1 x.2 32) s
  let s := s.groups.foldl (fun s g => if g.stop.isNone then rereadPolls s g.id (fun p => p.peer && !p.ok) else s) s
  let s := (s.fe.parts.filter (fun p => p.carve.getLsbD 27)).foldl (fun s p => carveSettle s p.num) s
  ageAll (s.ranges.foldl (fun s r => hardStop s r.rid) s)

/-- A clk of the cores; without their rails there is none (R434). -/
def passClk (s : State) (ticks : Nat) : State :=
  if s.pkg.railsOff then { logHolds s ticks with ticks := s.ticks + ticks }
  else
    let s := samplesOver (countCores (logHolds s ticks))
    fallDue { s with clk := s.clk + 1, ticks := s.ticks + ticks }

/-- Time passes: so many clk of the cores, and ticks spread over them. -/
def elapse (s : State) (clk ticks : Nat) : State :=
  if clk == 0 then { logHolds s ticks with ticks := s.ticks + ticks }
  else (List.range clk).foldl (fun s i => passClk s (ticks * (i + 1) / clk - ticks * i / clk)) s

/-- Ticks of 1 ns in the next clk at the core clock's rate. -/
def ticksOfClk (s : State) : Nat := (s.clk + 1) * 2000 / s.coreRate - s.clk * 2000 / s.coreRate

/-- What moves by itself while a clk passes, where nothing else is asked for: acknowledgements reach their cores (R82), the oldest
request of each sector is performed (R144), a bundle with 63 outstanding takes a result back (R149, R150). With the core rails off nothing
does (R434). -/
def clockWork (s : State) : State :=
  if s.pkg.railsOff then s else
  let s := s.mem.cores.foldl (fun s c => takeAcks s c.die c.num) s
  let s := ((s.mem.slice.map (fun r => (r.asid, r.va))).eraseDups).foldl (fun s x => sliceNext s x.1 x.2) s
  s.groups.foldl (fun s g => g.bundles.foldl (fun s b =>
    if b.st == .stalled && decide (63 ≤ b.outst.length) then settle (s.updGroup g.id (fun g => g.returnOne b.id)) g.rid else s) s) s

/-- One clk passes. -/
def idle (s : State) : State := clockWork (elapse s 1 (ticksOfClk s))

/-! ## The order of moves at one time (R7, R183, R194) -/

def bundleSrc (s : State) (gid bid : Nat) : Option Nat := (s.group? gid).bind (fun g => (g.bundle? bid).map (fun b => b.src g))
/-- The source of the records an event makes (R7); none for an event of the world outside, which makes none of its own. -/
def srcOf (s : State) (i : Instr) : Option Nat :=
  let group := fun (gid : Nat) => (s.group? gid).map (fun g => g.src 0)
  let op := fun (id : Nat) => (s.eng.ops.find? (fun o => o.id == id)).bind (fun o => (s.group? o.gid).map (fun g => g.src o.lane))
  match i with
  | .groupDispatch _ die => some (harpSrc die)
  | .coopPlacement _ => some (harpSrc 0)
  | .groupRetire gid => (s.group? gid).bind (fun g => if cutsNow s g then (s.harpOf g).map (fun h => harpSrc h.die) else none)
  | .tileFillStart gid _ | .tileFilled gid _ _ | .slotDrained gid _ _ | .headgateFault gid _ _ => group gid
  | .resultReturn gid bid | .basinAgeDraw gid bid | .safePointStop gid bid | .breakpointHalt gid bid | .watchpointHalt gid bid => bundleSrc s gid bid
  | .copyComplete o | .copyFault o | .copylistPieceComplete o | .matrixComplete o | .xsectComplete o | .matrixFault o | .fixupOwnerCombine o
  | .fixupDepositComplete o => op o
  | .sliceOperation asid va => some (sliceSrc (s.partOn asid (homeDie va.toNat)) (sliceOf va.toNat))
  | .levelBoundary _ => some (sluiceSrc 0)
  | .midlevelSwitch _ die | .sluiceFault _ die => some (sluiceSrc die)
  | .frontEndDispatch p | .nopPacket p | .launchPacket p | .indirect p | .waitPacket p | .write p | .inval p | .partcfg p | .qcreate p
  | .qdestroy p | .exportPacket p | .importPacket p | .policyPacket p | .cwin p => some (frontSrc p)
  | .gpkt _ | .treq .. | .gcpl .. | .gflt .. | .guestAccess .. | .portFence _ => some socketSrc
  | .resume .. | .skip .. | .killGroup .. | .killRange .. | .saveRange .. | .hardStop _ | .preemptImageWrite _ => some policySrc
  | _ => none

def Move.src (s : State) : Move → Option Nat
  | .issue gid bid => bundleSrc s gid bid
  | .event i => srcOf s i
  | .elapse .. | .corrected _ | .spoil _ => none

/-- Whether a move comes too early for the time it would be made at: its source is lower than that of a move made at the same clk or
tick, or its bundle has already issued in this clk. -/
def early (s : State) (m : Move) : Bool :=
  (match s.order, m.src s with
    | some (clk, tick, key), some k => (clk == s.clk || tick == s.ticks) && decide (k < key)
    | _, _ => false) ||
  (match m with
    | .issue gid bid => (match (s.group? gid).bind (fun g => g.bundle? bid) with | some b => b.atClk == s.clk + 1 | none => false)
    | _ => false)
/-- The move noted as the last made. -/
def State.mark (s : State) (m : Move) : State :=
  match m.src s with
  | some k => { s with order := some (s.clk, s.ticks, k) }
  | none => s
/-- A move made in its order: one that comes too early lets a clk pass first. -/
def timely (s : State) (m : Move) (f : State → Todo) : Todo :=
  if early s m then .now (elapse s 1 (ticksOfClk s)) else f (s.mark m)

/-! ## The machine's own choice -/

/-- Implicit joins whose team waits complete. -/
def collDue (s : State) : Option (Nat × Nat) :=
  s.groups.findSome? (fun g => if g.stop.isSome then none
    else if !(coreIssues s g) then none
    else ((List.range g.teams.length).find? (fun t => (g.collAt t).isSome)).map (fun t => (g.id, t)))

/-- The issue requests in a core's arbitration, of bundles that have not issued in this clk: age, arbitrations lost, group, bundle. -/
def requests (s : State) (die core : Nat) : List (Nat × Nat × Nat × Nat) :=
  ((s.groups.filter (fun g => g.die == die && g.core == core)).map (fun g =>
    (g.bundles.filter (fun b => canIssue s g b && b.atClk != s.clk + 1)).map (fun b => (b.age, b.lost, g.id, b.id)))).flatten

/-- Places behind the rotating pointer come first. -/
def turnLt (turn : Nat × Nat) (x y : Nat × Nat) : Bool :=
  let behind := fun (z : Nat × Nat) => decide (turn.1 < z.1) || turn.1 == z.1 && decide (turn.2 < z.2)
  let lt := decide (x.1 < y.1) || x.1 == y.1 && decide (x.2 < y.2)
  if behind x == behind y then lt else behind x

/-- ARBITRATION (R47): a bundle that has lost 8 in a row first, then the oldest request; equal ones by the rotating pointer. -/
def winner (turn : Nat × Nat) (l : List (Nat × Nat × Nat × Nat)) : Option (Nat × Nat) :=
  let before := fun (x y : Nat × Nat × Nat × Nat) =>
    let due := fun (z : Nat × Nat × Nat × Nat) => decide (8 ≤ z.2.1)
    if due x != due y then due x
    else decide (x.1 < y.1) || x.1 == y.1 && turnLt turn x.2.2 y.2.2
  (l.foldl (fun (acc : Option (Nat × Nat × Nat × Nat)) x => match acc with
    | none => some x
    | some y => if before x y then some x else acc) none).map (·.2.2)

/-- Who wins a core's arbitration. -/
def State.wins (s : State) (die core : Nat) : Option (Nat × Nat) := winner (s.core die core).turn (requests s die core)
/-- The bundle that issues next: cores hold their arbitrations in ascending number; one whose winner comes too early for this clk waits for
the next. -/
def oldest (s : State) : Option (Nat × Nat) :=
  (sortOn (fun (x : Nat × Nat) => 256 * x.1 + x.2) (s.groups.map (fun g => (g.die, g.core))).eraseDups).findSome? (fun x =>
    (s.wins x.1 x.2).filter (fun y => !(early s (.issue y.1 y.2))))

/-- A bundle loses an arbitration: its own count, and event 15 (R423). -/
def lose (s : State) (gid bid : Nat) : State :=
  match s.group? gid with
  | none => s
  | some g => (s.updBundle gid bid (fun b => { b with lost := b.lost + 1 })).count g.part 15 1 ((s.range? g.rid).bind (·.qid))
/-- The arbitration that a bundle wins is counted for those that lose it, and the pointer moves past it. -/
def arbitrated (s : State) (gid bid : Nat) : State :=
  match s.group? gid with
  | none => s
  | some g =>
    let l := (requests s g.die g.core).filter (fun x => x.2.2 != (gid, bid))
    let s := l.foldl (fun s x => lose s x.2.2.1 x.2.2.2) s
    let s := s.updBundle gid bid (fun b => { b with lost := 0 })
    s.updCore g.die g.core (fun c => { c with turn := (gid, bid) })

/-- A core holds an arbitration: its winner issues. -/
def contend (s : State) (gid bid : Nat) : Todo := timely s (.issue gid bid) (fun s => moveIssue (arbitrated s gid bid) gid bid)
/-- An issue asked for of a group: its core holds an arbitration, whichever bundle is named (R47, R394). Where every bundle of the core that
may issue has done so in this clk, the next one comes first; where none may, nothing happens. -/
def askIssue (s : State) (gid : Nat) (rest : List Move) : Todo :=
  match s.group? gid with
  | none => .now { s with agenda := rest }
  | some g =>
    let s := ageAll s
    match s.wins g.die g.core with
    | some x => if early s (.issue x.1 x.2) then .now (elapse s 1 (ticksOfClk s)) else contend { s with agenda := rest } x.1 x.2
    | none =>
      if s.groups.any (fun x => x.die == g.die && x.core == g.core && x.bundles.any (canIssue s x)) then .now (elapse s 1 (ticksOfClk s))
      else .now { s with agenda := rest }

/-- With an empty agenda: an implicit join that is due, a level that is complete, the bundle that wins its arbitration, else a clk. -/
def byItself (s : State) : Todo :=
  match collDue s with
  | some x => .run (.implicitJoinIssue x.1 x.2) s none
  | none => match s.ranges.find? (fun r => !s.pkg.railsOff && levelDue s r.rid) with
    | some r => timely s (.event (.levelBoundary r.rid)) (fun s => .run (.levelBoundary r.rid) s none)
    | none =>
      let s := ageAll s
      match oldest s with
      | some x => contend s x.1 x.2
      | none => .now (idle s)

/-- The rows of the cores and their engines, and of what is placed on them: none while the core rails are off (R434). -/
def ofCores : Instr → Bool
  | .groupDispatch .. | .coopPlacement _ | .groupRetire _ | .basinAgeDraw .. | .implicitJoinIssue .. | .resultReturn .. | .l1Fill .. | .storeAcknowledge _
  | .wcbTimeoutDrain _ | .ptsTick _ | .streamReadahead .. | .copyComplete _ | .copyFault _ | .copylistPieceComplete _ | .tileFillStart .. | .tileFilled ..
  | .slotDrained .. | .matrixStart _ | .matrixComplete _ | .xsectComplete _ | .matrixFault _ | .fixupOwnerCombine _ | .fixupDepositComplete _
  | .levelBoundary _ | .midlevelSwitch .. | .sluiceFault .. | .breakpointHalt .. | .watchpointHalt .. | .safePointStop .. | .headgateFault .. => true
  | _ => false

/-- Errors of the memories (R435): a corrected one is counted; one that cannot be corrected poisons the location, in a window the register. -/
def spoilt (s : State) : Spoil → State
  | .hbm pa => s.updMem (fun m => { m with poison := (keyOf pa / 128 * 128) :: m.poison.erase (keyOf pa / 128 * 128) })
  | .core die num off =>
    match s.storeAt die num (off / 4 * 4) with
    | .reg gid t n _ => s.updGroup gid (fun g => g.updTh t (fun th => { th with bad := BitVec.ofNat 6 n :: th.bad.filter (· != BitVec.ofNat 6 n) }))
    | _ => s.updMem (fun m => { m with corePoison := (die, num, off / 4 * 4) :: m.corePoison.erase (die, num, off / 4 * 4) })
  | .resv die part off => s.updMem (fun m => { m with resPoison := (die, part, off / 4 * 4) :: m.resPoison.erase (die, part, off / 4 * 4) })
  | .cell die part u => s.updMem (fun m => { m with cellPoison := (die, part, u) :: m.cellPoison.erase (die, part, u) })

def doMove (s : State) : Move → Todo
  | .issue gid bid => moveIssue s gid bid
  | .event i => if (encode i).isEmpty && !(s.pkg.railsOff && ofCores i) then .run i s none else .now s
  | .elapse clk ticks => .now (elapse s clk ticks)
  | .corrected n => .now (s.updPkg (fun k => { k with eccc := lostMore k.eccc n }))
  | .spoil p => .now (spoilt s p)

/-- The next move: a DSTEP that can go on, the head of the agenda, or the machine's own choice. -/
def todo (s : State) : Todo :=
  match s.dsteps.find? (fun d => askOf s d != .later) with
  | some d => match askOf s d with
    | .go bid => timely s (.issue d.target bid) (fun s => issueAt s d.target bid (some d))
    | .fin st => .now (dstepEnd s d st none)
    | .later => .now s
  | none => match s.agenda with
    | .issue gid _ :: rest => askIssue s gid rest
    | m :: rest => timely s m (fun s => doMove { s with agenda := rest } m)
    | [] => byItself s

/-! ## A machine about to fetch one instruction -/

/-- The group, range, translation and frame that `State.withFetchWord` puts beside what the state holds (log entry 25). -/
def fetchAsid : Nat := 4095
def fetchVa : Nat := 2 ^ 54
def fetchGroup (s : State) : Group :=
  { id := s.nextGid, rid := s.fe.nextRid, die := 0, core := 0, part := 0, gseq := 0, shp := (1, 1, 1), base := (0, 0, 0), ext := (1, 1, 1),
    threads := [{ team := 0, lane := 0 }], teams := [{ idx := 0 }], bundles := [{ id := 0, pc := BitVec.ofNat 64 fetchVa, ts := [0], lost := 8 }], nextB := 1 }
def fetchRange (s : State) : RangeSt :=
  { rid := s.fe.nextRid, asid := fetchAsid, part := 0, img := { code := BitVec.ofNat 64 fetchVa, config := 0x180 }, h := 64, harps := [{ die := 0 }] }
def fetchTlb : Tlb :=
  { die := 0, stack := stackOf fetchVa, asid := fetchAsid, va := fetchVa, size := 4096, pa := localPa 0 0, w := false, x := true, d := false, kind := 0 }

def placeWord (s : State) (bs : List Byte) : State :=
  let s := s.updMem (fun m => { m with
    phys := m.phys.write (localPa 0 0) bs,
    tlb := fetchTlb :: m.tlb,
    llc := m.llc.filter (fun x => keyOf x.pa / 4096 != localPa 0 0 / 4096 && !(x.asid == fetchAsid)),
    slice := m.slice.filter (fun x => x.asid != fetchAsid),
    poison := m.poison.erase (localPa 0 0),
    asids := { asid := fetchAsid, parts := #v[0, 0xFF, 0xFF, 0xFF] } :: m.asids.filter (fun x => x.asid != fetchAsid) })
  let s := if s.pkg.fotOn then s.updMem (fun m => { m with fot := assocSet m.fot 0 0x00000201 }) else s
  let s := (s.updPart 0 (fun p => { p with withheld := false })).updCore 0 0 (fun c => { c with failed := false })
  let s := s.updPkg (fun k => { k with railsOff := false, cmap := k.cmap.setIfInBounds 0 (k.cmap.toList.getD 0 0 ||| 1) })
  { s with
    dsteps := [], order := none, agenda := .issue s.nextGid 0 :: s.agenda,
    groups := s.groups.map (fun g => if g.die == 0 && g.core == 0 then { g with bundles := g.bundles.map (fun b => { b with lost := 0 }) } else g) ++ [fetchGroup s], ranges := s.ranges ++ [fetchRange s],
    nextGid := s.nextGid + 1, fe := { s.fe with nextRid := s.fe.nextRid + 1 } }

end Sys2Proof.Machine
end

