-- ==== Sys2Proof/Machine/Dispatch.lean ====
section
/-! DEFINITION. One arm per constructor, each a direct call of its meaning. -/

namespace Sys2Proof.Machine

def exec (i : Instr) (s : State) : Host.Outcome State Fault Refusal :=
  match i with
  | .iaddA o => Sys2Proof.Machine.execIaddA o s
  | .iaddB o => Sys2Proof.Machine.execIaddB o s
  | .isubA o => Sys2Proof.Machine.execIsubA o s
  | .isubB o => Sys2Proof.Machine.execIsubB o s
  | .imulA o => Sys2Proof.Machine.execImulA o s
  | .imulB o => Sys2Proof.Machine.execImulB o s
  | .imadA o => Sys2Proof.Machine.execImadA o s
  | .imadB o => Sys2Proof.Machine.execImadB o s
  | .andA o => Sys2Proof.Machine.execAndA o s
  | .andB o => Sys2Proof.Machine.execAndB o s
  | .orA o => Sys2Proof.Machine.execOrA o s
  | .orB o => Sys2Proof.Machine.execOrB o s
  | .xorA o => Sys2Proof.Machine.execXorA o s
  | .xorB o => Sys2Proof.Machine.execXorB o s
  | .rotA o => Sys2Proof.Machine.execRotA o s
  | .rotB o => Sys2Proof.Machine.execRotB o s
  | .shlA o => Sys2Proof.Machine.execShlA o s
  | .shlB o => Sys2Proof.Machine.execShlB o s
  | .shrA o => Sys2Proof.Machine.execShrA o s
  | .shrB o => Sys2Proof.Machine.execShrB o s
  | .shraA o => Sys2Proof.Machine.execShraA o s
  | .shraB o => Sys2Proof.Machine.execShraB o s
  | .clz o => Sys2Proof.Machine.execClz o s
  | .popc o => Sys2Proof.Machine.execPopc o s
  | .bfxA o => Sys2Proof.Machine.execBfxA o s
  | .bfxB o => Sys2Proof.Machine.execBfxB o s
  | .bfiA o => Sys2Proof.Machine.execBfiA o s
  | .bfiB o => Sys2Proof.Machine.execBfiB o s
  | .iminN32 o => Sys2Proof.Machine.execIminN32 o s
  | .iminI32 o => Sys2Proof.Machine.execIminI32 o s
  | .imaxN32 o => Sys2Proof.Machine.execImaxN32 o s
  | .imaxI32 o => Sys2Proof.Machine.execImaxI32 o s
  | .icmpN32A o => Sys2Proof.Machine.execIcmpN32A o s
  | .icmpI32A o => Sys2Proof.Machine.execIcmpI32A o s
  | .icmpN32B o => Sys2Proof.Machine.execIcmpN32B o s
  | .icmpI32B o => Sys2Proof.Machine.execIcmpI32B o s
  | .movA o => Sys2Proof.Machine.execMovA o s
  | .movBw o => Sys2Proof.Machine.execMovBw o s
  | .leaA o => Sys2Proof.Machine.execLeaA o s
  | .leaB o => Sys2Proof.Machine.execLeaB o s
  | .iadd64A o => Sys2Proof.Machine.execIadd64A o s
  | .iadd64B o => Sys2Proof.Machine.execIadd64B o s
  | .brev o => Sys2Proof.Machine.execBrev o s
  | .sxt o => Sys2Proof.Machine.execSxt o s
  | .sel o => Sys2Proof.Machine.execSel o s
  | .saddA o => Sys2Proof.Machine.execSaddA o s
  | .saddB o => Sys2Proof.Machine.execSaddB o s
  | .smulA o => Sys2Proof.Machine.execSmulA o s
  | .smulB o => Sys2Proof.Machine.execSmulB o s
  | .slea o => Sys2Proof.Machine.execSlea o s
  | .smovA o => Sys2Proof.Machine.execSmovA o s
  | .smovBw o => Sys2Proof.Machine.execSmovBw o s
  | .scmpA o => Sys2Proof.Machine.execScmpA o s
  | .scmpB o => Sys2Proof.Machine.execScmpB o s
  | .rdsys o => Sys2Proof.Machine.execRdsys o s
  | .fadd y o => Sys2Proof.Machine.execFadd y o s
  | .fsub y o => Sys2Proof.Machine.execFsub y o s
  | .fmul y o => Sys2Proof.Machine.execFmul y o s
  | .ffma y o => Sys2Proof.Machine.execFfma y o s
  | .fmin y o => Sys2Proof.Machine.execFmin y o s
  | .fmax y o => Sys2Proof.Machine.execFmax y o s
  | .fcmp y o => Sys2Proof.Machine.execFcmp y o s
  | .frcp o => Sys2Proof.Machine.execFrcp o s
  | .frsq o => Sys2Proof.Machine.execFrsq o s
  | .fex2 o => Sys2Proof.Machine.execFex2 o s
  | .flg2 o => Sys2Proof.Machine.execFlg2 o s
  | .f2i o => Sys2Proof.Machine.execF2i o s
  | .i2f o => Sys2Proof.Machine.execI2f o s
  | .fcvt o => Sys2Proof.Machine.execFcvt o s
  | .pack o => Sys2Proof.Machine.execPack o s
  | .unpack o => Sys2Proof.Machine.execUnpack o s
  | .shfl o => Sys2Proof.Machine.execShfl o s
  | .tred o => Sys2Proof.Machine.execTred o s
  | .dot4N8 o => Sys2Proof.Machine.execDot4N8 o s
  | .dot4I8 o => Sys2Proof.Machine.execDot4I8 o s
  | .ldCx w o => Sys2Proof.Machine.execLdCx w o s
  | .ldCdS o => Sys2Proof.Machine.execLdCdS o s
  | .ldCdPair o => Sys2Proof.Machine.execLdCdPair o s
  | .stCx w o => Sys2Proof.Machine.execStCx w o s
  | .stCdS o => Sys2Proof.Machine.execStCdS o s
  | .stCdPair o => Sys2Proof.Machine.execStCdPair o s
  | .lds o => Sys2Proof.Machine.execLds o s
  | .sts o => Sys2Proof.Machine.execSts o s
  | .ldw o => Sys2Proof.Machine.execLdw o s
  | .stw o => Sys2Proof.Machine.execStw o s
  | .ldx o => Sys2Proof.Machine.execLdx o s
  | .stx o => Sys2Proof.Machine.execStx o s
  | .qset o => Sys2Proof.Machine.execQset o s
  | .qsave o => Sys2Proof.Machine.execQsave o s
  | .cpy o => Sys2Proof.Machine.execCpy o s
  | .cpyl o => Sys2Proof.Machine.execCpyl o s
  | .pref o => Sys2Proof.Machine.execPref o s
  | .pgreq o => Sys2Proof.Machine.execPgreq o s
  | .fence o => Sys2Proof.Machine.execFence o s
  | .subs o => Sys2Proof.Machine.execSubs o s
  | .claim o => Sys2Proof.Machine.execClaim o s
  | .rels o => Sys2Proof.Machine.execRels o s
  | .atomAdd o => Sys2Proof.Machine.execAtomAdd o s
  | .atomAddF32 o => Sys2Proof.Machine.execAtomAddF32 o s
  | .atomMinN32 o => Sys2Proof.Machine.execAtomMinN32 o s
  | .atomMinI32 o => Sys2Proof.Machine.execAtomMinI32 o s
  | .atomMinF32 o => Sys2Proof.Machine.execAtomMinF32 o s
  | .atomMaxN32 o => Sys2Proof.Machine.execAtomMaxN32 o s
  | .atomMaxI32 o => Sys2Proof.Machine.execAtomMaxI32 o s
  | .atomMaxF32 o => Sys2Proof.Machine.execAtomMaxF32 o s
  | .atomAnd o => Sys2Proof.Machine.execAtomAnd o s
  | .atomOr o => Sys2Proof.Machine.execAtomOr o s
  | .atomXor o => Sys2Proof.Machine.execAtomXor o s
  | .atomXchg o => Sys2Proof.Machine.execAtomXchg o s
  | .cas o => Sys2Proof.Machine.execCas o s
  | .red o => Sys2Proof.Machine.execRed o s
  | .bop o => Sys2Proof.Machine.execBop o s
  | .bred o => Sys2Proof.Machine.execBred o s
  | .flgs o => Sys2Proof.Machine.execFlgs o s
  | .flgw o => Sys2Proof.Machine.execFlgw o s
  | .qpush o => Sys2Proof.Machine.execQpush o s
  | .qpop o => Sys2Proof.Machine.execQpop o s
  | .qdone o => Sys2Proof.Machine.execQdone o s
  | .boini o => Sys2Proof.Machine.execBoini o s
  | .boarr o => Sys2Proof.Machine.execBoarr o s
  | .bowt o => Sys2Proof.Machine.execBowt o s
  | .bra o => Sys2Proof.Machine.execBra o s
  | .brp o => Sys2Proof.Machine.execBrp o s
  | .call o => Sys2Proof.Machine.execCall o s
  | .brx o => Sys2Proof.Machine.execBrx o s
  | .ret o => Sys2Proof.Machine.execRet o s
  | .reform o => Sys2Proof.Machine.execReform o s
  | .exit o => Sys2Proof.Machine.execExit o s
  | .nop o => Sys2Proof.Machine.execNop o s
  | .join o => Sys2Proof.Machine.execJoin o s
  | .leave o => Sys2Proof.Machine.execLeave o s
  | .wait o => Sys2Proof.Machine.execWait o s
  | .mset o => Sys2Proof.Machine.execMset o s
  | .mlog o => Sys2Proof.Machine.execMlog o s
  | .ballot o => Sys2Proof.Machine.execBallot o s
  | .elect o => Sys2Proof.Machine.execElect o s
  | .yield o => Sys2Proof.Machine.execYield o s
  | .bar o => Sys2Proof.Machine.execBar o s
  | .gbar o => Sys2Proof.Machine.execGbar o s
  | .trap o => Sys2Proof.Machine.execTrap o s
  | .mtx o => Sys2Proof.Machine.execMtx o s
  | .mtxg o => Sys2Proof.Machine.execMtxg o s
  | .mtxs o => Sys2Proof.Machine.execMtxs o s
  | .xsect o => Sys2Proof.Machine.execXsect o s
  | .dist o => Sys2Proof.Machine.execDist o s
  | .fixup o => Sys2Proof.Machine.execFixup o s
  | .enext o => Sys2Proof.Machine.execEnext o s
  | .ecomb o => Sys2Proof.Machine.execEcomb o s
  | .eact o => Sys2Proof.Machine.execEact o s
  | .edone o => Sys2Proof.Machine.execEdone o s
  | .elevel o => Sys2Proof.Machine.execElevel o s
  | .emode o => Sys2Proof.Machine.execEmode o s
  | .launch o => Sys2Proof.Machine.execLaunch o s
  | .lwait o => Sys2Proof.Machine.execLwait o s
  | .mark o => Sys2Proof.Machine.execMark o s
  | .brk o => Sys2Proof.Machine.execBrk o s
  | .rdts o => Sys2Proof.Machine.execRdts o s
  | .rdclk o => Sys2Proof.Machine.execRdclk o s
  | .dhalt o => Sys2Proof.Machine.execDhalt o s
  | .dresume o => Sys2Proof.Machine.execDresume o s
  | .dstep o => Sys2Proof.Machine.execDstep o s
  | .dbkpt o => Sys2Proof.Machine.execDbkpt o s
  | .dwatch o => Sys2Proof.Machine.execDwatch o s
  | .drds o => Sys2Proof.Machine.execDrds o s
  | .dmboxSend o => Sys2Proof.Machine.execDmboxSend o s
  | .dmboxRecv o => Sys2Proof.Machine.execDmboxRecv o s
  | .movShort o => Sys2Proof.Machine.execMovShort o s
  | .iaddShort o => Sys2Proof.Machine.execIaddShort o s
  | .isubShort o => Sys2Proof.Machine.execIsubShort o s
  | .imulShort o => Sys2Proof.Machine.execImulShort o s
  | .andShort o => Sys2Proof.Machine.execAndShort o s
  | .orShort o => Sys2Proof.Machine.execOrShort o s
  | .xorShort o => Sys2Proof.Machine.execXorShort o s
  | .shlShort o => Sys2Proof.Machine.execShlShort o s
  | .shrShort o => Sys2Proof.Machine.execShrShort o s
  | .shraShort o => Sys2Proof.Machine.execShraShort o s
  | .iaddiShort o => Sys2Proof.Machine.execIaddiShort o s
  | .faddShort o => Sys2Proof.Machine.execFaddShort o s
  | .fsubShort o => Sys2Proof.Machine.execFsubShort o s
  | .fmulShort o => Sys2Proof.Machine.execFmulShort o s
  | .fminShort o => Sys2Proof.Machine.execFminShort o s
  | .fmaxShort o => Sys2Proof.Machine.execFmaxShort o s
  | .groupDispatch rid die => Sys2Proof.Machine.execGroupDispatch rid die s
  | .coopPlacement rid => Sys2Proof.Machine.execCoopPlacement rid s
  | .groupRetire gid => Sys2Proof.Machine.execGroupRetire gid s
  | .rangeRetire rid => Sys2Proof.Machine.execRangeRetire rid s
  | .basinAgeDraw gid bid => Sys2Proof.Machine.execBasinAgeDraw gid bid s
  | .implicitJoinIssue gid team => Sys2Proof.Machine.execImplicitJoinIssue gid team s
  | .resultReturn gid bid => Sys2Proof.Machine.execResultReturn gid bid s
  | .l1Fill core asid va => Sys2Proof.Machine.execL1Fill core asid va s
  | .llcFill asid va write => Sys2Proof.Machine.execLlcFill asid va write s
  | .storeAcknowledge core => Sys2Proof.Machine.execStoreAcknowledge core s
  | .wcbTimeoutDrain core => Sys2Proof.Machine.execWcbTimeoutDrain core s
  | .ptsTick core => Sys2Proof.Machine.execPtsTick core s
  | .sliceOperation asid va => Sys2Proof.Machine.execSliceOperation asid va s
  | .streamReadahead gid team q => Sys2Proof.Machine.execStreamReadahead gid team q s
  | .copyComplete op => Sys2Proof.Machine.execCopyComplete op s
  | .copyFault op => Sys2Proof.Machine.execCopyFault op s
  | .copylistPieceComplete op => Sys2Proof.Machine.execCopylistPieceComplete op s
  | .tileFillStart gid ring => Sys2Proof.Machine.execTileFillStart gid ring s
  | .tileFilled gid ring slot => Sys2Proof.Machine.execTileFilled gid ring slot s
  | .slotDrained gid ring slot => Sys2Proof.Machine.execSlotDrained gid ring slot s
  | .reservoirWayDrained part => Sys2Proof.Machine.execReservoirWayDrained part s
  | .matrixStart core => Sys2Proof.Machine.execMatrixStart core s
  | .matrixComplete op => Sys2Proof.Machine.execMatrixComplete op s
  | .xsectComplete op => Sys2Proof.Machine.execXsectComplete op s
  | .matrixFault op => Sys2Proof.Machine.execMatrixFault op s
  | .fixupOwnerCombine op => Sys2Proof.Machine.execFixupOwnerCombine op s
  | .queueEntryAging rid die => Sys2Proof.Machine.execQueueEntryAging rid die s
  | .levelBoundary rid => Sys2Proof.Machine.execLevelBoundary rid s
  | .midlevelSwitch rid die => Sys2Proof.Machine.execMidlevelSwitch rid die s
  | .sluiceFault rid die => Sys2Proof.Machine.execSluiceFault rid die s
  | .breakpointHalt gid bid => Sys2Proof.Machine.execBreakpointHalt gid bid s
  | .watchpointHalt gid bid => Sys2Proof.Machine.execWatchpointHalt gid bid s
  | .faultRecordPost queue => Sys2Proof.Machine.execFaultRecordPost queue s
  | .resume queue slot => Sys2Proof.Machine.execResume queue slot s
  | .skip queue slot => Sys2Proof.Machine.execSkip queue slot s
  | .killGroup queue slot => Sys2Proof.Machine.execKillGroup queue slot s
  | .killRange queue slot => Sys2Proof.Machine.execKillRange queue slot s
  | .saveRange queue slot => Sys2Proof.Machine.execSaveRange queue slot s
  | .preemptRequest rid => Sys2Proof.Machine.execPreemptRequest rid s
  | .safePointStop gid bid => Sys2Proof.Machine.execSafePointStop gid bid s
  | .hardStop rid => Sys2Proof.Machine.execHardStop rid s
  | .preemptImageWrite rid => Sys2Proof.Machine.execPreemptImageWrite rid s
  | .priorityPreempt part => Sys2Proof.Machine.execPriorityPreempt part s
  | .frontEndDispatch part => Sys2Proof.Machine.execFrontEndDispatch part s
  | .doorbellWrite qid value => Sys2Proof.Machine.execDoorbellWrite qid value s
  | .doorbellResync qid value => Sys2Proof.Machine.execDoorbellResync qid value s
  | .nopPacket part => Sys2Proof.Machine.execNopPacket part s
  | .launchPacket part => Sys2Proof.Machine.execLaunchPacket part s
  | .indirect part => Sys2Proof.Machine.execIndirect part s
  | .waitPacket part => Sys2Proof.Machine.execWaitPacket part s
  | .waitPacketSatisfied qid => Sys2Proof.Machine.execWaitPacketSatisfied qid s
  | .write part => Sys2Proof.Machine.execWrite part s
  | .inval part => Sys2Proof.Machine.execInval part s
  | .partcfg part => Sys2Proof.Machine.execPartcfg part s
  | .qcreate part => Sys2Proof.Machine.execQcreate part s
  | .qdestroy part => Sys2Proof.Machine.execQdestroy part s
  | .exportPacket part => Sys2Proof.Machine.execExportPacket part s
  | .importPacket part => Sys2Proof.Machine.execImportPacket part s
  | .policyPacket part => Sys2Proof.Machine.execPolicyPacket part s
  | .cwin part => Sys2Proof.Machine.execCwin part s
  | .canalRemoteAccess package part window asid va data size ordered => Sys2Proof.Machine.execCanalRemoteAccess package part window asid va data size ordered s
  | .canalOrderedPass package part window => Sys2Proof.Machine.execCanalOrderedPass package part window s
  | .canalPortDown port => Sys2Proof.Machine.execCanalPortDown port s
  | .hostMemAccess pa data size => Sys2Proof.Machine.execHostMemAccess pa data size s
  | .gpkt chan => Sys2Proof.Machine.execGpkt chan s
  | .treq chan seq va write tag => Sys2Proof.Machine.execTreq chan seq va write tag s
  | .tinvack tag => Sys2Proof.Machine.execTinvack tag s
  | .gcpl chan seq failed => Sys2Proof.Machine.execGcpl chan seq failed s
  | .gflt chan seq cause addr code => Sys2Proof.Machine.execGflt chan seq cause addr code s
  | .gpack chan rid bytes seqs => Sys2Proof.Machine.execGpack chan rid bytes seqs s
  | .grack chan rid refused => Sys2Proof.Machine.execGrack chan rid refused s
  | .guestAccess pa data size => Sys2Proof.Machine.execGuestAccess pa data size s
  | .portFence why => Sys2Proof.Machine.execPortFence why s
  | .socketReset ident trained => Sys2Proof.Machine.execSocketReset ident trained s
  | .packageReset => Sys2Proof.Machine.execPackageReset s
  | .firmwareVerify image svn sig key => Sys2Proof.Machine.execFirmwareVerify image svn sig key s
  | .hbmTrained fotAt asidAt => Sys2Proof.Machine.execHbmTrained fotAt asidAt s
  | .grant => Sys2Proof.Machine.execGrant s
  | .assign => Sys2Proof.Machine.execAssign s
  | .revoke => Sys2Proof.Machine.execRevoke s
  | .fqtable => Sys2Proof.Machine.execFqtable s
  | .clock => Sys2Proof.Machine.execClock s
  | .budget => Sys2Proof.Machine.execBudget s
  | .asidset => Sys2Proof.Machine.execAsidset s
  | .cmap => Sys2Proof.Machine.execCmap s
  | .carve => Sys2Proof.Machine.execCarve s
  | .policy => Sys2Proof.Machine.execPolicy s
  | .keyload => Sys2Proof.Machine.execKeyload s
  | .keydrop => Sys2Proof.Machine.execKeydrop s
  | .vfbind => Sys2Proof.Machine.execVfbind s
  | .advance stepDone ident => Sys2Proof.Machine.execAdvance stepDone ident s
  | .count fn => Sys2Proof.Machine.execCount fn s
  | .attest fn => Sys2Proof.Machine.execAttest fn s
  | .traceEnable part => Sys2Proof.Machine.execTraceEnable part s
  | .traceDisable part => Sys2Proof.Machine.execTraceDisable part s
  | .logEnable part => Sys2Proof.Machine.execLogEnable part s
  | .registerWrite reg index value => Sys2Proof.Machine.execRegisterWrite reg index value s
  | .sampleRecord core => Sys2Proof.Machine.execSampleRecord core s
  | .traceSync part => Sys2Proof.Machine.execTraceSync part s
  | .traceLostRecovery part => Sys2Proof.Machine.execTraceLostRecovery part s
  | .powerWindow watts amps overs => Sys2Proof.Machine.execPowerWindow watts amps overs s
  | .thermalThrottle die => Sys2Proof.Machine.execThermalThrottle die s
  | .thermalTrip => Sys2Proof.Machine.execThermalTrip s
  | .coreSelftestFail die core => Sys2Proof.Machine.execCoreSelftestFail die core s
  | .headgateFault gid ring slot => Sys2Proof.Machine.execHeadgateFault gid ring slot s
  | .fixupDepositComplete op => Sys2Proof.Machine.execFixupDepositComplete op s
  | .containerRegistration part asid code codeSize safe safeSize config => Sys2Proof.Machine.execContainerRegistration part asid code codeSize safe safeSize config s
  | .hostDebugMessage part msg => Sys2Proof.Machine.execHostDebugMessage part msg s
  | .debugMailboxRead part => Sys2Proof.Machine.execDebugMailboxRead part s
  | .guestChannelConfigure chan depth gsave => Sys2Proof.Machine.execGuestChannelConfigure chan depth gsave s
  | .temperatureBelow95c die => Sys2Proof.Machine.execTemperatureBelow95c die s

end Sys2Proof.Machine
end

