-- ==== Sys2Proof/Machine/Step.lean ====
section
/-! DEFINITION. One step of the machine (log entry 1), and the state in which the next step fetches a given word. -/

namespace Sys2Proof.Machine

/-- The next move; an instruction's next state is followed by what waits on it (a DSTEP, mail). -/
def step (s : State) : Host.Outcome State Fault Refusal :=
  match todo s with
  | .now t => .next t
  | .run i t d =>
    match exec i t with
    | .next u => .next (wrapUp d u)
    | .fault f => .fault f
    | .refused r => .refused r

/-- The state with an instruction whose bits are w where the next step fetches (log entry 25). -/
def State.withFetchWord (s : State) (nbits w : Nat) : State := placeWord s (leBytes 8 (w % 2 ^ nbits))

end Sys2Proof.Machine
end

