-- ==== Sys2Proof/Safety.lean ====
section
/-! DEFINITION. The terms statements use: when an instruction issues (`Ready`), what a fixed or a variable result leaves (`Fixed`,
`Late`), what stays outside a group (`Kept`), and what a safe state is (`Canonical`). -/

namespace Sys2Proof.Safety

open Sys2Proof.Machine

/-! ## When an instruction issues -/

/-- Every register an instruction names, its guard first. -/
def named (p : Spec) : List RegRef := guardRef p.g ++ p.rd ++ p.wr

/-- The state the instruction acts on: one that ends the run before it acts has ended it (R152). -/
def begun (s : State) (p : Spec) (c : Ctx) : State := if p.ends || p.coll then endRun s c.g.id c.b.id c.c.pc else s

/-- The state an instruction acts on, where `l` are the poisoned registers that its threads read: each is a fault of its thread (R435). -/
def metPoison (s : State) (c : Ctx) (l : List (Nat × BitVec 6)) : State := if l.isEmpty then s else poisonedRead s c l

/-- An instruction that names `p` issues from `s` and acts on `x` in the context `c`; `c0` is what stands in `s`. A thread that meets
poison in a register it reads is not active in `c`. No condition speaks of the instruction's outcome. -/
structure Ready (p : Spec) (s : State) (c0 : Ctx) (x : State) (c : Ctx) : Prop where
  /-- A bundle of a resident group issues. -/
  issues : s.ctx = some c0
  /-- Every v register lies in the window (R315). -/
  window : ∀ r ∈ named p, ∀ n ∈ r.vs, n.toNat < c0.r.h
  /-- A debug instruction stands in a debug range (R272). -/
  mode : p.priv = true → c0.r.debug = true
  /-- Where the instruction ends the run first, its results can return and it holds no data fault (R152, R154). -/
  ended : (p.ends || p.coll) = true → c0.g.canEnd c0.b.id = true ∧ c0.b.dfault = none
  acts : x = metPoison (begun s p c0) { c with bad := [] } (Ctx.spoilt { c with bad := [] } p)
  ctx : (begun s p c0).ctx.map (fun y => y.at_ p.g) = some { c with bad := [] }
  poison : c.bad = (Ctx.spoilt { c with bad := [] } p).map (·.1)
  /-- A team-collective instruction has the whole live team in its bundle (R45). -/
  whole : p.coll = true → c.b.ts.length = (c.g.liveTeam (teamOf (c.b.ts.headD 0))).length ∧
    ∀ t ∈ c.b.ts, teamOf t = teamOf (c.b.ts.headD 0)
  /-- Where it is a BALLOT into a mask, the mask is not armed (R173, R183). -/
  arm : ∀ a, p.arm = some a → Ctx.armedAt { c with bad := [] } p.g a.1 = none
  /-- No scalar it names is pending as a token (R95). -/
  tokens : ∀ t ∈ Ctx.teams { c with bad := [] } p.g, t ∉ c.b.part → ∀ n, RegRef.s n ∈ p.rd ++ p.wr → n ∉ (c.g.team t).pend
  /-- No register it names is outstanding (R151). -/
  hazards : ∀ r ∈ named p, ∀ h ∈ c.b.hazards, r.meets h = false
  /-- A variable result finds room among 63 (R150). -/
  room : p.late = true → c.b.outst.length < 63
  /-- Nothing is held back at the stream elements it reads (R93, R110, R245). -/
  free : Ctx.strmHeld { c with bad := [] } (begun s p c0) p = false

/-! ## What stays -/

/-- Outside one group nothing changes but the counters of R423 and the accounts of a queue. -/
structure Kept (x u : State) (gid : Nat) : Prop where
  rest : u = { x with groups := u.groups, fe := { x.fe with parts := u.fe.parts, queues := u.fe.queues } }
  parts : ∀ n, { u.part n with cnt := (x.part n).cnt } = x.part n
  queues : ∀ q, (u.queue? q).map (fun y => { y with accs := [] }) = (x.queue? q).map (fun y => { y with accs := [] })
  groups : ∀ i, i ≠ gid → u.group? i = x.group? i

/-- An instruction of a bundle has been counted and passed, without its marker: in the group, threads and teams become what `th`
and `tm` say, the bundle what `bd` says and then stands behind the instruction, and every other bundle stays. -/
structure Passed (x u : State) (c : Ctx) (nb : Nat) (byp : List BypVal) (th : Nat → Thread → Thread) (tm : Nat → Team → Team)
    (bd : Group → Bundle → Bundle) : Prop where
  kept : Kept x u c.g.id
  group : ∀ g, x.group? c.g.id = some g → ∃ g', u.group? c.g.id = some g' ∧
    g' = { g with threads := g.threads.mapIdx th, teams := g.teams.mapIdx tm, bundles := g'.bundles, nextB := g.nextB + nb,
                  issues := g.issues + 1, lanesIssued := g.lanesIssued + c.b.ts.length } ∧
    (∀ i, i ≠ c.b.id → g'.bundle? i = g.bundle? i) ∧
    ∀ b, g.bundle? c.b.id = some b → b.ts ≠ [] →
      ∃ age, g'.bundle? c.b.id = some { (bd g b).passed c.c.pc false byp age with pc := c.next }

/-- A fixed result (R149, R153): registers written at once. -/
def Fixed (x u : State) (c : Ctx) (byp : List BypVal) (th : Nat → Thread → Thread) (tm : Nat → Team → Team) : Prop :=
  Passed x u c 0 byp th tm (fun _ b => b)

/-- A variable result (R149): no register changes; the result is outstanding in the bundle, none with no active lane. -/
def Late (x u : State) (c : Ctx) (ts : List Nat) (o : Outst) : Prop :=
  Passed x u c (if ts = [] then 0 else 1) [] (fun _ th => th) (fun _ tm => tm)
    (fun g b => if ts = [] then b else { b with outst := b.outst ++ [{ o with uid := g.nextB, clk := c.clk, ts := ts }] })

/-- What the marker adds to an instruction that has passed (R20). -/
def marked (m : Bool) (u : State) (c : Ctx) : State := if m then markEnd u c else u

/-! ## The rule of an instruction with a fixed result -/

/-- What the spec's rule says an instruction names, reads and writes. -/
structure Rule where
  spec : Spec
  m : Bool
  /-- Where the rule lets it have its effect; elsewhere it faults. -/
  ok : Ctx → Prop := fun _ => True
  /-- The state once its operands are read. -/
  x : State → Ctx → State := fun x _ => x
  byp : State → Ctx → List BypVal := fun _ _ => []
  th : State → Ctx → Nat → Thread → Thread := fun _ _ _ th => th
  tm : State → Ctx → Nat → Team → Team := fun _ _ _ tm => tm

/-- Every instruction of the table completes, with the result and the frame its rule gives. -/
def Rule.Holds (table : Instr → Option Rule) : Prop :=
  ∀ i r, table i = some r → ∀ s c0 x c, Ready r.spec s c0 x c → r.ok c →
    ∃ u, exec i s = .next (marked r.m u c) ∧ Fixed (r.x x c) u c (r.byp x c) (r.th x c) (r.tm x c)

/-- A rule that writes v[d] in the lanes `ts`; a transient result reaches the bypass network only (R153). -/
def Rule.v (p : Spec) (m t : Bool) (d : BitVec 6) (src : State → Ctx → Srcs) (f : Ctx → Srcs → Nat → W32) : Rule :=
  { spec := { p with wr := [.v d] }, m := m, x := fun x c => (src x c).s
    byp := fun x c => let y := src x c; [{ reg := d, t := t, vals := y.ts.map (fun l => (l, f c y l)) }]
    th := fun x c l th => let y := src x c; if !t && y.ts.contains l then th.setV d (f c y l) else th }

/-- A rule that writes the pair v[d+1]:v[d]. -/
def Rule.pair (p : Spec) (m t : Bool) (d : BitVec 6) (src : State → Ctx → Srcs) (f : Ctx → Srcs → Nat → W64) : Rule :=
  { spec := { p with wr := [.pair d] }, m := m, x := fun x c => (src x c).s
    byp := fun x c =>
      let y := src x c
      [{ reg := d, t := t, vals := y.ts.map (fun l => (l, (f c y l).extractLsb 31 0)) },
       { reg := d + 1, t := t, vals := y.ts.map (fun l => (l, (f c y l).extractLsb 63 32)) }]
    th := fun x c l th =>
      let y := src x c
      if !t && y.ts.contains l then (th.setV d ((f c y l).extractLsb 31 0)).setV (d + 1) ((f c y l).extractLsb 63 32) else th }

/-- A rule that writes a predicate; p7 stays true (R12). -/
def Rule.p (p : Spec) (m : Bool) (d : BitVec 3) (src : State → Ctx → Srcs) (f : Ctx → Srcs → Nat → Bool) : Rule :=
  { spec := { p with wr := [.p d] }, m := m, x := fun x c => (src x c).s
    th := fun x c l th => let y := src x c; if y.ts.contains l then th.setP d (f c y l) else th }

/-- A rule that writes a scalar, once for each team with an active lane; what issues in the same clk reads the value before (R194). -/
def Rule.s (p : Spec) (m : Bool) (d : BitVec 6) (f : State → Ctx → Nat → W64) : Rule :=
  { spec := { p with wr := [.s (s5 d)] }, m := m
    tm := fun x c i tm => if (c.teams p.g).contains i then tm.putS c.clk c.g.nextB (s5 d) (f x c i) else tm }

/-- Operands that are no stream: the active lanes. -/
def plain (g : BitVec 3) (x : State) (c : Ctx) : Srcs := { s := x, a := fun _ => 0, b := fun _ => 0, ts := c.active g }

/-- Format A with sources a and b, either of which may be a stream. -/
def srcA (o : OpA) (x : State) (c : Ctx) : Srcs := srcs x c o (c.active o.g)

/-! ## The rule of an instruction that writes no register when it issues -/

/-- Everything that waits on what the instruction changed goes on, where the rule says so. -/
def settled (b : Bool) (s : State) (c : Ctx) : State := if b then settle s c.g.rid else s

/-- An instruction that acts on `x` and writes no register: `y` is the state it makes, apart from passing. -/
structure Act where
  spec : Spec
  m : Bool
  ok : State → Ctx → Prop := fun _ _ => True
  y : State → Ctx → State
  settles : Bool := false

def Act.Holds (table : Instr → Option Act) : Prop :=
  ∀ i r, table i = some r → ∀ s c0 x c, Ready r.spec s c0 x c → r.ok x c →
    ∃ u, exec i s = .next (settled r.settles (marked r.m u c) c) ∧ Fixed (r.y x c) u c [] (fun _ th => th) (fun _ tm => tm)

/-- A variable result: `y` is the state it makes apart from passing, `o` the result outstanding for the lanes `ts`. -/
structure Lag where
  spec : Spec
  m : Bool
  ok : State → Ctx → Prop := fun _ _ => True
  y : State → Ctx → State := fun x _ => x
  ts : State → Ctx → List Nat
  o : State → Ctx → Outst
  settles : Bool := false

def Lag.Holds (table : Instr → Option Lag) : Prop :=
  ∀ i r, table i = some r → ∀ s c0 x c, Ready r.spec s c0 x c → r.ok x c →
    ∃ u, exec i s = .next (settled r.settles (marked r.m u c) c) ∧ Late (r.y x c) u c (r.ts x c) (r.o x c)

/-! ## The rule of an instruction that acts once for each team -/

/-- Teams acting one after another; none where a team may not act. -/
def chain (f : State → Nat → Option State) : List Nat → State → Option State
  | [], s => some s
  | t :: ts, s => (f s t).bind (chain f ts)

/-- `f` is a team's effect, under the conditions its rule gives; `fin` what follows the last team. -/
structure ByTeam where
  spec : Spec
  m : Bool
  ok : State → Ctx → Prop := fun _ _ => True
  f : Ctx → State → Nat → Option State
  fin : Ctx → State → State := fun _ s => s
  settles : Bool := false

/-- Where every team with an active lane that has not acted may act, both as the instruction begins, since one that may not holds the
others back (R147), and in its turn, the instruction completes. -/
def ByTeam.Holds (table : Instr → Option ByTeam) : Prop :=
  ∀ i r, table i = some r → ∀ s c0 x c, Ready r.spec s c0 x c → r.ok x c →
    ∀ ts, ts = (c.teams r.spec.g).filter (fun t => !(c.b.part.contains t)) → (∀ t ∈ ts, (r.f c x t).isSome = true) →
    ∀ z, chain (r.f c) ts x = some z →
    ∃ u, exec i s = .next (settled r.settles (marked r.m u c) c) ∧ Fixed (r.fin c z) u c [] (fun _ th => th) (fun _ tm => tm)

/-! ## The rule of an instruction that moves lanes, or at which they wait -/

/-- The group behind a control instruction: `f` is its effect, `next` where each thread goes. -/
def Went (x u : State) (c : Ctx) (done : Bool) (f : Group → Group) (next : Nat → W64) : Prop :=
  Kept x u c.g.id ∧ ∃ age, u.group? c.g.id = (x.group? c.g.id).map (fun g => (f g).passed c done [] age next)

structure Jump where
  spec : Spec
  m : Bool
  done : Bool := false
  ok : Ctx → Prop := fun _ => True
  f : Ctx → Group → Group := fun _ g => g
  next : Ctx → Nat → W64
  /-- What follows once the bundle has passed. -/
  fin : State → Ctx → State → State := fun _ _ u => u

def Jump.Holds (table : Instr → Option Jump) : Prop :=
  ∀ i r, table i = some r → ∀ s c0 x c, Ready r.spec s c0 x c → r.ok c →
    ∃ u, exec i s = .next (r.fin x c (marked (r.m && !r.done) u c)) ∧ Went x u c r.done (r.f c) (r.next c)

/-- The threads `ts` wait at the instruction in state `st`; what the arrival satisfies goes on. -/
structure Stay where
  spec : Spec
  m : Bool
  done : Bool := false
  ok : State → Ctx → Prop
  y : State → Ctx → State := fun x _ => x
  ts : Ctx → List Nat
  st : State → Ctx → BStatus
  /-- How those that wait arrive, where it is more than waiting. -/
  arr : Ctx → State → State := fun _ s => s

def Stay.Holds (table : Instr → Option Stay) : Prop :=
  ∀ i r, table i = some r → ∀ s c0 x c, Ready r.spec s c0 x c → r.ok x c →
    exec i s = .next (settle (r.arr c (park (r.y x c) c r.m r.done (r.ts c) (r.st x c))) c.g.rid)

/-! ## The rule of a step the machine takes of itself, or that comes from outside -/

/-- Where the event has its effect, in terms of what it finds, and what it then leaves. -/
structure Event where
  {α : Type}
  pre : State → α → Prop
  post : State → α → State → Prop

/-- Every event of the table has its effect wherever its rule lets it. -/
def Event.Holds (table : Instr → Option Event) : Prop :=
  ∀ i e, table i = some e → ∀ s a, e.pre s a → ∃ t, exec i s = .next t ∧ e.post s a t

/-! ## Safe states -/

/-- Memory in its one canonical form: equal memories are equal data (log entry 3). -/
def Canonical (s : State) : Prop := s.mem.phys.wf = true

end Sys2Proof.Safety
end

