-- ==== Sys2Proof/Certificates/Slice0/Obligations.lean ====
section
/-! DEFINITION. The statements of this model. `Rules` gives, for each family of instructions with a fixed result, what the spec's
rules say of it; an obligation says that exec does so, completes, and leaves everything else. -/

namespace Sys2Proof.Rules

open Sys2Proof.Machine Sys2Proof.Safety

/-! ## Integer, bit-field and move instructions (R187 to R193) -/

/-- A format A instruction with sources a, b and, where `useD`, d. -/
def ofA (o : OpA) (useB useD : Bool) (f : W32 → W32 → W32 → W32) : Rule :=
  .v { g := o.g, rd := regA o ++ (if useB then regB o else []) ++ (if useD then [.v o.d] else []), coll := usesStream o, strm := strmReads o (Ctx.active · o.g) } o.m o.t o.d
    (srcA o) (fun c y l => f (y.a l) (y.b l) (c.v l o.d))

/-- A format B instruction: the immediate of R186 stands for b. -/
def ofB (o : OpB) (useD : Bool) (f : W32 → W32 → W32 → W32) : Rule :=
  .v { g := o.g, rd := [.v o.a] ++ (if useD then [.v o.d] else []) } o.m o.t o.d (plain o.g)
    (fun c _ l => f (c.v l o.a) (BitVec.ofInt 32 (immB o.i o.p)) (c.v l o.d))

/-- Table 2 of R187, on natural and signed numbers. -/
def add (a b _ : W32) : W32 := BitVec.ofNat 32 (a.toNat + b.toNat)
def sub (a b _ : W32) : W32 := BitVec.ofInt 32 (a.toNat - b.toNat)
def mul (a b _ : W32) : W32 := BitVec.ofNat 32 (a.toNat * b.toNat)
def mad (a b d : W32) : W32 := BitVec.ofNat 32 (a.toNat * b.toNat + d.toNat)
def shl (a b _ : W32) : W32 := BitVec.ofNat 32 (a.toNat * 2 ^ (b.toNat % 32))
def shr (a b _ : W32) : W32 := BitVec.ofNat 32 (a.toNat / 2 ^ (b.toNat % 32))
def shra (a b _ : W32) : W32 := BitVec.ofInt 32 (a.toInt / 2 ^ (b.toNat % 32))
def rot (a b _ : W32) : W32 := BitVec.ofNat 32 (a.toNat * 2 ^ (b.toNat % 32) + a.toNat / 2 ^ (32 - b.toNat % 32))
def clz (a _ _ : W32) : W32 := BitVec.ofNat 32 ((List.range 32).takeWhile (fun i => !a.getLsbD (31 - i))).length
def popc (a _ _ : W32) : W32 := BitVec.ofNat 32 ((List.range 32).map (fun i => (a.getLsbD i).toNat)).sum
def brev (a _ _ : W32) : W32 := a.reverse
def minN (a b _ : W32) : W32 := if a.toNat ≤ b.toNat then a else b
def minI (a b _ : W32) : W32 := if a.toInt ≤ b.toInt then a else b
def maxN (a b _ : W32) : W32 := if a.toNat ≤ b.toNat then b else a
def maxI (a b _ : W32) : W32 := if a.toInt ≤ b.toInt then b else a

def arithmetic : Instr → Option Rule
  | .iaddA o => some (ofA o true false add)
  | .iaddB o => some (ofB o false add)
  | .isubA o => some (ofA o true false sub)
  | .isubB o => some (ofB o false sub)
  | .imulA o => some (ofA o true false mul)
  | .imulB o => some (ofB o false mul)
  | .imadA o => some (ofA o true true mad)
  | .imadB o => some (ofB o true mad)
  | .iminN32 o => some (ofA o true false minN)
  | .iminI32 o => some (ofA o true false minI)
  | .imaxN32 o => some (ofA o true false maxN)
  | .imaxI32 o => some (ofA o true false maxI)
  | _ => none

/-- POS, WID and SG of a control word (R188). -/
def pos (k : W32) : Nat := k.toNat % 32
def wid (k : W32) : Nat := min (k.toNat / 256 % 64) 32
def bfx (a k _ : W32) : W32 :=
  let f := a.toNat / 2 ^ pos k % 2 ^ wid k
  BitVec.ofInt 32 (if k.getLsbD 15 = true ∧ 0 < wid k ∧ f.testBit (wid k - 1) = true then (f : Int) - 2 ^ wid k else f)
def bfi (a k d : W32) : W32 :=
  let m := BitVec.ofNat 32 ((2 ^ wid k - 1) * 2 ^ pos k)
  (d &&& ~~~m) ||| (BitVec.ofNat 32 (a.toNat * 2 ^ pos k) &&& m)

/-- SignExt of the low w bits (R189). -/
def sxt (w : Nat) (a : W32) : Int := let x := a.toNat % 2 ^ w; if x.testBit (w - 1) then (x : Int) - 2 ^ w else x

def bitwise : Instr → Option Rule
  | .andA o => some (ofA o true false (fun a b _ => a &&& b))
  | .andB o => some (ofB o false (fun a b _ => a &&& b))
  | .orA o => some (ofA o true false (fun a b _ => a ||| b))
  | .orB o => some (ofB o false (fun a b _ => a ||| b))
  | .xorA o => some (ofA o true false (fun a b _ => a ^^^ b))
  | .xorB o => some (ofB o false (fun a b _ => a ^^^ b))
  | .shlA o => some (ofA o true false shl)
  | .shlB o => some (ofB o false shl)
  | .shrA o => some (ofA o true false shr)
  | .shrB o => some (ofB o false shr)
  | .shraA o => some (ofA o true false shra)
  | .shraB o => some (ofB o false shra)
  | .rotA o => some (ofA o true false rot)
  | .rotB o => some (ofB o false rot)
  | .clz o => some (ofA o false false clz)
  | .popc o => some (ofA o false false popc)
  | .brev o => some (ofA o false false brev)
  | .bfxA o => some (ofA o true false bfx)
  | .bfxB o => some (ofB o false bfx)
  | .bfiA o => some (ofA o true true bfi)
  | .bfiB o => some (ofB o true bfi)
  | .sxt o =>
    let w := o.b.toNat % 32 + 1
    some (if o.b.getLsbD 5 then .pair { g := o.g, rd := regA o, coll := usesStream o, strm := strmReads o (Ctx.active · o.g) } o.m o.t o.d (srcA o) (fun _ y l => BitVec.ofInt 64 (sxt w (y.a l)))
      else .v { g := o.g, rd := regA o, coll := usesStream o, strm := strmReads o (Ctx.active · o.g) } o.m o.t o.d (srcA o) (fun _ y l => BitVec.ofInt 32 (sxt w (y.a l))))
  | .sel o => some (.v { g := 7, rd := guardRef o.g ++ regA o ++ regB o, coll := usesStream o, strm := strmReads o (Ctx.active · 7) } o.m o.t o.d (fun x c => srcs x c o (c.active 7))
      (fun c y l => if (c.g.th l).getP o.g then y.a l else y.b l))
  | _ => none

/-! ## Comparisons (R190, R195, R204) -/

/-- The conditions of R157 by code; codes 6 and 7 are reserved. -/
def holds (k : Nat) (a b : Int) : Bool :=
  match k with
  | 0 => decide (a = b)
  | 1 => decide (a ≠ b)
  | 2 => decide (a < b)
  | 3 => decide (a ≤ b)
  | 4 => decide (b < a)
  | _ => decide (b ≤ a)

/-- The number a comparison reads by its type. -/
def num {n : Nat} (signed : Bool) (a : BitVec n) : Int := if signed then a.toInt else a.toNat

def icmpA (signed : Bool) (o : OpA) : Option Rule :=
  if (condOf o.d).toNat < 6 then
    some (.p { g := o.g, rd := regA o ++ regB o, coll := usesStream o, strm := strmReads o (Ctx.active · o.g) } o.m (predOf o.d) (srcA o)
      (fun _ y l => holds (condOf o.d).toNat (num signed (y.a l)) (num signed (y.b l))))
  else none
def icmpB (signed : Bool) (o : OpB) : Option Rule :=
  if (condOf o.d).toNat < 6 then
    some (.p { g := o.g, rd := [.v o.a] } o.m (predOf o.d) (plain o.g)
      (fun c _ l => holds (condOf o.d).toNat (num signed (c.v l o.a)) (num signed (BitVec.ofInt 32 (immB o.i o.p)))))
  else none
/-- SCMP: a[5] gives the type, .N64 or .I64; each lane reads its own team's scalars. -/
def scmp (g : BitVec 3) (m : Bool) (rd : List RegRef) (a d : BitVec 6) (b : Ctx → Nat → W64) : Option Rule :=
  if (condOf d).toNat < 6 then
    some (.p { g := g, rd := rd } m (predOf d) (plain g)
      (fun c _ l => holds (condOf d).toNat (num (a.getLsbD 5) (c.s (teamOf l) a)) (num (a.getLsbD 5) (b c (teamOf l)))))
  else none

def comparison : Instr → Option Rule
  | .icmpN32A o => icmpA false o
  | .icmpI32A o => icmpA true o
  | .icmpN32B o => icmpB false o
  | .icmpI32B o => icmpB true o
  | .scmpA o => scmp o.g o.m [.s (s5 o.a), .s (s5 o.b)] o.a o.d (fun c t => c.s t o.b)
  | .scmpB o => scmp o.g o.m [.s (s5 o.a)] o.a o.d (fun _ _ => BitVec.ofInt 64 (immB o.i o.p))
  | .fcmp y o =>
    if (condOf o.d).toNat < 6 then
      some (.p { g := o.g, rd := regA o ++ regB o, coll := usesStream o, strm := strmReads o (Ctx.active · o.g) } o.m (predOf o.d) (srcA o)
        (fun _ x l => fCmp (fmtOf y.toNat) (condOf o.d).toNat (x.a l).toNat (x.b l).toNat))
    else none
  | _ => none

/-! ## Moves, addresses and scalars (R192 to R196) -/

/-- Table 3 of R192 for MOV of format A; LEA and IADD64 of R193. -/
def moves : Instr → Option Rule
  | .movA o =>
    match o.b.toNat with
    | 0 => some (ofA o false false (fun a _ _ => a))
    | 1 => some (.pair { g := o.g, rd := [.pair o.a] } o.m o.t o.d (plain o.g) (fun c _ l => c.pair l o.a))
    | 2 => some (.v { g := o.g, rd := [.s (s5 o.a)] } o.m o.t o.d (plain o.g) (fun c _ l => BitVec.ofNat 32 (c.s (teamOf l) o.a).toNat))
    | 3 => some (.pair { g := o.g, rd := [.s (s5 o.a)] } o.m o.t o.d (plain o.g) (fun c _ l => c.s (teamOf l) o.a))
    | _ => none
  | .movBw o => some (.v { g := o.g } o.m o.t o.d (plain o.g) (fun _ _ _ => immBW o.i o.p))
  | .leaA o => some (.pair { g := o.g, rd := [.s (s5 o.a)] ++ regB o, coll := usesStream o, strm := strmReads o (Ctx.active · o.g) } o.m o.t o.d (srcA o)
      (fun c y l => BitVec.ofNat 64 ((c.s (teamOf l) o.a).toNat + (y.b l).toNat)))
  | .leaB o => some (.pair { g := o.g, rd := [.s (s5 o.a)] } o.m o.t o.d (plain o.g)
      (fun c _ l => BitVec.ofInt 64 ((c.s (teamOf l) o.a).toNat + immB o.i o.p)))
  | .iadd64A o => some (.pair { g := o.g, rd := [.pair o.a, .pair o.b] } o.m o.t o.d (plain o.g)
      (fun c _ l => BitVec.ofNat 64 ((c.pair l o.a).toNat + (c.pair l o.b).toNat)))
  | .iadd64B o => some (.pair { g := o.g, rd := [.pair o.a] } o.m o.t o.d (plain o.g)
      (fun c _ l => BitVec.ofInt 64 ((c.pair l o.a).toNat + immB o.i o.p)))
  | _ => none

/-- R194 to R196: one write for each team with an active lane; Table 4 for SMOV of format A, whose v sources are those of the
team's active lane with the lowest lane home. -/
def scalars : Instr → Option Rule
  | .saddA o => some (.s { g := o.g, rd := [.s (s5 o.a), .s (s5 o.b)] } o.m o.d (fun _ c t => BitVec.ofNat 64 ((c.s t o.a).toNat + (c.s t o.b).toNat)))
  | .saddB o => some (.s { g := o.g, rd := [.s (s5 o.a)] } o.m o.d (fun _ c t => BitVec.ofInt 64 ((c.s t o.a).toNat + immB o.i o.p)))
  | .smulA o => some (.s { g := o.g, rd := [.s (s5 o.a), .s (s5 o.b)] } o.m o.d (fun _ c t => BitVec.ofNat 64 ((c.s t o.a).toNat * (c.s t o.b).toNat)))
  | .smulB o => some (.s { g := o.g, rd := [.s (s5 o.a)] } o.m o.d (fun _ c t => BitVec.ofInt 64 ((c.s t o.a).toNat * immB o.i o.p)))
  | .slea o => some (.s { g := o.g } o.m o.d (fun _ c _ => BitVec.ofInt 64 (c.c.pc.toNat + offSlea o.i o.p)))
  | .smovBw o => some (.s { g := o.g } o.m o.d (fun _ _ _ => BitVec.ofInt 64 (immBW o.i o.p).toInt))
  | .smovA o =>
    match o.b.toNat with
    | 0 => some (.s { g := o.g, rd := [.s (s5 o.a)] } o.m o.d (fun _ c t => c.s t o.a))
    | 1 => some (.s { g := o.g, rd := [.pair o.a] } o.m o.d (fun _ c t => c.pair (c.lowest o.g t) o.a))
    | 2 => some (.s { g := o.g, rd := [.v o.a] } o.m o.d (fun _ c t => BitVec.ofNat 64 (c.v (c.lowest o.g t) o.a).toNat))
    | 3 => some (.s { g := o.g, rd := [.v o.a] } o.m o.d (fun _ c t => BitVec.ofInt 64 (c.v (c.lowest o.g t) o.a).toInt))
    | _ => none
  | _ => none

/-- Table 5 of R198: an axis the range lacks has extent 1 (R49), the window row and the partition are those of the first placement (R388),
and a phase that completed in this clk is not counted yet (R197). -/
def sysValue (c : Ctx) (t sel : Nat) : W64 :=
  let n := BitVec.ofNat 64
  let triple := (c.g.th t).tri
  match sel with
  | 0x00 => n (t % c.g.shp.1)
  | 0x01 => n (t / c.g.shp.1 % c.g.shp.2.1)
  | 0x02 => n (t / (c.g.shp.1 * c.g.shp.2.1))
  | 0x04 => n c.g.ext.1
  | 0x05 => n c.g.ext.2.1
  | 0x06 => n c.g.ext.2.2
  | 0x08 => n c.g.base.1
  | 0x09 => n c.g.base.2.1
  | 0x0A => n c.g.base.2.2
  | 0x0C => n c.g.shp.1
  | 0x0D => n c.g.shp.2.1
  | 0x0E => n c.g.shp.2.2
  | 0x10 => n c.r.img.rrec.ext.1
  | 0x11 => n (if 2 ≤ c.r.img.rrec.dims then c.r.img.rrec.ext.2.1 else 1)
  | 0x12 => n (if 3 ≤ c.r.img.rrec.dims then c.r.img.rrec.ext.2.2 else 1)
  | 0x14 => c.g.gseq
  | 0x15 => n ((c.g.threads.length + 31) / 32)
  | 0x16 => n c.g.scrSize
  | 0x17 => n (c.g.team (t / 32)).wrow0
  | 0x18 => n (t % 32)
  | 0x19 => n (t / 32)
  | 0x1A => (c.g.th t).link
  | 0x1B => n c.g.threads.length
  | 0x1C => n c.g.core
  | 0x1D => n c.g.die
  | 0x1E => n c.g.part0
  | 0x1F => n c.r.depth
  | 0x20 => n c.r.rid
  | 0x21 => n (if c.g.barAt = c.clk + 1 then c.g.barph - 1 else c.g.barph).toNat
  | 0x22 => n (if c.r.gbarAt = c.clk + 1 then c.r.gbarph - 1 else c.r.gbarph).toNat
  | 0x24 => n (c.g.th t).emode.toNat
  | 0x25 => n (match triple with | some x => x.o.toNat | none => 0)
  | 0x26 => n (match triple with | some x => x.t.toNat | none => 0)
  | 0x27 => n (match triple with | some x => x.w.toNat | none => 0)
  | _ => 0

/-- R197: the class of d is a[1:0]; an s register is written once for each team, as its lowest active lane reads. -/
def sysRead (o : OpF) (rd : List RegRef) (f : State → Ctx → Nat → W64) : Option Rule :=
  match o.a.toNat with
  | 0 => some { spec := { g := o.g, rd := rd, wr := [.v o.d] }, m := o.m
                byp := fun x c => [{ reg := o.d, t := false, vals := (c.active o.g).map (fun l => (l, BitVec.ofNat 32 (f x c l).toNat)) }]
                th := fun x c l th => if (c.active o.g).contains l then th.setV o.d (BitVec.ofNat 32 (f x c l).toNat) else th }
  | 1 => some { spec := { g := o.g, rd := rd, wr := [.pair o.d] }, m := o.m
                byp := fun x c => [{ reg := o.d, t := false, vals := (c.active o.g).map (fun l => (l, (f x c l).extractLsb 31 0)) },
                                   { reg := o.d + 1, t := false, vals := (c.active o.g).map (fun l => (l, (f x c l).extractLsb 63 32)) }]
                th := fun x c l th => if (c.active o.g).contains l then
                    (th.setV o.d ((f x c l).extractLsb 31 0)).setV (o.d + 1) ((f x c l).extractLsb 63 32) else th }
  | 2 => some (.s { g := o.g, rd := rd } o.m o.d (fun x c t => f x c (c.lowest o.g t)))
  | _ => none

/-- RDSYS (R197, R198), RDTS and RDCLK (R289). -/
def systemReads : Instr → Option Rule
  | .rdsys o => if o.sel.toNat < 0x28 ∧ o.sel.toNat ∉ [0x03, 0x07, 0x0B, 0x0F, 0x13, 0x23]
      then sysRead o (if 0x24 ≤ o.sel.toNat then [.sys o.sel.toNat] else []) (fun _ c t => sysValue c t o.sel.toNat) else none
  | .rdts o => sysRead o [] (fun x _ _ => BitVec.ofNat 64 x.ticks)
  | .rdclk o => sysRead o [] (fun x _ _ => BitVec.ofNat 64 x.clk)
  | _ => none

/-! ## Floating point, conversion, pack and dot product (R202 to R212) -/

/-- A format A instruction on bit patterns. -/
def ofFp (o : OpA) (useB useD : Bool) (f : Nat → Nat → Nat → Nat) : Rule :=
  ofA o useB useD (fun a b d => BitVec.ofNat 32 (f a.toNat b.toNat d.toNat))

/-- R202, R203: the exact result of the operands' values, rounded once. -/
def floats : Instr → Option Rule
  | .fadd y o => let f := fmtOf y.toNat; some (ofFp o true false (fun a b _ => f.round (rmOf o) ((f.val a).add (rmOf o) (f.val b))))
  | .fsub y o => let f := fmtOf y.toNat; some (ofFp o true false (fun a b _ => f.round (rmOf o) ((f.val a).add (rmOf o) (f.val b).neg)))
  | .fmul y o => let f := fmtOf y.toNat; some (ofFp o true false (fun a b _ => f.round (rmOf o) ((f.val a).mul (f.val b))))
  | .ffma y o => let f := fmtOf y.toNat
                 some (ofFp o true true (fun a b d => f.round (rmOf o) (((f.val a).mul (f.val b)).add (rmOf o) (f.val d))))
  | .fmin y o => some (ofFp o true false (fun a b _ => fMinMax (fmtOf y.toNat) false a b))
  | .fmax y o => some (ofFp o true false (fun a b _ => fMinMax (fmtOf y.toNat) true a b))
  | .frcp o => some (ofFp o false false (fun a _ _ => fRcp (fmtOf o.b.toNat) (rmOf o) a))
  | .frsq o => some (ofFp o false false (fun a _ _ => fRsq (fmtOf o.b.toNat) (rmOf o) a))
  | .fex2 o => some (ofFp o false false (fun a _ _ => fExp2 (fmtOf o.b.toNat) a))
  | .flg2 o => some (ofFp o false false (fun a _ _ => fLog2 (fmtOf o.b.toNat) a))
  | _ => none

/-- Bits and sign of an integer type code (R200). -/
def ibits (k : Nat) : Nat := if k / 2 = 0 then 8 else if k / 2 = 1 then 16 else 32
def isgn (k : Nat) : Bool := k % 2 == 1

/-- R206 to R208. -/
def conversions : Instr → Option Rule
  | .f2i o => if o.b.toNat / 4 < 6 then some (ofA o false false (fun a _ _ =>
      BitVec.ofInt 32 (fToInt (fmtOf (o.b.toNat % 4)) (rmOf o) (ibits (o.b.toNat / 4)) (isgn (o.b.toNat / 4)) a.toNat))) else none
  | .i2f o => if o.b.toNat / 4 < 6 then some (ofFp o false false (fun a _ _ =>
      let n := ibits (o.b.toNat / 4)
      let x := a % 2 ^ n
      intToF (fmtOf (o.b.toNat % 4)) (rmOf o) (if isgn (o.b.toNat / 4) && x.testBit (n - 1) then (x : Int) - 2 ^ n else x))) else none
  | .fcvt o => if o.b.toNat < 16 then some (ofFp o false false (fun a _ _ =>
      fCvt (fmtOf (o.b.toNat % 4)) (fmtOf (o.b.toNat / 4)) (rmOf o) a)) else none
  | .dot4N8 o => some (ofFp o true true (fun a b d =>
      d + (a % 256) * (b % 256) + (a / 2 ^ 8 % 256) * (b / 2 ^ 8 % 256) + (a / 2 ^ 16 % 256) * (b / 2 ^ 16 % 256) + (a / 2 ^ 24) * (b / 2 ^ 24)))
  | .dot4I8 o => some (ofA o true true (fun a b d =>
      let k := fun (x : W32) (i : Nat) => (x.extractLsb' (8 * i) 8).toInt
      BitVec.ofInt 32 (d.toInt + k a 0 * k b 0 + k a 1 * k b 1 + k a 2 * k b 2 + k a 3 * k b 3)))
  | _ => none

/-! ## Short forms (R163) -/

/-- A short form: v0 to v31, no guard, d := f(a, d). -/
def short (o : OpS) (imm : Bool) (f : W32 → W32 → W32) : Rule :=
  let a : BitVec 6 := BitVec.ofNat 6 o.a.toNat
  let d : BitVec 6 := BitVec.ofNat 6 o.d.toNat
  .v { g := 7, rd := (if imm then [] else [.v a]) ++ [.v d] } o.m false d (plain 7) (fun c _ l => f (c.v l a) (c.v l d))
def shortFp (o : OpS) (f : Nat → Nat → Nat) : Rule := short o false (fun a d => BitVec.ofNat 32 (f a.toNat d.toNat))

def shorts : Instr → Option Rule
  | .movShort o => some (.v { g := 7, rd := [.v (BitVec.ofNat 6 o.a.toNat)] } o.m false (BitVec.ofNat 6 o.d.toNat) (plain 7)
      (fun c _ l => c.v l (BitVec.ofNat 6 o.a.toNat)))
  | .iaddShort o => some (short o false (fun a d => add d a 0))
  | .isubShort o => some (short o false (fun a d => sub d a 0))
  | .imulShort o => some (short o false (fun a d => mul d a 0))
  | .andShort o => some (short o false (fun a d => d &&& a))
  | .orShort o => some (short o false (fun a d => d ||| a))
  | .xorShort o => some (short o false (fun a d => d ^^^ a))
  | .shlShort o => some (short o false (fun a d => shl d a 0))
  | .shrShort o => some (short o false (fun a d => shr d a 0))
  | .shraShort o => some (short o false (fun a d => shra d a 0))
  | .iaddiShort o => some (short o true (fun _ d => BitVec.ofInt 32 (d.toNat + o.a.toInt)))
  | .faddShort o => some (shortFp o (fun a d => F32.round 0 ((F32.val d).add 0 (F32.val a))))
  | .fsubShort o => some (shortFp o (fun a d => F32.round 0 ((F32.val d).add 0 (F32.val a).neg)))
  | .fmulShort o => some (shortFp o (fun a d => F32.round 0 ((F32.val d).mul (F32.val a))))
  | .fminShort o => some (shortFp o (fun a d => fMinMax F32 false d a))
  | .fmaxShort o => some (shortFp o (fun a d => fMinMax F32 true d a))
  | _ => none

/-! ## Masks, ballots and format slots (R173 to R177, R209 to R211) -/

/-- One write of a mask for each team with an active lane, of the bits of live threads; an armed mask is not written (R173). -/
def maskWrite (p : Spec) (m : Bool) (k : BitVec 4) (val : Ctx → Nat → W32) : Rule :=
  { spec := p, m := m
    ok := fun c => ∀ t ∈ c.teams p.g, (c.g.team t).joins.all (fun a => a.mask != k) ∧ (c.g.team t).waits.all (fun a => a.mask != k)
    tm := fun _ c t tm => if (c.teams p.g).contains t then tm.setM k (val c t &&& c.g.liveMask t) else tm }

/-- The bits of the active lanes whose predicate is true. -/
def ballot (c : Ctx) (g p : BitVec 3) : W32 := lanesMask ((c.active g).filter (fun l => (c.g.th l).getP p))

/-- The logic of R175 by code. -/
def mlog (k : Nat) (a b : W32) : W32 :=
  match k with
  | 0 => a &&& b
  | 1 => a ||| b
  | 2 => a ^^^ b
  | 3 => a &&& ~~~b
  | 4 => a
  | _ => ~~~a

/-- R210: element e of a word under a slot. -/
def unpack (f : W64) (e : Nat) (x w : W32) : W32 :=
  let n := 32 / slotCount f
  let q := x.toNat / 2 ^ (n * e) % 2 ^ n
  if slotType f = 0 then BitVec.ofNat 32 (F32.round 0 (B16.val q))
  else if slotType f = 1 then BitVec.ofNat 32 (F32.round 0 (F16.val q))
  else BitVec.ofNat 32 (dequant (if slotSigned f ∧ q.testBit (n - 1) = true then (q : Int) - 2 ^ n else q) (metaScale f w) (metaZero f w))

/-- R211: the new element; every other bit stays. -/
def pack (f : W64) (e rm : Nat) (y w d : W32) : W32 :=
  let n := 32 / slotCount f
  let k : Int := if slotType f = 0 then B16.round rm (F32.val y.toNat) else if slotType f = 1 then F16.round rm (F32.val y.toNat)
    else quant y.toNat (metaScale f w) (metaZero f w) n (slotSigned f) rm
  let m := BitVec.ofNat 32 ((2 ^ n - 1) * 2 ^ (n * e))
  (d &&& ~~~m) ||| (BitVec.ofInt 32 (k * 2 ^ (n * e)) &&& m)

def masks : Instr → Option Rule
  | .mset o => some (maskWrite { g := o.g } o.m (m4 o.d) (fun _ _ => immBW o.i o.p))
  | .mlog o => some (maskWrite { g := o.g } o.m (m4 o.d) (fun c t => mlog (mlogOp o) ((c.g.team t).getM (m4 o.a)) ((c.g.team t).getM (m4 o.b))))
  | .ballot o =>
    let p : Spec := { g := o.g, rd := guardRef (p3 o.a), coll := true }
    if o.b = 0 then some (.v p o.m o.t o.d (plain o.g) (fun c _ _ => ballot c o.g (p3 o.a)))
    else some (maskWrite { p with arm := some (m4 o.d, p3 o.a) } o.m (m4 o.d) (fun c _ => ballot c o.g (p3 o.a)))
  | .elect o => some (.p { g := o.g, coll := true } o.m (p3 o.d) (plain o.g)
      (fun c _ l => (c.active o.g).all (fun k => decide (laneOf l ≤ laneOf k))))
  | .unpack o => some { Rule.v { g := o.g, rd := [.pair o.a] } o.m o.t o.d (plain o.g)
      (fun c _ l => unpack (c.r.slot (slotIx o)) (elemIx o) (c.v l o.a) (c.v l (o.a + 1))) with
      ok := fun c => elemIx o < slotCount (c.r.slot (slotIx o)) }
  | .pack o => some { Rule.v { g := o.g, rd := [.pair o.a, .v o.d] } o.m o.t o.d (plain o.g)
      (fun c _ l => pack (c.r.slot (slotIx o)) (elemIx o) (rmOf o) (c.v l o.a) (c.v l (o.a + 1)) (c.v l o.d)) with
      ok := fun c => elemIx o < slotCount (c.r.slot (slotIx o)) }
  | _ => none

/-! ## Loads, stores and exchanges (R213 to R229) -/

/-- What the accesses of the lanes leave: their effects, their faults noted for the end of the run, the instruction counted. -/
def accessed (a : Acc) (c : Ctx) (ts : List Nat) : State := memIssued (a.done c) c ts a.hits
/-- Of a load, whose sample ends with its result (R425). -/
def fetched (a : Acc) (c : Ctx) (ts : List Nat) : State := memIssued (a.done c) c ts a.hits true

/-- SignExt of a number of w bits. -/
def signExt (w n : Nat) : Int := if n < 2 ^ (w - 1) then n else (n : Int) - 2 ^ w

/-- The value a load gives a register (R220). -/
def loaded (w : BitVec 2) (sx : Bool) (d : BitVec 6) (l n : Nat) : List (Nat × BitVec 6 × W32) :=
  if w = 3 then [(l, d, BitVec.ofNat 32 n), (l, d + 1, BitVec.ofNat 32 (n / 2 ^ 32))]
  else [(l, d, if sx then BitVec.ofInt 32 (signExt (8 * widthOf w) n) else BitVec.ofNat 32 n)]

/-- A load; where `glob` says that its addresses are global, it waits for the words its core's own additions, and its own combines, are held at
(R110, R431, log entries 71 and 147). Its value is the one its access found, and returns later (log entry 97). -/
def load (g : BitVec 3) (m glob : Bool) (rd : List RegRef) (w : BitVec 2) (sx : Bool) (d : BitVec 6) (p : Option PfC)
    (addr : Ctx → Nat → W64) (chk : State → Ctx → Nat → W64 → Except AFault Tgt) : Lag :=
  let wr := (if w = 3 then RegRef.pair d else .v d) :: (if resOf p = 0 then [] else [.p (BitVec.ofNat 3 (resOf p - 1))])
  let a := fun (x : State) (c : Ctx) => loads x c (2 ^ w.toNat) (acqWide p 3) (resOf p != 0) ((c.active g).map (fun l => (l, addr c l))) (fun s l va => chk s c l va)
  { spec := { g := g, rd := rd, wr := wr, late := true }, m := m, y := fun x c => fetched (a x c) c (c.active g), ts := fun _ c => c.active g
    ok := fun x c => glob = true → c.heldBack x true (c.active g) (fun l => isSo (addr c l).toNat) (fun l => (addr c l).toNat) (2 ^ w.toNat) = false
    o := fun x c => { regs := wr, v := ((a x c).vals.map (fun y => loaded w sx d y.1 y.2)).flatten,
                      p := if resOf p = 0 then [] else (a x c).vals.map (fun y => (y.1, BitVec.ofNat 3 (resOf p - 1), (a x c).nonres.contains y.1)) } }

/-- The source lane home of SHFL for a lane (R213). -/
def sourceHome (o : OpA) (c : Ctx) (l : Nat) : Int :=
  match o.a.toNat / 16 with
  | 0 => ((c.v l o.b).toNat % 32 : Nat)
  | 1 => ((l % 32 : Nat) : Int) - (o.b.toNat : Int)
  | 2 => ((l % 32 : Nat) : Int) + (o.b.toNat : Int)
  | _ => ((l % 32 ^^^ o.b.toNat : Nat) : Int)
/-- The lane read; one that does not exist or is not live gives the lane its own value. -/
def source (o : OpA) (c : Ctx) (l : Nat) : Nat :=
  let k := 32 * (c.b.ts.headD 0 / 32) + (sourceHome o c l).toNat
  if 0 ≤ sourceHome o c l ∧ sourceHome o c l < 32 ∧ (c.g.th k).live = true then k else l

/-- R144's tree over the lane homes; an inactive one is left out. -/
def treduce (o : OpA) (y : Srcs) : W32 :=
  (tree (applyOp o.b.toNat (rmOf o)) ((List.range 32).map (fun h => (y.ts.find? (fun l => l % 32 == h)).map y.a))).getD 0

def lates : Instr → Option Lag
  | .ldCx w o => some (load o.g o.m true [.s o.s, .v o.v] w o.x o.t o.p (fun c l => c.addrCx o l) (chkGlob (widthOf w) .load))
  | .ldCdS o => some (load o.g o.m true [.s (s5 o.b)] o.w o.x o.t o.p (fun c l => c.addrCdS o l (widthOf o.w)) (chkGlob (widthOf o.w) .load))
  | .ldCdPair o => some (load o.g o.m true [.pair o.b] o.w o.x o.t o.p (fun c l => c.addrCdPair o l (widthOf o.w)) (chkGlob (widthOf o.w) .load))
  | .lds o => some (load o.g o.m false [.v o.b] o.w o.x o.t o.p (fun c l => c.offW o l) (chkScrCd o false))
  | .ldw o => some (load o.g o.m false [.v o.b] o.w o.x o.t o.p (fun c l => c.offW o l) (chkWinCd o false))
  | .ldx o =>
    let z := 2 ^ o.w.toNat
    let a := fun (x : State) (c : Ctx) => loads x c z false false ((c.leads o.g).map (fun l => (l, c.addrCdS o l z))) (fun s l va => chkGlob z .load s c l va)
    some { spec := { g := o.g, rd := [.s (s5 o.b)], wr := [.s (s5 o.t)], late := true }, m := o.m, y := fun x c => fetched (a x c) c (c.active o.g), ts := fun _ c => c.leads o.g
           ok := fun x c => c.heldBack x true (c.leads o.g) (fun l => isSo (c.addrCdS o l z).toNat) (fun l => (c.addrCdS o l z).toNat) z = false
           o := fun x c => { regs := [.s (s5 o.t)], s := (a x c).vals.map (fun y =>
             (teamOf y.1, s5 o.t, if o.x then BitVec.ofInt 64 (signExt (8 * z) y.2) else BitVec.ofNat 64 y.2)) } }
  | .shfl o => some { spec := { g := o.g, rd := [.v (BitVec.ofNat 6 (o.a.toNat % 16))] ++ (if o.a.toNat / 16 = 0 then [.v o.b] else []), wr := [.v o.d], coll := true, late := true }
                      m := o.m, ts := fun _ c => c.active o.g
                      o := fun _ c => { regs := [.v o.d], v := (c.active o.g).map (fun l => (l, o.d, c.v (source o c l) (BitVec.ofNat 6 (o.a.toNat % 16)))) } }
  | .tred o => some { spec := { g := o.g, rd := regA o, wr := [.v o.d], coll := true, late := true, strm := strmReads o (Ctx.active · o.g) }, m := o.m
                      y := fun x c => (srcA o x c).s, ts := fun _ c => c.active o.g
                      o := fun x c => { regs := [.v o.d], v := (srcA o x c).ts.map (fun l => (l, o.d, treduce o (srcA o x c))) } }
  | _ => none

/-- A store; a release waits for its core's held additions and its own held combines, and a store for those at its bytes (R110, R111, R431, log
entries 71 and 147). -/
def store (g : BitVec 3) (m glob : Bool) (rd : List RegRef) (w : BitVec 2) (d : BitVec 6) (p : Option PfC)
    (addr : Ctx → Nat → W64) (chk : State → Ctx → Nat → W64 → Except AFault Tgt) : Act :=
  { spec := { g := g, rd := (if w = 3 then .pair d else .v d) :: rd }, m := m
    ok := fun x c => (if glob then c.heldBack x false (c.active g) (fun l => releases (relWide p 3) (addr c l).toNat) (fun l => (addr c l).toNat) (2 ^ w.toNat)
      else c.heldBack x false (c.active g) (fun _ => relWide p 3) (fun _ => 0) 0) = false
    y := fun x c => accessed (stores x c (2 ^ w.toNat) (relWide p 3)
        ((c.active g).map (fun l => (l, addr c l, (if w = 3 then (c.pair l d).toNat else (c.v l d).toNat % 2 ^ (8 * widthOf w))))) (fun s l va => chk s c l va))
      c (c.active g) }

/-- R229: what FENCE does beyond returning the bundle's results. -/
def fenced (sel : Nat) (x : State) (c : Ctx) : State :=
  let x := x.updGroup c.g.id (fun g => (g.returnAll c.b.id).updBundle c.b.id (fun b => { b with haz := [] }))
  let x := if 2 ≤ sel then releaseCore x c.g.die c.g.core else x
  if sel = 5 then x.updCore c.g.die c.g.core (fun k => { k with l1 := k.l1.filter (fun l => !l.uo) }) else x

/-- The stream images a QSET reads, one for each team (R226), and what the reads leave. -/
def images (o : OpCd) (x : State) (c : Ctx) : State × List (Nat × List Byte) × List DFault :=
  (c.leads o.g).foldl (fun r l =>
    let va := c.addrQ o l
    match checkAddr r.1 c va.toNat 64 .load with
    | .error f => (r.1, r.2.1, r.2.2 ++ [laneFault c l f va])
    | .ok k => match tgtLoad r.1 c.who k 64 false with
      | .error f => (r.1.poisonRec f, r.2.1, r.2.2 ++ [laneFault c l f va])
      | .ok (bs, s) => (s, r.2.1 ++ [(teamOf l, bs)], r.2.2)) (x, [], [])

/-- The sectors of a team's stream image, which a sample record counts (R425). -/
def imageHits (o : OpCd) (c : Ctx) : List Hit := (c.leads o.g).flatMap (fun l => sectorHits l false (c.addrQ o l).toNat 64)

def storing : Instr → Option Act
  | .stCx w o => some (store o.g o.m true [.s o.s, .v o.v] w o.t o.p (fun c l => c.addrCx o l) (chkGlob (widthOf w) .store))
  | .stCdS o => some (store o.g o.m true [.s (s5 o.b)] o.w o.t o.p (fun c l => c.addrCdS o l (widthOf o.w)) (chkGlob (widthOf o.w) .store))
  | .stCdPair o => some (store o.g o.m true [.pair o.b] o.w o.t o.p (fun c l => c.addrCdPair o l (widthOf o.w)) (chkGlob (widthOf o.w) .store))
  | .sts o => some (store o.g o.m false [.v o.b] o.w o.t o.p (fun c l => c.offW o l) (chkScrCd o true))
  | .stw o => some (store o.g o.m false [.v o.b] o.w o.t o.p (fun c l => c.offW o l) (chkWinCd o true))
  | .stx o =>
    let z := 2 ^ o.w.toNat
    some { spec := { g := o.g, rd := [.s (s5 o.b), .s (s5 o.t)] }, m := o.m
           ok := fun x c => c.heldBack x false (c.leads o.g) (fun l => releases false (c.addrCdS o l z).toNat) (fun l => (c.addrCdS o l z).toNat) z = false
           y := fun x c => accessed (stores x c z false ((c.leads o.g).map (fun l => (l, c.addrCdS o l z, (c.s (teamOf l) o.t).toNat % 2 ^ (8 * z))))
             (fun s l va => chkGlob z .store s c l va)) c (c.active o.g) }
  | .fence o => some { spec := { g := o.g }, m := o.m
                       ok := fun x c => c.active o.g = [] ∨ c.g.canEnd c.b.id = true ∧ c.heldBack x false (c.active o.g) (fun _ => decide (2 ≤ o.sel.toNat)) (fun _ => 0) 0 = false
                       y := fun x c => memIssued (if c.active o.g = [] then x else fenced o.sel.toNat x c) c (c.active o.g) [] }
  | .pref o => some { spec := { g := o.g, rd := [.s o.s, .v o.v] }, m := o.m
                      y := fun x c => memIssued ((c.active o.g).foldl (fun s l => prefOne s c (c.addrCx o l)) x) c (c.active o.g)
                        ((c.active o.g).map (fun l => ⟨l, false, (c.addrCx o l).toNat, 1, false, false, false⟩)) }
  | .pgreq o => some { spec := { g := o.g, rd := [.s o.s, .v o.v] }, m := o.m
                       y := fun x c => memIssued ((c.active o.g).foldl (fun s l => pgreqOne s c (c.addrCx o l)) x) c (c.active o.g) [] }
  | .qsave o => some { spec := { g := o.g, rd := [.s (s5 o.b)] }, m := o.m
                       ok := fun x c => c.heldBack x false (c.leads o.g) (fun l => releases false (c.addrQ o l).toNat) (fun l => (c.addrQ o l).toNat) 64 = false
                       y := fun x c =>
                         let put := fun (x : State × List DFault) (l : Nat) =>
                           let va := c.addrQ o l
                           let bs := streamBytes ((c.g.team (teamOf l)).getQ (qNum o))
                           if va.toNat % 64 ≠ 0 then (x.1, x.2 ++ [laneFault c l (flt .align) va])
                           else
                             let a := stores x.1 c 8 false ((List.range 8).map (fun i => (l, va + BitVec.ofNat 64 (8 * i), fld bs (8 * i) 8))) (fun s l va => chkGlob 8 .store s c l va)
                             (noteWatch a.s c a.hits, x.2 ++ a.faults.take 1)
                         let r := (c.leads o.g).foldl put (x, [])
                         memIssued (r.1.dataFaults c r.2) c (c.active o.g) (imageHits o c) }
  | .qset o => some { spec := { g := o.g, rd := [.s (s5 o.b)] }, m := o.m
                      ok := fun x c => c.heldBack x true (c.leads o.g) (fun l => isSo (c.addrQ o l).toNat) (fun l => (c.addrQ o l).toNat) 64 = false ∧
                        (images o x c).2.1.all (fun y => streamOk y.2) = true
                      y := fun x c =>
                        let r := images o x c
                        memIssued ((r.1.dataFaults c r.2.2).updGroup c.g.id (fun g => r.2.1.foldl (fun g y => g.updTeam y.1 (fun t => t.setQ (qNum o) (streamFrom y.2))) g))
                          c (c.active o.g) (imageHits o c) }
  | _ => none

/-! ## Atomics, reductions and bank operations (R240 to R247) -/

/-- The operations of R241 by code: the word and the datum give the new word. -/
def word (k : Nat) (x y : W32) : W32 :=
  match k with
  | 0 => x + y
  | 1 => BitVec.ofNat 32 (F32.round 0 ((F32.val x.toNat).add 0 (F32.val y.toNat)))
  | 2 => minN x y 0
  | 3 => minI x y 0
  | 4 => BitVec.ofNat 32 (fMinMax F32 false x.toNat y.toNat)
  | 5 => maxN x y 0
  | 6 => maxI x y 0
  | 7 => BitVec.ofNat 32 (fMinMax F32 true x.toNat y.toNat)
  | 8 => x &&& y
  | 9 => x ||| y
  | 10 => x ^^^ y
  | _ => y

/-- The address of a lane. -/
def lanesAt (o : OpCm) (c : Ctx) (l : Nat) : Nat := (c.addrCm o l).toNat

/-- An atomic of the active lanes that have not acted yet, in ascending lane home (R242): each takes the word's earlier value. Those of a word that the log does not let go wait together (R430, R431, log entry 71). -/
def exchanged (o : OpCm) (k : Nat) (f : Ctx → Nat → W32 → Option W32) (x : State) (c : Ctx) : Acc :=
  (c.left (c.active o.g)).foldl (fun (a : Acc) l =>
    let va := c.addrCm o l
    a.orWait c k va.toNat (checkAddr a.s c va.toNat 4 (.rmw k false)) (fun _ => true) [l]
      (a.lane c l va 4 (.rmw k false) false (fun s => checkAddr s c va.toNat 4 (.rmw k false)) (fun w s t =>
        match tgtRmw s w t (decide (scopeOf o.p 3 ≤ 1)) (relWide o.p 3) (f c l) (cellOp k (c.v l o.v)) with
        | .error e => .error e
        | .ok (y, s) => .ok (y.toNat, if k = 1 then noteAdd s c va.toNat t else s))) (a.owed (lanesAt o c) (c.left (c.active o.g)) l)) { s := x }
/-- The accesses that lanes made in tries before this one. -/
def earlier (o : OpCm) (k : Nat) (p : Bool) (x : State) (c : Ctx) : List Hit := c.hitBefore x (lanesAt o c) (.rmw k p)
/-- What every lane received, in this try or in one before it. -/
def received (c : Ctx) (a : Acc) : List (Nat × Nat) := c.b.acted.filterMap (fun x => x.2.map (fun y => (x.1, y.2))) ++ a.vals

def atom (o : OpCm) (k : Nat) (dat : RegRef) (f : Ctx → Nat → W32 → Option W32) : Lag :=
  let a := exchanged o k f
  { spec := { g := o.g, rd := [.s o.s, dat] ++ idxRegs o, wr := [.v o.d], late := true }, m := o.m
    ok := fun x c => c.heldBack x (k != 1) (c.active o.g) (fun l => releases (relWide o.p 3) (lanesAt o c l)) (lanesAt o c) 4 = false ∧ (a x c).wait = []
    y := fun x c => memIssued ((a x c).done c) c (c.active o.g) (earlier o k false x c ++ (a x c).hits) true, ts := fun _ c => c.active o.g
    o := fun x c => { regs := [.v o.d], v := (received c (a x c)).map (fun y => (y.1, o.d, BitVec.ofNat 32 y.2)) } }
def atomOf (o : OpCm) (k : Nat) : Lag := atom o k (.v o.v) (fun c l w => some (word k w (c.v l o.v)))

def atomics : Instr → Option Lag
  | .atomAdd o => some (atomOf o 0)
  | .atomAddF32 o => some (atomOf o 1)
  | .atomMinN32 o => some (atomOf o 2)
  | .atomMinI32 o => some (atomOf o 3)
  | .atomMinF32 o => some (atomOf o 4)
  | .atomMaxN32 o => some (atomOf o 5)
  | .atomMaxI32 o => some (atomOf o 6)
  | .atomMaxF32 o => some (atomOf o 7)
  | .atomAnd o => some (atomOf o 8)
  | .atomOr o => some (atomOf o 9)
  | .atomXor o => some (atomOf o 10)
  | .atomXchg o => some (atomOf o 11)
  | .cas o => some (atom o 64 (.pair o.v) (fun c l w => if w = c.v l o.v then some (c.v l (o.v + 1)) else none))
  | _ => none

/-- RED performs an addition as it issues everywhere but at a global word of a page that is not SO. -/
def atOnce : Tgt → Bool
  | .glob va => kindOf va == 1
  | _ => true

/-- RED (R245): as the atomic without its result; a global word's goes through the write-combining buffer. -/
def reduced (o : OpCm) (x : State) (c : Ctx) : Acc :=
  let k := o.d.toNat
  (c.left (c.active o.g)).foldl (fun (a : Acc) l =>
    let va := c.addrCm o l
    a.orWait c k va.toNat (checkAddr a.s c va.toNat 4 (.rmw k true)) atOnce [l]
      (a.lane c l va 4 (.rmw k true) false (fun s => checkAddr s c va.toNat 4 (.rmw k true)) (fun w s t =>
        match t with
        | .glob y => match redGlobal s c w y k (relWide o.p 3) (c.v l o.v) with
          | .error e => .error e
          | .ok s => .ok (0, s)
        | _ => match tgtRmw s w t false (relWide o.p 3) (fun y => some (applyOp k 0 y (c.v l o.v))) (cellOp k (c.v l o.v)) with
          | .error e => .error e
          | .ok (_, s) => .ok (0, if k = 1 then noteAdd s c va.toNat t else s)))) { s := x }

/-- BOP (R246): lane home h acts on word h of its row. -/
def banked (o : OpCm) (x : State) (c : Ctx) : Acc :=
  (c.active o.g).foldl (fun (a : Acc) l =>
    let row := c.addrCm o l
    let va := row + BitVec.ofNat 64 (4 * (l % 32))
    a.lane c l va 4 (.rmw o.d.toNat true) false (fun s => bopCheck s c row.toNat va.toNat) (fun w s t =>
      match tgtRmw s w t false (relWide o.p 3) (fun y => some (applyOp o.d.toNat 0 y (c.v l o.v))) (fun y => y) with
      | .error e => .error e
      | .ok (_, s) => .ok (0, s))) { s := x }

/-- BRED (R247): team by team, the lanes' values to one address are summed first. -/
def bankSums (o : OpCm) (x : State) (c : Ctx) : Acc := (c.teams o.g).foldl (bredTeam c o o.d.toNat (c.left (c.active o.g))) { s := x }

/-- Nothing of the core's or the thread's own is held that the instruction, made to global words or to a bank, would pass (R110, R111, R431, log
entries 71 and 147). -/
def passes (o : OpCm) (glob : Bool) (x : State) (c : Ctx) : Prop :=
  (if glob then c.heldBack x false (c.active o.g) (fun l => releases (relWide o.p 3) (lanesAt o c l)) (lanesAt o c) 4
   else c.heldBack x false (c.active o.g) (fun _ => relWide o.p 3) (fun _ => 0) 0) = false

def reductions : Instr → Option Act
  | .red o => some { spec := { g := o.g, rd := [.s o.s, .v o.v] ++ idxRegs o }, m := o.m
                     y := fun x c => memIssued ((reduced o x c).done c) c (c.active o.g) (earlier o o.d.toNat true x c ++ (reduced o x c).hits)
                     ok := fun x c => passes o true x c ∧ (reduced o x c).wait = [] }
  | .bop o => some { spec := { g := o.g, rd := [.s o.s, .v o.v] }, m := o.m, ok := passes o false, y := fun x c => accessed (banked o x c) c (c.active o.g) }
  | .bred o => some { spec := { g := o.g, rd := [.s o.s, .v o.v] ++ idxRegs o }, m := o.m, ok := fun x c => passes o false x c ∧ (bankSums o x c).wait = []
                      y := fun x c => memIssued ((bankSums o x c).done c) c (c.active o.g) (earlier o o.d.toNat true x c ++ (bankSums o x c).hits) }
  | _ => none

/-! ## Instructions that act once for each team (R230 to R236, R248 to R253, R256 to R270, R287, R290 to R298) -/

/-- A block of n bytes of scratch at an offset: aligned, in bounds, not range-locked (R219), and clean where it is read (R435). -/
def blockOk (s : State) (c : Ctx) (off : W64) (n align : Nat) (wr bo : Bool) : Bool :=
  off.toNat % align == 0 && decide (off.toNat + n ≤ c.g.scrSize) && !(s.locked c.g true off.toNat n wr bo) &&
    (wr && !bo || (s.coreBad c.g.die c.g.core (c.g.scrBase + off.toNat) n).isNone)

/-- The first result of a computation that may fault. -/
def good {α : Type} (x : Except AFault α) : Option α :=
  match x with
  | .ok a => some a
  | .error _ => none

/-- The group's scratch as it stands. -/
def scratchOf (s : State) (c : Ctx) (off n : Nat) : List Byte :=
  match s.group? c.g.id with
  | some g => g.scr off n
  | none => []

/-- One word of memory changed at its home slice, after a release where one is made (R221, R241, R248). -/
def homeChange (s : State) (c : Ctx) (va n : Nat) (k : AKind) (rel : Nat → Bool) (f : Nat → Nat) : Option State :=
  match flgCheck s c va n k with
  | .error _ => none
  | .ok a => (good (llcFill s c.who a true)).bind (fun _ =>
      (good (rmwSlice (if rel a then releaseCore s c.g.die c.g.core else s) c.who a n (fun y => some (f y)))).map (·.2))
/-- Nothing that a team's release there would pass is held, of its core's additions or of its threads' combines (log entries 71 and 147). -/
def relFree (g : BitVec 3) (c : Ctx) (s : State) (t : Nat) (rel : Bool) : Bool := !(c.heldBack s false (c.mine g t) (fun _ => rel) (fun _ => 0) 0)

/-- FLGS (R248): a flag or a global word set, or added to. -/
def flagSet (o : OpE) (c : Ctx) (s : State) (t : Nat) : Option State :=
  let y := c.s t o.b
  let add := o.b.getLsbD 5
  if o.a.getLsbD 5 then
    let n := if o.k.getLsbD 0 then 8 else 4
    let a := (c.s t o.a).toNat
    if c.heldBack s true (c.mine o.g t) (fun _ => releases (wideE o.p) a) (fun _ => a) n then none
    else homeChange s c a n (if add then .rmw 0 true else .store) (releases (wideE o.p)) (fun w => if add then (w + y.toNat) % 2 ^ (8 * n) else y.toNat % 2 ^ (8 * n))
  else if !(relFree o.g c s t (wideE o.p)) then none
  else
    let s := if wideE o.p then releaseCore s c.g.die c.g.core else s
    let change := fun (w : W32) => if add then BitVec.ofNat 32 (w.toNat + y.toNat) else BitVec.ofNat 32 y.toNat
    some (wakeFlag (s.updGroup c.g.id (fun g => { g with flags := g.flags.modify o.k.toNat change })) c.g.id o.k.toNat)

/-- QPUSH (R250, R400): the entry is appended, or refused with a status, which is written behind it. -/
def pushed (o : OpE) (c : Ctx) (s : State) (t : Nat) : Option State :=
  let h := o.k.toNat % 16
  let off := c.s t o.a
  let n := if c.r.isGuest h then 64 else 32
  if blockOk s c off n n false false && blockOk s c (off + BitVec.ofNat 64 n) 4 4 true false
      && relFree o.g c s t (if c.r.isGuest h then ordersE o.p else wideE o.p) then
    (if c.r.isGuest h then guestPush s c o t (scratchOf s c off.toNat n)
      else some (rangePush (if wideE o.p then releaseCore s c.g.die c.g.core else s) c h (scratchOf s c off.toNat n) (ordersE o.p))).map
      (fun x => x.1.scrWrite c.g.id (off.toNat + n) (leBytes 4 x.2))
  else none

/-- QDONE (R252): the ticket is given up and the entry's signal counts one, behind every write of the task (F9). -/
def ticketDone (o : OpE) (c : Ctx) (s : State) (t : Nat) : Option State :=
  ((c.g.team t).held.find? (fun x => x.word == c.s t o.a)).bind (fun k =>
    (if k.sig = 0 then some s else if relFree o.g c s t true then homeChange s c k.sig.toNat 8 (.rmw 0 true) (fun _ => true) (fun w => (w + 1) % 2 ^ 64) else none).map
      (fun s => s.updGroup c.g.id (fun g => g.updTeam t (fun tm => { tm with held := tm.held.erase k }))))

/-- BOINI (R253): COUNT and INIT the amount, PHASE and FLAGS zero. -/
def objectMade (o : OpE) (c : Ctx) (s : State) (t : Nat) : Option State :=
  let off := c.s t o.k
  let n := (c.s t o.a).toNat
  if blockOk s c off 16 16 true false then some (s.scrWrite c.g.id off.toNat (leBytes 4 n ++ leBytes 4 0 ++ leBytes 4 n ++ leBytes 4 0)) else none

/-- BOARR (R253, R98). -/
def objectArrived (o : OpE) (c : Ctx) (s : State) (t : Nat) : Option State :=
  let off := c.s t o.k
  if blockOk s c off 16 16 true true then some (boTake s c.g.id off.toNat (if o.a.getLsbD 5 then 1 else (c.s t o.a).toNat)) else none

/-- CPY (R230): a copy of length 0 writes its token at once; any other starts, registered, its token pending. -/
def copyStarted (o : OpE) (c : Ctx) (s : State) (t : Nat) : Option State :=
  let n := (c.s t o.k).toNat
  let d := (c.s t o.a).toNat
  let r := (c.s t o.b).toNat
  let fits := fun (scr : Bool) (x : Nat) => if scr then decide (x + n ≤ c.g.scrSize) else !(spans x n)
  if 2 ^ 24 < n then none
  else if n = 0 then some (s.updGroup c.g.id (fun g => g.updTeam t (fun tm => tm.putS c.clk c.g.nextB (s5 o.k) 0)))
  else if fits (o.a.getLsbD 5) d && fits (o.b.getLsbD 5) r && !(lockBlocked s c.g [(o.b.getLsbD 5, r, n)] [(o.a.getLsbD 5, d, n)]) then
    some (startOp s c t (laneOf (c.lowest o.g t)) (some (s5 o.k)) (.copy d r (o.a.getLsbD 5) (o.b.getLsbD 5) n) [(o.b.getLsbD 5, r, n)] [(o.a.getLsbD 5, d, n)])
  else none

/-- CPYL (R232): the list and its object are registered, up to four entries read. -/
def listStarted (o : OpE) (c : Ctx) (s : State) (t : Nat) : Option State :=
  let obj := (c.s t o.k).toNat
  let list := (c.s t o.a).toNat
  let n := (c.s t o.b).toNat
  if n = 0 then some s
  else if list % 32 = 0 ∧ obj % 16 = 0 ∧ list + 32 * n ≤ c.g.scrSize ∧ obj + 16 ≤ c.g.scrSize ∧ lockBlocked s c.g [(true, list, 32 * n)] [(true, obj, 16)] = false then
    let u := startOp s c t (laneOf (c.lowest o.g t)) none (.copyList obj list n 0 []) [(true, list, 32 * n)] []
    let u := u.updEng (fun e => { e with locks := e.locks ++
      [{ gid := c.g.id, core := c.g.core, die := c.g.die, op := .eng s.eng.nextOp, dest := true, scr := true, lo := obj, len := 16, bo := true }] })
    (u.op? s.eng.nextOp).map (fun p => (listRead u c p 4).1)
  else none

/-- SUBS (R234): a well-formed ring that overlaps no other is subscribed; what the core has buffered leaves for memory (R110). -/
def subscribed (o : OpE) (c : Ctx) (s : State) (t : Nat) : Option State :=
  let n := o.k.toNat % 8
  let off := c.s t o.a
  if blockOk s c off 64 64 false false then
    (s.group? c.g.id).bind (fun g =>
      let b := g.scr off.toNat 64
      let r := ringFrom n c.c.pc b
      if ringOk b && decide (r.rows * r.rowb ≤ 65536) && decide (r.tiles ≤ 2 ^ 48) && (g.ring? n).isNone && decide (r.off + r.span ≤ g.scrSize) && !(g.rings.any r.overlaps)
      then some ((drainAll s c.g.die c.g.core).updGroup g.id (fun g => { g with rings := g.rings ++ [r] })) else none)
  else none

/-- RELS (R236): a slot that drains is a source, the rows of its tile are destinations (R234). -/
def slotReleased (o : OpE) (c : Ctx) (s : State) (t : Nat) : Option State :=
  let n := o.a.toNat % 8
  let i := (c.s t o.b).toNat / 2 ^ 32 % 256
  ((s.group? c.g.id).bind (fun g => g.ring? n)).bind (fun r =>
    let sl := r.slots.getD i {}
    if i < r.slots.length ∧ sl.held = some t ∧ (r.out = true → slotBlocked s c.g [(true, r.slotOff i, r.z)] (r.rowRngs sl.tile) = false) then
      let after := fun (r : Ring) => { sl with st := (if r.out then SlotSt.draining else .empty), held := none }
      let u := s.updGroup c.g.id (fun g => (g.updRing n (fun r => { r with slots := r.slots.set i (after r) })).dropRings)
      some (if r.out then lockAdd (drainAll u c.g.die c.g.core) c.g (.slot n i) [(true, r.slotOff i, r.z)] (r.rowRngs sl.tile) else u)
    else none)

/-- MTX, MTXG and MTXS (R260): the block, the slots and the ranges hold, nothing registered stands in the way and the queue has a
place; the command is queued, its token pending. -/
def tileStarted (form : Nat) (o : OpE) (c : Ctx) (s : State) (t : Nat) : Option State :=
  let off := c.s t o.a
  if blockOk s c off 128 128 false false then
    (s.group? c.g.id).bind (fun g =>
      -- the block, and the pairs where it has them, as they stand, or as a try before this one read them (R260)
      let bs := c.blk t (g.scr off.toNat 128)
      let y : MBlk := { form := form, b := bs.take 128, fa := c.r.slot (o.b.toNat % 8), fb := c.r.slot (o.b.toNat / 8) }
      let x := { y with pairs := if y.usePairs then (if 128 < bs.length then bs.drop 128 else g.scr y.x3 (4 * y.npair)) else [] }
      if y.ok && (!y.usePairs || (rngBad g [y.pairRng]).isNone && !(lockBlocked s g [y.pairRng] [])) && x.pairsOk && !(rngMeets g x.cRng x.aRng) && !(rngMeets g x.cRng x.bRng)
          && (rngBad g (x.auxRngs ++ [x.aRng, x.bRng, x.cRng])).isNone && !(lockBlocked s g ([x.aRng, x.bRng] ++ x.auxRngs) [x.cRng]) && decide (queued s g.die g.core < 8) then
        some ((startOp s c t (laneOf (c.lowest o.g t)) (some (s5 o.k)) (.mtx form x.b x.fa x.fb x.pairs) ([x.aRng, x.bRng] ++ x.auxRngs) [x.cRng]).updEng
          (fun e => { e with mtxQ := e.mtxQ ++ [(g.die, g.core, s.eng.nextOp)] }))
      else none)
  else none

/-- XSECT (R268). -/
def mergeStarted (o : OpE) (c : Ctx) (s : State) (t : Nat) : Option State :=
  let off := c.s t o.a
  let b := c.blk t (scratchOf s c off.toNat 32)
  let la := fld b 0 4
  let lb := fld b 4 4
  let na := fld b 8 1
  let nb := fld b 9 1
  let out := fld b 12 4
  let src : List Rng := [(true, la, 2 * na), (true, lb, 2 * nb)]
  let dst : List Rng := [(true, out, 4 * min na nb)]
  if blockOk s c off 32 32 false false && la % 2 == 0 && lb % 2 == 0 && decide (na ≤ 64) && decide (nb ≤ 64) && zeros b 10 11 && out % 4 == 0 && zeros b 16 31
      && (rngBad c.g (src ++ dst)).isNone && !(lockBlocked s c.g src dst) then
    some (startOp s c t (laneOf (c.lowest o.g t)) (some (s5 o.k)) (.xsect la lb na nb out) src dst)
  else none

/-- FIXUP (R270): the segment is one DIST gave the group and not yet given back. -/
def fixStarted (o : OpE) (c : Ctx) (s : State) (t : Nat) : Option State :=
  let off := c.s t o.a
  let w := c.s t o.b
  let owner := segRole w == 1
  let slots := if segRole w = 2 then [c.r.groupNo c.g.gseq] else c.r.contributors (segTile w)
  let rng : Rng := (true, off.toNat, 16384)
  let src := if owner then [] else [rng]
  let dst := if owner then [rng] else []
  if c.r.img.rrec.coop && c.r.img.dt != 0 && c.r.img.rrec.nexact != 0 && !(w.getLsbD 63) && segRole w != 0
      && (match s.group? c.g.id with | some g => g.segWords.contains w | none => false) && off.toNat % 256 == 0 && decide (off.toNat + 16384 ≤ c.g.scrSize)
      && slots.all (c.r.slotIn (c.r.ownerDie s (segTile w))) && !(lockBlocked s c.g src dst) then
    some (startOp (s.updGroup c.g.id (fun g => { g with segWords := g.segWords.erase w })) c t (laneOf (c.lowest o.g t)) (some (s5 o.k))
      (.fixup owner off.toNat w) src dst)
  else none

/-- LAUNCH (R287): the status word is written behind the descriptor. -/
def launched (o : OpE) (c : Ctx) (s : State) (t : Nat) : Option State :=
  let off := c.s t o.a
  if blockOk s c off 64 64 false false && blockOk s c (off + 64) 8 8 true false then
    (launchOne s c (scratchOf s c off.toNat 64)).map (fun x => x.1.scrWrite c.g.id (off.toNat + 64) (leBytes 8 x.2))
  else none

/-- A debug instruction's block (R292): its checks, then the action, whose status and result it takes. -/
def debugged (o : OpF) (bytes : Nat) (wr : Bool) (act : Ctx → State → DBlock → State × Nat × Option Nat) (c : Ctx) (s : State) (t : Nat) : Option State :=
  let off := c.s t o.a
  let b := scratchOf s c off.toNat 64
  let x := dblock b
  if blockOk s c off 64 64 false false && blockOk s c (off + 36) 12 4 true false && zeros b 4 7 && zeros b 48 63 && decide (x.kind.toNat < 16)
      && (bytes == 0 || blockOk s c (BitVec.ofNat 64 x.buf) bytes 64 wr false) then
    let r := act c s x
    some (putStatus r.1 c.g.id off.toNat r.2.1 r.2.2)
  else none

/-- DHALT (R293): groups that run halt, each with an event; the range is attached. -/
def halting (c : Ctx) : State → DBlock → State × Nat × Option Nat :=
  onTargets c (fun s r gs b =>
    let s := s.updRange r.rid (fun r => { r with attached := true })
    let live := gs.filter (fun g => !g.halted)
    if live = [] ∧ (b.gseq ≠ 0xFFFFFFFFFFFFFFFF ∨ r.rangeHalt = true) then (s, 2, none)
    else ((live.foldl (fun s g => (setParkedHalt (haltGroup s g.id) r.rid g.id true).postEvent g.part (debugEvent 4 0 r.rid g.gseq 0 0 0))
        (if b.gseq = 0xFFFFFFFFFFFFFFFF then s.updRange r.rid (fun r => { r with rangeHalt := true }) else s)), 0, none))

/-- DRESUME (R293). -/
def resuming (c : Ctx) : State → DBlock → State × Nat × Option Nat :=
  onTargets c (fun s r gs b =>
    let down := gs.filter (·.halted)
    if down = [] ∧ r.rangeHalt = false then (s, 2, none)
    else ((down.foldl (fun s g => settle (setParkedHalt (s.updGroup g.id (fun g => { g with halted := false })) r.rid g.id false) r.rid)
        (if b.gseq = 0xFFFFFFFFFFFFFFFF then s.updRange r.rid (fun r => { r with rangeHalt := false }) else s)), 0, none))

def debugAct (o : OpF) (bytes : Nat) (wr : Bool) (act : Ctx → State → DBlock → State × Nat × Option Nat) : ByTeam :=
  { spec := { g := o.g, rd := [.s (s5 o.a)], priv := true }, m := o.m, f := debugged o bytes wr act, settles := true }

def counting (o : OpE) (c : Ctx) (s : State) : State := memIssued s c (c.active o.g) []
def oneLane (g : BitVec 3) (_ : State) (c : Ctx) : Prop := manyLanes c g = false

def teams : Instr → Option ByTeam
  | .flgs o => some { spec := { g := o.g, rd := flgRegs o }, m := o.m, f := flagSet o, ok := fun _ c => flgIll c o = false }
  | .qpush o => some { spec := { g := o.g, rd := [.s (s5 o.a)] }, m := o.m, f := pushed o, settles := true
                       ok := fun _ c => c.active o.g = [] ∨ c.r.declared (o.k.toNat % 16) = true }
  | .qdone o => some { spec := { g := o.g, rd := [.s (s5 o.a)] }, m := o.m, f := ticketDone o }
  | .boini o => some { spec := { g := o.g, rd := [.s (s5 o.k), .s (s5 o.a)] }, m := o.m, f := objectMade o
                       ok := fun _ c => ∀ t ∈ c.teams o.g, 0 < (c.s t o.a).toNat ∧ (c.s t o.a).toNat < 2 ^ 32 }
  | .boarr o => some { spec := { g := o.g, rd := .s (s5 o.k) :: (if o.a.getLsbD 5 then [] else [.s (s5 o.a)]) }, m := o.m, f := objectArrived o
                       ok := fun _ c => o.a.getLsbD 5 = true ∨ ∀ t ∈ c.teams o.g, (c.s t o.a).toNat < 2 ^ 32 }
  | .cpy o => some { spec := { g := o.g, rd := [.s (s5 o.a), .s (s5 o.b), .s (s5 o.k)], wr := [.s (s5 o.k)] }, m := o.m, f := copyStarted o
                     fin := fun c s => memIssued s c (c.active o.g) ((c.teams o.g).flatMap (fun t =>
                       sectorHits t (o.b.getLsbD 5) (c.s t o.b).toNat (c.s t o.k).toNat ++ sectorHits t (o.a.getLsbD 5) (c.s t o.a).toNat (c.s t o.k).toNat))
                     ok := fun _ c => ∀ t ∈ c.teams o.g, (c.s t o.k).toNat ≤ 2 ^ 24 }
  | .cpyl o => some { spec := { g := o.g, rd := [.s (s5 o.a), .s (s5 o.b), .s (s5 o.k)] }, m := o.m, f := listStarted o, fin := counting o
                      ok := fun _ c => ∀ t ∈ c.teams o.g, (c.s t o.b).toNat ≤ 4096 }
  | .subs o => some { spec := { g := o.g, rd := [.s (s5 o.a)] }, m := o.m, f := subscribed o, fin := counting o }
  | .rels o => some { spec := { g := o.g, rd := [.s (s5 o.b)] }, m := o.m, f := slotReleased o, fin := counting o, settles := true }
  | .mtx o => some { spec := { g := o.g, rd := [.s (s5 o.a)], wr := [.s (s5 o.k)] }, m := o.m, f := tileStarted 0 o, ok := oneLane o.g }
  | .mtxg o => some { spec := { g := o.g, rd := [.s (s5 o.a)], wr := [.s (s5 o.k)] }, m := o.m, f := tileStarted 1 o, ok := oneLane o.g }
  | .mtxs o => some { spec := { g := o.g, rd := [.s (s5 o.a)], wr := [.s (s5 o.k)] }, m := o.m, f := tileStarted 2 o, ok := oneLane o.g }
  | .xsect o => some { spec := { g := o.g, rd := [.s (s5 o.a)], wr := [.s (s5 o.k)] }, m := o.m, f := mergeStarted o, ok := oneLane o.g }
  | .fixup o => some { spec := { g := o.g, rd := [.s (s5 o.a), .s (s5 o.b)], wr := [.s (s5 o.k)] }, m := o.m, f := fixStarted o, ok := oneLane o.g }
  | .launch o => some { spec := { g := o.g, rd := [.s (s5 o.a)] }, m := o.m, f := launched o
                        ok := fun _ c => (∀ t ∈ c.teams o.g, (c.active o.g).filter (fun l => l / 32 == t) = ((c.g.liveTeam t).head?).toList) ∧ (c.active o.g = [] ∨ c.r.depth < 10) }
  | _ => none

def debugging : Instr → Option ByTeam
  | .dhalt o => some (debugAct o 0 true halting)
  | .dresume o => some (debugAct o 0 true resuming)
  | .dbkpt o => some (debugAct o 0 true (fun c => onNamed c (fun s r b => setSlot s c r b 8 (·.bk) (fun p l => { p with bk := l }))))
  | .dwatch o => some (debugAct o 0 true (fun c => onNamed c (fun s r b =>
      if b.kind.getLsbD 3 = true ∧ ¬ (1 ≤ b.len ∧ b.len ≤ 4096) then (s, 5, none) else setSlot s c r b 4 (·.wt) (fun p l => { p with wt := l }))))
  | .drds o => some (debugAct o 512 true (fun c => onHalted c (fun s g b =>
      if o.sel ≠ 3 ∧ g.teams.length ≤ b.team ∨ o.sel = 1 ∧ ¬ (b.lane < 32 ∧ 32 * b.team + b.lane < g.threads.length) then (s, 1, none)
      else (s.scrWrite c.g.id b.buf (drdsBytes g o.sel.toNat b.team b.lane), 0, none))))
  | .dmboxSend o => some (debugAct o 64 false (fun c s b =>
      if 16 ≤ (s.part c.g.part).outbox.length then (s, 4, none)
      else (s.updPart c.g.part (fun p => { p with outbox := p.outbox ++ [scratchOf s c b.buf 64] }), 0, none)))
  | _ => none

/-! ## Results that wait for an entry, a slot, a segment or a triple (R235, R251, R269, R277) -/

def waiters : Instr → Option Lag
  | .qpop o => some { spec := { g := o.g, rd := .s (s5 o.a) :: (if o.b.getLsbD 5 then [.s (s5 o.b)] else []), wr := [.s (s5 o.k)], late := true }, m := o.m
                      settles := true, ts := fun _ c => c.active o.g
                      ok := fun x c => ∀ t ∈ c.teams o.g, (qpopMask c o t).isSome = true ∧ (c.g.team t).held.length < 16 ∧ blockOk x c (c.s t o.a) 32 32 true false = true
                      o := fun _ c => { regs := [.s (s5 o.k)], pend := (c.teams o.g).filterMap (fun t => (qpopMask c o t).map (fun h =>
                        .pop t (s5 o.k) (c.s t o.a).toNat h ((c.active o.g).filter (fun l => l / 32 == t)))) } }
  | .claim o => some { spec := { g := o.g, wr := [.s (s5 o.k)], late := true }, m := o.m, settles := true, ts := fun _ c => c.active o.g
                       ok := fun _ c => c.active o.g = [] ∨ (c.g.ring? (o.a.toNat % 8)).isSome = true
                       y := fun x c => memIssued x c (c.active o.g) []
                       o := fun _ c => { regs := [.s (s5 o.k)], pend := (c.teams o.g).map (fun t => .claim t (s5 o.k) (o.a.toNat % 8)) } }
  | .dist o =>
    -- a team takes the group's next segment, none when they are all given
    let take := fun (c : Ctx) => (c.teams o.g).foldl (fun (r : Nat × List W64 × List (Nat × BitVec 5 × W64)) t =>
      let w := c.r.segment (c.r.groupNo c.g.gseq) r.1
      if w = endWord then (r.1, r.2.1, r.2.2 ++ [(t, s5 o.k, w)]) else (r.1 + 1, r.2.1 ++ [w], r.2.2 ++ [(t, s5 o.k, w)])) (c.g.segs, c.g.segWords, [])
    some { spec := { g := o.g, wr := [.s (s5 o.k)], late := true }, m := o.m, ts := fun _ c => c.active o.g
           ok := fun _ c => manyLanes c o.g = false ∧ (c.active o.g = [] ∨ c.r.img.rrec.coop = true)
           y := fun x c => x.updGroup c.g.id (fun g => { g with segs := (take c).1, segWords := (take c).2.1 })
           o := fun _ c => { regs := [.s (s5 o.k)], s := (take c).2.2 } }
  | .enext o => some { spec := { g := o.g, wr := [.p (p3 o.k), .sys 0x24, .sys 0x25, .sys 0x26, .sys 0x27], late := true }, m := o.m, settles := true
                       ok := fun _ c => c.r.img.rrec.edge = true ∧ c.r.graph.isSome = true, ts := fun _ c => c.active o.g
                       o := fun _ c => { regs := [.p (p3 o.k), .sys 0x24, .sys 0x25, .sys 0x26, .sys 0x27]
                                         pend := if c.active o.g = [] then [] else [.enext (c.active o.g) (p3 o.k) c.c.pc] } }
  | _ => none

/-! ## Control (R167 to R172, R178 to R182, R291) -/

/-- Active lanes go to the target, the others to the next instruction. -/
def toward (g : BitVec 3) (dst : Ctx → Nat → W64) (c : Ctx) (l : Nat) : W64 := if (c.active g).contains l then dst c l else c.next
/-- A target off halfwords from the instruction (R167). -/
def target (c : Ctx) (off : Int) : W64 := BitVec.ofInt 64 (c.c.pc.toNat + 2 * off)

/-- BRP (R169): over the active lanes, all with at least one, or any. -/
def taken (o : OpDp) (c : Ctx) : Bool :=
  if o.c then !(c.active o.g).isEmpty && (c.active o.g).all (fun l => (c.g.th l).getP o.pr) else (c.active o.g).any (fun l => (c.g.th l).getP o.pr)

/-- The record of a software trap (R182, R291): class 3, the bundle behind the instruction. -/
def softRec (code : Code) (o : OpF) (c : Ctx) : FRec :=
  { cls := .software, code := code, team := (c.active o.g).headD 0 / 32, lane := (c.active o.g).headD 0 % 32, lanes := lanesMask (c.active o.g),
    pc := c.c.pc, detail := BitVec.ofNat 64 o.sel.toNat }

/-- REFORM (R171): the active threads are filed at the next PC; the others, and those that find no slot, go on as one bundle (R43). -/
def filed (o : OpF) (c : Ctx) (u : State) : State := settle ((c.active o.g).foldl (fileOne c.next c.g.id c.b.id) u) c.g.rid

/-- The active threads of a team whose bit is in the team's mask; those of every team. -/
def teamActive (g : BitVec 3) (k : BitVec 4) (c : Ctx) (t : Nat) : List Nat :=
  (c.active g).filter (fun l => l / 32 == t && ((c.g.team t).getM k).getLsbD (l % 32))
def maskActive (g : BitVec 3) (k : BitVec 4) (c : Ctx) : List Nat := ((c.teams g).map (teamActive g k c)).flatten

/-- No team meets a mask armed with another value (R57, R59). -/
def agrees (join : Bool) (g : BitVec 3) (k : BitVec 4) (c : Ctx) : Prop :=
  ∀ t ∈ c.teams g, ∀ a, (c.g.team t).meets join k c.c.pc = some a → a.val = (c.g.team t).getM k ∨ teamActive g k c t = []

/-- The lanes of a team complete its wait: with those that have arrived they are all it asks for (R57). -/
def filled (g : BitVec 3) (k : BitVec 4) (c : Ctx) (t : Nat) : Bool :=
  match (c.g.team t).armed false k with
  | none => (c.g.team t).getM k &&& ~~~(lanesMask (teamActive g k c t)) == 0
  | some a => a.val &&& ~~~(a.arr ||| lanesMask (teamActive g k c t)) == 0
/-- The threads at WAIT of teams whose wait does not complete stay. -/
def staying (g : BitVec 3) (k : BitVec 4) (c : Ctx) : List Nat :=
  (((c.teams g).filter (fun t => teamActive g k c t != [] && !(filled g k c t))).map (teamActive g k c)).flatten
/-- Each team's threads arrive at its wait. -/
def waited (o : OpA) (c : Ctx) (u : State) : State :=
  u.updGroup c.g.id (fun g => ((c.teams o.g).filter (fun t => teamActive o.g (m4 o.a) c t != [])).foldl (fun g t =>
    g.arrive t false (m4 o.a) c.c.pc (lanesMask (teamActive o.g (m4 o.a) c t))) g)

def jumps : Instr → Option Jump
  | .bra o => some { spec := { g := o.g }, m := o.m, next := toward o.g (fun c _ => target c (offD o)) }
  | .call o => some { spec := { g := o.g }, m := o.m, next := toward o.g (fun c _ => target c (offD o))
                      f := fun c g => { g with threads := g.threads.mapIdx (fun l th => if (c.active o.g).contains l then { th with link := c.next } else th) } }
  | .brp o => some { spec := { g := o.g, rd := guardRef o.pr }, m := o.m, next := fun c _ => if taken o c then target c (offDp o) else c.next }
  | .brx o => some { spec := { g := o.g, rd := [.pair o.a] }, m := o.m, next := toward o.g (fun c l => c.pair l o.a)
                     ok := fun c => ∀ l ∈ c.active o.g, (c.pair l o.a).getLsbD 0 = false }
  | .ret o => some { spec := { g := o.g, rd := [.pair o.a] }, m := o.m, next := toward o.g (fun c l => c.pair l o.a)
                     ok := fun c => ∀ l ∈ c.active o.g, (c.pair l o.a).getLsbD 0 = false }
  | .yield o => some { spec := { g := o.g, ends := true }, m := o.m, done := true, next := fun c _ => c.next }
  | .exit o => some { spec := { g := o.g, ends := true }, m := o.m, done := true, next := fun c _ => c.next
                      fin := fun _ c u => settle (u.updGroup c.g.id (fun g => g.exitThreads (c.active o.g))) c.g.rid }
  | .reform o => some { spec := { g := o.g, ends := true }, m := o.m, done := true, next := fun c _ => c.next, fin := fun _ c u => filed o c u }
  | .trap o => some { spec := { g := o.g, ends := true }, m := o.m, done := true, next := fun c _ => c.next
                      fin := fun _ c u => if c.active o.g = [] then u else stopGroup u c.g.id (softRec .trap o c) (some c.b.id) none }
  | .brk o => some { spec := { g := o.g, ends := true }, m := o.m, done := true, next := fun c _ => c.next
                     fin := fun x c u =>
                       if c.active o.g = [] then u
                       else if x.attachedTo c.r then (haltGroup u c.g.id).postEvent c.g.part (debugEvent 3 0 c.r.rid c.g.gseq c.c.pc 0 (lanesMask (c.active o.g)))
                       else stopGroup u c.g.id (softRec .brk o c) (some c.b.id) none }
  | .bar o => some { spec := { g := o.g, ends := true }, m := o.m, done := true, next := fun c _ => c.next, ok := fun c => c.active o.g = [] }
  | .gbar o => some { spec := { g := o.g, ends := true }, m := o.m, done := true, next := fun c _ => c.next, ok := fun c => c.active o.g = [] }
  | .join o => some { spec := { g := o.g, ends := true }, m := o.m, done := true, next := fun c _ => c.next, ok := fun c => maskActive o.g (m4 o.a) c = [] }
  | .wait o => some { spec := { g := o.g, ends := true }, m := o.m, done := true, next := fun c _ => c.next
                      ok := fun c => agrees false o.g (m4 o.a) c ∧ staying o.g (m4 o.a) c = [], fin := fun _ c u => settle (waited o c u) c.g.rid }
  | .elevel o => some { spec := { g := o.g }, m := o.m, next := fun c _ => c.next
                        ok := fun c => c.active o.g = [] ∧ c.r.img.rrec.edge = true ∧ c.r.graph.isSome = true }
  | _ => none

/-! ## Waiting (R172, R179, R181, R249, R253, R281, R288) -/

/-- JOIN (R57, R172): a mask armed at this arrival with another value is MASKMIS; otherwise the lanes it names leave and wait. -/
def joining (o : OpA) : Stay :=
  let k := m4 o.a
  { spec := { g := o.g, ends := true }, m := o.m, done := true, ts := maskActive o.g k, st := fun _ _ => .stalled
    ok := fun _ c => maskActive o.g k c ≠ [] ∧ agrees true o.g k c
    arr := fun c u => arriveTeams k c.c.pc c.g.id u c.b.id (teamsOf (maskActive o.g k c)) }

/-- WAIT (R57, R172): no bundle is re-formed; the lanes of the teams whose wait does not complete stay. -/
def waiting (o : OpA) : Stay :=
  let k := m4 o.a
  { spec := { g := o.g, ends := true }, m := o.m, done := true, ts := staying o.g k, st := fun _ _ => .wait k
    ok := fun _ c => staying o.g k c ≠ [] ∧ agrees false o.g k c
    arr := waited o }

/-- The tests of BOWT's teams against the objects' phases. -/
def phases (o : OpE) (c : Ctx) : List Poll :=
  (c.teams o.g).map (fun t =>
    let off := (c.s t o.k).toNat
    { team := t, at_ := .phase off, ne := true, cmp := (c.s t o.a).toNat % 2 ^ 32
      ok := decide (c.g.scratch.readN (off + 4) 4 ≠ (c.s t o.a).toNat % 2 ^ 32) })
def objectsOk (o : OpE) (x : State) (c : Ctx) : Prop := ∀ t ∈ c.teams o.g, blockOk x c (c.s t o.k) 16 16 false true = true

/-- The handles an LWAIT waits for: a team's children, or the one it names (R288). -/
def handles (o : OpE) (c : Ctx) : List Nat :=
  (((c.teams o.g).map (fun t => if c.s t o.a = BitVec.allOnes 64 then c.g.children else [(c.s t o.a).toNat])).flatten).eraseDups
def handlesOk (o : OpE) (c : Ctx) : Prop :=
  ∀ t ∈ c.teams o.g, c.s t o.a = BitVec.allOnes 64 ∨ (c.s t o.a).toNat < 2 ^ 32 ∧ (c.s t o.a).toNat < c.r.nextHandle
def allRetired (o : OpE) (c : Ctx) : Prop := ∀ h ∈ handles o c, c.r.children.any (fun k => k.handle == h && k.retired) = true

def flagTests (o : OpE) (x : State) (c : Ctx) : Polled := (c.teams o.g).foldl (flgTest c o) { s := x }
/-- The flag exists, and a word FLGW reads is none that the core's own held additions, or its threads' held combines, wait to write (R68, R110,
log entries 71 and 147). -/
def flagsIn (o : OpE) (x : State) (c : Ctx) : Prop :=
  if o.a.getLsbD 5 then c.heldBack x true (c.active o.g) (fun l => isSo (c.s (l / 32) o.a).toNat) (fun l => (c.s (l / 32) o.a).toNat)
    (if o.k.getLsbD 0 then 8 else 4) = false
  else o.k.toNat < c.g.flags.length

def stays : Instr → Option Stay
  | .bar o => some { spec := { g := o.g, ends := true }, m := o.m, done := true, ok := fun _ c => c.active o.g ≠ [], ts := fun c => c.active o.g, st := fun _ _ => .bar }
  | .gbar o => some { spec := { g := o.g, ends := true }, m := o.m, done := true, ok := fun _ c => c.active o.g ≠ [] ∧ c.r.img.rrec.coop = true
                      ts := fun c => c.active o.g, st := fun _ _ => .gbar }
  | .join o => some (joining o)
  | .wait o => some (waiting o)
  | .elevel o => some { spec := { g := o.g }, m := o.m, ok := fun _ c => c.active o.g ≠ [] ∧ c.r.img.rrec.edge = true ∧ c.r.graph.isSome = true
                        ts := fun c => c.active o.g, st := fun _ _ => .elevel }
  | .flgw o => some { spec := { g := o.g, rd := flgRegs o }, m := o.m, ts := fun c => c.b.ts, st := fun x c => .poll (flagTests o x c).polls
                      ok := fun x c => flagsIn o x c ∧ ∃ p ∈ (flagTests o x c).polls, p.ok = false
                      y := fun x c => (flagTests o x c).s.dataFaults c (flagTests o x c).faults }
  | .bowt o => some { spec := { g := o.g, rd := [.s (s5 o.k), .s (s5 o.a)] }, m := o.m, ts := fun c => c.b.ts, st := fun _ c => .poll (phases o c)
                      ok := fun x c => objectsOk o x c ∧ ∃ p ∈ phases o c, p.ok = false }
  | .lwait o => some { spec := { g := o.g, rd := [.s (s5 o.a)] }, m := o.m, ts := fun c => c.b.ts, st := fun _ c => .lwait (handles o c)
                       ok := fun _ c => handlesOk o c ∧ ¬ allRetired o c }
  | _ => none

/-! ## Instructions that change the state and write no register -/

/-- A MARK packet (R290). -/
def markBytes (o : OpF) (x : State) (c : Ctx) (t : Nat) : List Byte :=
  leBytes 8 x.ticks ++ leBytes 4 c.r.rid ++ leBytes 1 o.sel.toNat ++ [0, 0, 2] ++ leBytes 4 (c.c.pc - c.r.img.code).toNat ++
    leBytes 4 (c.s t o.a).toNat ++ leBytes 8 c.g.gseq.toNat

/-- An edge instruction's change, in a range of kind edge (R273). -/
def onEdge (p : Spec) (m : Bool) (f : Ctx → Graph → State → State) : Act :=
  { spec := p, m := m, ok := fun _ c => c.r.img.rrec.edge = true ∧ c.r.graph.isSome = true
    y := fun x c => match c.r.graph with | some g => f c g x | none => x }

def effects : Instr → Option Act
  | .nop o => some { spec := { g := o.g }, m := o.m, y := fun x _ => x }
  | .leave o => some { spec := { g := o.g }, m := o.m, settles := true
                       y := fun x c => x.updGroup c.g.id (fun g => (c.teams o.g).foldl (fun g t => g.leaveMask t (m4 o.a)
                         (lanesMask ((c.active o.g).filter (fun l => l / 32 == t)))) g) }
  | .mark o => some { spec := { g := o.g, rd := [.s (s5 o.a)] }, m := o.m
                      y := fun x c => (c.teams o.g).foldl (fun s t => traceWrite s c.g.part
                        (srcKey c.g.die c.g.core ((((c.active o.g).filter (fun l => l / 32 == t)).map (· % 32)).foldl min 31) c.g.gseq) [markBytes o s c t]) x }
  | .ecomb o =>
    let p := onEdge { g := o.g, rd := [.v o.a] } o.m (fun c g x => let r := (c.active o.g).foldl (combLane c g o.a) (x, []); r.1.dataFaults c r.2)
    -- a spill combine waits for its core's held additions there, and on an SO page for the thread's own held combines (R110, R113)
    some { p with settles := true, ok := fun x c => p.ok x c ∧ ∀ g, c.r.graph = some g → c.combWaits g x (c.active o.g) = false }
  | .eact o => some (onEdge { g := o.g } o.m (fun c g x => (c.active o.g).foldl (fun s l => match c.current g l with
      | some tr => askAct s c.g.rid c.g.id tr.t.toNat tr.pc
      | none => s) x))
  | .edone o => some (onEdge { g := o.g } o.m (fun c g x => (c.active o.g).foldl (fun s l => match c.current g l with
      | some tr => if tr.draw then endWalks s c.g.rid c.g.die (fun d => walkOf c.g.id l d && d.t == tr.t.toNat) else s
      | none => s) x))
  | .emode o => some (onEdge { g := o.g } o.m (fun c _ x =>
      let modes := if o.sel.toNat = 0 then x.eng.emode.filter (fun y => y.1 != c.g.die) else assocSet x.eng.emode c.g.die (decide (o.sel.toNat ≠ 1))
      if c.active o.g = [] then x else { x with eng := { x.eng with emode := modes } }))
  | .flgw o => some { spec := { g := o.g, rd := flgRegs o }, m := o.m
                      ok := fun x c => flagsIn o x c ∧ ∀ p ∈ (flagTests o x c).polls, p.ok = true
                      y := fun x c => (flagTests o x c).s.dataFaults c (flagTests o x c).faults }
  | .bowt o => some { spec := { g := o.g, rd := [.s (s5 o.k), .s (s5 o.a)] }, m := o.m, y := fun x _ => x
                      ok := fun x c => objectsOk o x c ∧ ∀ p ∈ phases o c, p.ok = true }
  | .lwait o => some { spec := { g := o.g, rd := [.s (s5 o.a)] }, m := o.m, ok := fun _ c => handlesOk o c ∧ allRetired o c
                       y := fun x c => if handles o c = [] then x else x.updCore c.g.die c.g.core (fun k => { k with pts := max k.pts (lwaitTime c.r (handles o c)) }) }
  | _ => none

/-! ## DSTEP and DMBOX.RECV (R294, R298) -/

/-- A team's DSTEP: it asks for a step of a live thread of a halted group that does not wait; else its status says why not. -/
def stepAsked (o : OpF) (c : Ctx) (s : State) (t : Nat) : Option State :=
  let blk := (c.s t o.a).toNat
  (debugged o 0 true (fun c => onHalted c (fun s g b =>
    let n := 32 * b.team + b.lane
    match (if b.lane < 32 ∧ (g.th n).live = true then g.bundleOf n else none) with
    | none => (s, 1, none)
    | some k => if k.stepWaits then (s, 4, none)
      else ({ s with dsteps := s.dsteps ++ [{ gid := c.g.id, bid := c.b.id, blk := blk, target := g.id, thread := n }] }, 256, none))) c s t).map
    (fun u => if u.dsteps.length = s.dsteps.length then u else { s with dsteps := u.dsteps })

/-- A team's DMBOX.RECV: its block waits for mail in its buffer. -/
def mailAsked (o : OpF) (c : Ctx) (s : State) (t : Nat) : Option State :=
  let blk := (c.s t o.a).toNat
  let buf := (dblock (scratchOf s c blk 64)).buf
  (debugged o 64 true (fun _ s _ => (s, 0, none)) c s t).map (fun _ =>
    s.updBundle c.g.id c.b.id (fun b => { b with st := .recv ((match b.st with | .recv l => l | _ => []) ++ [(blk, buf)]) }))

/-- The blocks the bundle waits with. -/
def mailOf (z : State) (c : Ctx) : List (Nat × Nat) :=
  match (z.group? c.g.id).bind (fun g => g.bundle? c.b.id) with
  | some b => (match b.st with | .recv l => l | _ => [])
  | none => []

/-! ## Events of the memory side (R81 to R87, R94, R107, R143, R144) -/

/-- A core by the number events give it. -/
def coreAt (s : State) (core : Nat) : CoreSt := s.core (coreDie core) (coreNum core)

/-- One core becomes `k`; nothing else changes. -/
def coreOnly (s t : State) (core : Nat) (k : CoreSt) : Prop :=
  t = { s with mem := { s.mem with cores := t.mem.cores } } ∧ coreAt t core = k ∧
    ∀ d n, (d, n) ≠ (coreDie core, coreNum core) → t.core d n = s.core d n

/-- Requests performed as one: bytes written at a time past every lease, each acknowledged to its core and waiting no longer. -/
def performed (s : State) (l : List SliceReq) (asid sv : Nat) (bs : List (Nat × Byte)) (x : Sector) : State :=
  let pts := (l.map (·.pts)).foldl max 0
  let u := (s.slicePut asid sv bs pts).1
  l.foldl (fun u y => u.ack y.die y.core (max pts (x.rts + 1))) (u.updMem (fun m => { m with slice := l.foldl (fun q y => q.erase y) m.slice }))

/-- The reductions at the head of a word's queue that may be summed as a tree (R144). -/
def hotAt (s : State) (asid sv off : Nat) : Option (Nat × List SliceReq) :=
  hotRun (s.mem.slice.filter (fun y => y.asid == asid && y.va == sv && y.touches off))

/-- A core by its number, as the accesses of its memory side name it. -/
def fillWho (s : State) (core asid : Nat) : Who :=
  { die := coreDie core, core := coreNum core, gid := s.nextGid, rid := 0, asid := asid, part := corePart core }

def memoryEvents : Instr → Option Event
  | .storeAcknowledge core => some {
      pre := fun s (a : Nat × List Nat) => (coreAt s core).acks = a.1 :: a.2
      post := fun s a t => coreOnly s t core { coreAt s core with pts := max (coreAt s core).pts a.1, acks := a.2 } }
  | .ptsTick core => some {
      pre := fun s (_ : Unit) => (coreAt s core).ptsTicks < s.clk / 256
      post := fun s _ t => coreOnly s t core { coreAt s core with pts := (coreAt s core).pts + 1, ptsTicks := (coreAt s core).ptsTicks + 1 } }
  | .wcbTimeoutDrain core => some {
      pre := fun s (a : WcbEnt × List WcbEnt) => (coreAt s core).wcb = a.1 :: a.2 ∧ a.1.since + 32 ≤ s.clk
      post := fun s a t =>
        let ops := (if a.1.bytes = [] then [] else [SliceOp.write a.1.bytes]) ++ a.1.reds.map SliceOp.red
        coreOnly { s with mem := { s.mem with slice := t.mem.slice } } t core { coreAt s core with wcb := a.2 } ∧
          t.mem.slice = s.mem.slice ++ ops.map (fun o =>
            { asid := a.1.asid, va := a.1.va, op := o, die := coreDie core, core := coreNum core, pts := (coreAt s core).pts }) }
  | .sliceOperation asid va =>
    let sv := sectorOf va.toNat
    some {
      -- a sector recorded without W or D is translated afresh (R347)
      pre := fun s (a : SliceReq × State × Sector) => s.nextReq asid sv = some a.1 ∧
        (∃ y, s.sector? asid sv = some y ∧ if y.w = true ∧ y.d = true then a.2.1 = s else s.writable y (a.1.who s).qid = .ok a.2.1) ∧
        (a.2.1.guestOut asid sv true).sector? asid sv = some a.2.2
      -- what the guest has written of the sector comes home first (R405)
      post := fun _ a t => let s := a.2.1.guestOut asid sv true; match a.1.op with
        | .write bs => t = performed s [a.1] asid sv bs a.2.2
        | .red q =>
          let x := s.sliceWord asid (sv + q.off)
          let one := performed s [a.1] asid sv (wordBytesAt q.off (applyOp q.code 0 x q.y)) a.2.2
          match hotAt s asid sv q.off with
          | some (k, l) => t = performed s l asid sv (wordBytesAt q.off (applyOp k 0 x (hotSum k l))) a.2.2
          | none =>
            let two := if q.code = 1 then one.updRange q.rid (fun r => orderTake r (sv + q.off)) else one
            t = if q.plain then two.updCore a.1.die a.1.core (fun k => { k with l1 := k.l1.filter (fun l => !(l.asid == asid && l.va == sectorOf sv)) }) else two }
  | .l1Fill core asid va => some {
      pre := fun s (a : State × State × Sector) =>
        (∀ l, (coreAt s core).line? asid va.toNat = some l → l.uo = false ∧ l.e < (coreAt s core).pts) ∧
        addrCheck s asid va.toNat = none ∧ isAperture va.toNat = false ∧ kindOf va.toNat ≠ 1 ∧
        peerPa s (fillWho s core asid) va.toNat false = .ok (none, a.1) ∧ llcFill a.1 (fillWho s core asid) va.toNat false = .ok a.2.1 ∧
        (settleOwn a.2.1 (fillWho s core asid) va.toNat).sector? asid va.toNat = some a.2.2
      post := fun s a t =>
        let z := settleOwn a.2.1 (fillWho s core asid) va.toNat
        let e := max a.2.2.rts (max (coreAt z core).pts a.2.2.wts + z.lease (corePart core))
        (coreAt t core).line? asid va.toNat = some
          { asid := asid, va := sectorOf va.toNat, pa := a.2.2.pa, data := Sec.put a.2.2.data ((coreAt z core).waiting asid va.toNat), wts := a.2.2.wts, e := e, uo := kindOf va.toNat == 2 } ∧
        (kindOf va.toNat ≠ 2 → t.sector? asid va.toNat = some { a.2.2 with rts := e } ∧ a.2.2.wts ≤ (coreAt t core).pts) ∧
        t = { z with mem := { z.mem with cores := t.mem.cores, llc := t.mem.llc } } ∧ ∀ d n, (d, n) ≠ (coreDie core, coreNum core) → t.core d n = z.core d n }
  | .llcFill asid va write => some {
      pre := fun s (a : State × State) =>
        let w : Who := { die := 4, core := 0, gid := s.nextGid, rid := 0, asid := asid, part := s.partOn asid (homeDie va.toNat) }
        s.sector? asid va.toNat = none ∧ addrCheck s asid va.toNat = none ∧ isAperture va.toNat = false ∧
        peerPa s w va.toNat write = .ok (none, a.1) ∧ llcGet a.1 w va.toNat write = .ok a.2
      -- the sector as memory holds it; then what the guest has written of it comes home (R405)
      post := fun _ a t => t = a.2.guestOut asid (sectorOf va.toNat) write ∧
        ∃ x, a.2.mem.llc = (a.1.makeRoom asid (sectorOf va.toNat)).mem.llc ++ [x] ∧ x.asid = asid ∧ x.va = sectorOf va.toNat ∧ x.dirty = false ∧
          x.data = secOf (a.2.mem.phys.read (keyOf x.pa) 128) }
  | .streamReadahead gid team q => some {
      pre := fun s (a : Ctx × Nat × Option W32 × State) =>
        let x := (a.1.g.team team).getQ q
        engCtx s gid = some a.1 ∧ a.2.1 < 128 ∧ assoc x.ahead (x.pos.toNat + a.2.1) = none ∧ x.pos.toNat + a.2.1 < x.size ∧
        (∀ j, j < a.2.1 → assoc x.ahead (x.pos.toNat + j) ≠ none) ∧ readElem s a.1 x (x.pos.toNat + a.2.1) = .ok (a.2.2.1, a.2.2.2)
      post := fun _ a t =>
        let x := (a.1.g.team team).getQ q
        t = a.2.2.2.updGroup gid (fun g => g.updTeam team (fun tm => tm.setQ q { x with ahead := x.ahead ++ [(x.pos.toNat + a.2.1, a.2.2.1)] })) }
  | .reservoirWayDrained part => some {
      pre := fun s (_ : Unit) => 0 < (s.part part).resDrain
      post := fun s _ t => t = carveSettle (s.drainWay part) part ∧ (t.part part).resDrain < (s.part part).resDrain ∧
        ((s.part part).resDrain = 1 → (s.part part).carve.getLsbD 27 = true → carveHeld s part = false → (s.part part).carvePend = none →
          (t.part part).carve.getLsbD 27 = false) }
  | _ => none

/-- One group becomes `g`; nothing else changes. -/
def groupBecomes (s u : State) (gid : Nat) (g : Group) : Prop :=
  u = { s with groups := u.groups } ∧ u.group? gid = some g ∧ ∀ i, i ≠ gid → u.group? i = s.group? i

/-! ## Groups and ranges (R25, R27, R30, R31, R33, R40, R44, R45, R62, R149) -/

def groupEvents : Instr → Option Event
  | .groupDispatch rid die => some {
      pre := fun s (a : RangeSt × Harp × Box × List Box × (Nat × List Nat × Nat)) =>
        let r := a.1
        let h := a.2.1
        let b := a.2.2.1
        s.range? rid = some r ∧ r.turn die = some h ∧ r.harp? h.num = some h ∧ h.due = none ∧ mayPlace s r die = true ∧ r.started = true ∧
        (∀ g ∈ r.parked, g.die ≠ die) ∧ (∀ x, h.pins.head? = some x → firstIs x h = false) ∧ h.boxes = b :: a.2.2.2.1 ∧
        pickCore s (s.partOn r.asid die) r.h (vol b.shp) (Sys2Proof.Machine.scratchOf r.img.rrec (vol b.shp)) = some a.2.2.2.2
      post := fun s a t =>
        let r := a.1
        let h := a.2.1
        let b := a.2.2.1
        let at_ := a.2.2.2.2
        let p := posAt b.ord (gridOf b.sz b.shp) b.done
        let seq := (assoc r.seqs die).getD 0
        let lo := (p.1 * b.shp.1, p.2.1 * b.shp.2.1, p.2.2 * b.shp.2.2)
        ∃ g, t.groups = s.groups ++ [g] ∧ g.rid = rid ∧ g.die = die ∧ g.core = at_.1 ∧ g.gseq = BitVec.ofNat 64 (die * 2 ^ 62 + seq) ∧ g.share = h.num ∧
          g.shp = b.shp ∧ g.base = (b.lo.1 + lo.1, b.lo.2.1 + lo.2.1, b.lo.2.2 + lo.2.2) ∧
          g.ext = (min b.shp.1 (b.sz.1 - lo.1), min b.shp.2.1 (b.sz.2.1 - lo.2.1), min b.shp.2.2 (b.sz.2.2 - lo.2.2)) ∧
          g.threads.length = b.shp.1 * b.shp.2.1 * b.shp.2.2 ∧
          (∀ th ∈ g.threads, th.live = true ∧ th.p = 0 ∧ ∀ n, th.getV n = 0) ∧
          (∀ tm ∈ g.teams, tm.getS 0 = r.img.arg0 ∧ tm.getS 1 = r.img.arg1 ∧ ∀ n, n ≠ 0 → n ≠ 1 → tm.getS n = 0) ∧
          (∀ x ∈ g.bundles, x.pc = r.img.code + BitVec.ofNat 64 r.img.rrec.body ∧ x.st = .ready) ∧
          (t.range? rid).bind (fun y => (y.harp? h.num).map (·.count)) = some (h.count + 1) ∧
          (t.range? rid).bind (fun y => assoc y.seqs die) = some (seq + 1) ∧ t.mem = s.mem ∧ t.eng = s.eng }
  | .coopPlacement rid => some {
      pre := fun s (a : RangeSt × State) => s.range? rid = some a.1 ∧ a.1.started = false ∧ a.1.img.rrec.coop = true ∧
        (∀ h ∈ a.1.harps, mayPlace s a.1 h.die = true) ∧ placeCoop s a.1 = some a.2
      post := fun _ a t => t = settle (a.2.updRange rid (fun r => { r with started := true })) rid }
  | .groupRetire gid => some {
      pre := fun s (g : Group) => s.group? gid = some g ∧ g.live = [] ∧ g.stop = none ∧
        (sluiceClear (sluiceExit s gid) g.rid = true ∨ ∃ x ∈ (sluiceExit s gid).groups, x.rid = g.rid ∧ x.live ≠ []) ∧
        (∀ o ∈ (sluiceExit s gid).eng.ops, o.gid ≠ gid) ∧ (∀ l ∈ (sluiceExit s gid).eng.locks, l.gid ≠ gid) ∧
        ∀ c ∈ (sluiceExit s gid).sock.chans, ∀ p ∈ c.pkts, p.gid ≠ gid
      post := fun s g t =>
        let u := sluiceExit s gid
        let u := { u with groups := u.groups.filter (fun x => x.id != gid) }
        let u := u.updRange g.rid (fun r => if r.img.dt = 0 then r else { r with dead := r.dead ++ [(g.fixDone.toNat, g.gseq)] })
        t = settle (carveSettle (finished u g) g.part) g.rid }
  | .rangeRetire rid => some {
      pre := fun s (r : RangeSt) => s.range? rid = some r ∧ (∀ h ∈ r.harps, h.boxes = []) ∧ r.parked = [] ∧ (∀ g ∈ s.groups, g.rid ≠ rid) ∧
        (∀ c ∈ r.children, c.retired = true) ∧ r.pre = none ∧ ∀ x ∈ s.mem.slice, ∀ q, x.op = .red q → q.rid = rid → s.heldReq x = false
      post := fun s r t =>
        let u := releaseAll s
        let v := signalOne u (feWho u r.asid r.part r.qid rid) r.img.sig (decide (r.parent = none)) r.qid rid
        let v := launchEnds { v with ranges := v.ranges.filter (fun x => x.rid != rid) } r (if r.killed then 20 else 0)
        let v := childRetired v r ((u.mem.cores.map (·.pts)).foldl max 0)
        t = match r.qid with | some k => endingSettle v k | none => v }
  | .resultReturn gid bid => some {
      pre := fun s (a : Group × Bundle × Outst) => s.group? gid = some a.1 ∧ a.1.bundle? bid = some a.2.1 ∧ a.2.1.outst.find? (Outst.complete a.1) = some a.2.2
      post := fun s a t => ∃ u, t = settle u a.1.rid ∧ groupBecomes s u gid
        (((((a.1.writeVs a.2.2.v).writePs a.2.2.p).putLates a.2.2.clk a.2.2.uid (a.1.scalarsOf a.2.2)).writeEs a.2.2.e).updBundle bid (fun b =>
          { b with outst := b.outst.erase a.2.2, haz := b.haz ++ a.2.2.hazOf b.ts, byp := bypWithout [a.2.2] b.byp,
                   st := if b.st = .stalled then .ready else b.st })) }
  | .basinAgeDraw gid bid => some {
      pre := fun s (a : Group × Bundle × Nat × Nat) =>
        let g := a.1
        let k := a.2.2.1
        s.group? gid = some g ∧ g.bundle? bid = some a.2.1 ∧ a.2.1.st = .basin k a.2.2.2 ∧ firstAged s g.die g.core = some (k, gid)
      post := fun s a t => t = settle (s.updGroup gid (fun g => g.mergeB (inBasin a.2.2.1) (((g.bundles.find? (inBasin a.2.2.1)).map (·.pc)).getD 0))) a.1.rid }
  | .implicitJoinIssue gid team => some {
      pre := fun s (a : Group × W64) => s.group? gid = some a.1 ∧ a.1.stop = none ∧ a.1.collAt team = some a.2
      post := fun s a t => groupBecomes s t gid (a.1.mergeB (fun b => b.st == .coll team && b.pc == a.2) a.2) }
  | _ => none

/-! ## The engines (R95 to R103, R230 to R234, R260 to R263, R268, R270) -/

/-- An operation with its work. -/
def opAt (s : State) (id : Nat) (o : EngOp) (c : Ctx) : Prop := s.op? id = some o ∧ engCtx s o.gid = some c ∧ o.held = false

/-- A group stopped by its engine: the record of class 2 names the operation, which is kept to run again (R231). -/
def engineStop (s : State) (o : EngOp) (f : AFault) (addr : Nat) (detail : W64) : State :=
  stopGroup (s.updEng (fun e => { e with ops := upd (fun x => x.id == o.id) (fun x => { x with held := true }) e.ops })) o.gid
    { cls := .engine, code := f.code, cause := f.cause, level := f.level, team := o.team, lane := o.lane, lanes := 1#32 <<< o.lane, pc := o.pc,
      addr := BitVec.ofNat 64 addr, detail := detail } none none

/-- The token takes its value, and what the operation held is free (R95, R99). -/
def freed (s : State) (o : EngOp) (x : W64) : State :=
  let s := match o.tok with
    | some k => s.updGroup o.gid (fun g => g.updTeam o.team (fun tm => { tm.setS k x with pend := tm.pend.erase k, sSeq := assocSet tm.sSeq k.toNat o.seq }))
    | none => s
  wakeStalled (s.updEng (fun e => { e with
    ops := e.ops.filter (fun y => y.id != o.id), locks := e.locks.filter (fun l => !(l.gid == o.gid && l.op == .eng o.id)) })) o.gid

/-- What the first piece of a list in flight does. -/
def pieceIo (s : State) (c : Ctx) (p : Piece) : EngIO := engCopy s c p.dscr p.sscr p.dst p.src p.len p.done

/-- An operation's bytes stand whole in scratch, then its token; the core's queue moves on. -/
def opEnds (s : State) (o : EngOp) (c : Ctx) (off : Nat) (out : List Byte) (tok : W64) : State :=
  let s := (s.coreHeal c.g.die c.g.core (c.g.scrBase + off) out.length).scrWrite o.gid off out
  let s := s.updEng (fun e => { e with mtxQ := e.mtxQ.filter (fun x => x.2.2 != o.id) })
  settle (wakeCore (freed s o tok) c.g.die c.g.core) c.g.rid

/-- The matrix queues once the restarted commands of a core stand in its own again, in issue order. -/
def arrayQueue (s : State) (core : Nat) : List (Nat × Nat × Nat) :=
  s.eng.mtxQ ++ (s.eng.ops.filter (fun o =>
    (match o.kind with | .mtx .. => true | _ => false) &&
    (match s.group? o.gid with | some g => g.die == coreDie core && g.core == coreNum core | none => false) && !o.held &&
    !(s.eng.mtxQ.any (fun x => x.2.2 == o.id)))).map (fun o => (coreDie core, coreNum core, o.id))

def engineEvents : Instr → Option Event
  | .copyComplete op => some {
      pre := fun s (a : EngOp × Ctx × Nat × Nat × Bool × Bool × Nat) =>
        let (o, c, d, r, ds, ss, n) := a
        opAt s op o c ∧ o.kind = .copy d r ds ss n ∧ (engCopy s c ds ss d r n o.done).bad = none
      post := fun s a t =>
        let (o, c, d, r, ds, ss, n) := a
        t = freed (engCopy s c ds ss d r n o.done).s o (BitVec.ofNat 64 n) }
  | .copyFault op => some {
      pre := fun s (a : EngOp × Ctx × AFault × Nat × State × W64) =>
        let (o, c, f, ad, u, det) := a
        opAt s op o c ∧
        ((∃ d r ds ss n, o.kind = .copy d r ds ss n ∧ (engCopy s c ds ss d r n o.done).bad = some (f, ad) ∧
            u = (engCopy s c ds ss d r n o.done).s.updOp op (fun x => { x with done := (engCopy s c ds ss d r n o.done).n }) ∧
            det = BitVec.ofNat 64 (engCopy s c ds ss d r n o.done).n) ∨
         (∃ b l n k p ps, o.kind = .copyList b l n k (p :: ps) ∧ (pieceIo s c p).bad = some (f, ad) ∧
            u = (pieceIo s c p).s.updOp op (fun x => match x.kind with
              | .copyList b l n k (_ :: ps) => { x with kind := .copyList b l n k ({ p with done := (pieceIo s c p).n } :: ps) }
              | _ => x) ∧ det = BitVec.ofNat 64 (pieceIo s c p).n) ∨
         (∃ b l n k, o.kind = .copyList b l n k [] ∧ listRead s c o 4 = (u, some (f, ad)) ∧ det = 0))
      post := fun _ a t =>
        let (o, _, f, ad, u, det) := a
        t = engineStop u o f ad det }
  | .copylistPieceComplete op => some {
      pre := fun s (a : EngOp × Ctx × (Nat × Nat × Nat × Nat) × List Piece) =>
        let (o, c, (obj, l, n, k), ps) := a
        opAt s op o c ∧ o.kind = .copyList obj l n k ps ∧ ∀ p, ps.head? = some p → (pieceIo s c p).bad = none
      post := fun s a t =>
        let (o, c, (obj, _, _, _), ps) := a
        match ps with
        | p :: _ =>
          let u := (pieceIo s c p).s.updOp op (fun x => match x.kind with
            | .copyList b l n k (_ :: ps) => { x with kind := .copyList b l n k ps }
            | _ => x)
          let u := lockFree (boTake u o.gid obj p.len) o.gid (.piece op p.entry)
          t = settle (listDone (listRead u c o 4).1 op) c.g.rid
        | [] => t = listDone (listRead s c o 4).1 op }
  | .tileFillStart gid n => some {
      pre := fun s (a : Ctx × Ring × RingSlot) =>
        let (c, r, sl) := a
        let i := r.refill.headD (r.started % r.slots.length)
        let tile := if r.refill = [] then r.started else sl.tile
        s.ringAt gid n = some (c, r) ∧ r.out = false ∧ (r.refill = [] → r.started < r.tiles) ∧ r.slots[i]? = some sl ∧ sl.st = .empty ∧ sl.held = none ∧
          c.g.stop = none ∧ slotBlocked s c.g (r.rowRngs tile) [(true, r.slotOff i, r.z)] = false
      post := fun s a t =>
        let (c, r, sl) := a
        let i := r.refill.headD (r.started % r.slots.length)
        let tile := if r.refill = [] then r.started else sl.tile
        t = (lockAdd (drainAll s c.g.die c.g.core) c.g (.slot n i) (r.rowRngs tile) [(true, r.slotOff i, r.z)]).updGroup gid (fun g => g.updRing n (fun r =>
          { r with slots := r.slots.set i { st := .filling, held := none, tile := tile },
                   started := if r.refill = [] then r.started + 1 else r.started, refill := r.refill.drop 1 })) }
  | .tileFilled gid n i => some {
      pre := fun s (a : Ctx × Ring × RingSlot) =>
        let (c, r, sl) := a
        s.ringAt gid n = some (c, r) ∧ r.slots[i]? = some sl ∧ sl.st = .filling ∧ sl.err = false ∧ r.isNext .filling sl = true ∧ (rowsMove s c r i sl.tile).bad = none
      post := fun s a t =>
        let (c, r, sl) := a
        t = settle (lockFree ((rowsMove s c r i sl.tile).s.updGroup gid (fun g => g.updRing n (fun r =>
          { r with slots := r.slots.set i { sl with st := .full } }))) gid (.slot n i)) c.g.rid }
  | .slotDrained gid n i => some {
      pre := fun s (a : Ctx × Ring × RingSlot) =>
        let (c, r, sl) := a
        s.ringAt gid n = some (c, r) ∧ r.slots[i]? = some sl ∧ sl.st = .draining ∧ sl.err = false ∧ r.isNext .draining sl = true ∧ (rowsMove s c r i sl.tile).bad = none
      post := fun s a t =>
        let (c, r, sl) := a
        t = settle (lockFree ((rowsMove s c r i sl.tile).s.updGroup gid (fun g => (g.updRing n (fun r =>
          { r with slots := r.slots.set i { sl with st := .empty } })).dropRings)) gid (.slot n i)) c.g.rid }
  | .headgateFault gid n i => some {
      pre := fun s (a : Ctx × Ring × RingSlot × AFault × Nat) =>
        let (c, r, sl, f, ad) := a
        s.ringAt gid n = some (c, r) ∧ r.slots[i]? = some sl ∧ (sl.st = .filling ∨ sl.st = .draining) ∧ sl.err = false ∧ r.isNext sl.st sl = true ∧
          (rowsMove s c r i sl.tile).bad = some (f, ad)
      post := fun s a t =>
        let (c, r, sl, f, ad) := a
        t = stopGroup ((rowsMove s c r i sl.tile).s.updGroup gid (fun g => g.updRing n (fun r => { r with slots := r.slots.set i { sl with err := true } }))) gid
          { cls := .engine, code := f.code, cause := f.cause, level := f.level, pc := r.pc, addr := BitVec.ofNat 64 ad,
            detail := BitVec.ofNat 64 (n + sl.tile * 256) } none none }
  | .matrixStart core => some {
      pre := fun s (a : Nat × List (Nat × Nat × Nat)) =>
        (arrayQueue s core).filter (fun x => x.1 == coreDie core && x.2.1 == coreNum core) = (coreDie core, coreNum core, a.1) :: a.2 ∧
        (coreAt s core).failed = false ∧ ∀ x ∈ (coreDie core, coreNum core, a.1) :: a.2, ∀ o, s.op? x.2.2 = some o → o.started = false
      post := fun s a t => t = ({ s with eng := { s.eng with mtxQ := arrayQueue s core } }).updOp a.1 (fun o => { o with started := true }) }
  | .matrixComplete op => some {
      pre := fun s (a : EngOp × Ctx × Nat × List Byte × W64 × W64 × List Byte) =>
        let (o, c, form, b, fa, fb, ps) := a
        opAt s op o c ∧ o.kind = .mtx form b fa fb ps ∧ o.started = true ∧ (mtxRun s c { form := form, b := b, fa := fa, fb := fb, pairs := ps }).bad = none
      post := fun s a t =>
        let (o, c, form, b, fa, fb, ps) := a
        let r := mtxRun s c { form := form, b := b, fa := fa, fb := fb, pairs := ps }
        -- the K-groups the array skipped are counted (R423)
        let u := r.s.count c.g.part 10 (r.tok.toNat / 2 ^ 32) c.r.qid
        t = opEnds u o c (fld b 16 4) r.out r.tok }
  | .xsectComplete op => some {
      pre := fun s (a : EngOp × Ctx × Nat × Nat × Nat × Nat × Nat) =>
        let (o, c, la, lb, na, nb, out) := a
        opAt s op o c ∧ o.kind = .xsect la lb na nb out ∧ tgtBad s c.who (.scr la) (2 * na) = none ∧ tgtBad s c.who (.scr lb) (2 * nb) = none
      post := fun s a t =>
        let (o, c, la, lb, na, nb, out) := a
        let l := fun off n => (List.range n).map (fun i => c.g.scratch.readN (off + 2 * i) 2)
        let m := merge (na + nb) (l la na) (l lb nb) 0 0
        t = opEnds s o c out m (BitVec.ofNat 64 (m.length / 4)) }
  | .matrixFault op => some {
      pre := fun s (a : EngOp × Ctx × MRes × AFault × Nat) => s.op? op = some a.1 ∧ opRun s a.1 = some (a.2.1, a.2.2.1) ∧ a.2.2.1.bad = some a.2.2.2
      post := fun _ a t =>
        let (o, c, r, f, ad) := a
        let u := (r.s.updOp op (fun x => { x with started := false })).updEng (fun e => { e with mtxQ := e.mtxQ.filter (fun x => x.2.2 != op) })
        t = wakeCore (engineStop u o f ad 0) c.g.die c.g.core }
  | .fixupDepositComplete op => some {
      pre := fun s (a : EngOp × Ctx × Nat × W64 × List Byte × State) =>
        let (o, c, off, w, bs, u) := a
        opAt s op o c ∧ o.kind = .fixup false off w ∧ tgtLoad s c.who (.scr off) 16384 false = .ok (bs, u)
      post := fun s a t =>
        let (o, c, _, w, bs, u) := a
        let at_ := c.r.fixSlot (c.r.groupNo c.g.gseq)
        let die := c.r.ownerDie s (segTile w)
        -- written whole, so poison there ends (R435), and released at .dv: the slot's sectors take the writer's time (R82, R112)
        let u := ((releaseCore u c.g.die c.g.core).resvReady c.r.rid die at_).resHeal c.who die at_ 16384
        let u := (u.resvWrite c.r.rid die at_ bs).resvSeenN c.who die at_ 16384 true
        t = settle (freed (u.updGroup o.gid (fun g => { g with fixDone := true })) o 1) c.g.rid }
  | .fixupOwnerCombine op => some {
      pre := fun s (a : EngOp × Ctx × Nat × W64 × List Byte × State × List Nat) =>
        let (o, c, off, w, bs, u, gs) := a
        opAt s op o c ∧ o.kind = .fixup true off w ∧ tgtLoad s c.who (.scr off) 16384 false = .ok (bs, u) ∧ arrivedOf u c.r (segTile w) = some gs ∧
        u.cellBad c.who (c.r.ownerDie s (segTile w)) (((c.r.resv.find? (fun x => x.die == c.r.ownerDie s (segTile w))).map (fun x => x.cells.length)).getD 0 - 1) = none ∧
        ∀ n ∈ gs, u.resBad c.who (c.r.ownerDie s (segTile w)) (c.r.fixSlot n) 16384 = none
      post := fun s a t =>
        let (o, c, off, w, bs, u, gs) := a
        let parts := gs.map (fun n => u.resvRead c.r.rid (c.r.ownerDie s (segTile w)) (c.r.fixSlot n) 16384)
        let word := fun (l : List Byte) (e : Nat) => BitVec.ofNat 32 (fld l (4 * e) 4)
        let out := ((List.range 4096).map (fun e => leBytes 4 ((parts.foldl (fun (k : Cell) p => k.add (word p e)) (Cell.store (word bs e))).read).toNat)).flatten
        t = opEnds (gs.foldl (fun u n => (u.resvReady c.r.rid (c.r.ownerDie s (segTile w)) (c.r.fixSlot n)).resvSeenN c.who
          (c.r.ownerDie s (segTile w)) (c.r.fixSlot n) 16384 false) u) o c off out (BitVec.ofNat 64 (1 + gs.length)) }
  | _ => none

/-! ## Queues and the Sluices (R71, R281 to R286) -/

/-- FV and FE over all dies (R281). -/
def levelFv (g : Graph) : Nat := (g.sluices.map (·.fv)).foldl (· + ·) 0
def levelFe (g : Graph) : Nat := (g.sluices.map (·.feSum)).foldl (· + ·) 0
/-- The modes that the dies of the range request, dies without a request left out (R283). -/
def requested (s : State) (g : Graph) : List Bool := g.sluices.filterMap (fun x => assoc s.eng.emode x.die)
/-- Whether the next level is in draw mode: what every request names (R283); else, from spill where FE × α > NE, and from draw unless
FV × β < NV (R282), from the mode in which the level began. -/
def levelDraw (s : State) (g : Graph) : Bool :=
  if requested s g ≠ [] ∧ ∀ m ∈ requested s g, m = true then true
  else if requested s g ≠ [] ∧ ∀ m ∈ requested s g, m = false then false
  else if g.levelMode = true then decide (g.nv ≤ levelFv g * g.beta) else decide (g.ne < levelFe g * g.alpha)
/-- %emode after the boundary (R281, step 4). -/
def levelEmode (s : State) (g : Graph) : Nat :=
  if levelFv g = 0 ∨ g.maxlv ≠ 0 ∧ g.maxlv ≤ g.level + 1 then 2 else if levelDraw s g = true then 1 else 0

def edgeEvents : Instr → Option Event
  | .queueEntryAging rid die => some {
      pre := fun s (r : RangeSt) => s.range? rid = some r
      post := fun s r t =>
        let dec := (assoc r.popDec die).getD 0
        t = { s with ranges := t.ranges } ∧ ∀ q ∈ r.queues, ∀ e ∈ q.home die, ∃ r', t.range? rid = some r' ∧ ∃ q' ∈ r'.queues, q'.h = q.h ∧
          { e with prio := min 7 (e.prio + (dec - e.since) / 4096), since := e.since + 4096 * ((dec - e.since) / 4096) } ∈ q'.home die }
  | .levelBoundary rid => some {
      pre := fun s (a : Nat × State × State × RangeSt × Graph × List Byte × State × State × State × State) =>
        let (gid, u0, u, r, g, bs, u2, u3, u4, u5) := a
        let s0 := (s.groups.filter (fun g => g.rid == rid)).foldl (fun s g => releaseCore s g.die g.core) s
        let w := sluWho u r gid
        levelDue s rid = true ∧ levelGid s0 rid = gid ∧ levelGid u rid = gid ∧
          graphStart s0 rid gid = .ok u0 ∧ levelWork u0 rid = (u, none) ∧ u.range? rid = some r ∧ r.graph = some g ∧
          mapRead u w g 1 = .ok (bs, u2) ∧ mapWrite u2 w g 0 bs = .ok u3 ∧ mapWrite u3 w g 1 (List.replicate g.mapBytes 0) = .ok u4 ∧
          sluWrite u4 w (g.desc + 112).toNat (leBytes 4 g.level ++ leBytes 4 (levelFv g) ++ leBytes 4 (levelFe g) ++ leBytes 4 (levelEmode u g)) = .ok u5
      post := fun _ a t =>
        let (_, _, u, _, g, _, _, _, _, u5) := a
        t = settle (levelRelease (u5.updGraph rid (fun x => { x with
          combed := [], level := (x.level + 1) % 2 ^ 32, levelMode := levelDraw u g, emode := levelEmode u g, curQ := 1 - x.curQ, curN := x.nextN, nextN := 0
          sluices := x.sluices.map (fun y => { y with mode := levelDraw u g, fi := 0, fe := 0, ti := 0, fv := 0, feSum := 0, delivered := 0, decided := 0 }) })) rid) rid }
  | .midlevelSwitch rid die => some {
      pre := fun s (a : Graph × Sluice) =>
        s.graph? rid = some a.1 ∧ a.1.sluice? die = some a.2 ∧ a.1.midsw = true ∧ a.2.delivered % 4096 = 0 ∧ a.2.delivered ≠ a.2.decided ∧ a.1.emode ≠ 2
      post := fun s a t =>
        let d := a.1.dies
        let m := if a.2.mode then decide (a.1.nv / d ≤ a.2.fv * a.1.beta) else decide (a.1.ne / d < a.2.feSum * a.1.alpha)
        t = if m = a.2.mode then s.updGraph rid (fun g => g.updSluice die (fun x => { x with decided := x.delivered }))
          else (endWalks s rid die (fun _ => true)).updGraph rid (fun g => g.updSluice die (fun x =>
            { x with decided := x.delivered, mode := m, fi := 0, fe := 0, ti := 0, ep := if x.mode then x.ep + 1 else x.ep })) }
  | .sluiceFault rid die => some {
      pre := fun s (a : State × SErr × W64) => sluFaultOf s rid die = some a
      post := fun _ a t =>
        let u := a.1.poisonRec a.2.1.1
        t = (u.groups.filter (fun g => g.rid == rid && g.stop.isNone)).foldl (fun s g =>
          stopGroup s g.id { cls := .engine, code := a.2.1.1.code, cause := a.2.1.1.cause, level := a.2.1.1.level, pc := a.2.2, addr := BitVec.ofNat 64 a.2.1.2 } none none) u }
  | _ => none

/-! ## Halts, fault queues, dispositions, pre-emption (R295, R296, R319, R380 to R389) -/

/-- What a disposition leaves of the posted record, and the slot it consumes (R382, R383). -/
def acted (s : State) (queue n : Nat) : State :=
  { s with fq := { s.fq with posted := s.fq.posted.filter (fun y => !(y.1 == queue && y.2.1 == n)), taken := assocSet s.fq.taken queue (n + 1) } }

/-- A slot's disposition of the given action on a stopped group. -/
def disposition (queue slot action : Nat) (f : State → Nat → FRec → Nat → State) : Event where
  pre := fun s (a : Nat × FRec × Nat × Nat) =>
    let (n, r, w, gid) := a
    disposed s queue slot = some (n, r, w) ∧ (if 1 ≤ w % 8 ∧ w % 8 ≤ 5 then w % 8 else 3) = action ∧ r.gid = some gid
  post := fun s a t =>
    let (n, r, w, gid) := a
    t = f (acted s queue n) gid r w

/-- Before its image is written, the results of a range are returned, and every thread has executed FENCE.sy (R129, R215). -/
def settledFor (s : State) (rid : Nat) : State :=
  (s.groups.filter (fun g => g.rid == rid)).foldl (fun s g =>
    fenceSy (s.updGroup g.id (fun g => g.bundles.foldl (fun g b => g.quiet b.id) g)) g.die g.core) s

/-- The saved area's bytes and how many there are beyond n are free values (log entry 13). -/
def imageBytes (s : State) (n : Nat) : List Byte × State :=
  ({ s with pkg := { s.pkg with fresh := s.pkg.fresh + 1 } }).freshBytes (n + Config.savedTail s.pkg.fresh)

/-- Where the saved area stands: behind the header of an image that a SAVE asked for; elsewhere in the pool (R385). -/
def savedAt (p : Preempt) : W64 := if p.why = 1 then p.dest + 512 else 0

/-- Where a pre-empted image goes when it is asked for twice: to a disposition's IMG before an EXPORT's area, there before its queue's head. -/
def rank (why : Nat) : Nat := match why with | 1 => 2 | 2 => 1 | _ => 0
/-- A range is to be pre-empted (R383, R384); one that is being pre-empted goes on with that, to the place of the higher rank. -/
def wanted (why : Nat) (dest : W64) (r : RangeSt) : RangeSt :=
  match r.pre with
  | some p => if r.killed = false ∧ rank p.why < rank why then { r with pre := some { p with why := why, dest := dest } } else r
  | none => if r.killed = true ∨ ∃ w ∈ r.want, rank why < rank w.1 then r else { r with want := some (why, dest) }

/-- The group runs on: what stalled, what waits and what its engines hold is tried again (R383). -/
def runsOn (s : State) (gid : Nat) (skip : Bool) : State :=
  let u := wakeStalled (resumeGroup s gid skip) gid
  match u.group? gid with
  | some g => settle u g.rid
  | none => u

def faultEvents : Instr → Option Event
  | .breakpointHalt gid bid => some {
      pre := fun s (a : Group × Bundle × Nat) =>
        let (g, b, k) := a
        s.group? gid = some g ∧ g.bundle? bid = some b ∧ (b.st = .ready ∨ b.st = .stalled) ∧ g.stop = none ∧ g.halted = false ∧ breakAt s g b = some k
      post := fun s a t =>
        let (g, b, k) := a
        t = ((haltGroup s gid).updBundle gid bid (fun b => { b with skipBk := true })).postEvent g.part (debugEvent 1 k g.rid g.gseq b.pc 0 (lanesMask b.ts)) }
  | .watchpointHalt gid bid => some {
      pre := fun s (a : Group × Bundle) => s.group? gid = some a.1 ∧ a.1.bundle? bid = some a.2 ∧ a.2.watch ≠ []
      post := fun s a t =>
        t = a.2.watch.foldl (fun s x => s.postEvent a.1.part (debugEvent 2 x.1 a.1.rid a.1.gseq x.2.2.2 x.2.1 x.2.2.1))
          ((haltGroup s gid).updBundle gid bid (fun b => { b with watch := [] })) }
  | .faultRecordPost queue => some {
      pre := fun s (a : FqBlock × Nat × FRec) =>
        let (b, q, f) := a
        fqBlock s queue = some b ∧ (b.prod - b.cons).toNat < b.slots ∧ nextRec s queue (fun _ => true) = some (q, f)
      post := fun s a t =>
        let (b, q, f) := a
        let u := { s with fq := { s.fq with pending := s.fq.pending.erase (q, f) } }
        let u := u.paWrite (b.ring + 64 * (b.prod.toNat % b.slots)) f.bytes
        let u := u.paWrite (b.at_ + 24) (leBytes 8 (b.prod + 1).toNat)
        let u := if queue < 64 then u.count queue 14 1 ((u.range? f.rid).bind (·.qid)) else u
        t = if f.stops ∧ f.gid.all (fun g => (u.group? g).isSome) then
            let u := { u with fq := { u.fq with posted := u.fq.posted ++ [(queue, b.prod.toNat, f)] } }
            match f.gid with
            | some g => u.updGroup g (fun g => { g with stop := g.stop.map (fun st => { st with posted := some (queue, b.prod.toNat) }) })
            | none => u
          else u }
  | .resume queue slot => some (disposition queue slot 1 (fun s g _ _ => runsOn s g false))
  | .skip queue slot => some (disposition queue slot 2 (fun s g f _ => runsOn s g (f.cls == .precise)))
  | .killGroup queue slot => some (disposition queue slot 3 (fun s g _ _ => killGroupNow s g))
  | .killRange queue slot => some (disposition queue slot 4 (fun s _ f _ => killRangeNow s f.rid))
  | .saveRange queue slot => some (disposition queue slot 5 (fun s _ f w => s.updRange f.rid (wanted 1 (BitVec.ofNat 64 (w / 512 * 512)))))
  | .preemptRequest rid => some {
      pre := fun s (a : RangeSt × Nat × W64) => s.range? rid = some a.1 ∧ a.1.want = some a.2
      post := fun s a t => t = preGuest (s.updRange rid (fun r => { r with want := none, pre := some { since := s.ticks, dest := a.2.2, why := a.2.1 } })) rid }
  | .safePointStop gid bid => some {
      pre := fun s (a : Group × Bundle × RangeSt) =>
        let (g, b, r) := a
        s.group? gid = some g ∧ g.bundle? bid = some b ∧ s.range? g.rid = some r ∧ r.pre.isSome = true ∧ b.runEnded = true ∧ b.outst = [] ∧
          (b.st = .ready ∨ b.st = .stalled) ∧ ∃ e ∈ r.safe, r.img.code + BitVec.ofNat 64 e.1 = b.pc
      post := fun s a t => groupBecomes s t gid (a.1.updBundle bid (fun b => { b with safe := true })) }
  | .hardStop rid => some {
      pre := fun s (a : RangeSt × Preempt) => s.range? rid = some a.1 ∧ a.1.pre = some a.2 ∧ a.2.hard = false ∧ a.2.since + 50000 + a.2.waited ≤ s.ticks
      post := fun s a t =>
        let gs := s.groups.filter (fun g => g.rid == rid)
        let n := (gs.map (fun g => (g.bundles.filter (fun b => !bundleStopped g b)).length)).sum
        let u := gs.foldl (fun (s : State) g => s.updGroup g.id (fun g =>
          { (g.bundles.foldl (fun (g : Group) b => if bundleStopped g b then g else g.quiet b.id) g) with hardAt := true }))
          (s.updRange rid (fun r => { r with pre := some { a.2 with hard := true } }))
        t = if n = 0 then u else u.queueRec a.1.part { cls := .hardStop, rid := rid, detail := BitVec.ofNat 64 n, time := s.ticks } }
  | .preemptImageWrite rid => some {
      pre := fun s (a : RangeSt × Preempt × RangeSt) =>
        let (r0, p, r) := a
        let x := imageBytes (settledFor (preGuest s rid) rid) (512 * max r.harps.length 1)
        s.range? rid = some r0 ∧ r0.pre = some p ∧ (preGuest s rid).range? rid = some r ∧ quiesced (preGuest s rid) r = true ∧
          (r.logged = true → logWaits x.2 r.part (32 + roundUp ((parkRange x.2 r).header (savedAt p) x.1.length ++ x.1).length 32) = false)
      post := fun s a t =>
        let (_, p, r) := a
        let x := imageBytes (settledFor (preGuest s rid) rid) (512 * max r.harps.length 1)
        let y := parkRange x.2 r
        t = placeImage (unplace (checkpoint x.2 r (y.header (savedAt p) x.1.length ++ x.1) policySrc) rid) { asid := r.asid, va := 0, bytes := x.1, range := y } p }
  | .priorityPreempt part => some {
      pre := fun s (a : RangeSt × Nat × RangeSt) =>
        let (x, n, v) := a
        starved s part = some (x, n) ∧ victim s part = some v ∧ v.prio + 2 ≤ n ∧ v.rid ≠ x.rid ∧ v.qid.isSome = true
      post := fun s a t =>
        let (_, _, v) := a
        let u := { s with pkg := { s.pkg with fresh := s.pkg.fresh + 1 } }
        t = if Config.poolRoom s.pkg.fresh then u.updRange v.rid (wanted 0 0) else u }
  | _ => none

/-! ## The front end (R359 to R370) -/

/-- A packet of a queue stands ready for its row. -/
def heldAt (s : State) (part ty : Nat) (p : Packet) (q : Queue) : Prop :=
  (s.part part).sel = some p ∧ fld p.bytes 0 1 = ty ∧ s.queue? p.qid = some q

def opQ (p : Packet) (off n : Nat) : Nat := fld p.bytes off n

/-- A doorbell value is taken: WPTR stands in the block and the queue, with the decisions then and the entry's number (R360, R368). -/
def rung (s : State) (q : Queue) (w : W32) : State :=
  let u : State := match feStore s (feWho s q.qcbAsid q.owner (some q.qid)) (q.qcb.toNat + 28) (leBytes 4 w.toNat) with
    | .ok u => u
    | .error _ => s
  let fresh := fun (x : W32) => decide (0 < (x - (q.rptr - 1)).toNat ∧ (x - (q.rptr - 1)).toNat ≤ 2 ^ 18)
  let bell := (w, (u.part q.owner).decisions, u.fe.seqno)
  State.updQueue { u with fe := { u.fe with seqno := u.fe.seqno + 1 } } q.qid (fun q =>
    { q with wptr := w, bells := q.bells.filter (fun b => fresh b.1) ++ [bell] })

/-- Where a doorbell is taken: the page is its function's own (log entry 24), the device serves queues, no more is asked for than the
ring holds, and with RESYNC the block still has its privileged bytes. -/
def ringsAt (s : State) (reg : Nat) (value : W64) (q : Queue) : Prop :=
  s.queue? (reg % 1024) = some q ∧ q.fn = reg / 1024 ∧ s.pkg.phase = 9 ∧ value.extractLsb 63 33 = 0 ∧ q.faulted = false ∧
  (value.extractLsb 31 0 - q.rptr).toNat ≤ 2 ^ (q.rsize - 6) ∧
  (value.getLsbD 32 = true → ∃ b u, feRead s (feWho s q.qcbAsid q.owner (some q.qid)) (some q.key) q.qcb.toNat 24 = .ok (b, u) ∧ firstDiff q.priv b = none)

/-- What waits behind the head of a queue enters it now (R368). -/
def entered (s : State) (q : Queue) : State :=
  State.updQueue { s with fe := { s.fe with seqno := s.fe.seqno + 1 } } q.qid (fun q => { q with floor := ((s.part q.owner).decisions, s.fe.seqno) })

/-- A queue's last ranges: they end by themselves, are killed, or are pre-empted to be saved; it fetches no more (R369). -/
def ends (part ty : Nat) (mode : Packet → Nat) : Event where
  pre := fun s (a : Packet × Queue × Queue) =>
    let (p, q, z) := a
    heldAt s part ty p q ∧ s.queue? (opQ p 24 2) = some z ∧ z.ending = none
  post := fun s a t =>
    let (p, q, z) := a
    let qid := opQ p 24 2
    let e : Ending := { mode := mode p, by_ := q.qid, crec := p.crec, dest := BitVec.ofNat 64 (opQ p 16 8), asid := q.asid }
    let u := consume (s.updQueue p.qid (fun q => { q with pend := q.pend ++ [(p.crec, 256 + qid)] })) p [] (some (p.crec, 256 + qid))
    let u := u.updQueue qid (fun z => { z with stopped := true, ending := some e })
    let off := fun (y : Queue) => { y with resumeHead := [], live := y.live.filter (fun r => !(z.resumeHead.any (fun x => x.range.rid == r))) }
    let mine := fun (s : State) => (s.ranges.filter (fun r => r.qid == some qid)).map (·.rid)
    let v := match mode p with
      | 0 => u
      | 1 =>
        let v := u.updQueue qid (fun y => { y with resumeHead := [] })
        let v : State := { v with ranges := v.ranges ++ z.resumeHead.map (fun (x : Saved) => { x.range with pre := none, resv := [] }) }
        (mine v).foldl killRangeNow v
      | _ =>
        let v := u.updQueue qid (fun y => { off y with exported := z.resumeHead })
        (mine v).foldl (fun s r => s.updRange r (wanted 2 0)) v
    t = endingSettle v qid

/-- What stands at SRC is what this export wrote. -/
def written (s : State) (p : Packet) (q : Queue) (x : Nat × W64 × List Byte × Queue) : Bool :=
  match feRead s (feWho s q.asid q.owner (some q.qid)) (some q.key) (opQ p 16 8) x.2.2.1.length with
  | .ok (b, _) => b == x.2.2.1
  | .error _ => false

/-- A queue with the slots, the pointers, the blocked WAIT and the ranges of an export (R369). -/
def imported (s : State) (z : Queue) (bytes : List Byte) (o : Queue) : State :=
  let at_ := fun (i : Nat) => z.ring.toNat + 64 * ((o.rptr.toNat + i) % 2 ^ (z.rsize - 6))
  let u : State := (List.range (o.wptr - o.rptr).toNat).foldl (fun (s : State) (i : Nat) =>
    match feStore s (feWho s z.asid z.owner (some z.qid)) (at_ i) ((bytes.drop (28 + 64 * i)).take 64) with
    | .ok s => s
    | .error _ => s) s
  let e := ((u.part z.owner).decisions, u.fe.seqno)
  let v := State.updQueue { u with fe := { u.fe with seqno := u.fe.seqno + 1 } } z.qid (fun z => { z with
    rptr := o.rptr, wptr := o.wptr, blocked := o.blocked.map (fun b => { b with qid := z.qid }), ind := o.ind, indDone := o.indDone, floor := e,
    bells := [(o.wptr, e)], pend := z.pend ++ o.pend.filter (fun y => y.2 == waitTag), stopped := false,
    live := z.live ++ (o.exported.filter (fun y => y.range.parent.isNone)).map (·.range.rid), resumeHead := [] })
  let v : State := match feStore v (feWho v z.qcbAsid z.owner (some z.qid)) (z.qcb.toNat + 24) (leBytes 4 o.rptr.toNat ++ leBytes 4 o.wptr.toNat) with
    | .ok v => v
    | .error _ => v
  o.exported.foldl (fun s y => reenter s z.qid { y with range := { y.range with qid := some z.qid } }) v

def frontEndEvents : Instr → Option Event
  | .frontEndDispatch part => some {
      pre := fun s (a : Head × Queue × State) =>
        let (h, q, u) := a
        (s.part part).sel = none ∧ decideHead s part = (some h, u) ∧ u.queue? h.pkt.qid = some q ∧ h.status = 0 ∧ h.resumes = none ∧ h.pkt.resume = false ∧
        (q.qflg.getLsbD 2 = true → logWaits u part (32 + roundUp h.pkt.bytes.length 32) = false)
      post := fun _ a t =>
        let (h, q, u) := a
        let v := u.updPart part (fun p => { p with decisions := p.decisions + 1 })
        t = (if q.qflg.getLsbD 2 then packetEntry v q h.pkt else v).updPart part (fun p => { p with sel := some h.pkt }) }
  | .doorbellWrite reg value => some { pre := fun s q => ringsAt s reg value q, post := fun s q t => t = rung s q (value.extractLsb 31 0) }
  | .doorbellResync reg value => some {
      pre := fun s q => ringsAt s reg (value ||| 0x100000000) q, post := fun s q t => t = rung s q (value.extractLsb 31 0) }
  | .nopPacket part => some {
      pre := fun s (a : Packet × Queue) => heldAt s part 0 a.1 a.2
      post := fun s a t => t = complete (consume s a.1 [] none) a.1.qid (BitVec.ofNat 64 (opQ a.1 8 8)) 0 0 }
  | .launchPacket part => some {
      pre := fun s (a : Packet × Queue × List Byte × State × State × Nat) =>
        let (p, q, raw, u, v, rid) := a
        heldAt s part 1 p q ∧ feRead s (feWho s q.asid q.owner (some q.qid)) (some q.key) (opQ p 16 8) 512 = .ok (raw, u) ∧
        (bit (opQ p 37 1) 1 = true → q.qflg.getLsbD 0 = true) ∧
        tryLaunch u { asid := q.asid, part := q.owner, qid := some q.qid, crec := p.crec, key := some q.key, va := BitVec.ofNat 64 (opQ p 16 8),
                      raw := if imageOk raw then launchImage q p.bytes raw else raw, log := q.qflg.getLsbD 2, debugOk := q.qflg.getLsbD 0,
                      follow := bit (opQ p 37 1) 3, entered := some q.entry.1 } = .ok v rid
      post := fun _ a t =>
        let (p, q, _, _, v, rid) := a
        t = consume (v.updQueue q.qid (fun q => { q with live := q.live ++ [rid] })) p [rid] none }
  | .indirect part => some {
      pre := fun s (a : Packet × Queue) => heldAt s part 2 a.1 a.2 ∧
        (bit (opQ a.1 28 1) 0 = true → sealedFrames s a.2.asid (opQ a.1 16 8) (opQ a.1 24 4) = true)
      post := fun s a t => t = consumeEnd ((moveOn s a.1 [] none).updQueue a.2.qid (fun q => { q with
        ind := some { buf := BitVec.ofNat 64 (opQ a.1 16 8), len := opQ a.1 24 4, crec := a.1.crec, isSealed := bit (opQ a.1 28 1) 0 } })) a.2.qid }
  | .waitPacket part => some {
      pre := fun s (a : Packet × Queue × List Byte × State × Queue) =>
        let (p, q, b, u, z) := a
        heldAt s part 3 p q ∧ feRead s (feWho s q.asid q.owner (some q.qid)) (some q.key) (opQ p 16 8) 8 = .ok (b, u) ∧ u.queue? q.qid = some z
      post := fun _ a t =>
        let (p, q, b, u, z) := a
        let yes := if opQ p 32 1 = 1 then leNat b ≠ opQ p 24 8 else opQ p 24 8 ≤ leNat b
        (yes → t = complete (consume (entered u z) p [] none) p.qid p.crec 0 0) ∧
        (¬yes → t = consume ((u.updQueue q.qid (fun q => { q with blocked := some p })).updQueue p.qid
          (fun q => { q with pend := q.pend ++ [(p.crec, waitTag)] })) p [] (some (p.crec, waitTag))) }
  | .waitPacketSatisfied qid => some {
      pre := fun s (a : Queue × Packet × List Byte × State × Queue) =>
        let (q, p, b, u, z) := a
        s.queue? qid = some q ∧ u.queue? qid = some z ∧ q.blocked = some p ∧ feRead s (feWho s q.asid q.owner (some q.qid)) (some q.key) (opQ p 16 8) 8 = .ok (b, u) ∧
        (if opQ p 32 1 = 1 then leNat b ≠ opQ p 24 8 else opQ p 24 8 ≤ leNat b) ∧ q.faulted = false ∧ q.stopped = false
      post := fun _ a t =>
        let (_, p, _, u, z) := a
        let v := (entered u z).updQueue qid (fun q => { q with blocked := none })
        t = indSettle ((complete v qid p.crec 0 0).updQueue qid (fun q => { q with pend := q.pend.erase (p.crec, waitTag) })) qid }
  | .write part => some {
      pre := fun s (a : Packet × Queue × List Byte × State × State) =>
        let (p, q, b, u, v) := a
        let old := BitVec.ofNat 64 (leNat b)
        let x := BitVec.ofNat 64 (opQ p 24 8)
        let w := feWho s q.asid q.owner (some q.qid)
        heldAt s part 4 p q ∧ (opQ p 32 1 = 1 → feRead s w (some q.key) (BitVec.ofNat 64 (opQ p 16 8)).toNat 8 ≠ .error .key) ∧
        feRead s w none (BitVec.ofNat 64 (opQ p 16 8)).toNat 8 = .ok (b, u) ∧
        feStore u w (BitVec.ofNat 64 (opQ p 16 8)).toNat (leBytes 8 (if opQ p 32 1 = 1 then old + x else x).toNat) = .ok v
      post := fun _ a t =>
        let (p, q, _, _, v) := a
        let va := BitVec.ofNat 64 (opQ p 16 8)
        t = complete (consume (dirtySignal v q.qid va) p [] none) p.qid p.crec 0 0 }
  | .inval part => some {
      pre := fun s (a : Packet × Queue) => heldAt s part 5 a.1 a.2
      post := fun s a t =>
        let p := a.1
        let f := opQ p 18 1
        let n := opQ p 32 4
        let r : InvalRange := { asid := if bit f 0 then none else some (opQ p 16 2), lo := if n = 0 then 0 else opQ p 24 8,
                                hi := if n = 0 then 2 ^ 57 else opQ p 24 8 + 4096 * n }
        let u := invalidate s r (bit f 1) (bit f 2) (bit f 3)
        let gs := if bit f 1 || bit f 2 then u.sock.grants.filter (fun g => r.has g.asid g.va g.size) else []
        let v := gs.foldl (fun s g => sendTinv s g u.fe.invs) { u with fe := { u.fe with invs := u.fe.invs + 1 } }
        (gs = [] → t = complete (consume u p [] none) p.qid p.crec 0 0) ∧
        (gs ≠ [] → t = consume (v.updQueue p.qid (fun q => { q with pend := q.pend ++ [(p.crec, 4096 + u.fe.invs)] })) p [] (some (p.crec, 4096 + u.fe.invs))) ∧
        (bit f 1 = true ∨ bit f 2 = true → ∀ x ∈ u.mem.tlb, r.has x.asid x.va x.size = false) }
  | .partcfg part => some {
      pre := fun s (a : Packet × Queue × State) =>
        let (p, q, u) := a
        heldAt s part 6 p q ∧ carveWrite s (opQ p 20 1) (BitVec.ofNat 32 (opQ p 16 4)) = .ok u
      post := fun _ a t =>
        let (p, q, u) := a
        let n := opQ p 20 1
        let v := extendReg (u.updPart n (fun y => { y with carvePend := some (q.qid, p.crec) })) 1 n ((u.carve n &&& 0xF7FFFFFF).setWidth 64)
        t = carveSettle (consume (v.updQueue p.qid (fun q => { q with pend := q.pend ++ [(p.crec, n)] })) p [] (some (p.crec, n))) n }
  | .policyPacket part => some {
      pre := fun s (a : Packet × Queue) => heldAt s part 11 a.1 a.2 ∧ policyOk (BitVec.ofNat 64 (opQ a.1 24 8)) = true
      post := fun s a t =>
        let (p, _) := a
        let w := BitVec.ofNat 64 (opQ p 24 8)
        t = complete (consume (extendReg (s.updPart (opQ p 20 1) (fun x => { x with policy := w })) 2 (opQ p 20 1) w) p [] none) p.qid p.crec 0 0 }
  | .cwin part => some {
      pre := fun s (a : Packet × Queue) => heldAt s part 12 a.1 a.2
      post := fun s a t =>
        let (p, _) := a
        let f := opQ p 34 1
        t = complete (consume (s.updPart (opQ p 20 1) (fun x => { x with win := x.win.filter (fun y => y.1 != opQ p 21 1) ++
          [(opQ p 21 1, BitVec.ofNat 64 (opQ p 24 8), BitVec.ofNat 16 (opQ p 32 2), bit f 0, bit f 1)] })) p [] none) p.qid p.crec 0 0 }
  | .qcreate part => some {
      pre := fun s (a : Packet × Queue × List Byte × State) =>
        let (p, q, b, u) := a
        let n := queueFrom (opQ p 24 2) (BitVec.ofNat 64 (opQ p 16 8)) q.asid b
        heldAt s part 7 p q ∧ feRead s (feWho s q.asid q.owner (some q.qid)) (some q.key) (opQ p 16 8) 128 = .ok (b, u) ∧
        u.queue? (opQ p 24 2) = none ∧ n.fieldsOk = true ∧ zeros b 32 127 = true ∧ u.carved n.owner = true ∧ (n.qflg.getLsbD 0 = true ∨ vfHas u n.owner = true)
      post := fun _ a t =>
        let (p, q, b, u) := a
        let n := queueFrom (opQ p 24 2) (BitVec.ofNat 64 (opQ p 16 8)) q.asid b
        t = complete (consume { u with fe := { u.fe with queues := u.fe.queues ++ [{ n with fn := fnOf u n }] } } p [] none) p.qid p.crec 0 0 }
  | .qdestroy part => some (ends part 8 (fun p => opQ p 26 1))
  | .exportPacket part => some (ends part 9 (fun _ => 3))
  | .importPacket part => some {
      pre := fun s (a : Packet × Queue × Queue × List Byte × Queue × State) =>
        let (p, q, z, b, o, u) := a
        let rd := fun n => feRead s (feWho s q.asid q.owner (some q.qid)) (some q.key) (opQ p 16 8) n
        heldAt s part 10 p q ∧ s.queue? (opQ p 24 2) = some z ∧ z.rsize = o.rsize ∧
        -- an export of this package, or else what the bytes say of one of another device, the same whenever they are read (log entry 13)
        ((∃ x, s.fe.exports.find? (written s p q) = some x ∧ x.2.2 = (b, o) ∧ u = s) ∨
         (s.fe.exports.find? (written s p q) = none ∧ ∃ h v w, rd 28 = .ok (h, v) ∧ rd (Config.exportLen h) = .ok (b, w) ∧
            Config.exportedQueue s.nextGid s.eng.nextOp b = some o ∧ s.adopt (o.exported.map (·.range)) = some u)) ∧
        (∀ n, n = 28 ∨ (∃ y ∈ s.fe.exports, n = y.2.2.1.length) ∨ (∃ h v, rd 28 = .ok (h, v) ∧ n = Config.exportLen h) → rd n ≠ .error .key)
      post := fun _ a t =>
        let (p, _, z, b, o, u) := a
        t = complete (consume (imported u z b o) p [] none) p.qid p.crec 0 0 }
  | _ => none

/-! ## Links, the host and the guest (R334, R350, R371 to R373, R396 to R409) -/

/-- A peer package's store or atomic performed: under the destination's own translation, an atomic's bytes read first (R373, R241). -/
def peerWrite (s : State) (asid va : Nat) (d : PeerData) (t : State) : Prop :=
  let w := feWho s asid (s.partOn asid (homeDie va)) none
  match d.atom with
  | none => feWrite s w va d.bytes = .ok t
  | some code => ∃ old u, feRead s w none va 4 = .ok (old, u) ∧ feWrite u w va
      (leBytes 4 (if code ≤ 11 then applyOp code 0 (BitVec.ofNat 32 (leNat (old.take 4))) (BitVec.ofNat 32 (fld d.bytes 0 4))
        else if BitVec.ofNat 32 (leNat (old.take 4)) = BitVec.ofNat 32 (fld d.bytes 0 4) then BitVec.ofNat 32 (fld d.bytes 4 4)
        else BitVec.ofNat 32 (leNat (old.take 4))).toNat) = .ok t

/-- Frames that the host reaches (R350, R371). -/
def hostReaches (s : State) (pa n : Nat) (write : Bool) : Prop :=
  ∀ a ∈ pages4k pa (max n 1), (∃ d o, locOf a = .hbm d o) ∧ s.fotAllows [0xFF] a write = true

/-- A message of the guest for a packet it has (R402). -/
def outstanding (s : State) (chan : Nat) (seq : W32) (c : Chan) (p : GPkt) : Prop :=
  s.sock.trained = true ∧ s.sock.fenced = false ∧ s.chan? chan = some c ∧ c.pkts.find? (fun p => p.seq == seq && p.fwd) = some p

/-- A message of the device. -/
def told (s : State) (row : Nat) (nums : List Nat) (bytes : List Byte) : State :=
  { s with sock := { s.sock with sent := s.sock.sent ++ [{ row := row, nums := nums, bytes := bytes }] } }

/-- Steps 1 to 5 of R409: no more messages, no grant, no packet that has not failed; the record names why. -/
def fencedOff (s : State) (cause : Nat) : State :=
  let u := endGuest { s with sock := { s.sock with fenced := true } }
  { u with fq := { u.fq with pending := u.fq.pending ++ [(64, { cls := .device, src := some socketSrc, code := .guestf, cause := cause, time := u.ticks })] } }

def linkEvents : Instr → Option Event
  | .canalRemoteAccess package part window asid va data size ordered => some {
      pre := fun s (a : State × List Byte) => match ordered, data with
        | some _, some _ => True
        | none, some d => (asid, package) ∈ s.fe.imports ∧ peerWrite s asid va.toNat d a.1
        | _, none => (asid, package) ∈ s.fe.imports ∧
          feRead s (feWho s asid (s.partOn asid (homeDie va.toNat)) none) none va.toNat size = .ok (a.2, a.1)
      post := fun s a t => match ordered, data with
        | some n, some d => t = { s with pkg := { s.pkg with canal := s.pkg.canal ++
            [{ package := package, part := part, win := window, seq := n, asid := asid, va := va.toNat, data := d,
               taken := decide ((asid, package) ∈ s.fe.imports) }] } }
        | _, _ => t = a.1 }
  | .canalOrderedPass package part window => some {
      pre := fun s (a : CanalWr × State) =>
        s.pkg.canal.find? (fun x => x.package == package && x.part == part && x.win == window && x.seq == s.flowNext package part window) = some a.1 ∧
        if a.1.taken then peerWrite s a.1.asid a.1.va a.1.data a.2 else a.2 = s
      post := fun _ a t => t = { a.2 with pkg := { a.2.pkg with
        canal := a.2.pkg.canal.erase a.1,
        canalNext := updOr (fun y => y.1 == package && y.2.1 == part && y.2.2.1 == window) (package, part, window, 0)
          (fun _ => (package, part, window, a.1.seq + 1)) a.2.pkg.canalNext } } }
  | .canalPortDown port => some {
      pre := fun s (_ : Unit) => s.pkg.grade.hasPort port = true ∧ port ∉ s.pkg.portsDown
      post := fun s _ t =>
        let mine := s.pkg.canalOut.filter (fun x => x.1 / 2 == port)
        let u := { s with pkg := { s.pkg with portsDown := s.pkg.portsDown ++ [port], canalOut := s.pkg.canalOut.filter (fun x => x.1 / 2 != port) } }
        -- which of its stores had left is a free value (log entry 9)
        t = mine.foldl (fun (s : State) x => if (Config.freeByte s.pkg.fresh).getLsbD 0 then { s with pkg := { s.pkg with fresh := s.pkg.fresh + 1 } }
          else refusedStore { s with pkg := { s.pkg with fresh := s.pkg.fresh + 1 } } x) u }
  | .hostMemAccess pa data size => some {
      pre := fun s (_ : Unit) =>
        let n := match data with | some b => b.length | none => size
        4 ≤ s.pkg.phase ∧ s.pkg.phase ≤ 9 ∧ (hostReaches s pa.toNat n data.isSome ∨ ∀ a ∈ pages4k pa.toNat (max n 1), isHostMem a = true)
      post := fun s _ t =>
        let n := match data with | some b => b.length | none => size
        let u := if ∀ a ∈ pages4k pa.toNat (max n 1), isHostMem a = true then s.snoop pa.toNat n data.isSome else s
        t = match data with | some b => u.paWrite pa.toNat b | none => u }
  | .containerRegistration part asid code codeSize safe safeSize config => some {
      pre := fun s (a : List Byte × State × List Byte × State) =>
        let (cb, u, sb, v) := a
        s.pkg.phase = 9 ∧ feRead s (feWho s asid part none) none code.toNat codeSize = .ok (cb, u) ∧ feRead u (feWho s asid part none) none safe.toNat safeSize = .ok (sb, v) ∧
        safeSize % 16 = 0 ∧ safeTableOk (8 * (config.extractLsb 7 4).toNat) cb (entries16 sb (safeSize / 16)) = true
      post := fun _ a t =>
        let (cb, _, sb, v) := a
        let es := (entries16 sb (safeSize / 16)).map (fun e => (fld e 0 4, BitVec.ofNat 72 (fld e 4 9)))
        let other := fun (c : Nat × Nat × W64 × List (Nat × BitVec 72)) => !(c.1 == asid && c.2.1 == code.toNat)
        let u := { v with fe := { v.fe with containers := v.fe.containers.filter other ++ [(asid, code.toNat, config, es)], registered := updOr (fun x => x.1 == (asid, code.toNat)) ((asid, code.toNat), 0) (fun _ => ((asid, code.toNat), 0)) v.fe.registered } }
        t = u.updPart part (fun x => { x with m4 := extendM x.m4 (leBytes 48 (Config.sha384 (cb ++ sb)).toNat ++ leBytes 1 part) }) }
  | .hostDebugMessage part msg => some {
      pre := fun _ (_ : Unit) => msg.length = 64 ∧ 0x80 ≤ fld msg 0 1
      post := fun s _ t => t = serveRecvs (s.updPart part (fun p => { p with events := p.events ++ [msg] })) }
  | .debugMailboxRead part => some {
      pre := fun _ (_ : Unit) => True
      post := fun s _ t => t = s.updPart part (fun p => { p with outbox := p.outbox.drop 1 }) }
  | .gpkt chan => some {
      pre := fun s (a : Chan × GPkt) => s.sock.trained = true ∧ s.sock.fenced = false ∧ s.chan? chan = some a.1 ∧ 
        -- what was saved of a range goes before its other packets (R408)
        a.1.pkts.find? (fun p => !p.fwd && (p.saved || !(s.savedFirst p.rid))) = some a.2
      post := fun s a t =>
        let (_, p) := a
        let u := match s.group? p.gid with | some g => releaseCore s g.die g.core | none => s
        let u := u.updChan chan (fun c => { c with pkts := upd (fun x => x.seq == p.seq) (fun x => { x with fwd := true }) c.pkts })
        t = told u 1 [chan, p.seq.toNat, p.prio, p.rid, p.part] p.bytes }
  | .treq chan seq va write tag => some {
      pre := fun s (a : Chan × GPkt × Tlb × State) =>
        let (c, p, tl, u) := a
        let page := va.toNat / 4096 * 4096
        outstanding s chan seq c p ∧ p.overlaps page write = true ∧ addrCheck s p.asid page = none ∧ translate s p.asid page (if write then 1 else 0) = .ok tl u ∧
        s.sock.waitTcpl = []
      post := fun s a t =>
        let (_, p, tl, u) := a
        let done := fun (g : Grant) => !(s.pktOpen g.chan g.seq)
        (s.sock.grants.length < 4096 → t = told { u with sock := { u.sock with grants := u.sock.grants ++
          [{ chan := chan, seq := seq, asid := p.asid, va := tl.va, pa := tl.pa, size := tl.size, w := tl.w }] } } 3
          [tag.toNat, 3, tl.pa, tl.size, tl.w.toNat, tl.kind.toNat] []) ∧
        -- a full table: BUSY where every packet goes on; else it waits for a grant of a packet that does not, the oldest, asked back (R403)
        (4096 ≤ s.sock.grants.length → (∀ g ∈ s.sock.grants, done g = false) → t = told s 3 [tag.toNat, 2] []) ∧
        (4096 ≤ s.sock.grants.length → ∀ g, s.sock.grants.find? done = some g → (∀ g ∈ s.sock.grants, g.tinv = none) →
          t.sock.waitTcpl = [(chan, seq, va.toNat / 4096 * 4096, write, tag.toNat, p.asid)] ∧
          t.sock.sent = s.sock.sent ++ [{ row := 4, nums := [g.chan / 4, g.asid, g.va, g.size / 4096, s.sock.tags], bytes := [] }]) }
  | .tinvack tag => some {
      pre := fun s (_ : Unit) => s.sock.trained = true ∧ s.sock.fenced = false ∧ (∃ g ∈ s.sock.grants, ∃ d k, g.tinv = some (tag, d, k)) ∧
        ∀ g ∈ s.sock.grants, ∀ d k, g.tinv = some (tag, d, k) → s.ticks ≤ d
      post := fun s _ t =>
        let named := fun (g : Grant) => match g.tinv with | some x => x.1 == tag | none => false
        let u := s.guestFlush (fun k => (s.sock.grants.filter named).any (fun g => g.covers (128 * k)))
        let u := { u with sock := { u.sock with grants := u.sock.grants.filter (fun g => !named g) } }
        t = invSettle (treqSettle u) ∧ (u.sock.waitTcpl = [] → treqSettle u = u) ∧
        ∀ x, u.sock.waitTcpl = [x] → u.sock.grants.length < 4096 →
          treqSettle u = makeGrant { u with sock := { u.sock with waitTcpl := [] } } x.1 x.2.1 x.2.2.1 x.2.2.2.1 (BitVec.ofNat 32 x.2.2.2.2.1) x.2.2.2.2.2 }
  | .gcpl chan seq failed => some {
      pre := fun s (a : Chan × GPkt) => outstanding s chan seq a.1 a.2 ∧ ∀ d, a.2.abortBy = some d → s.ticks ≤ d
      post := fun s a t =>
        let u := completePkt s chan a.2 failed
        t = settle (treqSettle { u with sock := { u.sock with ended := u.sock.ended.filter (fun x => x.2.2 == u.clk) ++ [(chan, a.2, u.clk)] } }) a.2.rid }
  | .gflt chan seq cause addr code => some {
      pre := fun s (a : Chan × GPkt) => outstanding s chan seq a.1 a.2
      post := fun s a t =>
        let d := BitVec.ofNat 64 (code.toNat + chan % 256 * 2 ^ 16 + seq.toNat * 2 ^ 32)
        ((s.group? a.2.gid).isSome = true → t = stopGroup s a.2.gid
          { cls := .guest, code := .guestf, cause := cause.toNat, team := a.2.team, lane := a.2.lane, lanes := a.2.lanes, pc := a.2.pc, addr := addr,
            detail := d } none none) ∧
        (s.group? a.2.gid = none → t = s.queueRec a.2.part
          { cls := .guest, code := .guestf, cause := cause.toNat, team := a.2.team, lane := a.2.lane, lanes := a.2.lanes, rid := a.2.rid, gseq := a.2.gseq,
            pc := a.2.pc, addr := addr, detail := d, time := s.ticks }) }
  | .gpack chan rid bytes seqs => some {
      pre := fun s (c : Chan) =>
        s.sock.trained = true ∧ s.sock.fenced = false ∧ s.chan? chan = some c ∧ (∃ d, (rid, d) ∈ c.gpre) ∧ (∀ d, (rid, d) ∈ c.gpre → s.ticks ≤ d) ∧
        bytes.length ≤ c.gsave ∧
        (∀ q ∈ seqs, ∃ p, c.pkts.find? (fun p => p.seq == q && p.fwd) = some p ∧ p.rid = rid)
      post := fun s c t =>
        let gone := (s.range? rid).all (·.killed)
        -- what was killed while its state was asked for is aborted (R407), what the guest has saved is kept with the range, and its bytes
        let dead := fun (p : GPkt) => p.rid == rid && p.fwd && (p.killed || gone)
        let u := (c.pkts.filter dead).foldl (fun s p => told (s.updChan chan (fun c => { c with
            pkts := upd (fun x => x.seq == p.seq) (fun x => { x with abortBy := some (s.ticks + 100000) }) c.pkts })) 9 [chan, p.seq.toNat] [])
          (s.updChan chan (fun c => { c with gpre := c.gpre.filter (fun x => x.1 != rid) }))
        let saved := c.pkts.filter (fun p => seqs.contains p.seq && !dead p)
        t = if gone then u
          else (u.updChan chan (fun c => { c with pkts := c.pkts.filter (fun p => !(seqs.contains p.seq) || dead p) })).updRange rid
            (fun r => { r with parkedPkts := r.parkedPkts ++ saved.map (fun p => (chan, { p with saved := true, fwd := false })),
                               parkedGuest := assocSet r.parkedGuest chan ((assoc r.parkedGuest chan).getD [] ++ bytes) }) }
  | .grack chan rid refused => some {
      pre := fun s (c : Chan) => s.sock.trained = true ∧ s.sock.fenced = false ∧ s.chan? chan = some c ∧ (∃ d, (rid, d) ∈ c.gres) ∧
        ∀ d, (rid, d) ∈ c.gres → s.ticks ≤ d
      post := fun s _ t =>
        let u := s.updChan chan (fun c => { c with gres := c.gres.filter (fun x => x.1 != rid) })
        (refused = false → t = u) ∧
        let onChans := (u.sock.chans.map (fun c => (c.pkts.filter (fun p => p.rid == rid && p.saved)).map (fun p => (c.num, p)))).flatten
        let parked := match u.range? rid with | some r => r.parkedPkts.filter (fun x => x.2.saved) | none => []
        (refused = true → t = settle ((parked ++ onChans).foldl (fun s x => completePkt s x.1 x.2 true)
          (u.updRange rid (fun r => { r with
            parkedPkts := r.parkedPkts.filter (fun x => !x.2.saved)
            parkedLocks := r.parkedLocks.filter (fun k => !(parked.any (fun x => k.gid == x.2.gid && k.op == .guest x.1 x.2.seq))) }))) rid) }
  | .guestAccess pa data size => some {
      pre := fun s (_ : Unit) => s.sock.trained = true ∧ s.sock.fenced = false ∧
        ∀ a ∈ pages4k pa.toNat (max (match data with | some b => b.length | none => size) 1), guestMay s a data.isSome = true
      post := fun s _ t => t = match data with
        | some b => (piecesOf pa.toNat b).foldl guestPut s
        | none =>
          let u := (piecesOf pa.toNat (List.replicate size 0)).foldl guestGet s
          { u with sock := { u.sock with reads := u.sock.reads ++ [(pa, some (u.paRead pa.toNat size))] } } }
  | .portFence why => some {
      pre := fun s (_ : Unit) => s.sock.trained = true ∧ s.sock.fenced = false ∧
        ((0xF0 ≤ why.toNat ∧ boundMissed s (why.toNat - 0xF0) = true) ∨ why.toNat = 0xEF ∨ why.toNat = 0xE2 ∨ (0xE4 ≤ why.toNat ∧ why.toNat ≤ 0xE8))
      post := fun s _ t => t = fencedOff s why.toNat }
  | .socketReset ident trained => some {
      pre := fun s (_ : Unit) => s.pkg.phase = 8 ∨ s.pkg.phase = 9
      post := fun s _ t =>
        let u := endGuest s
        t.sock = { u.sock with trained := trained, fenced := false, chans := [], grants := [], waitTcpl := [], lines := [] } ∧
        t = { u with sock := t.sock, pkg := { u.pkg with m3 := t.pkg.m3 } } ∧ t.pkg.m3 = extendM u.pkg.m3 ident }
  | .guestChannelConfigure chan depth gsave => some {
      pre := fun _ (_ : Unit) => chan < 256 ∧ (∃ k, 6 ≤ k ∧ k ≤ 12 ∧ depth = 2 ^ k) ∧ ∃ k, 1 ≤ k ∧ k ≤ 256 ∧ gsave = 65536 * k
      post := fun s _ t => t = { s with sock := { s.sock with chans := t.sock.chans } } ∧
        (∃ c, t.chan? chan = some c ∧ c.depth = depth ∧ c.gsave = gsave) ∧ ∀ i, i ≠ chan → t.chan? i = s.chan? i }
  | _ => none

/-! ## Reset, bring-up, keys and mailboxes (R411 to R419, R424, R437 to R440) -/

/-- The answer to a request of the bring-up mailbox (R439): status and result; the doorbell reads 0 again. -/
def answered (u t : State) (result : Nat) : Prop :=
  t = { u with pkg := { u.pkg with bursp := t.pkg.bursp, budb := 0 } } ∧ t.pkg.bursp.toList = leBytes 4 0 ++ leBytes 4 result ++ leBytes 8 0

/-- A request of this OP in a phase that takes it, with its other bytes zero. -/
def asked (s : State) (op lo hi : Nat) (l : List (Nat × Nat)) : Prop :=
  s.pkg.budb = 1 ∧ fld s.pkg.bureq.toList 0 1 = op ∧ lo ≤ s.pkg.phase ∧ s.pkg.phase ≤ hi ∧ onlyBytes s.pkg.bureq.toList l = true

def req (s : State) (off n : Nat) : Nat := fld s.pkg.bureq.toList off n

/-- Frames that a request may change now: none of the policy core's own, no grant reaches them, no sealed buffer is unsealed. -/
def free (s : State) (fs : List Nat) (e : W32) : Prop := (∀ i ∈ fs, i ∉ s.ownFrames) ∧ s.reaching fs = [] ∧ s.unseals fs e = false

/-- The frames become this entry, each with its ownership sync. -/
def given (s : State) (fs : List Nat) (e : W32) : State := fs.foldl (fun s i => fotWrite s i e) s

/-- A 32-bit entry of R349: OWNER, KEY, PL, RO, G. -/
def entry (owner key : Nat) (pl ro g : Bool) : W32 := BitVec.ofNat 32 (owner * 2 ^ 24 + key * 2 ^ 12 + pl.toNat * 2 ^ 9 + ro.toNat * 2 ^ 8 + g.toNat)

/-- A function's mailbox answers. -/
def boxAnswer (s : State) (fn : Nat) (status : Nat) (x : List Byte) : State :=
  s.setBox fn ((s.box fn).1, leBytes 8 status ++ x ++ List.replicate (56 - x.length) 0, 0)

/-- Reset and the boot ROM (R417, R418, R437). -/
def bootEvents : Instr → Option Event
  | .packageReset => some {
      pre := fun _ (_ : Unit) => True
      post := fun s _ t => t.pkg.phase = 2 ∧ t.pkg.grade = s.pkg.grade ∧ t.pkg.trip = s.pkg.trip ∧ t.pkg.minSvn = s.pkg.minSvn ∧ t.pkg.m0 = extendM 0 (leBytes 48 Config.romHash.toNat) ∧
        t.pkg.m1 = 0 ∧ t.pkg.m2 = 0 ∧ t.pkg.m3 = 0 ∧ t.pkg.keys = [(0, Config.randomKey s.pkg.draws)] ∧ t.pkg.cmap = Vector.replicate 4 0 ∧ t.groups = [] ∧ t.ranges = [] ∧
        t.fe = {} ∧ t.sock = {} ∧ t.eng = {} ∧ t.mem.llc = [] ∧ t.mem.cores = [] ∧ t.mem.phys = s.mem.phys }
  | .firmwareVerify image svn sig key => some {
      pre := fun s (_ : Unit) => s.pkg.phase = 2 ∧ svn = Config.imageSvn image
      post := fun s _ t =>
        let good := Config.sha384 (leBytes 96 key.toNat) = Config.fusedKeyHash ∧ Config.ecdsaOk key (Config.sha384 image) sig = true ∧ s.pkg.minSvn.toNat ≤ svn.toNat
        (good → t = { s with pkg := { s.pkg with phase := 3, svn := svn, m1 := extendM s.pkg.m1 (leBytes 48 (Config.sha384 image).toNat ++ leBytes 4 svn.toNat) } }) ∧
        (¬good → t = { s with pkg := { s.pkg with phase := 15 } }) }
  | .hbmTrained fotAt asidAt => some {
      pre := fun s (_ : Unit) => s.pkg.phase = 3
      post := fun s _ t => t = { s with mem := t.mem, pkg := { s.pkg with phase := 4 } } ∧ t.mem.fotAt = fotAt ∧ t.mem.asidAt = asidAt ∧ t.mem.poison = [] ∧
        (∀ a, a < 2 ^ 47 → t.mem.phys.read1 a = 0) ∧
        ∀ d o, t.fotEnt d o = if d * 2 ^ 22 + o / 65536 ∈ t.ownFrames then 0xFD000001 else 0xFD000000 }
  | _ => none

/-- The mailboxes (R419, R424, R439). -/
def mailboxEvents : Instr → Option Event
  | .grant => some {
      pre := fun s (_ : Unit) => asked s 1 4 9 [(1, 5), (8, 23)] ∧ (req s 2 1 = 0xFE ∨ req s 2 1 = 0xFF) ∧ req s 3 1 < 4 ∧ req s 4 2 < 4096 ∧
        rangeOk (req s 1 1) (req s 8 8) (req s 16 8) = true ∧ (∀ i ∈ framesOf (req s 1 1) (req s 8 8) (req s 16 8), i ∉ s.ownFrames) ∧
        (5 ≤ s.pkg.phase → free s (framesOf (req s 1 1) (req s 8 8) (req s 16 8)) (entry (req s 2 1) (req s 4 2) (bit (req s 3 1) 0) (bit (req s 3 1) 1) true))
      post := fun s _ t =>
        let fs := framesOf (req s 1 1) (req s 8 8) (req s 16 8)
        let e := entry (req s 2 1) (req s 4 2) (bit (req s 3 1) 0) (bit (req s 3 1) 1) true
        answered (if 5 ≤ s.pkg.phase then given s fs e else { s with mem := { s.mem with fot := fs.foldl (fun l i => assocSet l i e) s.mem.fot } }) t 0 }
  | .assign => some {
      pre := fun s (_ : Unit) =>
        let p := req s 1 1
        let off := req s 8 8
        let n := req s 16 8
        asked s 2 6 9 [(1, 1), (3, 5), (8, 23)] ∧ p < 64 ∧ req s 3 1 < 2 ∧ 0 < req s 4 2 ∧ req s 4 2 < 4096 ∧ s.keyFilled (req s 4 2) = true ∧
        rangeOk (p / 16) off n = true ∧ off / 2 ^ 34 = p % 16 ∧ (n ≠ 0 → (off + n - 1) / 2 ^ 34 = p % 16) ∧ s.carved p = true ∧
        free s (framesOf (p / 16) off n) (entry p (req s 4 2) (bit (req s 3 1) 0) false true)
      post := fun s _ t => answered (given s (framesOf (req s 1 1 / 16) (req s 8 8) (req s 16 8)) (entry (req s 1 1) (req s 4 2) (bit (req s 3 1) 0) false true)) t 0 }
  | .revoke => some {
      pre := fun s (_ : Unit) => asked s 3 5 9 [(1, 1), (8, 23)] ∧ rangeOk (req s 1 1) (req s 8 8) (req s 16 8) = true ∧
        free s (framesOf (req s 1 1) (req s 8 8) (req s 16 8)) (entry 0xFD 0 false false false)
      post := fun s _ t => answered (given s (framesOf (req s 1 1) (req s 8 8) (req s 16 8)) (entry 0xFD 0 false false false)) t 0 }
  | .fqtable => some {
      pre := fun s (_ : Unit) => asked s 4 4 4 [(8, 15)] ∧
        ∀ a ∈ pages4k (req s 8 8) 4160, ∃ d o, locOf a = .hbm d o ∧ d * 2 ^ 22 + o / 65536 ∉ s.ownFrames ∧ fotOwner (s.fotEnt d o) = 0xFF ∧ fotG (s.fotEnt d o) = true
      post := fun s _ t => answered { s with fq := { s.fq with table := some (req s 8 8) } } t 0 }
  | .clock => some {
      pre := fun s (_ : Unit) => asked s 5 4 4 [(1, 1)] ∧ req s 1 1 < 2
      post := fun s _ t => answered { s with pkg := { s.pkg with fixedClk := req s 1 1 == 1, mhz := if req s 1 1 = 1 then 700 else s.pkg.mhz } } t 0 }
  | .budget => some {
      pre := fun s (_ : Unit) => asked s 6 4 6 [(1, 3)] ∧ req s 1 1 < 64 ∧ 1 ≤ req s 2 2 ∧
        (((s.fe.parts.filter (fun x => x.num != req s 1 1)).map (·.budget)).sum + req s 2 2 ≤ 3600)
      post := fun s _ t => answered (s.updPart (req s 1 1) (fun x => { x with budget := req s 2 2 })) t 0 }
  | .asidset => some {
      pre := fun s (_ : Unit) => asked s 7 6 9 [(2, 3), (8, 44)] ∧ req s 2 2 < 4096 ∧ asidEntOk ((s.pkg.bureq.toList.drop 8).take 37) = true ∧
        ∀ q ∈ s.fe.queues, q.asid ≠ req s 2 2
      post := fun s _ t => ∃ u, answered u t 0 ∧ u = { s with mem := { s.mem with asids := u.mem.asids } } ∧
        u.asidEnt (req s 2 2) = { asid := req s 2 2, roots := Vector.ofFn (fun (d : Fin 4) => BitVec.ofNat 64 (req s (8 + 8 * d.val) 8)),
                                  parts := Vector.ofFn (fun (d : Fin 4) => BitVec.ofNat 8 (req s (40 + d.val) 1)), ctl := BitVec.ofNat 8 (req s 44 1) } ∧
        ∀ a, a ≠ req s 2 2 → u.asidEnt a = s.asidEnt a }
  | .cmap => some {
      pre := fun s (_ : Unit) => asked s 8 6 9 [(1, 1), (4, 7)] ∧ req s 1 1 < 4 ∧ req s 4 4 < 2 ^ 16 ∧
        ∀ i, i < 16 → (s.pkg.cmap.toList.getD (req s 1 1) 0).getLsbD i = true → (BitVec.ofNat 32 (req s 4 4)).getLsbD i = false →
          carveHolds s (16 * req s 1 1 + i) = false
      post := fun s _ t =>
        let d := req s 1 1
        let v := BitVec.ofNat 32 (req s 4 4)
        let new := (List.range 16).filter (fun i => v.getLsbD i && !(s.pkg.cmap.toList.getD d 0).getLsbD i)
        let old := (List.range 16).filter (fun i => (s.pkg.cmap.toList.getD d 0).getLsbD i && !v.getLsbD i)
        let u := old.foldl (fun s i => sparePart s (16 * d + i)) (new.foldl (fun s i => carvePart s (16 * d + i)) s)
        -- a write that names a partition the grade lacks is ignored (log entry 2)
        if ∀ i ∈ List.range 16, v.getLsbD i = true → i < s.pkg.grade.parts then
          answered (extendReg { u with pkg := { u.pkg with cmap := u.pkg.cmap.setIfInBounds d v } } 0 d (v.setWidth 64)) t 0
        else answered s t 0 }
  | .carve => some {
      pre := fun s (u : State) => asked s 9 6 6 [(1, 1), (4, 7)] ∧ req s 1 1 < 64 ∧ carveWrite s (req s 1 1) (BitVec.ofNat 32 (req s 4 4)) = .ok u
      post := fun s u t => answered (carveSettle (extendReg u 1 (req s 1 1) ((u.carve (req s 1 1) &&& 0xF7FFFFFF).setWidth 64)) (req s 1 1)) t 0 }
  | .policy => some {
      pre := fun s (_ : Unit) => asked s 10 6 6 [(1, 1), (8, 15)] ∧ req s 1 1 < 64 ∧ policyOk (BitVec.ofNat 64 (req s 8 8)) = true
      post := fun s _ t =>
        let w := BitVec.ofNat 64 (req s 8 8)
        answered (extendReg (s.updPart (req s 1 1) (fun x => { x with policy := w })) 2 (req s 1 1) w) t 0 }
  | .keyload => some {
      pre := fun s (_ : Unit) => asked s 11 6 9 [(1, 1), (4, 5), (8, 47)] ∧ 0 < req s 4 2 ∧ req s 4 2 < 4096 ∧ slotNamed s (req s 4 2) = false ∧
        ((req s 1 1 = 0 ∧ ∀ x ∈ (s.pkg.bureq.toList.drop 8).take 40, x = 0) ∨ (req s 1 1 = 1 ∧ (Config.unwrapKey ((s.pkg.bureq.toList.drop 8).take 40)).isSome = true))
      post := fun s _ t =>
        let k := req s 4 2
        let x := if req s 1 1 = 0 then Config.randomKey s.pkg.draws else (Config.unwrapKey ((s.pkg.bureq.toList.drop 8).take 40)).getD 0
        answered { s with pkg := { s.pkg with keys := s.pkg.keys.filter (fun y => y.1 != k) ++ [(k, x)], m2 := extendM s.pkg.m2 ([3] ++ leBytes 2 k),
                                              draws := s.pkg.draws + (if req s 1 1 = 0 then 1 else 0) } } t 0 }
  | .keydrop => some {
      pre := fun s (_ : Unit) => asked s 12 6 9 [(4, 5)] ∧ 0 < req s 4 2 ∧ req s 4 2 < 4096 ∧ slotNamed s (req s 4 2) = false
      post := fun s _ t => answered { s with pkg := { s.pkg with keys := s.pkg.keys.filter (fun y => y.1 != req s 4 2),
                                                                 m2 := extendM s.pkg.m2 ([3] ++ leBytes 2 (req s 4 2)) } } t 0 }
  | .vfbind => some {
      pre := fun s (_ : Unit) => asked s 13 6 9 [(1, 1), (8, 15)] ∧ 1 ≤ req s 1 1 ∧ req s 1 1 ≤ 63 ∧
        ∀ p, p < 64 → (BitVec.ofNat 64 (req s 8 8)).getLsbD p = true → s.carved p = true
      post := fun s _ t => answered { s with pkg := { s.pkg with vfs := assocSet s.pkg.vfs (req s 1 1) (BitVec.ofNat 64 (req s 8 8)) } } t 0 }
  | .advance stepDone ident => some {
      pre := fun s (_ : Unit) => stepDone = true ∧ asked s 14 4 8 []
      post := fun s _ t => ∃ u, answered u t (s.pkg.phase + 1) ∧ u.pkg.phase = s.pkg.phase + 1 ∧ u.pkg.fotOn = true ∧
        u.pkg.portsDown = (if s.pkg.phase = 6 then [] else s.pkg.portsDown) ∧
        (s.pkg.phase = 7 → u.sock.trained = ident.isSome ∧ u.sock.fenced = false ∧ u.sock.chans = [] ∧
          u.pkg.m3 = match ident with | some x => extendM s.pkg.m3 x | none => s.pkg.m3) ∧ (s.pkg.phase ≠ 7 → u.sock = s.sock ∧ u.pkg.m3 = s.pkg.m3) ∧
        u = { s with sock := u.sock, pkg := { s.pkg with phase := u.pkg.phase, fotOn := u.pkg.fotOn, portsDown := u.pkg.portsDown, m3 := u.pkg.m3 } } }
  | .count fn => some {
      pre := fun s (_ : Unit) => (s.box fn).2.2 = 1 ∧ fld (s.box fn).1 0 1 = 1 ∧ fld (s.box fn).1 1 1 < 16 ∧ zeros (s.box fn).1 2 63 = true
      post := fun s _ t =>
        let e := fld (s.box fn).1 1 1
        t = boxAnswer s fn 0 (leBytes 8 s.ticks ++ leBytes 8 (((s.fe.queues.filter (fun q => q.fn == fn)).map (fun q => q.accs.getD e 0)).sum)) }
  | .attest fn => some {
      pre := fun s (_ : Unit) => (s.box fn).2.2 = 1 ∧ fld (s.box fn).1 0 1 = 2 ∧ zeros (s.box fn).1 2 7 = true ∧ fld (s.box fn).1 1 1 < 64 ∧
        (fn = 0 ∨ ∃ m, assoc s.pkg.vfs fn = some m ∧ m.getLsbD (fld (s.box fn).1 1 1) = true)
      post := fun s _ t =>
        let b := (s.box fn).1
        t = boxAnswer (s.paWrite (2 ^ 47 + fld b 8 8 % 2 ^ 45) (reportBytes s (fld b 1 1) ((b.drop 16).take 48))) fn 0 [] }
  | _ => none

def bringUpEvents (i : Instr) : Option Event := (bootEvents i).or (mailboxEvents i)

/-! ## Registers, telemetry, power (R422 to R438) -/

/-- A write of TCTL (R422): its fields; TEN rising starts the trace, LEN rising the log. -/
def tctlSet (s : State) (p : Nat) (x : W64) : State :=
  let u := s.updPart p (fun y => { y with tctl := x &&& 0x1F0111 })
  let u := if x.getLsbD 0 && !(s.part p).tctl.getLsbD 0 then traceStart u p else u
  if x.getLsbD 4 && !(s.part p).tctl.getLsbD 4 then logStart u p else u

/-- Where a log may have room again, what waits for it goes on (R430). -/
def moved (s : State) : State := s.ranges.foldl (fun s r => settle s r.rid) s

/-- Where a register takes a write (R422, R424, R437 to R439): the telemetry blocks, the function mailboxes, the page requests and a new queue in
phase 9; the bring-up mailbox's doorbell, the import masks and the minimum SVN, which the policy core serves, in phases 3 to 9; the others
from phase 1 on. -/
def takes (s : State) (reg index : Nat) : Prop :=
  if reg < 32 ∨ reg = 37 then s.pkg.phase = 9 ∧ index < 64
  else if reg = 36 then s.pkg.phase = 9 ∧ index < 512
  else if reg = 39 ∨ reg = 41 then s.pkg.phase = 9
  else if reg = 35 ∨ reg = 38 ∨ reg = 40 then 3 ≤ s.pkg.phase ∧ s.pkg.phase ≤ 9
  else s.pkg.phase ≠ 0

/-- SINT is no reserved interval. -/
def intervalOk (x : W64) : Prop := let n := (x.extractLsb 20 16).toNat; n = 0 ∨ (8 ≤ n ∧ n ≤ 24)

def telemetryEvents : Instr → Option Event
  | .traceEnable part => some {
      pre := fun s (_ : Unit) => s.pkg.phase = 9 ∧ intervalOk ((s.part part).tctl ||| 1), post := fun s _ t => t = tctlSet s part ((s.part part).tctl ||| 1) }
  | .traceDisable part => some {
      pre := fun s (_ : Unit) => s.pkg.phase = 9 ∧ intervalOk ((s.part part).tctl &&& ~~~1), post := fun s _ t => t = tctlSet s part ((s.part part).tctl &&& ~~~1) }
  | .logEnable part => some {
      pre := fun s (_ : Unit) => s.pkg.phase = 9 ∧ intervalOk ((s.part part).tctl ||| 16), post := fun s _ t => t = tctlSet s part ((s.part part).tctl ||| 16) }
  | .registerWrite reg index value => some {
      pre := fun s (_ : Unit) => takes s reg index
      post := fun s _ t =>
        let m : W64 := 0x0000FFFFFFFFF03F
        match reg with
        | 0 => (intervalOk value → t = moved (tctlSet s index value)) ∧ (¬intervalOk value → t = s)
        | 1 => t = s.updPart index (fun y => { y with sbase := value &&& m })
        | 2 => t = s.updPart index (fun y => { y with tbase := value &&& m, ttail := {} })
        | 3 => t = moved (s.updPart index (fun y => { y with lbase := value &&& m, ltail := {} }))
        | 4 => t = s.updPart index (fun y => { y with scons := value })
        | 5 => t = s.updPart index (fun y => { y with tcons := value })
        | 6 => t = moved (s.updPart index (fun y => { y with lcons := value }))
        | 7 => t = s.updPart index (fun y => { y with rctl := value &&& 0x1FFFFFFFF })
        | 8 => t = s.updPart index (fun y => { y with rbase := value })
        | 9 => t = s.updPart index (fun y => { y with rlen := value })
        | 32 => t = { s with pkg := { s.pkg with trip := s.pkg.trip && !value.getLsbD 8 } }
        | 33 => t = { s with pkg := { s.pkg with eccc := value } }
        | 34 => (s.pkg.budb = 1 ∨ 8 ≤ index → t = s) ∧ (s.pkg.budb ≠ 1 → index < 8 → t = { s with pkg := { s.pkg with bureq := t.pkg.bureq } } ∧
            ∀ i, i < 64 → t.pkg.bureq.toList.getD i 0 = if i / 8 = index then value.extractLsb' (8 * (i % 8)) 8 else s.pkg.bureq.toList.getD i 0)
        | 35 =>
          if s.pkg.budb = 1 ∨ value.extractLsb 31 0 ≠ 1 then t = s
          else if 1 ≤ req s 0 1 ∧ req s 0 1 ≤ 14 then t = { s with pkg := { s.pkg with budb := 1 } }
          -- a reserved OP is answered with status 16
          else t = { s with pkg := { s.pkg with bursp := t.pkg.bursp, budb := 0 } } ∧ t.pkg.bursp.toList = leBytes 4 16 ++ leBytes 4 0 ++ leBytes 8 0
        | 36 =>
          -- the word index mod 8 of the request of function index / 8, unless its doorbell is set
          if (s.box (index / 8)).2.2 = 1 then t = s
          else t = s.setBox (index / 8) ((t.box (index / 8)).1, (s.box (index / 8)).2) ∧
            ∀ i, i < 64 → (t.box (index / 8)).1.getD i 0 =
              if i / 8 = index % 8 then value.extractLsb' (8 * (i % 8)) 8 else (s.box (index / 8)).1.getD i 0
        | 37 =>
          -- the doorbell of a function's mailbox: a 1 sends its request; a reserved OP is answered with status 16
          let b := s.box index
          let u := s.setBox index (b.1, b.2.1, 1)
          if b.2.2 = 1 ∨ value ≠ 1 then t = s
          else if fld b.1 0 1 = 1 ∨ fld b.1 0 1 = 2 then t = u
          else t = boxAnswer u index 16 []
        | 39 =>
          -- the policy core makes the queue index mod 1024 from the control block at this address of address space index / 1024
          match feRead s (feWho s (index / 1024) 0 none) none value.toNat 128 with
          | .error _ => t = s
          | .ok (b, u) =>
            let n := queueFrom (index % 1024) value (index / 1024) b
            t = if u.queue? (index % 1024) = none ∧ n.fieldsOk = true ∧ zeros b 32 127 = true ∧ u.carved n.owner = true ∧ (n.qflg.getLsbD 0 = true ∨ vfHas u n.owner = true)
              then { u with fe := { u.fe with queues := u.fe.queues ++ [{ n with fn := fnOf u n }] } } else u
        | 38 => t = { s with fe := { s.fe with imports := t.fe.imports } } ∧ ∀ x, x ∈ t.fe.imports ↔
            if x = (index / 512, index % 512) then value.getLsbD 0 = true else x ∈ s.fe.imports
        | 42 => (8 ≤ index → t = s) ∧ (index < 8 → t = { s with pkg := { s.pkg with ide := t.pkg.ide } } ∧
            ∀ i, assoc t.pkg.ide i = if i = index then some value else assoc s.pkg.ide i)
        | 40 => t = { s with pkg := { s.pkg with minSvn := if s.pkg.minSvn.toNat ≤ s.pkg.svn.toNat then s.pkg.svn else s.pkg.minSvn } }
        | 41 => t = match (s.part index).preq with
            | [] => s
            | q :: l =>
              let rec_ := leBytes 8 q.va ++ leBytes 2 q.asid ++ leBytes 1 q.die ++ leBytes 1 q.part ++ leBytes 4 q.count.toNat
              s.updPart index (fun y => { y with preq := l, preqRead := rec_ })
        | n => t = if 16 ≤ n ∧ n < 32 then s.updPart index (fun y => { y with cnt := y.cnt.setIfInBounds (n - 16) value }) else s }
  | .sampleRecord core => some {
      pre := fun s (x : Sample) => (coreAt s core).sampleDue.find? (sampleOver s (coreAt s core)) = some x
      post := fun s x t => t = samplePut (s.updCore (coreDie core) (coreNum core) (fun c => { c with sampleDue := c.sampleDue.erase x }))
        (corePart core) (x.record s.clk) }
  | .traceSync part => some {
      pre := fun s (_ : Unit) => (s.part part).tctl.getLsbD 0 = true ∧ 4096 ≤ (s.part part).tsince ∧ (s.part part).tdrop = 0
      post := fun s _ t =>
        let b := leBytes 8 s.ticks ++ leBytes 4 (s.part part).tsync ++ leBytes 3 0 ++ leBytes 1 1 ++ List.replicate 16 0xA5
        t = (tracePut s part b).updPart part (fun p => { p with tsince := 0 }) }
  | .traceLostRecovery part => some {
      pre := fun s (a : Nat × Nat) => (s.part part).tctl.getLsbD 0 = true ∧ 0 < (s.part part).tdrop ∧ ringOf (s.part part).tbase = some a ∧
        ((s.part part).tprod - (s.part part).tcons).toNat + 64 ≤ a.2
      post := fun s _ t =>
        let b := leBytes 8 s.ticks ++ leBytes 4 (s.part part).tdrop ++ leBytes 3 0 ++ leBytes 1 6 ++ List.replicate 16 0
        t = traceSyncNow ((tracePut s part b).updPart part (fun p => { p with tdrop := 0 })) part }
  | .powerWindow watts amps overs => some {
      pre := fun _ (_ : Unit) => True
      post := fun s _ t =>
        let f := s.pkg.mhz
        let f := if 3600 < watts ∨ 7500 < amps then max 350 (f - 25) else if watts < 3420 ∧ amps < 7125 then min 700 (f + 25) else f
        (s.pkg.fixedClk = false → t = { s with pkg := { s.pkg with mhz := f } }) ∧
        -- which partitions are over is the row's; what they measure beside that is a free value
        (s.pkg.fixedClk = true →
          t = { s with fe := { s.fe with parts := t.fe.parts }, pkg := { s.pkg with fresh := t.pkg.fresh } } ∧
          (∀ p, s.carved p = true → (t.part p).withheld = decide (p ∈ overs) ∧ (t.part p).withheld = decide ((s.part p).budget < (t.part p).power) ∧
            s.part p = { t.part p with power := (s.part p).power, withheld := (s.part p).withheld }) ∧
          ∀ p, s.carved p = false → t.part p = s.part p) }
  | .thermalThrottle die => some {
      pre := fun s (_ : Unit) => die < 4 ∧ die ∉ s.pkg.hot
      post := fun s _ t => t = { s with pkg := { s.pkg with hot := s.pkg.hot ++ [die] } } ∧ t.coreRate = s.pkg.mhz }
  | .temperatureBelow95c die => some {
      pre := fun _ (_ : Unit) => True
      post := fun s _ t => t = { s with pkg := { s.pkg with hot := s.pkg.hot.filter (· != die) } } ∧ ((∀ d ∈ s.pkg.hot, d = die) → t.coreRate = 2 * s.pkg.mhz) }
  | .thermalTrip => some {
      pre := fun _ (_ : Unit) => True
      post := fun s _ t => t = { s with pkg := { s.pkg with railsOff := true, trip := true } } ∧ ∀ g b, canIssue t g b = false }
  | .coreSelftestFail die core => some {
      pre := fun s (_ : Unit) => die < 4 ∧ core < s.pkg.grade.cores
      post := fun s _ t => (t.core die core).failed = true ∧ ((t.pkg.fcore.toList.getD die 0).getLsbD core = true) ∧
        (∀ d n, (d, n) ≠ (die, core) → (t.core d n).failed = (s.core d n).failed) ∧
        ∀ g ∈ s.groups, g.die = die → g.core = core → ∃ g', t.group? g.id = some g' ∧ g'.stop.isSome = true }
  | _ => none

/-! ## What every instruction names -/

/-- The registers, the class and the issue rules of an instruction, as its own statement gives them. -/
def specOf (i : Instr) : Option Spec :=
  (((arithmetic i).or <| (bitwise i).or <| (comparison i).or <| (moves i).or <| (scalars i).or <| (systemReads i).or <|
    (floats i).or <| (conversions i).or <| (shorts i).or (masks i)).map (·.spec)).or <|
  (((lates i).or <| (atomics i).or (waiters i)).map (·.spec)).or <|
  (((storing i).or <| (reductions i).or (effects i)).map (·.spec)).or <|
  (((teams i).or (debugging i)).map (·.spec)).or <|
  ((jumps i).map (·.spec)).or <|
  ((stays i).map (·.spec)).or <|
  match i with
  | .dstep o => some { g := o.g, rd := [.s (s5 o.a)], priv := true }
  | .dmboxRecv o => some { g := o.g, rd := [.s (s5 o.a)], priv := true }
  | _ => none

/-- What an instruction has met before its tokens and its run are looked at. -/
structure Begins (p : Spec) (s : State) (c0 : Ctx) (x : State) (c : Ctx) : Prop where
  issues : s.ctx = some c0
  window : ∀ r ∈ named p, ∀ n ∈ r.vs, n.toNat < c0.r.h
  mode : p.priv = true → c0.r.debug = true
  ended : (p.ends || p.coll) = true → c0.g.canEnd c0.b.id = true ∧ c0.b.dfault = none
  acts : x = begun s p c0
  ctx : x.ctx.map (fun y => y.at_ p.g) = some c
  whole : p.coll = true → c.b.ts.length = (c.g.liveTeam (teamOf (c.b.ts.headD 0))).length ∧
    ∀ t ∈ c.b.ts, teamOf t = teamOf (c.b.ts.headD 0)
  arm : ∀ a, p.arm = some a → c.armedAt p.g a.1 = none

/-- A team that the instruction still acts for has the scalar pending as a token. -/
def Pending (p : Spec) (c : Ctx) (n : BitVec 5) : Prop := ∃ t ∈ c.teams p.g, t ∉ c.b.part ∧ n ∈ (c.g.team t).pend

/-! ## Taking an exception (R376, R377, R381) -/

/-- The record of a precise fault (R378): its first lane, its lanes, its instruction. -/
def preciseRec (c : Ctx) (code : Code) (cause level : Nat) (addr detail : W64) (t : Nat) (ts : List Nat) : FRec where
  cls := .precise
  code := code
  cause := cause
  level := level
  team := t / 32
  lane := t % 32
  lanes := lanesMask ts
  pc := c.c.pc
  addr := addr
  detail := detail

/-- The record of a run's data fault (R154): PC is the faulting instruction, PC2 the one that ended the run. -/
def dataRec (g : Group) (d : DFault) (pc2 : W64) : FRec where
  cls := .runPrecise
  code := d.code
  nmore := d.nmore
  cause := d.cause
  level := d.level
  team := d.team
  lane := d.lane
  rid := g.rid
  lanes := d.lanes
  gseq := g.gseq
  pc := d.pc
  pc2 := pc2
  addr := d.addr
  time := d.time
  gid := some g.id

/-- The source of a stop's record (R7): the bundle that met it, or the lane it names. -/
def stopSrc (g : Group) (f : FRec) (bid : Option Nat) : Nat :=
  match bid.bind (fun b => g.bundle? b) with
  | some b => b.src g
  | none => g.src f.lane

/-- A record with what its stop adds: TIME is that of detection for a data fault (R378), that of the stop for another. -/
def recorded (s : State) (g : Group) (f : FRec) (bid : Option Nat) : FRec :=
  { f with time := if f.cls = .runPrecise then f.time else s.ticks, src := some (stopSrc g f bid), gid := some g.id, rid := g.rid, gseq := g.gseq }

/-- A group that a fault stops: the bundles stay where they stand with their complete results returned, and those of an ATOM's lanes that
have acted (R254), what stood outstanding in each
run stays named, and nothing else changes. The primary record goes out first, then those it displaced, then the data faults of the bundles
that are not `told` already, as secondary ones. Where a bundle stops for its data fault, its run has ended (`closed`). -/
structure Stopped (s u : State) (g : Group) (f : FRec) (bid : Option Nat) (skipPc : Option W64) (displaced : List FRec) (told : List Nat)
    (closed : Bundle → Bool) : Prop where
  group : ∃ g', u.group? g.id = some g' ∧ g'.stop = some { frec := f, bid := bid, skipPc := skipPc } ∧
    { g' with bundles := [], stop := none } =
      { g.bundles.foldl (fun y b => ((b.outst.filter (Outst.complete g)).foldl Group.giveBack y).writeVs b.received) g with bundles := [], stop := none } ∧
    g'.bundles = g.bundles.map (fun b =>
      { b with haz := if closed b then [] else b.hazEnts, outst := b.outst.filter (fun o => !(Outst.complete g o)),
               byp := if closed b then [] else bypWithout (b.outst.filter (Outst.complete g)) b.byp, runEnded := closed b || b.runEnded,
               dfault := none, dall := [] })
  records : u.fq.pending = s.fq.pending ++ (f :: (displaced ++ (g.bundles.filter (fun b => !told.contains b.id)).filterMap (fun b =>
    b.dfault.map (fun d => { dataRec g d b.lastPc with second := true, src := some (b.src g) })))).map (fun x => (g.part, x))
  others : ∀ i, i ≠ g.id → u.group? i = s.group? i
  parts : ∀ n, { u.part n with events := (s.part n).events } = s.part n
  rest : u = { s with groups := u.groups, fq := { s.fq with pending := u.fq.pending }, fe := { s.fe with parts := u.fe.parts } }

/-! ## Memory a core sees -/

/-- The byte of a list of offsets and bytes that stands last. -/
def lastAt (bs : List (Nat × Byte)) (o : Nat) : Option Byte := (bs.reverse.find? (fun y => y.1 == o)).map (·.2)

/-- A stored byte of a core that has not reached its sector: in the buffer, or in the last request on its way. -/
def onItsWay (s : State) (die core asid a : Nat) : Option Byte :=
  ((((s.core die core).wcb.filter (fun e => e.asid == asid && e.va == sectorOf a)).getLast?).bind (fun e => lastAt e.bytes (a % 128))).or
    ((s.mem.slice.filter (fun r => r.die == die && r.core == core && r.asid == asid && r.va == sectorOf a)).reverse.findSome? (fun r =>
      match r.op with
      | .write bs => lastAt bs (a % 128)
      | .red _ => none))

/-- One entry a sector in the core's buffer, with one byte an offset (R83). -/
def OneEntry (s : State) (die core : Nat) : Prop :=
  ((s.core die core).wcb.map (fun e => (e.asid, e.va))).Nodup ∧ ∀ e ∈ (s.core die core).wcb, (e.bytes.map (·.1)).Nodup

/-- A store that waits in the buffer: RC or UO, no release, inside one sector, to memory of the package. -/
structure Buffers (s : State) (w : Who) (va : Nat) (bs : List Byte) (t : State) : Prop where
  kind : kindOf va ≠ 1
  inside : bs ≠ [] ∧ va % 128 + bs.length ≤ 128
  here : ∃ y, peerPa s w va true = .ok (none, y)
  done : storeGlobal s w va bs false = .ok t
  entries : OneEntry s w.die w.core

/-- The same machine with another LLC. -/
def withLlc (l : List Sector) (s : State) : State := s.updMem (fun m => { m with llc := l })
/-- A walk's answer, its state changed. -/
def walkMap (f : State → State) : Walk → Walk
  | .ok t s => .ok t (f s)
  | .bad e => .bad e

/-- MSET and MLOG: guard, marker, mask, value by team (R174, R175). -/
def maskWrites : Instr → Option (BitVec 3 × Bool × BitVec 4 × (Ctx → Nat → W32))
  | .mset o => some (o.g, o.m, m4 o.d, fun _ _ => immBW o.i o.p)
  | .mlog o => some (o.g, o.m, m4 o.d, fun c t => mlog (mlogOp o) ((c.g.team t).getM (m4 o.a)) ((c.g.team t).getM (m4 o.b)))
  | _ => none

end Sys2Proof.Rules

open Sys2Proof Sys2Proof.Machine Sys2Proof.Safety Sys2Proof.Rules

/-- R187, R185, R186: the arithmetic lane functions, with their frame. -/
def Obligations.IntegerArithmeticCompletes : Prop := Rule.Holds arithmetic

/-- R187, R188, R189, R191: logic, shifts, bit fields, sign extension and selection, with their frame. -/
def Obligations.BitwiseCompletes : Prop := Rule.Holds bitwise

/-- R190, R195, R204: a comparison writes one predicate and nothing else. -/
def Obligations.ComparisonCompletes : Prop := Rule.Holds comparison

/-- R192, R193: moves, LEA and IADD64. -/
def Obligations.MoveCompletes : Prop := Rule.Holds moves

/-- R194 to R196: scalars are written once for each team with an active lane. -/
def Obligations.ScalarCompletes : Prop := Rule.Holds scalars

/-- R197, R198, R289: system registers, the timestamp and the clk count. -/
def Obligations.SystemReadCompletes : Prop := Rule.Holds systemReads

/-- R202, R203, R205: one rounding of the exact result; for FEX2 and FLG2 the last bit is the model's (log entry 14). -/
def Obligations.FloatCompletes : Prop := Rule.Holds floats

/-- R206 to R208, R212: conversions and dot products. -/
def Obligations.ConversionCompletes : Prop := Rule.Holds conversions

/-- R163: the sixteen-bit forms. -/
def Obligations.ShortFormCompletes : Prop := Rule.Holds shorts

/-- R173 to R177, R209 to R211: masks, ballots, PACK and UNPACK. -/
def Obligations.MaskAndSlotCompletes : Prop := Rule.Holds masks

/-- R213 to R215, R220 to R225: loads and exchanges are outstanding with the value their rule gives; that a load takes its value as it
issues is the model's choice (log entry 97). -/
def Obligations.LoadCompletes : Prop := Lag.Holds lates

/-- R218, R220 to R229, R105: stores, stream images, hints and FENCE write no register. -/
def Obligations.StoreCompletes : Prop := Act.Holds storing

/-- R240 to R243: atomics are outstanding with the word's earlier value. -/
def Obligations.AtomicCompletes : Prop := Lag.Holds atomics

/-- R245 to R247: reductions and bank operations write no register. -/
def Obligations.ReductionCompletes : Prop := Act.Holds reductions

/-- R230, R232, R234, R236, R248, R250, R252, R253, R260, R268, R270, R287: what each team with an active lane does, where each may act
as the instruction begins and in its turn (log entry 131 says what else may happen). -/
def Obligations.TeamOperationCompletes : Prop := ByTeam.Holds teams

/-- R292, R293, R295 to R298: the debug instructions. The status for a team or lane that the group lacks, the order of groups and the
groups still to come are the model's (log entries 77, 44, 132). -/
def Obligations.DebugCompletes : Prop := ByTeam.Holds debugging

/-- R235, R251, R269, R277: results that wait for an entry, a slot, a segment or a triple. -/
def Obligations.WaitingResultCompletes : Prop := Lag.Holds waiters

/-- R167 to R171, R178, R180, R182, R291: where the threads of a bundle go; the order in which REFORM files is the model's (log entry 99). -/
def Obligations.ControlCompletes : Prop := Jump.Holds jumps

/-- R57, R172, R179, R181, R249, R253, R281, R288: the threads wait at the instruction. -/
def Obligations.WaitCompletes : Prop := Stay.Holds stays

/-- R58, R249, R253, R278, R280, R284, R288, R290: instructions that write no register. -/
def Obligations.EffectCompletes : Prop := Act.Holds effects

/-- R294: the bundle waits for the steps it asked for, and goes on at once where it asked for none; the status for a thread that the group
lacks is the model's (log entry 77). -/
def Obligations.DebugStepCompletes : Prop :=
  ∀ o s c0 x c, Ready { g := o.g, rd := [.s (s5 o.a)], priv := true } s c0 x c →
    ∀ z, chain (stepAsked o c) ((c.teams o.g).filter (fun t => !(c.b.part.contains t))) x = some z →
      exec (.dstep o) s = .next (if z.dsteps.any (fun d => d.gid == c.g.id && d.bid == c.b.id) then park z c o.m false c.b.ts .dstep
        else settle (noResult z c o.m) c.g.rid)

/-- R298: the bundle waits with its blocks, and mail that is there is served. -/
def Obligations.MailReceiveCompletes : Prop :=
  ∀ o s c0 x c, Ready { g := o.g, rd := [.s (s5 o.a)], priv := true } s c0 x c →
    ∀ z, chain (mailAsked o c) ((c.teams o.g).filter (fun t => !(c.b.part.contains t))) x = some z → mailOf z c ≠ [] →
      exec (.dmboxRecv o) s = .next (serveRecvs (park z c o.m false c.b.ts (.recv (mailOf z c))))

/-- R81 to R87, R94, R107, R143, R144: what the memory side does of itself. Whose LEASE a fill takes, that it takes up the core's own
waiting bytes, when it may come, and the time of a tree sum are the model's (log entries 95, 7, 80, 122). -/
def Obligations.MemoryEventsComplete : Prop := Event.Holds memoryEvents

/-- R25, R27, R30, R31, R38, R44, R45, R62, R149: groups come, go, and take their results. Registers at dispatch and the SIG of a killed
range are the model's (log entries 4, 57). -/
def Obligations.GroupEventsComplete : Prop := Event.Holds groupEvents

/-- R97, R102, R230 to R232, R234, R260 to R263, R268, R270: the engines. On which die a fix-up slot stands is the model's (log entry 42). -/
def Obligations.EngineEventsComplete : Prop := Event.Holds engineEvents

/-- R71, R281 to R286: aging of entries, level boundaries and their choice of mode, the Sluices. When a held combine comes is the model's
(log entry 147). -/
def Obligations.EdgeEventsComplete : Prop := Event.Holds edgeEvents

/-- R295, R296, R381 to R389: halts, fault queues, dispositions, pre-emption. Whether the save pool has room is free (log entry 22); a saved
area's bytes and length (log entry 13), that no class 6 record is posted where every bundle has stopped by itself (log entry 134), and where
the image of a range asked for twice goes (log entry 129) are the model's choices. -/
def Obligations.FaultEventsComplete : Prop := Event.Holds faultEvents

/-- R360 to R370: the front end and its packets. The bytes that extend M2, the layout of a saved area and of an export, and what those
of another device hold are the model's or free (log entries 23, 13, 63). -/
def Obligations.FrontEndEventsComplete : Prop := Event.Holds frontEndEvents

/-- R334, R350, R371 to R373, R396 to R409: links, the host, the guest. The bytes that extend M4, the TCPL a TINVACK answers, the packets
of a resumed range, a peer's answers, a buffer's address and what the guest keeps are the model's or free (log entries 23, 59, 58, 113 to
115). -/
def Obligations.LinkEventsComplete : Prop := Event.Holds linkEvents

/-- R411 to R419, R437 to R440: reset, bring-up, keys, mailboxes. The bytes hashed, what a reset keeps, a drawn key and the image's SVN are
the model's or free (log entries 23, 86, 10, 116). -/
def Obligations.BringUpEventsComplete : Prop := Event.Holds bringUpEvents

/-- R422 to R436: registers, telemetry, power, temperature, self-test. The registers' numbers, the power window's cap and time, what a
partition measures and some fields of a sample are the model's or free (log entries 24, 87, 118, 12). -/
def Obligations.TelemetryEventsComplete : Prop := Event.Holds telemetryEvents

/-! ## Where instructions trap -/

/-- R315, R165: an instruction that names a v register at or above the window raises ILLOP precisely, whatever its guards. -/
def Obligations.WindowTraps : Prop :=
  ∀ i p, specOf i = some p → ∀ s c, s.ctx = some c → (∃ r ∈ named p, ∃ n ∈ r.vs, c.r.h ≤ n.toNat) →
    exec i s = .next (precise s c .illop 0 0 0 c.c.words (c.active p.g))

/-- R165, R272: a debug instruction outside a debug range raises ILLPRIV, after the ILLOP checks. -/
def Obligations.PrivilegeTraps : Prop :=
  ∀ i p, specOf i = some p → p.priv = true → ∀ s c, s.ctx = some c → (∀ r ∈ named p, ∀ n ∈ r.vs, n.toNat < c.r.h) →
    c.r.debug = false → exec i s = .next (precise s c .illpriv 0 0 0 c.c.words (c.active p.g))

/-- R151: an instruction that names an outstanding register of its run raises RUNHAZ; the record's DETAIL is that of such a
register (R379). -/
def Obligations.HazardTraps : Prop :=
  ∀ i p, specOf i = some p → ∀ s c0 x c, Begins p s c0 x c → (∀ n, RegRef.s n ∈ p.rd ++ p.wr → ¬ Pending p c n) →
    (∃ r ∈ named p, ∃ h ∈ c.b.hazards, r.meets h = true) →
    ∃ r ∈ named p, (∃ h ∈ c.b.hazards, r.meets h = true) ∧
      exec i s = .next (precise x c .runhaz 0 0 0 (BitVec.ofNat 64 r.detail) (c.active p.g))

/-- R95: reading a pending token stalls the bundle at the instruction; writing one raises RUNHAZ precisely. -/
def Obligations.TokenRules : Prop :=
  ∀ i p, specOf i = some p → ∀ s c0 x c, Begins p s c0 x c →
    ((∃ n, RegRef.s n ∈ p.rd ∧ Pending p c n) →
      exec i s = .next (x.updBundle c.g.id c.b.id (fun b => { b with st := .stalled }))) ∧
    ((∀ n, RegRef.s n ∈ p.rd → ¬ Pending p c n) → (∃ n, RegRef.s n ∈ p.wr ∧ Pending p c n) →
      ∃ n, RegRef.s n ∈ p.wr ∧ Pending p c n ∧
        exec i s = .next (precise x c .runhaz 0 0 0 (BitVec.ofNat 64 (n.toNat + 256)) (c.active p.g)))

/-- R170: a target of BRX or RET with bit 0 set raises ALIGN precisely and no lane moves. -/
def Obligations.OddTargetTraps : Prop :=
  ∀ i o, i = .brx o ∨ i = .ret o → ∀ s c0 x c, Ready { g := o.g, rd := [.pair o.a] } s c0 x c →
    ∀ t bad, (c.active o.g).filter (fun t => (c.pair t o.a).getLsbD 0) = t :: bad →
    exec i s = .next (precise x c .align 0 0 (c.pair t o.a) 0 (t :: bad))

/-- R64: GBAR outside a cooperative range raises GBARNC at its first active lane; with no active lane it does nothing. -/
def Obligations.GbarOutsideCooperative : Prop :=
  ∀ o s c0 x c, Ready { g := o.g, ends := true } s c0 x c → c.r.img.rrec.coop = false →
    c.b.ts.Pairwise (fun a b => laneOf a < laneOf b) →
    (c.active o.g ≠ [] → ∃ t ∈ c.active o.g, (∀ k ∈ c.active o.g, laneOf t ≤ laneOf k) ∧
      exec (.gbar o) s = .next (stopGroup x c.g.id (preciseRec c .gbarnc 0 0 0 0 t (c.active o.g)) (some c.b.id) (some c.next))) ∧
    (c.active o.g = [] → ∃ u, exec (.gbar o) s = .next u ∧ Went x u c true (fun g => g) (fun _ => c.next))

/-- R59: MSET or MLOG of an armed mask raises MASKMIS precisely and the mask keeps its value; otherwise it takes effect at once. The
values in DETAIL are the model's (log entry 28). -/
def Obligations.ArmedMaskKeeps : Prop :=
  ∀ i g m k val, maskWrites i = some (g, m, k, val) → ∀ s c0 x c, Ready { g := g } s c0 x c →
    ((∃ t ∈ c.teams g, ∃ a ∈ (c.g.team t).joins ++ (c.g.team t).waits, a.mask = k) →
      ∃ t ∈ c.teams g, ∃ a ∈ (c.g.team t).joins ++ (c.g.team t).waits, a.mask = k ∧ ∃ u, exec i s = .next u ∧
        u = precise x c .maskmis k.toNat 0 0 ((val c t &&& c.g.liveMask t) ++ a.val) ((c.active g).filter (fun l => teamOf l == t)) ∧
        ∀ y y', x.group? c.g.id = some y → u.group? c.g.id = some y' → ∀ n, (y'.team n).m = (y.team n).m) ∧
    ((∀ t ∈ c.teams g, ∀ a ∈ (c.g.team t).joins ++ (c.g.team t).waits, a.mask ≠ k) →
      ∃ u, exec i s = .next (marked m u c) ∧ Fixed x u c [] (fun _ th => th)
        (fun t tm => if (c.teams g).contains t then tm.setM k (val c t &&& c.g.liveMask t) else tm))

/-! ## Exceptions -/

/-- R376, R377, R378, R381, R390: a fault stops its group. Of data faults detected at one time that of the lowest source is the primary one
(R7), whichever bundle ended its run first; PC2 of a record of another bundle is its last PC (log entry 27). -/
def Obligations.FaultStopsGroup : Prop :=
  ∀ (s : State) (g : Group) (f : FRec) bid skipPc, s.group? g.id = some g → g.stop = none → (g.bundles.map (·.id)).Nodup →
    let full := recorded s g f bid
    let closed := fun (b : Bundle) => b.dfault.isSome && (some b.id != bid || f.cls == .runPrecise && f.code2 == 0)
    let met := fun (b : Bundle) (d : DFault) => b ∈ g.bundles ∧ some b.id ≠ bid ∧ b.dfault = some d ∧ d.time = f.time ∧ f.cls = .runPrecise
    let u := stopGroup s g.id f bid skipPc
    ((∀ b d, met b d → stopSrc g f bid ≤ b.src g) → Stopped s u g full bid skipPc [] bid.toList closed) ∧
    (∀ b d, met b d → b.src g < stopSrc g f bid → (∀ b' d', met b' d' → b' ≠ b → b.src g < b'.src g) →
      Stopped s u g { dataRec g d b.lastPc with src := some (b.src g) } (some b.id) none [{ full with second := true }] (b.id :: bid.toList) closed)

/-- A fault that meets a stopped group changes nothing of it and leaves a secondary record (log entry 15). -/
def Obligations.StoppedGroupRecordsSecondary : Prop :=
  ∀ (s : State) (g : Group) (f : FRec) bid skipPc, s.group? g.id = some g → g.stop ≠ none →
    stopGroup s g.id f bid skipPc = { s with fq := { s.fq with pending := s.fq.pending ++ [(g.part, { recorded s g f bid with second := true })] } }

/-- R147, R154, R379: a precise fault is taken as the group's primary record, behind the run's data fault where one is pending. -/
def Obligations.PreciseFaultRecord : Prop :=
  ∀ s c code cause level addr detail t ts,
    precise s c code cause level addr detail (t :: ts) = match c.b.dfault with
      | none => stopGroup s c.g.id (preciseRec c code cause level addr detail t (t :: ts)) (some c.b.id)
          (some (c.c.pc + BitVec.ofNat 64 c.c.len))
      | some d => stopGroup s c.g.id { dataRec c.g d c.c.pc with code2 := code.num } (some c.b.id) none

/-! ## Bundles and barriers -/

/-- R41: behind an instruction each thread is in a bundle of the threads that go where it goes, in their order; every other
bundle stays. -/
def Obligations.BundlesSplitByPc : Prop :=
  ∀ (g : Group) (c : Ctx) done byp age next b, g.bundle? c.b.id = some b → (∀ y ∈ g.bundles, y.id < g.nextB) → (g.bundles.map (·.id)).Nodup → b.ts ≠ [] →
    (∀ t ∈ b.ts, ∃ y ∈ (g.passed c done byp age next).bundles, y.pc = next t ∧ y.ts = b.ts.filter (fun u => next u == next t)) ∧
    (∀ i, i ≠ c.b.id → i < g.nextB → (g.passed c done byp age next).bundle? i = g.bundle? i) ∧
    (g.passed c done byp age next).bundles.length + 1 = g.bundles.length + ((b.ts.map next).eraseDups).length

/-- R52: when as many threads wait at BAR as live, the phase count rises and every waiting bundle goes on behind its BAR; until then
nothing happens. -/
def Obligations.BarrierPhaseCompletes : Prop :=
  ∀ (s : State) (g : Group), s.group? g.id = some g → (g.bundles.map (·.id)).Nodup → (∀ b ∈ g.bundles, b.st = .bar → b.nm = false) →
    let n := ((g.bundles.filter (fun b => b.st == .bar)).map (fun b => b.ts.length)).sum
    (n ≠ 0 → n = g.live.length →
      (barDone s g.id).group? g.id = some { g with
        barph := BitVec.ofNat 32 (g.barph.toNat + 1)
        barAt := s.clk + 1
        bundles := g.bundles.map (fun b => if b.st == .bar then { b with st := .ready, pc := b.npc, age := 0 } else b) } ∧
      (∀ i, i ≠ g.id → (barDone s g.id).group? i = s.group? i) ∧ barDone s g.id = { s with groups := (barDone s g.id).groups }) ∧
    (n = 0 ∨ n ≠ g.live.length → barDone s g.id = s)

/-! ## Memory -/

/-- R83: a core's load of bytes it has stored answers them, though they have not left its buffer. -/
def Obligations.CoreSeesItsStore : Prop :=
  ∀ s w va bs t, Buffers s w va bs t → ∃ u, loadGlobal t w va bs.length false = .ok (bs, u)

/-- R83: of the bytes on their way to memory a buffered store changes those it stores, in its own core; no sector of the LLC leaves it
unless the stored sector comes in (R87). Where the guest holds no byte it has written, whose return a store brings about first (R405), no
sector changes, and L1 lines change in the stored bytes alone. -/
def Obligations.StoreChangesItsBytes : Prop :=
  ∀ s w va bs t, Buffers s w va bs t →
    (∀ i, i < bs.length → onItsWay t w.die w.core w.asid (va + i) = bs[i]?) ∧
    (∀ die core asid a, ¬ (die = w.die ∧ core = w.core ∧ asid = w.asid ∧ va ≤ a ∧ a < va + bs.length) →
      onItsWay t die core asid a = onItsWay s die core asid a) ∧
    (s.sector? w.asid va ≠ none → ∀ asid a, t.sector? asid a = none → s.sector? asid a = none) ∧
    ((∀ l ∈ s.sock.lines, l.bytes = []) →
      (∀ asid a y, ¬ (asid = w.asid ∧ sectorOf a = sectorOf va ∧ s.sector? asid a = none) → t.sector? asid a = some y →
        ∃ x, s.sector? asid a = some x ∧ y.data = x.data ∧ y.wts = x.wts ∧ y.rts = x.rts) ∧
      ∀ die core, (t.core die core).l1 = ((s.core die core).l1).map (fun l =>
        if die = w.die ∧ core = w.core ∧ l.asid = w.asid ∧ l.va = sectorOf va then { l with data := Sec.put l.data (offs (va % 128) bs) } else l)) ∧
    (∀ i, (t.group? i).map (fun g => (g.threads, g.teams, g.scratch)) = (s.group? i).map (fun g => (g.threads, g.teams, g.scratch)))

/-- R223, R5: a write of scratch is read back, no other byte of any scratch changes, and scratch keeps its form. -/
def Obligations.ScratchStoreChangesItsBytes : Prop :=
  ∀ (s : State) (g : Group) off bs, s.group? g.id = some g → g.scratch.wf = true →
    ∃ g', (s.scrWrite g.id off bs).group? g.id = some g' ∧ g'.scratch.wf = true ∧ g'.scr off bs.length = bs ∧
      (∀ a, a < off ∨ off + bs.length ≤ a → g'.scratch.read1 a = g.scratch.read1 a) ∧
      ∀ i, i ≠ g.id → ((s.scrWrite g.id off bs).group? i).map (·.scratch) = (s.group? i).map (·.scratch)

/-- R86, R82, R241: an atomic at the home slice answers the word and leaves its new value there, and the core's clock passes the write.
That the core drops its L1 line of the sector is the model's own (log entry 120). -/
def Obligations.AtomicUpdatesTheSlice : Prop :=
  ∀ s w va n f old y t z, peerPa s w va true = .ok (none, z) → va % 128 + n ≤ 128 → rmwSlice s w va n f = .ok (old, t) → f old = some y →
    ∃ x, t.sector? w.asid va = some x ∧ Sec.get x.data (va % 128) n = leBytes n y ∧ x.wts = x.rts ∧ x.wts ≤ (t.core w.die w.core).pts ∧
      (t.core w.die w.core).line? w.asid va = none

/-- R82: with nothing standing at the sector, a fill of a leased line takes E = max(rts, max(pts, wts) + LEASE), and the core's
clock becomes max(pts, wts). LEASE is that of the core's partition (log entry 95). -/
def Obligations.FillGrantsALease : Prop :=
  ∀ (s : State) (w : Who) va x, s.sector? w.asid va = some x → s.nextReq w.asid (sectorOf va) = none →
    (∀ e ∈ (s.core w.die w.core).wcb, e.asid = w.asid → e.va = sectorOf va → e.reds = []) →
    let e := max x.rts (max (s.core w.die w.core).pts x.wts + ((s.part w.part).policy.toNat % 256))
    let t := l1Fill s w va false
    t.sector? w.asid va = some { x with rts := e } ∧
      (t.core w.die w.core).pts = max (s.core w.die w.core).pts x.wts ∧
      ∃ l, (t.core w.die w.core).line? w.asid va = some l ∧ l.e = e ∧ l.wts = x.wts ∧ l.uo = false

/-- R82: a write at the home slice takes a time past every lease, and changes no other sector. -/
def Obligations.WritePassesEveryLease : Prop :=
  ∀ (s : State) asid va bs pts x, s.sector? asid va = some x →
    let t := (s.slicePut asid va bs pts).1
    (s.slicePut asid va bs pts).2 = max pts (x.rts + 1) ∧
      t.sector? asid va = some { x with data := Sec.put x.data bs, wts := max pts (x.rts + 1), rts := max pts (x.rts + 1), dirty := true } ∧
      ∀ b a, (b ≠ asid ∨ sectorOf a ≠ sectorOf va) → t.sector? b a = s.sector? b a

/-- R350, R352: a sector comes into the LLC only from a frame its partition owns, and never as a forbidden second holder. -/
def Obligations.FillRespectsOwnership : Prop :=
  ∀ (s : State) (w : Who) va write t, s.sector? w.asid (sectorOf va) = none → llcFill s w va write = .ok t →
    ∃ x, t.sector? w.asid (sectorOf va) = some x ∧
      s.fotOk [s.partOn w.asid (homeDie (sectorOf va))] x.pa write = true ∧ s.synonym w.asid (sectorOf va) x.pa write = false

/-- R355: a walk reads the same whatever the LLC holds. -/
def Obligations.WalksIgnoreTheCache : Prop :=
  ∀ s l asid va k, translate (withLlc l s) asid va k = walkMap (withLlc l) (translate s asid va k)

/-! ## Numbers -/

/-- R130, R133: a value that the format holds is rounded to itself, in every mode. -/
def Obligations.RoundingIsExactOnTheFormat : Prop :=
  ∀ f, f = F32 ∨ f = F16 ∨ f = B16 → ∀ rm < 4, ∀ x < 2 ^ (1 + f.ebits + f.fbits), f.val x ≠ .nan → f.round rm (f.val x) = x

/-! ## Encoding -/

/-- Sample words written from Tables 1, 3 and 10 of 07_encoding and the tables of the families. -/
def Obligations.WordsDecode : Prop :=
  decode [0x05, 0xB8, 0x20, 0x00] = .ok (.iaddA { b := 0, a := 2, d := 2, g := 7, t := true, m := false, p := none }, []) ∧
  decode [0x41, 0x38, 0x04, 0x04] = .ok (.icmpN32A { b := 1, a := 0, d := 16, g := 7, t := false, m := false, p := none }, []) ∧
  decode [0x03, 0x45, 0x31, 0x0C] = .ok (.ldCx 2 { x := false, s := 3, v := 3, t := 5, g := 0, m := true, p := none }, []) ∧
  decode [0xF9, 0x01, 0x00, 0x02, 0x49, 0xBA, 0x01, 0x00] = .ok (.movBw { i := 0, d := 6, g := 7, t := false, m := false, p := some 0x40000 }, []) ∧
  decode [0x59, 0x7B, 0xA0, 0x10] = .ok (.red { i := false, s := 4, v := 10, d := 1, g := 7, m := false, p := none }, []) ∧
  decode [0xF9, 0x01, 0x00, 0x20, 0x41, 0xB9, 0x10, 0x04] =
    .ok (.atomAdd { i := false, s := 1, v := 1, d := 2, g := 7, m := false, p := some { scope := 1, ord := 0, res := 0, lo := 0 } }, []) ∧
  decode [0x71, 0x91, 0xFE, 0xFF] = .ok (.bra { o := 0x3FFFA, g := 2, m := false, p := none }, [])

/-- R146, R148, R156 to R164: every instruction's words decode to it, with every operand. -/
def Obligations.DecodeInvertsEncode : Prop :=
  ∀ i, WellFormed i → encode i ≠ [] → ∀ rest, decode (encode i ++ rest) = .ok (i, rest)

/-- R146, R148, R156 to R165: what is decoded is well formed, and its words are the bytes it was decoded from: no bit of an
instruction is ignored. -/
def Obligations.EncodeInvertsDecode : Prop :=
  ∀ bs i rest, decode bs = .ok (i, rest) → WellFormed i ∧ encode i ++ rest = bs

/-! ## Steps -/

/-- R47, R146, R161: of a core asked to issue, the bundle that wins its arbitration fetches at its PC; a decoded instruction is executed with the PC, length and words noted, an
undecodable one raises ILLOP with its words, and a fetch that fails faults precisely at the PC, with the length its first halfword gives
(log entry 119). Behind either the boundary is seen and what waits for mail is served (log entry 1 says who moves); a move that comes too
early for its clk lets one pass (R7, R183). -/
def Obligations.StepRunsDecoded : Prop :=
  ∀ (s : State) rest asked any h gid bid g b r, s.dsteps = [] → s.agenda = .issue asked any :: rest → s.group? asked = some h →
    let a := ageAll s
    winner (a.core h.die h.core).turn (requests a h.die h.core) = some (gid, bid) →
    -- the losers' counts and the pointer follow
    let y := arbitrated (({ a with agenda := rest } : State).mark (.issue gid bid)) gid bid
    y.group? gid = some g → g.bundle? bid = some b → y.range? g.rid = some r →
    canIssue y g b = true → b.watch = [] → (r.pre = none ∨ atSafePoint r b = false) → breakAt y g b = none →
    let x := y.updBundle gid bid (fun b => { b with st := .ready, atClk := s.clk + 1 })
    (early a (.issue gid bid) = true → step s = .next (elapse a 1 (ticksOfClk a))) ∧
    (∀ bs u, early a (.issue gid bid) = false → fetch x (fetchWho x g r) b.pc.toNat = .ok (bs, u) →
      let z : State := { u with cur := some { gid := gid, bid := bid, pc := b.pc, len := bs.length, words := BitVec.ofNat 64 (leNat bs) } }
      (∀ i tail, decode bs = .ok (i, tail) → step s = match exec i z with
        | .next y => .next (wrapUp none y)
        | .fault f => .fault f
        | .refused q => .refused q) ∧
      (∀ e c, decode bs = .error e → z.ctx = some c → step s = .next (wrapUp none (precise z c .illop 0 0 0 (BitVec.ofNat 64 (leNat bs)) c.b.ts)))) ∧
    (∀ f at_ c, early a (.issue gid bid) = false → fetch x (fetchWho x g r) b.pc.toNat = .error (f, at_) →
      let y := lenAt x (fetchHalf x (fetchWho x g r) b.pc.toNat)
      let z : State := { y.2.poisonRec f with cur := some { gid := gid, bid := bid, pc := b.pc, len := y.1, words := 0 } }
      z.ctx = some c → step s = .next (wrapUp none (precise z c f.code f.cause f.level (BitVec.ofNat 64 at_) 0 c.b.ts)))

/-- With nothing asked for and nothing due, one clk passes at the core clock's rate: the cores are counted, sampled instructions whose
last lane is back are noted (R425), waits for room in a log are not counted by the watchdog (R430), what falls due at the new clk comes about (R44, R82, R83, R106), and acknowledgements, queued requests and results move on (log entry 1). Without the core rails the
ticks alone go on (R434). -/
def Obligations.IdleMachineWaits : Prop :=
  ∀ (s : State), s.dsteps = [] → s.agenda = [] → collDue s = none → (∀ r ∈ s.ranges, levelDue s r.rid = false) →
    let x := ageAll s
    oldest x = none →
    let n := (x.clk + 1) * 2000 / x.coreRate - x.clk * 2000 / x.coreRate
    let y := samplesOver (countCores (logHolds x n))
    step s = .next (if s.pkg.railsOff then { logHolds x n with ticks := x.ticks + n }
      else clockWork (fallDue { y with clk := y.clk + 1, ticks := y.ticks + n }))

/-! ## Invariants -/

/-- Every step keeps memory in its canonical form (log entry 3). -/
def Obligations.StepKeepsCanonical : Prop := ∀ s t, Canonical s → step s = .next t → Canonical t

/-- Memory is canonical at reset. -/
def Obligations.ResetCanonical : Prop := Canonical State.reset

/-- R82, R391, R412, R418, R437: what reset leaves, of the values the spec gives. -/
def Obligations.ResetValues : Prop :=
  (∀ d c, (State.reset.core d c).pts = 0) ∧ (∀ p, State.reset.lease p = 10) ∧ (∀ p, State.reset.carve p = 0x00080810) ∧
    State.reset.pkg.m0 = 0 ∧ State.reset.pkg.m1 = 0 ∧ State.reset.pkg.m2 = 0 ∧ State.reset.pkg.m3 = 0 ∧
    State.reset.fe.nextRid = 1 ∧ State.reset.pkg.cmap = Vector.replicate 4 0 ∧ State.reset.fe.queues = [] ∧ State.reset.ranges = []
end

