-- ==== Sys2Proof/Laws/State.lean ====
section
/-! SUPPORT. The small lemmas of State and of its units: one per field per update, true by rfl, so that no proof unfolds a record
update. -/

namespace Sys2Proof.Machine

/-! ## State -/

@[simp] theorem State.updGroup_agenda (s : State) (gid : Nat) (f : Group → Group) : (s.updGroup gid f).agenda = s.agenda := rfl
@[simp] theorem State.updGroup_dsteps (s : State) (gid : Nat) (f : Group → Group) : (s.updGroup gid f).dsteps = s.dsteps := rfl
@[simp] theorem State.updGroup_cur (s : State) (gid : Nat) (f : Group → Group) : (s.updGroup gid f).cur = s.cur := rfl
@[simp] theorem State.updGroup_order (s : State) (gid : Nat) (f : Group → Group) : (s.updGroup gid f).order = s.order := rfl
@[simp] theorem State.updGroup_clk (s : State) (gid : Nat) (f : Group → Group) : (s.updGroup gid f).clk = s.clk := rfl
@[simp] theorem State.updGroup_ticks (s : State) (gid : Nat) (f : Group → Group) : (s.updGroup gid f).ticks = s.ticks := rfl
@[simp] theorem State.updGroup_groups (s : State) (gid : Nat) (f : Group → Group) : (s.updGroup gid f).groups = upd (fun g => g.id == gid) f s.groups := rfl
@[simp] theorem State.updGroup_ranges (s : State) (gid : Nat) (f : Group → Group) : (s.updGroup gid f).ranges = s.ranges := rfl
@[simp] theorem State.updGroup_eng (s : State) (gid : Nat) (f : Group → Group) : (s.updGroup gid f).eng = s.eng := rfl
@[simp] theorem State.updGroup_mem (s : State) (gid : Nat) (f : Group → Group) : (s.updGroup gid f).mem = s.mem := rfl
@[simp] theorem State.updGroup_fe (s : State) (gid : Nat) (f : Group → Group) : (s.updGroup gid f).fe = s.fe := rfl
@[simp] theorem State.updGroup_fq (s : State) (gid : Nat) (f : Group → Group) : (s.updGroup gid f).fq = s.fq := rfl
@[simp] theorem State.updGroup_sock (s : State) (gid : Nat) (f : Group → Group) : (s.updGroup gid f).sock = s.sock := rfl
@[simp] theorem State.updGroup_pkg (s : State) (gid : Nat) (f : Group → Group) : (s.updGroup gid f).pkg = s.pkg := rfl
@[simp] theorem State.updGroup_nextGid (s : State) (gid : Nat) (f : Group → Group) : (s.updGroup gid f).nextGid = s.nextGid := rfl

@[simp] theorem State.updRange_agenda (s : State) (rid : Nat) (f : RangeSt → RangeSt) : (s.updRange rid f).agenda = s.agenda := rfl
@[simp] theorem State.updRange_dsteps (s : State) (rid : Nat) (f : RangeSt → RangeSt) : (s.updRange rid f).dsteps = s.dsteps := rfl
@[simp] theorem State.updRange_cur (s : State) (rid : Nat) (f : RangeSt → RangeSt) : (s.updRange rid f).cur = s.cur := rfl
@[simp] theorem State.updRange_order (s : State) (rid : Nat) (f : RangeSt → RangeSt) : (s.updRange rid f).order = s.order := rfl
@[simp] theorem State.updRange_clk (s : State) (rid : Nat) (f : RangeSt → RangeSt) : (s.updRange rid f).clk = s.clk := rfl
@[simp] theorem State.updRange_ticks (s : State) (rid : Nat) (f : RangeSt → RangeSt) : (s.updRange rid f).ticks = s.ticks := rfl
@[simp] theorem State.updRange_groups (s : State) (rid : Nat) (f : RangeSt → RangeSt) : (s.updRange rid f).groups = s.groups := rfl
@[simp] theorem State.updRange_ranges (s : State) (rid : Nat) (f : RangeSt → RangeSt) : (s.updRange rid f).ranges = upd (fun r => r.rid == rid) f s.ranges := rfl
@[simp] theorem State.updRange_eng (s : State) (rid : Nat) (f : RangeSt → RangeSt) : (s.updRange rid f).eng = s.eng := rfl
@[simp] theorem State.updRange_mem (s : State) (rid : Nat) (f : RangeSt → RangeSt) : (s.updRange rid f).mem = s.mem := rfl
@[simp] theorem State.updRange_fe (s : State) (rid : Nat) (f : RangeSt → RangeSt) : (s.updRange rid f).fe = s.fe := rfl
@[simp] theorem State.updRange_fq (s : State) (rid : Nat) (f : RangeSt → RangeSt) : (s.updRange rid f).fq = s.fq := rfl
@[simp] theorem State.updRange_sock (s : State) (rid : Nat) (f : RangeSt → RangeSt) : (s.updRange rid f).sock = s.sock := rfl
@[simp] theorem State.updRange_pkg (s : State) (rid : Nat) (f : RangeSt → RangeSt) : (s.updRange rid f).pkg = s.pkg := rfl
@[simp] theorem State.updRange_nextGid (s : State) (rid : Nat) (f : RangeSt → RangeSt) : (s.updRange rid f).nextGid = s.nextGid := rfl

@[simp] theorem State.updPart_agenda (s : State) (n : Nat) (f : Part → Part) : (s.updPart n f).agenda = s.agenda := rfl
@[simp] theorem State.updPart_dsteps (s : State) (n : Nat) (f : Part → Part) : (s.updPart n f).dsteps = s.dsteps := rfl
@[simp] theorem State.updPart_cur (s : State) (n : Nat) (f : Part → Part) : (s.updPart n f).cur = s.cur := rfl
@[simp] theorem State.updPart_order (s : State) (n : Nat) (f : Part → Part) : (s.updPart n f).order = s.order := rfl
@[simp] theorem State.updPart_clk (s : State) (n : Nat) (f : Part → Part) : (s.updPart n f).clk = s.clk := rfl
@[simp] theorem State.updPart_ticks (s : State) (n : Nat) (f : Part → Part) : (s.updPart n f).ticks = s.ticks := rfl
@[simp] theorem State.updPart_groups (s : State) (n : Nat) (f : Part → Part) : (s.updPart n f).groups = s.groups := rfl
@[simp] theorem State.updPart_ranges (s : State) (n : Nat) (f : Part → Part) : (s.updPart n f).ranges = s.ranges := rfl
@[simp] theorem State.updPart_eng (s : State) (n : Nat) (f : Part → Part) : (s.updPart n f).eng = s.eng := rfl
@[simp] theorem State.updPart_mem (s : State) (n : Nat) (f : Part → Part) : (s.updPart n f).mem = s.mem := rfl
@[simp] theorem State.updPart_fe (s : State) (n : Nat) (f : Part → Part) : (s.updPart n f).fe = { s.fe with parts := updOr (fun p => p.num == n) (dfltPart n) f s.fe.parts } := rfl
@[simp] theorem State.updPart_fq (s : State) (n : Nat) (f : Part → Part) : (s.updPart n f).fq = s.fq := rfl
@[simp] theorem State.updPart_sock (s : State) (n : Nat) (f : Part → Part) : (s.updPart n f).sock = s.sock := rfl
@[simp] theorem State.updPart_pkg (s : State) (n : Nat) (f : Part → Part) : (s.updPart n f).pkg = s.pkg := rfl
@[simp] theorem State.updPart_nextGid (s : State) (n : Nat) (f : Part → Part) : (s.updPart n f).nextGid = s.nextGid := rfl

@[simp] theorem State.updQueue_agenda (s : State) (q : Nat) (f : Queue → Queue) : (s.updQueue q f).agenda = s.agenda := rfl
@[simp] theorem State.updQueue_dsteps (s : State) (q : Nat) (f : Queue → Queue) : (s.updQueue q f).dsteps = s.dsteps := rfl
@[simp] theorem State.updQueue_cur (s : State) (q : Nat) (f : Queue → Queue) : (s.updQueue q f).cur = s.cur := rfl
@[simp] theorem State.updQueue_order (s : State) (q : Nat) (f : Queue → Queue) : (s.updQueue q f).order = s.order := rfl
@[simp] theorem State.updQueue_clk (s : State) (q : Nat) (f : Queue → Queue) : (s.updQueue q f).clk = s.clk := rfl
@[simp] theorem State.updQueue_ticks (s : State) (q : Nat) (f : Queue → Queue) : (s.updQueue q f).ticks = s.ticks := rfl
@[simp] theorem State.updQueue_groups (s : State) (q : Nat) (f : Queue → Queue) : (s.updQueue q f).groups = s.groups := rfl
@[simp] theorem State.updQueue_ranges (s : State) (q : Nat) (f : Queue → Queue) : (s.updQueue q f).ranges = s.ranges := rfl
@[simp] theorem State.updQueue_eng (s : State) (q : Nat) (f : Queue → Queue) : (s.updQueue q f).eng = s.eng := rfl
@[simp] theorem State.updQueue_mem (s : State) (q : Nat) (f : Queue → Queue) : (s.updQueue q f).mem = s.mem := rfl
@[simp] theorem State.updQueue_fe (s : State) (q : Nat) (f : Queue → Queue) : (s.updQueue q f).fe = { s.fe with queues := upd (fun x => x.qid == q) f s.fe.queues } := rfl
@[simp] theorem State.updQueue_fq (s : State) (q : Nat) (f : Queue → Queue) : (s.updQueue q f).fq = s.fq := rfl
@[simp] theorem State.updQueue_sock (s : State) (q : Nat) (f : Queue → Queue) : (s.updQueue q f).sock = s.sock := rfl
@[simp] theorem State.updQueue_pkg (s : State) (q : Nat) (f : Queue → Queue) : (s.updQueue q f).pkg = s.pkg := rfl
@[simp] theorem State.updQueue_nextGid (s : State) (q : Nat) (f : Queue → Queue) : (s.updQueue q f).nextGid = s.nextGid := rfl

@[simp] theorem State.updCore_agenda (s : State) (d c : Nat) (f : CoreSt → CoreSt) : (s.updCore d c f).agenda = s.agenda := rfl
@[simp] theorem State.updCore_dsteps (s : State) (d c : Nat) (f : CoreSt → CoreSt) : (s.updCore d c f).dsteps = s.dsteps := rfl
@[simp] theorem State.updCore_cur (s : State) (d c : Nat) (f : CoreSt → CoreSt) : (s.updCore d c f).cur = s.cur := rfl
@[simp] theorem State.updCore_order (s : State) (d c : Nat) (f : CoreSt → CoreSt) : (s.updCore d c f).order = s.order := rfl
@[simp] theorem State.updCore_clk (s : State) (d c : Nat) (f : CoreSt → CoreSt) : (s.updCore d c f).clk = s.clk := rfl
@[simp] theorem State.updCore_ticks (s : State) (d c : Nat) (f : CoreSt → CoreSt) : (s.updCore d c f).ticks = s.ticks := rfl
@[simp] theorem State.updCore_groups (s : State) (d c : Nat) (f : CoreSt → CoreSt) : (s.updCore d c f).groups = s.groups := rfl
@[simp] theorem State.updCore_ranges (s : State) (d c : Nat) (f : CoreSt → CoreSt) : (s.updCore d c f).ranges = s.ranges := rfl
@[simp] theorem State.updCore_eng (s : State) (d c : Nat) (f : CoreSt → CoreSt) : (s.updCore d c f).eng = s.eng := rfl
@[simp] theorem State.updCore_mem (s : State) (d c : Nat) (f : CoreSt → CoreSt) : (s.updCore d c f).mem = { s.mem with cores := updOr (fun x => x.die == d && x.num == c) (s.dfltCore d c) f s.mem.cores } := rfl
@[simp] theorem State.updCore_fe (s : State) (d c : Nat) (f : CoreSt → CoreSt) : (s.updCore d c f).fe = s.fe := rfl
@[simp] theorem State.updCore_fq (s : State) (d c : Nat) (f : CoreSt → CoreSt) : (s.updCore d c f).fq = s.fq := rfl
@[simp] theorem State.updCore_sock (s : State) (d c : Nat) (f : CoreSt → CoreSt) : (s.updCore d c f).sock = s.sock := rfl
@[simp] theorem State.updCore_pkg (s : State) (d c : Nat) (f : CoreSt → CoreSt) : (s.updCore d c f).pkg = s.pkg := rfl
@[simp] theorem State.updCore_nextGid (s : State) (d c : Nat) (f : CoreSt → CoreSt) : (s.updCore d c f).nextGid = s.nextGid := rfl

@[simp] theorem State.updMem_agenda (s : State) (f : Mem → Mem) : (s.updMem f).agenda = s.agenda := rfl
@[simp] theorem State.updMem_dsteps (s : State) (f : Mem → Mem) : (s.updMem f).dsteps = s.dsteps := rfl
@[simp] theorem State.updMem_cur (s : State) (f : Mem → Mem) : (s.updMem f).cur = s.cur := rfl
@[simp] theorem State.updMem_order (s : State) (f : Mem → Mem) : (s.updMem f).order = s.order := rfl
@[simp] theorem State.updMem_clk (s : State) (f : Mem → Mem) : (s.updMem f).clk = s.clk := rfl
@[simp] theorem State.updMem_ticks (s : State) (f : Mem → Mem) : (s.updMem f).ticks = s.ticks := rfl
@[simp] theorem State.updMem_groups (s : State) (f : Mem → Mem) : (s.updMem f).groups = s.groups := rfl
@[simp] theorem State.updMem_ranges (s : State) (f : Mem → Mem) : (s.updMem f).ranges = s.ranges := rfl
@[simp] theorem State.updMem_eng (s : State) (f : Mem → Mem) : (s.updMem f).eng = s.eng := rfl
@[simp] theorem State.updMem_mem (s : State) (f : Mem → Mem) : (s.updMem f).mem = f s.mem := rfl
@[simp] theorem State.updMem_fe (s : State) (f : Mem → Mem) : (s.updMem f).fe = s.fe := rfl
@[simp] theorem State.updMem_fq (s : State) (f : Mem → Mem) : (s.updMem f).fq = s.fq := rfl
@[simp] theorem State.updMem_sock (s : State) (f : Mem → Mem) : (s.updMem f).sock = s.sock := rfl
@[simp] theorem State.updMem_pkg (s : State) (f : Mem → Mem) : (s.updMem f).pkg = s.pkg := rfl
@[simp] theorem State.updMem_nextGid (s : State) (f : Mem → Mem) : (s.updMem f).nextGid = s.nextGid := rfl

@[simp] theorem State.updEng_agenda (s : State) (f : Eng → Eng) : (s.updEng f).agenda = s.agenda := rfl
@[simp] theorem State.updEng_dsteps (s : State) (f : Eng → Eng) : (s.updEng f).dsteps = s.dsteps := rfl
@[simp] theorem State.updEng_cur (s : State) (f : Eng → Eng) : (s.updEng f).cur = s.cur := rfl
@[simp] theorem State.updEng_order (s : State) (f : Eng → Eng) : (s.updEng f).order = s.order := rfl
@[simp] theorem State.updEng_clk (s : State) (f : Eng → Eng) : (s.updEng f).clk = s.clk := rfl
@[simp] theorem State.updEng_ticks (s : State) (f : Eng → Eng) : (s.updEng f).ticks = s.ticks := rfl
@[simp] theorem State.updEng_groups (s : State) (f : Eng → Eng) : (s.updEng f).groups = s.groups := rfl
@[simp] theorem State.updEng_ranges (s : State) (f : Eng → Eng) : (s.updEng f).ranges = s.ranges := rfl
@[simp] theorem State.updEng_eng (s : State) (f : Eng → Eng) : (s.updEng f).eng = f s.eng := rfl
@[simp] theorem State.updEng_mem (s : State) (f : Eng → Eng) : (s.updEng f).mem = s.mem := rfl
@[simp] theorem State.updEng_fe (s : State) (f : Eng → Eng) : (s.updEng f).fe = s.fe := rfl
@[simp] theorem State.updEng_fq (s : State) (f : Eng → Eng) : (s.updEng f).fq = s.fq := rfl
@[simp] theorem State.updEng_sock (s : State) (f : Eng → Eng) : (s.updEng f).sock = s.sock := rfl
@[simp] theorem State.updEng_pkg (s : State) (f : Eng → Eng) : (s.updEng f).pkg = s.pkg := rfl
@[simp] theorem State.updEng_nextGid (s : State) (f : Eng → Eng) : (s.updEng f).nextGid = s.nextGid := rfl

@[simp] theorem State.updFq_agenda (s : State) (f : Fq → Fq) : (s.updFq f).agenda = s.agenda := rfl
@[simp] theorem State.updFq_dsteps (s : State) (f : Fq → Fq) : (s.updFq f).dsteps = s.dsteps := rfl
@[simp] theorem State.updFq_cur (s : State) (f : Fq → Fq) : (s.updFq f).cur = s.cur := rfl
@[simp] theorem State.updFq_order (s : State) (f : Fq → Fq) : (s.updFq f).order = s.order := rfl
@[simp] theorem State.updFq_clk (s : State) (f : Fq → Fq) : (s.updFq f).clk = s.clk := rfl
@[simp] theorem State.updFq_ticks (s : State) (f : Fq → Fq) : (s.updFq f).ticks = s.ticks := rfl
@[simp] theorem State.updFq_groups (s : State) (f : Fq → Fq) : (s.updFq f).groups = s.groups := rfl
@[simp] theorem State.updFq_ranges (s : State) (f : Fq → Fq) : (s.updFq f).ranges = s.ranges := rfl
@[simp] theorem State.updFq_eng (s : State) (f : Fq → Fq) : (s.updFq f).eng = s.eng := rfl
@[simp] theorem State.updFq_mem (s : State) (f : Fq → Fq) : (s.updFq f).mem = s.mem := rfl
@[simp] theorem State.updFq_fe (s : State) (f : Fq → Fq) : (s.updFq f).fe = s.fe := rfl
@[simp] theorem State.updFq_fq (s : State) (f : Fq → Fq) : (s.updFq f).fq = f s.fq := rfl
@[simp] theorem State.updFq_sock (s : State) (f : Fq → Fq) : (s.updFq f).sock = s.sock := rfl
@[simp] theorem State.updFq_pkg (s : State) (f : Fq → Fq) : (s.updFq f).pkg = s.pkg := rfl
@[simp] theorem State.updFq_nextGid (s : State) (f : Fq → Fq) : (s.updFq f).nextGid = s.nextGid := rfl

@[simp] theorem State.updFe_agenda (s : State) (f : Fe → Fe) : (s.updFe f).agenda = s.agenda := rfl
@[simp] theorem State.updFe_dsteps (s : State) (f : Fe → Fe) : (s.updFe f).dsteps = s.dsteps := rfl
@[simp] theorem State.updFe_cur (s : State) (f : Fe → Fe) : (s.updFe f).cur = s.cur := rfl
@[simp] theorem State.updFe_order (s : State) (f : Fe → Fe) : (s.updFe f).order = s.order := rfl
@[simp] theorem State.updFe_clk (s : State) (f : Fe → Fe) : (s.updFe f).clk = s.clk := rfl
@[simp] theorem State.updFe_ticks (s : State) (f : Fe → Fe) : (s.updFe f).ticks = s.ticks := rfl
@[simp] theorem State.updFe_groups (s : State) (f : Fe → Fe) : (s.updFe f).groups = s.groups := rfl
@[simp] theorem State.updFe_ranges (s : State) (f : Fe → Fe) : (s.updFe f).ranges = s.ranges := rfl
@[simp] theorem State.updFe_eng (s : State) (f : Fe → Fe) : (s.updFe f).eng = s.eng := rfl
@[simp] theorem State.updFe_mem (s : State) (f : Fe → Fe) : (s.updFe f).mem = s.mem := rfl
@[simp] theorem State.updFe_fe (s : State) (f : Fe → Fe) : (s.updFe f).fe = f s.fe := rfl
@[simp] theorem State.updFe_fq (s : State) (f : Fe → Fe) : (s.updFe f).fq = s.fq := rfl
@[simp] theorem State.updFe_sock (s : State) (f : Fe → Fe) : (s.updFe f).sock = s.sock := rfl
@[simp] theorem State.updFe_pkg (s : State) (f : Fe → Fe) : (s.updFe f).pkg = s.pkg := rfl
@[simp] theorem State.updFe_nextGid (s : State) (f : Fe → Fe) : (s.updFe f).nextGid = s.nextGid := rfl

@[simp] theorem State.updSock_agenda (s : State) (f : Socket → Socket) : (s.updSock f).agenda = s.agenda := rfl
@[simp] theorem State.updSock_dsteps (s : State) (f : Socket → Socket) : (s.updSock f).dsteps = s.dsteps := rfl
@[simp] theorem State.updSock_cur (s : State) (f : Socket → Socket) : (s.updSock f).cur = s.cur := rfl
@[simp] theorem State.updSock_order (s : State) (f : Socket → Socket) : (s.updSock f).order = s.order := rfl
@[simp] theorem State.updSock_clk (s : State) (f : Socket → Socket) : (s.updSock f).clk = s.clk := rfl
@[simp] theorem State.updSock_ticks (s : State) (f : Socket → Socket) : (s.updSock f).ticks = s.ticks := rfl
@[simp] theorem State.updSock_groups (s : State) (f : Socket → Socket) : (s.updSock f).groups = s.groups := rfl
@[simp] theorem State.updSock_ranges (s : State) (f : Socket → Socket) : (s.updSock f).ranges = s.ranges := rfl
@[simp] theorem State.updSock_eng (s : State) (f : Socket → Socket) : (s.updSock f).eng = s.eng := rfl
@[simp] theorem State.updSock_mem (s : State) (f : Socket → Socket) : (s.updSock f).mem = s.mem := rfl
@[simp] theorem State.updSock_fe (s : State) (f : Socket → Socket) : (s.updSock f).fe = s.fe := rfl
@[simp] theorem State.updSock_fq (s : State) (f : Socket → Socket) : (s.updSock f).fq = s.fq := rfl
@[simp] theorem State.updSock_sock (s : State) (f : Socket → Socket) : (s.updSock f).sock = f s.sock := rfl
@[simp] theorem State.updSock_pkg (s : State) (f : Socket → Socket) : (s.updSock f).pkg = s.pkg := rfl
@[simp] theorem State.updSock_nextGid (s : State) (f : Socket → Socket) : (s.updSock f).nextGid = s.nextGid := rfl

@[simp] theorem State.updPkg_agenda (s : State) (f : Pkg → Pkg) : (s.updPkg f).agenda = s.agenda := rfl
@[simp] theorem State.updPkg_dsteps (s : State) (f : Pkg → Pkg) : (s.updPkg f).dsteps = s.dsteps := rfl
@[simp] theorem State.updPkg_cur (s : State) (f : Pkg → Pkg) : (s.updPkg f).cur = s.cur := rfl
@[simp] theorem State.updPkg_order (s : State) (f : Pkg → Pkg) : (s.updPkg f).order = s.order := rfl
@[simp] theorem State.updPkg_clk (s : State) (f : Pkg → Pkg) : (s.updPkg f).clk = s.clk := rfl
@[simp] theorem State.updPkg_ticks (s : State) (f : Pkg → Pkg) : (s.updPkg f).ticks = s.ticks := rfl
@[simp] theorem State.updPkg_groups (s : State) (f : Pkg → Pkg) : (s.updPkg f).groups = s.groups := rfl
@[simp] theorem State.updPkg_ranges (s : State) (f : Pkg → Pkg) : (s.updPkg f).ranges = s.ranges := rfl
@[simp] theorem State.updPkg_eng (s : State) (f : Pkg → Pkg) : (s.updPkg f).eng = s.eng := rfl
@[simp] theorem State.updPkg_mem (s : State) (f : Pkg → Pkg) : (s.updPkg f).mem = s.mem := rfl
@[simp] theorem State.updPkg_fe (s : State) (f : Pkg → Pkg) : (s.updPkg f).fe = s.fe := rfl
@[simp] theorem State.updPkg_fq (s : State) (f : Pkg → Pkg) : (s.updPkg f).fq = s.fq := rfl
@[simp] theorem State.updPkg_sock (s : State) (f : Pkg → Pkg) : (s.updPkg f).sock = s.sock := rfl
@[simp] theorem State.updPkg_pkg (s : State) (f : Pkg → Pkg) : (s.updPkg f).pkg = f s.pkg := rfl
@[simp] theorem State.updPkg_nextGid (s : State) (f : Pkg → Pkg) : (s.updPkg f).nextGid = s.nextGid := rfl

@[simp] theorem State.updBundle_agenda (s : State) (gid bid : Nat) (f : Bundle → Bundle) : (s.updBundle gid bid f).agenda = s.agenda := rfl
@[simp] theorem State.updBundle_dsteps (s : State) (gid bid : Nat) (f : Bundle → Bundle) : (s.updBundle gid bid f).dsteps = s.dsteps := rfl
@[simp] theorem State.updBundle_cur (s : State) (gid bid : Nat) (f : Bundle → Bundle) : (s.updBundle gid bid f).cur = s.cur := rfl
@[simp] theorem State.updBundle_order (s : State) (gid bid : Nat) (f : Bundle → Bundle) : (s.updBundle gid bid f).order = s.order := rfl
@[simp] theorem State.updBundle_clk (s : State) (gid bid : Nat) (f : Bundle → Bundle) : (s.updBundle gid bid f).clk = s.clk := rfl
@[simp] theorem State.updBundle_ticks (s : State) (gid bid : Nat) (f : Bundle → Bundle) : (s.updBundle gid bid f).ticks = s.ticks := rfl
@[simp] theorem State.updBundle_groups (s : State) (gid bid : Nat) (f : Bundle → Bundle) : (s.updBundle gid bid f).groups = upd (fun g => g.id == gid) (fun g => g.updBundle bid f) s.groups := rfl
@[simp] theorem State.updBundle_ranges (s : State) (gid bid : Nat) (f : Bundle → Bundle) : (s.updBundle gid bid f).ranges = s.ranges := rfl
@[simp] theorem State.updBundle_eng (s : State) (gid bid : Nat) (f : Bundle → Bundle) : (s.updBundle gid bid f).eng = s.eng := rfl
@[simp] theorem State.updBundle_mem (s : State) (gid bid : Nat) (f : Bundle → Bundle) : (s.updBundle gid bid f).mem = s.mem := rfl
@[simp] theorem State.updBundle_fe (s : State) (gid bid : Nat) (f : Bundle → Bundle) : (s.updBundle gid bid f).fe = s.fe := rfl
@[simp] theorem State.updBundle_fq (s : State) (gid bid : Nat) (f : Bundle → Bundle) : (s.updBundle gid bid f).fq = s.fq := rfl
@[simp] theorem State.updBundle_sock (s : State) (gid bid : Nat) (f : Bundle → Bundle) : (s.updBundle gid bid f).sock = s.sock := rfl
@[simp] theorem State.updBundle_pkg (s : State) (gid bid : Nat) (f : Bundle → Bundle) : (s.updBundle gid bid f).pkg = s.pkg := rfl
@[simp] theorem State.updBundle_nextGid (s : State) (gid bid : Nat) (f : Bundle → Bundle) : (s.updBundle gid bid f).nextGid = s.nextGid := rfl

@[simp] theorem State.queueRec_agenda (s : State) (q : Nat) (r : FRec) : (s.queueRec q r).agenda = s.agenda := rfl
@[simp] theorem State.queueRec_dsteps (s : State) (q : Nat) (r : FRec) : (s.queueRec q r).dsteps = s.dsteps := rfl
@[simp] theorem State.queueRec_cur (s : State) (q : Nat) (r : FRec) : (s.queueRec q r).cur = s.cur := rfl
@[simp] theorem State.queueRec_order (s : State) (q : Nat) (r : FRec) : (s.queueRec q r).order = s.order := rfl
@[simp] theorem State.queueRec_clk (s : State) (q : Nat) (r : FRec) : (s.queueRec q r).clk = s.clk := rfl
@[simp] theorem State.queueRec_ticks (s : State) (q : Nat) (r : FRec) : (s.queueRec q r).ticks = s.ticks := rfl
@[simp] theorem State.queueRec_groups (s : State) (q : Nat) (r : FRec) : (s.queueRec q r).groups = s.groups := rfl
@[simp] theorem State.queueRec_ranges (s : State) (q : Nat) (r : FRec) : (s.queueRec q r).ranges = s.ranges := rfl
@[simp] theorem State.queueRec_eng (s : State) (q : Nat) (r : FRec) : (s.queueRec q r).eng = s.eng := rfl
@[simp] theorem State.queueRec_mem (s : State) (q : Nat) (r : FRec) : (s.queueRec q r).mem = s.mem := rfl
@[simp] theorem State.queueRec_fe (s : State) (q : Nat) (r : FRec) : (s.queueRec q r).fe = s.fe := rfl
@[simp] theorem State.queueRec_fq (s : State) (q : Nat) (r : FRec) : (s.queueRec q r).fq = { s.fq with pending := s.fq.pending ++ [(q, r)] } := rfl
@[simp] theorem State.queueRec_sock (s : State) (q : Nat) (r : FRec) : (s.queueRec q r).sock = s.sock := rfl
@[simp] theorem State.queueRec_pkg (s : State) (q : Nat) (r : FRec) : (s.queueRec q r).pkg = s.pkg := rfl
@[simp] theorem State.queueRec_nextGid (s : State) (q : Nat) (r : FRec) : (s.queueRec q r).nextGid = s.nextGid := rfl

/-! ## Group -/

@[simp] theorem Group.updBundle_id (g : Group) (bid : Nat) (f : Bundle → Bundle) : (g.updBundle bid f).id = g.id := rfl
@[simp] theorem Group.updBundle_rid (g : Group) (bid : Nat) (f : Bundle → Bundle) : (g.updBundle bid f).rid = g.rid := rfl
@[simp] theorem Group.updBundle_die (g : Group) (bid : Nat) (f : Bundle → Bundle) : (g.updBundle bid f).die = g.die := rfl
@[simp] theorem Group.updBundle_core (g : Group) (bid : Nat) (f : Bundle → Bundle) : (g.updBundle bid f).core = g.core := rfl
@[simp] theorem Group.updBundle_part (g : Group) (bid : Nat) (f : Bundle → Bundle) : (g.updBundle bid f).part = g.part := rfl
@[simp] theorem Group.updBundle_part0 (g : Group) (bid : Nat) (f : Bundle → Bundle) : (g.updBundle bid f).part0 = g.part0 := rfl
@[simp] theorem Group.updBundle_gseq (g : Group) (bid : Nat) (f : Bundle → Bundle) : (g.updBundle bid f).gseq = g.gseq := rfl
@[simp] theorem Group.updBundle_share (g : Group) (bid : Nat) (f : Bundle → Bundle) : (g.updBundle bid f).share = g.share := rfl
@[simp] theorem Group.updBundle_shp (g : Group) (bid : Nat) (f : Bundle → Bundle) : (g.updBundle bid f).shp = g.shp := rfl
@[simp] theorem Group.updBundle_base (g : Group) (bid : Nat) (f : Bundle → Bundle) : (g.updBundle bid f).base = g.base := rfl
@[simp] theorem Group.updBundle_ext (g : Group) (bid : Nat) (f : Bundle → Bundle) : (g.updBundle bid f).ext = g.ext := rfl
@[simp] theorem Group.updBundle_threads (g : Group) (bid : Nat) (f : Bundle → Bundle) : (g.updBundle bid f).threads = g.threads := rfl
@[simp] theorem Group.updBundle_teams (g : Group) (bid : Nat) (f : Bundle → Bundle) : (g.updBundle bid f).teams = g.teams := rfl
@[simp] theorem Group.updBundle_bundles (g : Group) (bid : Nat) (f : Bundle → Bundle) : (g.updBundle bid f).bundles = upd (fun b => b.id == bid) f g.bundles := rfl
@[simp] theorem Group.updBundle_nextB (g : Group) (bid : Nat) (f : Bundle → Bundle) : (g.updBundle bid f).nextB = g.nextB := rfl
@[simp] theorem Group.updBundle_scrBase (g : Group) (bid : Nat) (f : Bundle → Bundle) : (g.updBundle bid f).scrBase = g.scrBase := rfl
@[simp] theorem Group.updBundle_scrSize (g : Group) (bid : Nat) (f : Bundle → Bundle) : (g.updBundle bid f).scrSize = g.scrSize := rfl
@[simp] theorem Group.updBundle_scratch (g : Group) (bid : Nat) (f : Bundle → Bundle) : (g.updBundle bid f).scratch = g.scratch := rfl
@[simp] theorem Group.updBundle_flags (g : Group) (bid : Nat) (f : Bundle → Bundle) : (g.updBundle bid f).flags = g.flags := rfl
@[simp] theorem Group.updBundle_barph (g : Group) (bid : Nat) (f : Bundle → Bundle) : (g.updBundle bid f).barph = g.barph := rfl
@[simp] theorem Group.updBundle_barAt (g : Group) (bid : Nat) (f : Bundle → Bundle) : (g.updBundle bid f).barAt = g.barAt := rfl
@[simp] theorem Group.updBundle_rings (g : Group) (bid : Nat) (f : Bundle → Bundle) : (g.updBundle bid f).rings = g.rings := rfl
@[simp] theorem Group.updBundle_segs (g : Group) (bid : Nat) (f : Bundle → Bundle) : (g.updBundle bid f).segs = g.segs := rfl
@[simp] theorem Group.updBundle_segWords (g : Group) (bid : Nat) (f : Bundle → Bundle) : (g.updBundle bid f).segWords = g.segWords := rfl
@[simp] theorem Group.updBundle_fixDone (g : Group) (bid : Nat) (f : Bundle → Bundle) : (g.updBundle bid f).fixDone = g.fixDone := rfl
@[simp] theorem Group.updBundle_children (g : Group) (bid : Nat) (f : Bundle → Bundle) : (g.updBundle bid f).children = g.children := rfl
@[simp] theorem Group.updBundle_stop (g : Group) (bid : Nat) (f : Bundle → Bundle) : (g.updBundle bid f).stop = g.stop := rfl
@[simp] theorem Group.updBundle_halted (g : Group) (bid : Nat) (f : Bundle → Bundle) : (g.updBundle bid f).halted = g.halted := rfl
@[simp] theorem Group.updBundle_hardAt (g : Group) (bid : Nat) (f : Bundle → Bundle) : (g.updBundle bid f).hardAt = g.hardAt := rfl
@[simp] theorem Group.updBundle_age0 (g : Group) (bid : Nat) (f : Bundle → Bundle) : (g.updBundle bid f).age0 = g.age0 := rfl
@[simp] theorem Group.updBundle_issues (g : Group) (bid : Nat) (f : Bundle → Bundle) : (g.updBundle bid f).issues = g.issues := rfl
@[simp] theorem Group.updBundle_lanesIssued (g : Group) (bid : Nat) (f : Bundle → Bundle) : (g.updBundle bid f).lanesIssued = g.lanesIssued := rfl
@[simp] theorem Group.updBundle_fills (g : Group) (bid : Nat) (f : Bundle → Bundle) : (g.updBundle bid f).fills = g.fills := rfl
@[simp] theorem Group.updBundle_hits (g : Group) (bid : Nat) (f : Bundle → Bundle) : (g.updBundle bid f).hits = g.hits := rfl

@[simp] theorem Group.updTh_id (g : Group) (t : Nat) (f : Thread → Thread) : (g.updTh t f).id = g.id := rfl
@[simp] theorem Group.updTh_rid (g : Group) (t : Nat) (f : Thread → Thread) : (g.updTh t f).rid = g.rid := rfl
@[simp] theorem Group.updTh_die (g : Group) (t : Nat) (f : Thread → Thread) : (g.updTh t f).die = g.die := rfl
@[simp] theorem Group.updTh_core (g : Group) (t : Nat) (f : Thread → Thread) : (g.updTh t f).core = g.core := rfl
@[simp] theorem Group.updTh_part (g : Group) (t : Nat) (f : Thread → Thread) : (g.updTh t f).part = g.part := rfl
@[simp] theorem Group.updTh_part0 (g : Group) (t : Nat) (f : Thread → Thread) : (g.updTh t f).part0 = g.part0 := rfl
@[simp] theorem Group.updTh_gseq (g : Group) (t : Nat) (f : Thread → Thread) : (g.updTh t f).gseq = g.gseq := rfl
@[simp] theorem Group.updTh_share (g : Group) (t : Nat) (f : Thread → Thread) : (g.updTh t f).share = g.share := rfl
@[simp] theorem Group.updTh_shp (g : Group) (t : Nat) (f : Thread → Thread) : (g.updTh t f).shp = g.shp := rfl
@[simp] theorem Group.updTh_base (g : Group) (t : Nat) (f : Thread → Thread) : (g.updTh t f).base = g.base := rfl
@[simp] theorem Group.updTh_ext (g : Group) (t : Nat) (f : Thread → Thread) : (g.updTh t f).ext = g.ext := rfl
@[simp] theorem Group.updTh_threads (g : Group) (t : Nat) (f : Thread → Thread) : (g.updTh t f).threads = g.threads.modify t f := rfl
@[simp] theorem Group.updTh_teams (g : Group) (t : Nat) (f : Thread → Thread) : (g.updTh t f).teams = g.teams := rfl
@[simp] theorem Group.updTh_bundles (g : Group) (t : Nat) (f : Thread → Thread) : (g.updTh t f).bundles = g.bundles := rfl
@[simp] theorem Group.updTh_nextB (g : Group) (t : Nat) (f : Thread → Thread) : (g.updTh t f).nextB = g.nextB := rfl
@[simp] theorem Group.updTh_scrBase (g : Group) (t : Nat) (f : Thread → Thread) : (g.updTh t f).scrBase = g.scrBase := rfl
@[simp] theorem Group.updTh_scrSize (g : Group) (t : Nat) (f : Thread → Thread) : (g.updTh t f).scrSize = g.scrSize := rfl
@[simp] theorem Group.updTh_scratch (g : Group) (t : Nat) (f : Thread → Thread) : (g.updTh t f).scratch = g.scratch := rfl
@[simp] theorem Group.updTh_flags (g : Group) (t : Nat) (f : Thread → Thread) : (g.updTh t f).flags = g.flags := rfl
@[simp] theorem Group.updTh_barph (g : Group) (t : Nat) (f : Thread → Thread) : (g.updTh t f).barph = g.barph := rfl
@[simp] theorem Group.updTh_barAt (g : Group) (t : Nat) (f : Thread → Thread) : (g.updTh t f).barAt = g.barAt := rfl
@[simp] theorem Group.updTh_rings (g : Group) (t : Nat) (f : Thread → Thread) : (g.updTh t f).rings = g.rings := rfl
@[simp] theorem Group.updTh_segs (g : Group) (t : Nat) (f : Thread → Thread) : (g.updTh t f).segs = g.segs := rfl
@[simp] theorem Group.updTh_segWords (g : Group) (t : Nat) (f : Thread → Thread) : (g.updTh t f).segWords = g.segWords := rfl
@[simp] theorem Group.updTh_fixDone (g : Group) (t : Nat) (f : Thread → Thread) : (g.updTh t f).fixDone = g.fixDone := rfl
@[simp] theorem Group.updTh_children (g : Group) (t : Nat) (f : Thread → Thread) : (g.updTh t f).children = g.children := rfl
@[simp] theorem Group.updTh_stop (g : Group) (t : Nat) (f : Thread → Thread) : (g.updTh t f).stop = g.stop := rfl
@[simp] theorem Group.updTh_halted (g : Group) (t : Nat) (f : Thread → Thread) : (g.updTh t f).halted = g.halted := rfl
@[simp] theorem Group.updTh_hardAt (g : Group) (t : Nat) (f : Thread → Thread) : (g.updTh t f).hardAt = g.hardAt := rfl
@[simp] theorem Group.updTh_age0 (g : Group) (t : Nat) (f : Thread → Thread) : (g.updTh t f).age0 = g.age0 := rfl
@[simp] theorem Group.updTh_issues (g : Group) (t : Nat) (f : Thread → Thread) : (g.updTh t f).issues = g.issues := rfl
@[simp] theorem Group.updTh_lanesIssued (g : Group) (t : Nat) (f : Thread → Thread) : (g.updTh t f).lanesIssued = g.lanesIssued := rfl
@[simp] theorem Group.updTh_fills (g : Group) (t : Nat) (f : Thread → Thread) : (g.updTh t f).fills = g.fills := rfl
@[simp] theorem Group.updTh_hits (g : Group) (t : Nat) (f : Thread → Thread) : (g.updTh t f).hits = g.hits := rfl

@[simp] theorem Group.updTeam_id (g : Group) (i : Nat) (f : Team → Team) : (g.updTeam i f).id = g.id := rfl
@[simp] theorem Group.updTeam_rid (g : Group) (i : Nat) (f : Team → Team) : (g.updTeam i f).rid = g.rid := rfl
@[simp] theorem Group.updTeam_die (g : Group) (i : Nat) (f : Team → Team) : (g.updTeam i f).die = g.die := rfl
@[simp] theorem Group.updTeam_core (g : Group) (i : Nat) (f : Team → Team) : (g.updTeam i f).core = g.core := rfl
@[simp] theorem Group.updTeam_part (g : Group) (i : Nat) (f : Team → Team) : (g.updTeam i f).part = g.part := rfl
@[simp] theorem Group.updTeam_part0 (g : Group) (i : Nat) (f : Team → Team) : (g.updTeam i f).part0 = g.part0 := rfl
@[simp] theorem Group.updTeam_gseq (g : Group) (i : Nat) (f : Team → Team) : (g.updTeam i f).gseq = g.gseq := rfl
@[simp] theorem Group.updTeam_share (g : Group) (i : Nat) (f : Team → Team) : (g.updTeam i f).share = g.share := rfl
@[simp] theorem Group.updTeam_shp (g : Group) (i : Nat) (f : Team → Team) : (g.updTeam i f).shp = g.shp := rfl
@[simp] theorem Group.updTeam_base (g : Group) (i : Nat) (f : Team → Team) : (g.updTeam i f).base = g.base := rfl
@[simp] theorem Group.updTeam_ext (g : Group) (i : Nat) (f : Team → Team) : (g.updTeam i f).ext = g.ext := rfl
@[simp] theorem Group.updTeam_threads (g : Group) (i : Nat) (f : Team → Team) : (g.updTeam i f).threads = g.threads := rfl
@[simp] theorem Group.updTeam_teams (g : Group) (i : Nat) (f : Team → Team) : (g.updTeam i f).teams = g.teams.modify i f := rfl
@[simp] theorem Group.updTeam_bundles (g : Group) (i : Nat) (f : Team → Team) : (g.updTeam i f).bundles = g.bundles := rfl
@[simp] theorem Group.updTeam_nextB (g : Group) (i : Nat) (f : Team → Team) : (g.updTeam i f).nextB = g.nextB := rfl
@[simp] theorem Group.updTeam_scrBase (g : Group) (i : Nat) (f : Team → Team) : (g.updTeam i f).scrBase = g.scrBase := rfl
@[simp] theorem Group.updTeam_scrSize (g : Group) (i : Nat) (f : Team → Team) : (g.updTeam i f).scrSize = g.scrSize := rfl
@[simp] theorem Group.updTeam_scratch (g : Group) (i : Nat) (f : Team → Team) : (g.updTeam i f).scratch = g.scratch := rfl
@[simp] theorem Group.updTeam_flags (g : Group) (i : Nat) (f : Team → Team) : (g.updTeam i f).flags = g.flags := rfl
@[simp] theorem Group.updTeam_barph (g : Group) (i : Nat) (f : Team → Team) : (g.updTeam i f).barph = g.barph := rfl
@[simp] theorem Group.updTeam_barAt (g : Group) (i : Nat) (f : Team → Team) : (g.updTeam i f).barAt = g.barAt := rfl
@[simp] theorem Group.updTeam_rings (g : Group) (i : Nat) (f : Team → Team) : (g.updTeam i f).rings = g.rings := rfl
@[simp] theorem Group.updTeam_segs (g : Group) (i : Nat) (f : Team → Team) : (g.updTeam i f).segs = g.segs := rfl
@[simp] theorem Group.updTeam_segWords (g : Group) (i : Nat) (f : Team → Team) : (g.updTeam i f).segWords = g.segWords := rfl
@[simp] theorem Group.updTeam_fixDone (g : Group) (i : Nat) (f : Team → Team) : (g.updTeam i f).fixDone = g.fixDone := rfl
@[simp] theorem Group.updTeam_children (g : Group) (i : Nat) (f : Team → Team) : (g.updTeam i f).children = g.children := rfl
@[simp] theorem Group.updTeam_stop (g : Group) (i : Nat) (f : Team → Team) : (g.updTeam i f).stop = g.stop := rfl
@[simp] theorem Group.updTeam_halted (g : Group) (i : Nat) (f : Team → Team) : (g.updTeam i f).halted = g.halted := rfl
@[simp] theorem Group.updTeam_hardAt (g : Group) (i : Nat) (f : Team → Team) : (g.updTeam i f).hardAt = g.hardAt := rfl
@[simp] theorem Group.updTeam_age0 (g : Group) (i : Nat) (f : Team → Team) : (g.updTeam i f).age0 = g.age0 := rfl
@[simp] theorem Group.updTeam_issues (g : Group) (i : Nat) (f : Team → Team) : (g.updTeam i f).issues = g.issues := rfl
@[simp] theorem Group.updTeam_lanesIssued (g : Group) (i : Nat) (f : Team → Team) : (g.updTeam i f).lanesIssued = g.lanesIssued := rfl
@[simp] theorem Group.updTeam_fills (g : Group) (i : Nat) (f : Team → Team) : (g.updTeam i f).fills = g.fills := rfl
@[simp] theorem Group.updTeam_hits (g : Group) (i : Nat) (f : Team → Team) : (g.updTeam i f).hits = g.hits := rfl

/-! ## Threads, teams and bundles -/

@[simp] theorem Thread.setV_team (h : Thread) (n : BitVec 6) (x : W32) : (h.setV n x).team = h.team := rfl
@[simp] theorem Thread.setV_lane (h : Thread) (n : BitVec 6) (x : W32) : (h.setV n x).lane = h.lane := rfl
@[simp] theorem Thread.setV_live (h : Thread) (n : BitVec 6) (x : W32) : (h.setV n x).live = h.live := rfl
@[simp] theorem Thread.setV_bad (h : Thread) (n : BitVec 6) (x : W32) : (h.setV n x).bad = h.bad.filter (· != n) := rfl
@[simp] theorem Thread.setV_p (h : Thread) (n : BitVec 6) (x : W32) : (h.setV n x).p = h.p := rfl
@[simp] theorem Thread.setV_link (h : Thread) (n : BitVec 6) (x : W32) : (h.setV n x).link = h.link := rfl
@[simp] theorem Thread.setV_tri (h : Thread) (n : BitVec 6) (x : W32) : (h.setV n x).tri = h.tri := rfl
@[simp] theorem Thread.setV_emode (h : Thread) (n : BitVec 6) (x : W32) : (h.setV n x).emode = h.emode := rfl
@[simp] theorem Team.setS_idx (h : Team) (n : BitVec 5) (x : W64) : (h.setS n x).idx = h.idx := rfl
@[simp] theorem Team.putS_idx (h : Team) (k i : Nat) (n : BitVec 5) (x : W64) : (h.putS k i n x).idx = h.idx := rfl
@[simp] theorem Team.setM_idx (h : Team) (n : BitVec 4) (x : W32) : (h.setM n x).idx = h.idx := rfl
@[simp] theorem Team.setM_s (h : Team) (n : BitVec 4) (x : W32) : (h.setM n x).s = h.s := rfl
@[simp] theorem Team.setS_m (h : Team) (n : BitVec 5) (x : W64) : (h.setS n x).m = h.m := rfl
@[simp] theorem Team.putS_m (h : Team) (k i : Nat) (n : BitVec 5) (x : W64) : (h.putS k i n x).m = h.m := rfl
@[simp] theorem Team.setS_q (h : Team) (n : BitVec 5) (x : W64) : (h.setS n x).q = h.q := rfl
@[simp] theorem Team.putS_q (h : Team) (k i : Nat) (n : BitVec 5) (x : W64) : (h.putS k i n x).q = h.q := rfl
@[simp] theorem Team.setM_q (h : Team) (n : BitVec 4) (x : W32) : (h.setM n x).q = h.q := rfl
@[simp] theorem Team.setS_joins (h : Team) (n : BitVec 5) (x : W64) : (h.setS n x).joins = h.joins := rfl
@[simp] theorem Team.putS_joins (h : Team) (k i : Nat) (n : BitVec 5) (x : W64) : (h.putS k i n x).joins = h.joins := rfl
@[simp] theorem Team.setM_joins (h : Team) (n : BitVec 4) (x : W32) : (h.setM n x).joins = h.joins := rfl
@[simp] theorem Team.setS_waits (h : Team) (n : BitVec 5) (x : W64) : (h.setS n x).waits = h.waits := rfl
@[simp] theorem Team.putS_waits (h : Team) (k i : Nat) (n : BitVec 5) (x : W64) : (h.putS k i n x).waits = h.waits := rfl
@[simp] theorem Team.setM_waits (h : Team) (n : BitVec 4) (x : W32) : (h.setM n x).waits = h.waits := rfl
@[simp] theorem Team.setS_pend (h : Team) (n : BitVec 5) (x : W64) : (h.setS n x).pend = h.pend := rfl
@[simp] theorem Team.putS_pend (h : Team) (k i : Nat) (n : BitVec 5) (x : W64) : (h.putS k i n x).pend = h.pend := rfl
@[simp] theorem Team.setM_pend (h : Team) (n : BitVec 4) (x : W32) : (h.setM n x).pend = h.pend := rfl
@[simp] theorem Team.setS_wrow (h : Team) (n : BitVec 5) (x : W64) : (h.setS n x).wrow = h.wrow := rfl
@[simp] theorem Team.putS_wrow (h : Team) (k i : Nat) (n : BitVec 5) (x : W64) : (h.putS k i n x).wrow = h.wrow := rfl
@[simp] theorem Team.setM_wrow (h : Team) (n : BitVec 4) (x : W32) : (h.setM n x).wrow = h.wrow := rfl
@[simp] theorem Team.setS_wrow0 (h : Team) (n : BitVec 5) (x : W64) : (h.setS n x).wrow0 = h.wrow0 := rfl
@[simp] theorem Team.putS_wrow0 (h : Team) (k i : Nat) (n : BitVec 5) (x : W64) : (h.putS k i n x).wrow0 = h.wrow0 := rfl
@[simp] theorem Team.setM_wrow0 (h : Team) (n : BitVec 4) (x : W32) : (h.setM n x).wrow0 = h.wrow0 := rfl
@[simp] theorem Team.setS_held (h : Team) (n : BitVec 5) (x : W64) : (h.setS n x).held = h.held := rfl
@[simp] theorem Team.putS_held (h : Team) (k i : Nat) (n : BitVec 5) (x : W64) : (h.putS k i n x).held = h.held := rfl
@[simp] theorem Team.setM_held (h : Team) (n : BitVec 4) (x : W32) : (h.setM n x).held = h.held := rfl
@[simp] theorem Team.setS_sOld (h : Team) (n : BitVec 5) (x : W64) : (h.setS n x).sOld = h.sOld := rfl
@[simp] theorem Team.setM_sOld (h : Team) (n : BitVec 4) (x : W32) : (h.setM n x).sOld = h.sOld := rfl
@[simp] theorem Team.setS_sClk (h : Team) (n : BitVec 5) (x : W64) : (h.setS n x).sClk = h.sClk := rfl
@[simp] theorem Team.setM_sClk (h : Team) (n : BitVec 4) (x : W32) : (h.setM n x).sClk = h.sClk := rfl
@[simp] theorem Team.setS_sSeq (h : Team) (n : BitVec 5) (x : W64) : (h.setS n x).sSeq = h.sSeq := rfl
@[simp] theorem Team.setM_sSeq (h : Team) (n : BitVec 4) (x : W32) : (h.setM n x).sSeq = h.sSeq := rfl
@[simp] theorem Bundle.passed_id (b : Bundle) (pc : W64) (done : Bool) (byp : List BypVal) (age : Nat) : (b.passed pc done byp age).id = b.id := rfl
@[simp] theorem Bundle.passed_pc (b : Bundle) (pc : W64) (done : Bool) (byp : List BypVal) (age : Nat) : (b.passed pc done byp age).pc = b.pc := rfl
@[simp] theorem Bundle.passed_ts (b : Bundle) (pc : W64) (done : Bool) (byp : List BypVal) (age : Nat) : (b.passed pc done byp age).ts = b.ts := rfl
@[simp] theorem Bundle.passed_st (b : Bundle) (pc : W64) (done : Bool) (byp : List BypVal) (age : Nat) : (b.passed pc done byp age).st = b.st := rfl
@[simp] theorem Bundle.passed_npc (b : Bundle) (pc : W64) (done : Bool) (byp : List BypVal) (age : Nat) : (b.passed pc done byp age).npc = b.npc := rfl
@[simp] theorem Bundle.passed_nm (b : Bundle) (pc : W64) (done : Bool) (byp : List BypVal) (age : Nat) : (b.passed pc done byp age).nm = b.nm := rfl
@[simp] theorem Bundle.passed_outst (b : Bundle) (pc : W64) (done : Bool) (byp : List BypVal) (age : Nat) : (b.passed pc done byp age).outst = b.outst := rfl
@[simp] theorem Bundle.passed_byp (b : Bundle) (pc : W64) (done : Bool) (byp : List BypVal) (age : Nat) : (b.passed pc done byp age).byp = if done then [] else (byp :: b.byp).take 3 := rfl
@[simp] theorem Bundle.passed_haz (b : Bundle) (pc : W64) (done : Bool) (byp : List BypVal) (age : Nat) : (b.passed pc done byp age).haz = b.haz := rfl
@[simp] theorem Bundle.passed_dfault (b : Bundle) (pc : W64) (done : Bool) (byp : List BypVal) (age : Nat) : (b.passed pc done byp age).dfault = b.dfault := rfl
@[simp] theorem Bundle.passed_dall (b : Bundle) (pc : W64) (done : Bool) (byp : List BypVal) (age : Nat) : (b.passed pc done byp age).dall = b.dall := rfl
@[simp] theorem Bundle.passed_runEnded (b : Bundle) (pc : W64) (done : Bool) (byp : List BypVal) (age : Nat) : (b.passed pc done byp age).runEnded = done := rfl
@[simp] theorem Bundle.passed_safe (b : Bundle) (pc : W64) (done : Bool) (byp : List BypVal) (age : Nat) : (b.passed pc done byp age).safe = b.safe := rfl
@[simp] theorem Bundle.passed_skipBk (b : Bundle) (pc : W64) (done : Bool) (byp : List BypVal) (age : Nat) : (b.passed pc done byp age).skipBk = false := rfl
@[simp] theorem Bundle.passed_watch (b : Bundle) (pc : W64) (done : Bool) (byp : List BypVal) (age : Nat) : (b.passed pc done byp age).watch = b.watch := rfl
@[simp] theorem Bundle.passed_age (b : Bundle) (pc : W64) (done : Bool) (byp : List BypVal) (age : Nat) : (b.passed pc done byp age).age = age := rfl
@[simp] theorem Bundle.passed_lost (b : Bundle) (pc : W64) (done : Bool) (byp : List BypVal) (age : Nat) : (b.passed pc done byp age).lost = b.lost := rfl
@[simp] theorem Bundle.passed_atClk (b : Bundle) (pc : W64) (done : Bool) (byp : List BypVal) (age : Nat) : (b.passed pc done byp age).atClk = b.atClk := rfl
@[simp] theorem Bundle.passed_lastPc (b : Bundle) (pc : W64) (done : Bool) (byp : List BypVal) (age : Nat) : (b.passed pc done byp age).lastPc = pc := rfl
@[simp] theorem Bundle.passed_part (b : Bundle) (pc : W64) (done : Bool) (byp : List BypVal) (age : Nat) : (b.passed pc done byp age).part = [] := rfl
@[simp] theorem Bundle.passed_blks (b : Bundle) (pc : W64) (done : Bool) (byp : List BypVal) (age : Nat) : (b.passed pc done byp age).blks = [] := rfl
@[simp] theorem Bundle.passed_acted (b : Bundle) (pc : W64) (done : Bool) (byp : List BypVal) (age : Nat) : (b.passed pc done byp age).acted = [] := rfl

end Sys2Proof.Machine
end

