-- ==== Sys2Proof/Laws/Memory.lean ====
section
/-! SUPPORT. Memory in canonical form: every operation keeps it, a write is read back, and no other byte changes. -/

namespace Sys2Proof.Machine

/-! ## The form -/

theorem Memory.wfFrom_mono {lo lo' : Nat} {m : Memory} (h : Memory.wfFrom lo m = true) (hl : lo' ≤ lo) : Memory.wfFrom lo' m = true := by
  cases m with
  | nil => rfl
  | cons c m =>
    simp only [Memory.wfFrom, Bool.and_eq_true, decide_eq_true_eq] at h ⊢
    exact ⟨⟨by omega, h.1.2⟩, h.2⟩

/-- Below the first address of a canonical memory every byte is unlisted. -/
theorem Memory.read1_below {lo : Nat} {m : Memory} (h : Memory.wfFrom lo m = true) {x : Nat} (hx : x < lo) : m.read1 x = unlisted := by
  cases m with
  | nil => rfl
  | cons c m =>
    simp only [Memory.wfFrom, Bool.and_eq_true, decide_eq_true_eq] at h
    have h1 : ¬ c.1 = x := by omega
    have h2 : x < c.1 := by omega
    simp [Memory.read1, h1, h2]

theorem Memory.write1_wfFrom {lo : Nat} {m : Memory} (h : Memory.wfFrom lo m = true) (x : Nat) (b : Byte) (hx : lo ≤ x) :
    Memory.wfFrom lo (m.write1 x b) = true := by
  induction m generalizing lo with
  | nil =>
    rw [Memory.write1]
    split
    · rfl
    · simp_all [Memory.wfFrom]
  | cons c m ih =>
    simp only [Memory.wfFrom, Bool.and_eq_true, decide_eq_true_eq] at h
    obtain ⟨⟨h1, h2⟩, h3⟩ := h
    rw [Memory.write1]
    split
    · split
      · exact Memory.wfFrom_mono h3 (by omega)
      · rename_i he hb
        have : c.1 = x := by simpa using he
        subst this
        simp_all [Memory.wfFrom]
    · split
      · split
        · simp [Memory.wfFrom, h1, h2, h3]
        · simp_all [Memory.wfFrom]
      · simp only [Memory.wfFrom, Bool.and_eq_true, decide_eq_true_eq]
        rename_i he hlt
        have : c.1 ≠ x := by simpa using he
        exact ⟨⟨h1, h2⟩, ih h3 (by omega)⟩

theorem Memory.write1_wf {m : Memory} (h : m.wf = true) (x : Nat) (b : Byte) : (m.write1 x b).wf = true :=
  Memory.write1_wfFrom h x b (Nat.zero_le x)

theorem Memory.write_wf {m : Memory} (h : m.wf = true) (a : Nat) (bs : List Byte) : (m.write a bs).wf = true := by
  induction bs generalizing m a with
  | nil => exact h
  | cons b bs ih => exact ih (Memory.write1_wf h a b) (a + 1)

theorem Memory.filter_wfFrom {lo : Nat} {m : Memory} (h : Memory.wfFrom lo m = true) (p : Host.Cell → Bool) :
    Memory.wfFrom lo (m.filter p) = true := by
  induction m generalizing lo with
  | nil => rfl
  | cons c m ih =>
    simp only [Memory.wfFrom, Bool.and_eq_true, decide_eq_true_eq] at h
    obtain ⟨⟨h1, h2⟩, h3⟩ := h
    rw [List.filter_cons]
    split
    · simp [Memory.wfFrom, h1, h2, ih h3]
    · exact Memory.wfFrom_mono (ih h3) (by omega)

/-- Keeping some of the bytes keeps the form. -/
theorem Memory.filter_wf {m : Memory} (h : m.wf = true) (p : Host.Cell → Bool) : Memory.wf (m.filter p) = true := Memory.filter_wfFrom h p
theorem Memory.clear_wf {m : Memory} (h : m.wf = true) (a n : Nat) : (m.clear a n).wf = true := Memory.filter_wf h _
theorem Memory.writeN_wf {m : Memory} (h : m.wf = true) (a n x : Nat) : (m.writeN a n x).wf = true := Memory.write_wf h a _

/-! ## Reading what was written -/

theorem Memory.read1_write1_same {lo : Nat} {m : Memory} (h : Memory.wfFrom lo m = true) (x : Nat) (b : Byte) :
    (m.write1 x b).read1 x = b := by
  induction m generalizing lo with
  | nil =>
    rw [Memory.write1]
    split
    · simp_all [Memory.read1]
    · simp [Memory.read1]
  | cons c m ih =>
    simp only [Memory.wfFrom, Bool.and_eq_true, decide_eq_true_eq] at h
    obtain ⟨⟨h1, h2⟩, h3⟩ := h
    rw [Memory.write1]
    split
    · rename_i he
      have : c.1 = x := by simpa using he
      split
      · rw [Memory.read1_below h3 (by omega)]; simp_all
      · simp [Memory.read1]
    · rename_i he
      have hne : c.1 ≠ x := by simpa using he
      split
      · rename_i hlt
        split
        · simp_all [Memory.read1]
        · simp [Memory.read1]
      · rename_i hlt
        simp [Memory.read1, hne, hlt, ih h3]

theorem Memory.read1_write1_other {lo : Nat} {m : Memory} (h : Memory.wfFrom lo m = true) (x y : Nat) (b : Byte) (hy : y ≠ x) :
    (m.write1 x b).read1 y = m.read1 y := by
  induction m generalizing lo with
  | nil =>
    rw [Memory.write1]
    split
    · rfl
    · simp [Memory.read1, Ne.symm hy]
  | cons c m ih =>
    simp only [Memory.wfFrom, Bool.and_eq_true, decide_eq_true_eq] at h
    obtain ⟨⟨h1, h2⟩, h3⟩ := h
    rw [Memory.write1]
    split
    · rename_i he
      have he : c.1 = x := by simpa using he
      have hc : c.1 ≠ y := by omega
      split
      · by_cases hlt : y < c.1
        · rw [Memory.read1_below h3 (by omega)]; simp [Memory.read1, hc, hlt]
        · simp [Memory.read1, hc, hlt]
      · simp [Memory.read1, Ne.symm hy, he]
    · rename_i he
      have hne : c.1 ≠ x := by simpa using he
      split
      · rename_i hlt
        split
        · rfl
        · by_cases hy2 : y < x
          · have : ¬ c.1 = y := by omega
            have h4 : y < c.1 := by omega
            simp [Memory.read1, Ne.symm hy, hy2, this, h4]
          · simp [Memory.read1, Ne.symm hy, hy2]
      · simp [Memory.read1, ih h3]

theorem Memory.read1_write_other {m : Memory} (h : m.wf = true) (a : Nat) (bs : List Byte) (x : Nat) (hx : x < a ∨ a + bs.length ≤ x) :
    (m.write a bs).read1 x = m.read1 x := by
  induction bs generalizing m a with
  | nil => rfl
  | cons b bs ih =>
    simp only [List.length_cons] at hx
    rw [Memory.write, ih (Memory.write1_wf h a b) (a + 1) (by omega)]
    exact Memory.read1_write1_other h a x b (by omega)

/-- A write is read back. -/
theorem Memory.read_write_same {m : Memory} (h : m.wf = true) (a : Nat) (bs : List Byte) : (m.write a bs).read a bs.length = bs := by
  induction bs generalizing m a with
  | nil => rfl
  | cons b bs ih =>
    have hw := Memory.write1_wf h a b
    rw [Memory.write, List.length_cons, Memory.read, Memory.read1_write_other hw (a + 1) bs a (by omega),
      Memory.read1_write1_same h a b, ih hw (a + 1)]

/-- Bytes apart from a write read as before. -/
theorem Memory.read_write_other {m : Memory} (h : m.wf = true) (a : Nat) (bs : List Byte) (x n : Nat) (hx : x + n ≤ a ∨ a + bs.length ≤ x) :
    (m.write a bs).read x n = m.read x n := by
  induction n generalizing x with
  | zero => rfl
  | succ n ih => rw [Memory.read, Memory.read, ih (x + 1) (by omega), Memory.read1_write_other h a bs x (by omega)]

@[simp] theorem Memory.read_length (m : Memory) (a n : Nat) : (m.read a n).length = n := by
  induction n generalizing a with
  | zero => rfl
  | succ n ih => simp [Memory.read, ih]

/-! ## The state's memory -/

/-- A write by physical address keeps memory canonical, and changes nothing else of the state. -/
theorem State.physWrite_wf (s : State) (h : s.mem.phys.wf = true) (pa : Nat) (bs : List Byte) : (s.physWrite pa bs).mem.phys.wf = true :=
  Memory.write_wf h _ _

theorem State.physWrite_frame (s : State) (pa : Nat) (bs : List Byte) :
    s.physWrite pa bs = { s with mem := { s.mem with phys := (s.physWrite pa bs).mem.phys } } := rfl

end Sys2Proof.Machine
end

