-- ==== Sys2Proof/Laws/Ops.lean ====
section
/-! SUPPORT. What the shared operations do: lists keyed by a test, finding and changing units, the gate, and retiring an
instruction. -/

namespace Sys2Proof.Machine

open Sys2Proof.Safety

/-! ## Lists keyed by a test -/

theorem find_upd_same {α : Type} (p : α → Bool) (f : α → α) (l : List α) (hf : ∀ x, p x = true → p (f x) = true) :
    (upd p f l).find? p = (l.find? p).map f := by
  induction l with
  | nil => rfl
  | cons a l ih =>
    rw [show upd p f (a :: l) = (if p a then f a else a) :: upd p f l from rfl, List.find?_cons, List.find?_cons]
    by_cases h : p a = true
    · simp [h, hf a h]
    · simp [h, ih]

theorem find_upd_other {α : Type} (p q : α → Bool) (f : α → α) (l : List α) (h1 : ∀ x, p x = true → q x = false)
    (h2 : ∀ x, p x = true → q (f x) = false) : (upd p f l).find? q = l.find? q := by
  induction l with
  | nil => rfl
  | cons a l ih =>
    rw [show upd p f (a :: l) = (if p a then f a else a) :: upd p f l from rfl, List.find?_cons, List.find?_cons]
    by_cases h : p a = true
    · simp [h, h1 a h, h2 a h, ih]
    · simp [h, ih]

/-! ## Groups and bundles -/

theorem State.group_id {s : State} {i : Nat} {g : Group} (h : s.group? i = some g) : g.id = i := by
  simpa using List.find?_some h

theorem Group.bundle_id {g : Group} {i : Nat} {b : Bundle} (h : g.bundle? i = some b) : b.id = i := by
  simpa using List.find?_some h

theorem State.group_updGroup_same (s : State) (i : Nat) (f : Group → Group) (hf : ∀ g, (f g).id = g.id) :
    (s.updGroup i f).group? i = (s.group? i).map f :=
  find_upd_same _ _ _ (fun g hg => by simpa [hf] using hg)

theorem State.group_updGroup_other (s : State) (i j : Nat) (f : Group → Group) (hf : ∀ g, (f g).id = g.id) (h : j ≠ i) :
    (s.updGroup i f).group? j = s.group? j :=
  find_upd_other _ _ _ _ (fun g hg => by simp_all; omega) (fun g hg => by simp_all; omega)

theorem Group.bundle_updBundle_same (g : Group) (i : Nat) (f : Bundle → Bundle) (hf : ∀ b, (f b).id = b.id) :
    (g.updBundle i f).bundle? i = (g.bundle? i).map f :=
  find_upd_same _ _ _ (fun b hb => by simpa [hf] using hb)

theorem Group.bundle_updBundle_other (g : Group) (i j : Nat) (f : Bundle → Bundle) (hf : ∀ b, (f b).id = b.id) (h : j ≠ i) :
    (g.updBundle i f).bundle? j = g.bundle? j :=
  find_upd_other _ _ _ _ (fun g hg => by simp_all; omega) (fun g hg => by simp_all; omega)

/-! ## The counters -/

theorem updOr_find_other {α : Type} (p q : α → Bool) (d : α) (f : α → α) (l : List α) (h1 : ∀ x, p x = true → q x = false)
    (h2 : ∀ x, p x = true → q (f x) = false) (h3 : q (f d) = false) : (updOr p d f l).find? q = l.find? q := by
  unfold updOr
  split
  · exact find_upd_other p q f l h1 h2
  · simp [List.find?_append, h3]

theorem updOr_find_same {α : Type} (p : α → Bool) (d : α) (f : α → α) (l : List α) (h : ∀ x, p x = true → p (f x) = true)
    (hd : p (f d) = true) : (updOr p d f l).find? p = some (f ((l.find? p).getD d)) := by
  unfold updOr
  split
  · rename_i ha
    rw [find_upd_same p f l h]
    obtain ⟨x, hx⟩ : ∃ x, l.find? p = some x := Option.isSome_iff_exists.mp (by simpa [List.find?_isSome] using ha)
    simp [hx]
  · rename_i ha
    have : l.find? p = none := by simpa using ha
    simp [List.find?_append, this, hd]

theorem State.part_updPart_same (s : State) (n : Nat) (f : Part → Part) (hf : ∀ p, (f p).num = p.num) :
    (s.updPart n f).part n = f (s.part n) := by
  show ((updOr _ _ f _).find? _).getD _ = _
  rw [updOr_find_same _ _ _ _ (fun x hx => by simpa [hf] using hx) (by simp [hf, dfltPart])]
  rfl

theorem State.part_updPart_other (s : State) (n m : Nat) (f : Part → Part) (hf : ∀ p, (f p).num = p.num) (h : m ≠ n) :
    (s.updPart n f).part m = s.part m := by
  show ((updOr _ _ f _).find? _).getD _ = _
  rw [updOr_find_other _ _ _ _ _ (fun x hx => by simp_all; omega) (fun x hx => by simp_all; omega) (by simp [hf, dfltPart]; omega)]
  rfl

theorem State.queue_updQueue (s : State) (n m : Nat) (f : Queue → Queue) (hf : ∀ q, (f q).qid = q.qid) :
    (s.updQueue n f).queue? m = (s.queue? m).map (fun q => if m = n then f q else q) := by
  by_cases h : m = n
  · subst h
    simp only [if_true]
    exact find_upd_same _ _ _ (fun q hq => by simpa [hf] using hq)
  · simp only [if_neg h, Option.map_id']
    exact find_upd_other _ _ _ _ (fun g hg => by simp_all; omega) (fun g hg => by simp_all; omega)

/-- What a counter changes. -/
theorem State.count_kept (s : State) (part e n : Nat) (q : Option Nat) (gid : Nat) : Kept s (s.count part e n q) gid := by
  have hp : ∀ k (f : Part → Part), (∀ p, f p = { p with cnt := (f p).cnt }) →
      ∀ n, { (s.updPart k f).part n with cnt := (s.part n).cnt } = s.part n := by
    intro k f hf n
    have hnum : ∀ p, (f p).num = p.num := fun p => by rw [hf p]
    by_cases h : n = k
    · subst h; rw [State.part_updPart_same s n f hnum, hf]
    · rw [State.part_updPart_other s k n f hnum h]
  cases q with
  | none => exact ⟨rfl, hp part (Part.bump e n) (fun _ => rfl), fun _ => rfl, fun _ _ => rfl⟩
  | some q =>
    refine ⟨rfl, hp part (Part.bump e n) (fun _ => rfl), fun m => ?_, fun _ _ => rfl⟩
    show Option.map _ (((s.updPart part (Part.bump e n)).updQueue q (Queue.bump e n)).queue? m) = _
    rw [State.queue_updQueue _ _ _ (Queue.bump e n) (fun _ => rfl), Option.map_map]
    show Option.map _ (s.queue? m) = _
    congr 1
    funext y
    by_cases h : m = q <;> simp [h, Queue.bump]

theorem Kept_trans {x y z : State} {i : Nat} (h1 : Kept x y i) (h2 : Kept y z i) : Kept x z i := by
  refine ⟨?_, fun n => ?_, fun q => (h2.queues q).trans (h1.queues q), fun j hj => (h2.groups j hj).trans (h1.groups j hj)⟩
  · have := h2.rest; rw [h1.rest] at this; rw [this]
  · have a := h1.parts n
    have b := h2.parts n
    rw [← a, ← b]

theorem Kept_updGroup {s : State} {i : Nat} (f : Group → Group) (hf : ∀ g, (f g).id = g.id) : Kept s (s.updGroup i f) i :=
  ⟨rfl, fun _ => rfl, fun _ => rfl, fun j hj => State.group_updGroup_other s i j f hf hj⟩

theorem State.counted_kept (s : State) (c : Ctx) (gid : Nat) : Kept s (s.counted c) gid :=
  Kept_trans (State.count_kept s _ _ _ _ gid) (State.count_kept _ _ _ _ _ gid)

theorem State.count_groups (s : State) (part e n : Nat) (q : Option Nat) : (s.count part e n q).groups = s.groups := by
  cases q <;> rfl

theorem State.counted_group (s : State) (c : Ctx) (i : Nat) : (s.counted c).group? i = s.group? i := by
  unfold State.group? State.counted; rw [State.count_groups, State.count_groups]

/-! ## The gate -/

/-- An instruction that may issue does. -/
theorem gate_ready {p : Spec} {s x : State} {c0 c : Ctx} (h : Ready p s c0 x c) : gate s p = .go c x := by
  obtain ⟨h1, h2, h3, h4, h5, h6, hp, h7, h11, h8, h9, h10, h12⟩ := h
  obtain ⟨c1, hc1, e6⟩ := Option.map_eq_some_iff.mp h6
  rw [← e6] at h5 hp h11 h8 h12
  have eb : c.b = (c1.at_ p.g).b := by rw [e6]
  have eg : c.g = (c1.at_ p.g).g := by rw [e6]
  have e0 : (c1.at_ p.g).bad = [] := by rw [e6]
  rw [eb] at h7 h8 h9 h10
  rw [eg] at h7 h8
  have hc : c = { c1.at_ p.g with bad := (Ctx.spoilt (c1.at_ p.g) p).map (·.1) } := by rw [← hp, e6]
  have w : overWindow (c0.at_ p.g).r.h (guardRef p.g ++ p.rd ++ p.wr) = false := by
    rw [overWindow, List.any_eq_false]
    intro r hr
    rw [Bool.not_eq_true, List.any_eq_false]
    intro n hn
    have := h2 r hr n hn
    show ¬ decide (c0.r.h ≤ n.toNat) = true
    simpa using this
  have tok : ∀ l, (∀ r ∈ l, r ∈ p.rd ++ p.wr) →
      pendingOf (c1.at_ p.g) (((c1.at_ p.g).teams p.g).filter (fun t => !((c1.at_ p.g).b.part.contains t))) l = none := by
    intro l hl
    rw [pendingOf, List.find?_eq_none]
    intro r hr
    cases r with
    | s n =>
      simp only [List.any_eq_true, not_exists, not_and, List.mem_filter]
      intro t ht
      have := h8 t ht.1 (by simpa using ht.2) n (hl _ hr)
      simpa using this
    | _ => simp
  have haz : (guardRef p.g ++ p.rd ++ p.wr).find? (fun r => (c1.at_ p.g).b.hazards.any (RegRef.meets r)) = none := by
    rw [List.find?_eq_none]
    intro r hr
    rw [Bool.not_eq_true, List.any_eq_false]
    intro y hy
    simpa using h9 r hr y hy
  have met : ballotMet (begun s p c0) p (c1.at_ p.g) = none := by
    unfold ballotMet
    cases hp : p.arm with
    | none => rfl
    | some a => simp [h11 a hp]
  have coll : (if p.coll then collGate (begun s p c0) (c1.at_ p.g) else none) = none := by
    split
    · rename_i hc
      obtain ⟨a, b⟩ := h7 hc
      unfold collGate
      rw [if_pos]
      rw [Bool.and_eq_true]
      exact ⟨by simpa using a, by simpa using b⟩
    · rfl
  have room : (p.late && decide ((c1.at_ p.g).b.outst.length ≥ 63)) = false := by
    cases hl : p.late
    · rfl
    · have := h10 hl; simp; omega
  have priv : (p.priv && !(c0.at_ p.g).r.debug) = false := by
    cases hp : p.priv
    · rfl
    · have : (c0.at_ p.g).r.debug = true := h3 hp
      simp [this]
  unfold gate
  rw [h1]
  simp only [w, priv, Bool.false_eq_true, if_false]
  have e1 : ((p.ends || p.coll) && !((c0.at_ p.g).g.canEnd (c0.at_ p.g).b.id)) = false := by
    cases he : (p.ends || p.coll)
    · rfl
    · have : (c0.at_ p.g).g.canEnd (c0.at_ p.g).b.id = true := (h4 he).1
      simp [this]
  have e2 : ((p.ends || p.coll) && (c0.at_ p.g).b.dfault.isSome) = false := by
    cases he : (p.ends || p.coll)
    · rfl
    · have : (c0.at_ p.g).b.dfault = none := (h4 he).2
      simp [this]
  simp only [e1, e2, Bool.false_eq_true, if_false]
  have e3 : (if (p.ends || p.coll) = true then endRun s (c0.at_ p.g).g.id (c0.at_ p.g).b.id (c0.at_ p.g).c.pc else s) = begun s p c0 := rfl
  rw [e3, hc1]
  simp only [met, coll, tok p.rd (fun r hr => List.mem_append_left _ hr), tok p.wr (fun r hr => List.mem_append_right _ hr), haz, room,
    h12, Option.isSome_none, Bool.false_eq_true, if_false, Bool.or_false]
  rw [h5, hc]
  unfold metPoison
  split
  · rename_i hs
    rw [List.isEmpty_iff.mp hs, List.map_nil, ← e0]
  · rfl

theorem issue_ready {p : Spec} {s x : State} {c0 c : Ctx} (h : Ready p s c0 x c) (body : Ctx → State → State) :
    issue s p body = .next (body c x) := by
  unfold issue; rw [gate_ready h]

end Sys2Proof.Machine
end

