-- ==== Sys2Proof/Laws/PerInstr.lean ====
section
/-! SUPPORT. Encodings, instruction by instruction: the bytes of an instruction are as many as its first two bytes say (R146,
R158, R161); an event has none. -/

namespace Sys2Proof

theorem wordOf_bit0 (f : BitVec 18) (g : BitVec 3) (op : Nat) (t m : Bool) : (wordOf f g op t m).getLsbD 0 = true := by
  simp only [wordOf, BitVec.getLsbD_append]; rfl

/-- The major opcode of R148. -/
theorem wordOf_major (f : BitVec 18) (g : BitVec 3) (op : Nat) (t m : Bool) :
    (wordOf f g op t m).extractLsb 8 3 = BitVec.ofNat 6 (op / 4) := by
  apply BitVec.eq_of_getLsbD_eq
  intro i hi
  simp only [wordOf, BitVec.getLsbD_extractLsb, BitVec.getLsbD_append]
  have : i < 6 := by omega
  interval_cases i <;> simp

theorem isPrefix_word4 (w : W32) : isPrefix (w.extractLsb 7 0) (w.extractLsb 15 8) = (w.extractLsb 8 3 == 63#6) := by
  have h : ((w.extractLsb 15 8).getLsbD 0) = decide ((w.toNat / 256) % 2 = 1) := by
    rw [BitVec.getLsbD_extractLsb]
    simp [BitVec.getLsbD, Nat.testBit_eq_decide_div_mod_eq]
  rw [isPrefix, h, Bool.eq_iff_iff]
  simp only [Bool.and_eq_true, beq_iff_eq, decide_eq_true_eq, BitVec.toNat_eq, BitVec.extractLsb_toNat, Nat.shiftRight_eq_div_pow]
  simp
  omega

theorem isShort_word4 (w : W32) : isShort (w.extractLsb 7 0) = !(w.getLsbD 0) := by
  rw [isShort, BitVec.getLsbD_extractLsb]; simp

/-- Framing of a word with or without a prefix. -/
def Framed (bs : List Byte) : Prop := bs = [] ∨ bs.length = lenOf (bs.getD 0 0) (bs.getD 1 0)

theorem framed_wordBytes (f : BitVec 18) (g : BitVec 3) (op : Nat) (t m : Bool) (p : Option (BitVec 25)) (h : op < 252) :
    Framed (wordBytes (wordOf f g op t m) p) := by
  right
  cases p with
  | none =>
    have h1 : isShort ((wordOf f g op t m).extractLsb 7 0) = false := by rw [isShort_word4, wordOf_bit0]; rfl
    have h2 : isPrefix ((wordOf f g op t m).extractLsb 7 0) ((wordOf f g op t m).extractLsb 15 8) = false := by
      rw [isPrefix_word4, wordOf_major, beq_eq_false_iff_ne, Ne, BitVec.toNat_eq]
      simp only [BitVec.toNat_ofNat]; omega
    show 4 = lenOf _ _
    rw [lenOf]
    simp only [wordBytes, word4, List.getD_cons_zero, List.getD_cons_succ, h1, h2]
    rfl
  | some q =>
    have h1 : isShort ((prefixWord q).extractLsb 7 0) = false := by
      rw [isShort_word4]; simp only [prefixWord, BitVec.getLsbD_append]; rfl
    have h2 : isPrefix ((prefixWord q).extractLsb 7 0) ((prefixWord q).extractLsb 15 8) = true := by
      rw [isPrefix_word4, beq_iff_eq]
      apply BitVec.eq_of_getLsbD_eq
      intro i hi
      simp only [prefixWord, BitVec.getLsbD_extractLsb, BitVec.getLsbD_append]
      have : i < 6 := by omega
      interval_cases i <;> simp
    show 8 = lenOf _ _
    rw [lenOf]
    simp only [wordBytes, word4, List.cons_append, List.getD_cons_zero, List.getD_cons_succ, h1, h2]
    rfl

/-- The code of an instruction whose type stands in MIN. -/
theorem typed_lt {n : Nat} (y : BitVec 2) (h : n ≤ 248) : n + y.toNat < 252 := by omega

theorem framed_halfBytes (a d : BitVec 5) (op : Nat) (m : Bool) :
    Framed (halfBytes (a ++ d ++ BitVec.ofNat 4 op ++ BitVec.ofBool m ++ 0#1)) := by
  right
  have h1 : isShort ((a ++ d ++ BitVec.ofNat 4 op ++ BitVec.ofBool m ++ 0#1).extractLsb 7 0) = true := by
    rw [isShort, BitVec.getLsbD_extractLsb]; simp only [BitVec.getLsbD_append]; rfl
  show 2 = lenOf _ _
  rw [lenOf]
  simp only [halfBytes, List.getD_cons_zero, h1]
  rfl

namespace Laws.Encodable

/-- The bytes an instruction is encoded in are framed as R146 and R158 say. -/
def Statement (i : Instr) : Prop := Framed (encode i)

theorem iaddA (o : OpA) : Statement (.iaddA o) := framed_wordBytes _ _ _ _ _ _ (Nat.le_of_ble_eq_true rfl)
theorem iaddB (o : OpB) : Statement (.iaddB o) := framed_wordBytes _ _ _ _ _ _ (Nat.le_of_ble_eq_true rfl)
theorem isubA (o : OpA) : Statement (.isubA o) := framed_wordBytes _ _ _ _ _ _ (Nat.le_of_ble_eq_true rfl)
theorem isubB (o : OpB) : Statement (.isubB o) := framed_wordBytes _ _ _ _ _ _ (Nat.le_of_ble_eq_true rfl)
theorem imulA (o : OpA) : Statement (.imulA o) := framed_wordBytes _ _ _ _ _ _ (Nat.le_of_ble_eq_true rfl)
theorem imulB (o : OpB) : Statement (.imulB o) := framed_wordBytes _ _ _ _ _ _ (Nat.le_of_ble_eq_true rfl)
theorem imadA (o : OpA) : Statement (.imadA o) := framed_wordBytes _ _ _ _ _ _ (Nat.le_of_ble_eq_true rfl)
theorem imadB (o : OpB) : Statement (.imadB o) := framed_wordBytes _ _ _ _ _ _ (Nat.le_of_ble_eq_true rfl)
theorem andA (o : OpA) : Statement (.andA o) := framed_wordBytes _ _ _ _ _ _ (Nat.le_of_ble_eq_true rfl)
theorem andB (o : OpB) : Statement (.andB o) := framed_wordBytes _ _ _ _ _ _ (Nat.le_of_ble_eq_true rfl)
theorem orA (o : OpA) : Statement (.orA o) := framed_wordBytes _ _ _ _ _ _ (Nat.le_of_ble_eq_true rfl)
theorem orB (o : OpB) : Statement (.orB o) := framed_wordBytes _ _ _ _ _ _ (Nat.le_of_ble_eq_true rfl)
theorem xorA (o : OpA) : Statement (.xorA o) := framed_wordBytes _ _ _ _ _ _ (Nat.le_of_ble_eq_true rfl)
theorem xorB (o : OpB) : Statement (.xorB o) := framed_wordBytes _ _ _ _ _ _ (Nat.le_of_ble_eq_true rfl)
theorem rotA (o : OpA) : Statement (.rotA o) := framed_wordBytes _ _ _ _ _ _ (Nat.le_of_ble_eq_true rfl)
theorem rotB (o : OpB) : Statement (.rotB o) := framed_wordBytes _ _ _ _ _ _ (Nat.le_of_ble_eq_true rfl)
theorem shlA (o : OpA) : Statement (.shlA o) := framed_wordBytes _ _ _ _ _ _ (Nat.le_of_ble_eq_true rfl)
theorem shlB (o : OpB) : Statement (.shlB o) := framed_wordBytes _ _ _ _ _ _ (Nat.le_of_ble_eq_true rfl)
theorem shrA (o : OpA) : Statement (.shrA o) := framed_wordBytes _ _ _ _ _ _ (Nat.le_of_ble_eq_true rfl)
theorem shrB (o : OpB) : Statement (.shrB o) := framed_wordBytes _ _ _ _ _ _ (Nat.le_of_ble_eq_true rfl)
theorem shraA (o : OpA) : Statement (.shraA o) := framed_wordBytes _ _ _ _ _ _ (Nat.le_of_ble_eq_true rfl)
theorem shraB (o : OpB) : Statement (.shraB o) := framed_wordBytes _ _ _ _ _ _ (Nat.le_of_ble_eq_true rfl)
theorem clz (o : OpA) : Statement (.clz o) := framed_wordBytes _ _ _ _ _ _ (Nat.le_of_ble_eq_true rfl)
theorem popc (o : OpA) : Statement (.popc o) := framed_wordBytes _ _ _ _ _ _ (Nat.le_of_ble_eq_true rfl)
theorem bfxA (o : OpA) : Statement (.bfxA o) := framed_wordBytes _ _ _ _ _ _ (Nat.le_of_ble_eq_true rfl)
theorem bfxB (o : OpB) : Statement (.bfxB o) := framed_wordBytes _ _ _ _ _ _ (Nat.le_of_ble_eq_true rfl)
theorem bfiA (o : OpA) : Statement (.bfiA o) := framed_wordBytes _ _ _ _ _ _ (Nat.le_of_ble_eq_true rfl)
theorem bfiB (o : OpB) : Statement (.bfiB o) := framed_wordBytes _ _ _ _ _ _ (Nat.le_of_ble_eq_true rfl)
theorem iminN32 (o : OpA) : Statement (.iminN32 o) := framed_wordBytes _ _ _ _ _ _ (Nat.le_of_ble_eq_true rfl)
theorem iminI32 (o : OpA) : Statement (.iminI32 o) := framed_wordBytes _ _ _ _ _ _ (Nat.le_of_ble_eq_true rfl)
theorem imaxN32 (o : OpA) : Statement (.imaxN32 o) := framed_wordBytes _ _ _ _ _ _ (Nat.le_of_ble_eq_true rfl)
theorem imaxI32 (o : OpA) : Statement (.imaxI32 o) := framed_wordBytes _ _ _ _ _ _ (Nat.le_of_ble_eq_true rfl)
theorem icmpN32A (o : OpA) : Statement (.icmpN32A o) := framed_wordBytes _ _ _ _ _ _ (Nat.le_of_ble_eq_true rfl)
theorem icmpI32A (o : OpA) : Statement (.icmpI32A o) := framed_wordBytes _ _ _ _ _ _ (Nat.le_of_ble_eq_true rfl)
theorem icmpN32B (o : OpB) : Statement (.icmpN32B o) := framed_wordBytes _ _ _ _ _ _ (Nat.le_of_ble_eq_true rfl)
theorem icmpI32B (o : OpB) : Statement (.icmpI32B o) := framed_wordBytes _ _ _ _ _ _ (Nat.le_of_ble_eq_true rfl)
theorem movA (o : OpA) : Statement (.movA o) := framed_wordBytes _ _ _ _ _ _ (Nat.le_of_ble_eq_true rfl)
theorem movBw (o : OpBW) : Statement (.movBw o) := framed_wordBytes _ _ _ _ _ _ (Nat.le_of_ble_eq_true rfl)
theorem leaA (o : OpA) : Statement (.leaA o) := framed_wordBytes _ _ _ _ _ _ (Nat.le_of_ble_eq_true rfl)
theorem leaB (o : OpB) : Statement (.leaB o) := framed_wordBytes _ _ _ _ _ _ (Nat.le_of_ble_eq_true rfl)
theorem iadd64A (o : OpA) : Statement (.iadd64A o) := framed_wordBytes _ _ _ _ _ _ (Nat.le_of_ble_eq_true rfl)
theorem iadd64B (o : OpB) : Statement (.iadd64B o) := framed_wordBytes _ _ _ _ _ _ (Nat.le_of_ble_eq_true rfl)
theorem brev (o : OpA) : Statement (.brev o) := framed_wordBytes _ _ _ _ _ _ (Nat.le_of_ble_eq_true rfl)
theorem sxt (o : OpA) : Statement (.sxt o) := framed_wordBytes _ _ _ _ _ _ (Nat.le_of_ble_eq_true rfl)
theorem sel (o : OpA) : Statement (.sel o) := framed_wordBytes _ _ _ _ _ _ (Nat.le_of_ble_eq_true rfl)
theorem saddA (o : OpA) : Statement (.saddA o) := framed_wordBytes _ _ _ _ _ _ (Nat.le_of_ble_eq_true rfl)
theorem saddB (o : OpB) : Statement (.saddB o) := framed_wordBytes _ _ _ _ _ _ (Nat.le_of_ble_eq_true rfl)
theorem smulA (o : OpA) : Statement (.smulA o) := framed_wordBytes _ _ _ _ _ _ (Nat.le_of_ble_eq_true rfl)
theorem smulB (o : OpB) : Statement (.smulB o) := framed_wordBytes _ _ _ _ _ _ (Nat.le_of_ble_eq_true rfl)
theorem slea (o : OpBW) : Statement (.slea o) := framed_wordBytes _ _ _ _ _ _ (Nat.le_of_ble_eq_true rfl)
theorem smovA (o : OpA) : Statement (.smovA o) := framed_wordBytes _ _ _ _ _ _ (Nat.le_of_ble_eq_true rfl)
theorem smovBw (o : OpBW) : Statement (.smovBw o) := framed_wordBytes _ _ _ _ _ _ (Nat.le_of_ble_eq_true rfl)
theorem scmpA (o : OpA) : Statement (.scmpA o) := framed_wordBytes _ _ _ _ _ _ (Nat.le_of_ble_eq_true rfl)
theorem scmpB (o : OpB) : Statement (.scmpB o) := framed_wordBytes _ _ _ _ _ _ (Nat.le_of_ble_eq_true rfl)
theorem rdsys (o : OpF) : Statement (.rdsys o) := framed_wordBytes _ _ _ _ _ none (Nat.le_of_ble_eq_true rfl)
theorem fadd (y : BitVec 2) (o : OpA) : Statement (.fadd y o) := framed_wordBytes _ _ _ _ _ _ (typed_lt y (Nat.le_of_ble_eq_true rfl))
theorem fsub (y : BitVec 2) (o : OpA) : Statement (.fsub y o) := framed_wordBytes _ _ _ _ _ _ (typed_lt y (Nat.le_of_ble_eq_true rfl))
theorem fmul (y : BitVec 2) (o : OpA) : Statement (.fmul y o) := framed_wordBytes _ _ _ _ _ _ (typed_lt y (Nat.le_of_ble_eq_true rfl))
theorem ffma (y : BitVec 2) (o : OpA) : Statement (.ffma y o) := framed_wordBytes _ _ _ _ _ _ (typed_lt y (Nat.le_of_ble_eq_true rfl))
theorem fmin (y : BitVec 2) (o : OpA) : Statement (.fmin y o) := framed_wordBytes _ _ _ _ _ _ (typed_lt y (Nat.le_of_ble_eq_true rfl))
theorem fmax (y : BitVec 2) (o : OpA) : Statement (.fmax y o) := framed_wordBytes _ _ _ _ _ _ (typed_lt y (Nat.le_of_ble_eq_true rfl))
theorem fcmp (y : BitVec 2) (o : OpA) : Statement (.fcmp y o) := framed_wordBytes _ _ _ _ _ _ (typed_lt y (Nat.le_of_ble_eq_true rfl))
theorem frcp (o : OpA) : Statement (.frcp o) := framed_wordBytes _ _ _ _ _ _ (Nat.le_of_ble_eq_true rfl)
theorem frsq (o : OpA) : Statement (.frsq o) := framed_wordBytes _ _ _ _ _ _ (Nat.le_of_ble_eq_true rfl)
theorem fex2 (o : OpA) : Statement (.fex2 o) := framed_wordBytes _ _ _ _ _ _ (Nat.le_of_ble_eq_true rfl)
theorem flg2 (o : OpA) : Statement (.flg2 o) := framed_wordBytes _ _ _ _ _ _ (Nat.le_of_ble_eq_true rfl)
theorem f2i (o : OpA) : Statement (.f2i o) := framed_wordBytes _ _ _ _ _ _ (Nat.le_of_ble_eq_true rfl)
theorem i2f (o : OpA) : Statement (.i2f o) := framed_wordBytes _ _ _ _ _ _ (Nat.le_of_ble_eq_true rfl)
theorem fcvt (o : OpA) : Statement (.fcvt o) := framed_wordBytes _ _ _ _ _ _ (Nat.le_of_ble_eq_true rfl)
theorem pack (o : OpA) : Statement (.pack o) := framed_wordBytes _ _ _ _ _ _ (Nat.le_of_ble_eq_true rfl)
theorem unpack (o : OpA) : Statement (.unpack o) := framed_wordBytes _ _ _ _ _ _ (Nat.le_of_ble_eq_true rfl)
theorem shfl (o : OpA) : Statement (.shfl o) := framed_wordBytes _ _ _ _ _ _ (Nat.le_of_ble_eq_true rfl)
theorem tred (o : OpA) : Statement (.tred o) := framed_wordBytes _ _ _ _ _ _ (Nat.le_of_ble_eq_true rfl)
theorem dot4N8 (o : OpA) : Statement (.dot4N8 o) := framed_wordBytes _ _ _ _ _ _ (Nat.le_of_ble_eq_true rfl)
theorem dot4I8 (o : OpA) : Statement (.dot4I8 o) := framed_wordBytes _ _ _ _ _ _ (Nat.le_of_ble_eq_true rfl)
theorem ldCx (w : BitVec 2) (o : OpCx) : Statement (.ldCx w o) := framed_wordBytes _ _ _ _ _ _ (typed_lt w (Nat.le_of_ble_eq_true rfl))
theorem ldCdS (o : OpCd) : Statement (.ldCdS o) := framed_wordBytes _ _ _ _ _ _ (Nat.le_of_ble_eq_true rfl)
theorem ldCdPair (o : OpCd) : Statement (.ldCdPair o) := framed_wordBytes _ _ _ _ _ _ (Nat.le_of_ble_eq_true rfl)
theorem stCx (w : BitVec 2) (o : OpCx) : Statement (.stCx w o) := framed_wordBytes _ _ _ _ _ _ (typed_lt w (Nat.le_of_ble_eq_true rfl))
theorem stCdS (o : OpCd) : Statement (.stCdS o) := framed_wordBytes _ _ _ _ _ _ (Nat.le_of_ble_eq_true rfl)
theorem stCdPair (o : OpCd) : Statement (.stCdPair o) := framed_wordBytes _ _ _ _ _ _ (Nat.le_of_ble_eq_true rfl)
theorem lds (o : OpCd) : Statement (.lds o) := framed_wordBytes _ _ _ _ _ _ (Nat.le_of_ble_eq_true rfl)
theorem sts (o : OpCd) : Statement (.sts o) := framed_wordBytes _ _ _ _ _ _ (Nat.le_of_ble_eq_true rfl)
theorem ldw (o : OpCd) : Statement (.ldw o) := framed_wordBytes _ _ _ _ _ _ (Nat.le_of_ble_eq_true rfl)
theorem stw (o : OpCd) : Statement (.stw o) := framed_wordBytes _ _ _ _ _ _ (Nat.le_of_ble_eq_true rfl)
theorem ldx (o : OpCd) : Statement (.ldx o) := framed_wordBytes _ _ _ _ _ _ (Nat.le_of_ble_eq_true rfl)
theorem stx (o : OpCd) : Statement (.stx o) := framed_wordBytes _ _ _ _ _ _ (Nat.le_of_ble_eq_true rfl)
theorem qset (o : OpCd) : Statement (.qset o) := framed_wordBytes _ _ _ _ _ _ (Nat.le_of_ble_eq_true rfl)
theorem qsave (o : OpCd) : Statement (.qsave o) := framed_wordBytes _ _ _ _ _ _ (Nat.le_of_ble_eq_true rfl)
theorem cpy (o : OpE) : Statement (.cpy o) := framed_wordBytes _ _ _ _ _ _ (Nat.le_of_ble_eq_true rfl)
theorem cpyl (o : OpE) : Statement (.cpyl o) := framed_wordBytes _ _ _ _ _ _ (Nat.le_of_ble_eq_true rfl)
theorem pref (o : OpCx) : Statement (.pref o) := framed_wordBytes _ _ _ _ _ _ (Nat.le_of_ble_eq_true rfl)
theorem pgreq (o : OpCx) : Statement (.pgreq o) := framed_wordBytes _ _ _ _ _ _ (Nat.le_of_ble_eq_true rfl)
theorem fence (o : OpF) : Statement (.fence o) := framed_wordBytes _ _ _ _ _ none (Nat.le_of_ble_eq_true rfl)
theorem subs (o : OpE) : Statement (.subs o) := framed_wordBytes _ _ _ _ _ _ (Nat.le_of_ble_eq_true rfl)
theorem claim (o : OpE) : Statement (.claim o) := framed_wordBytes _ _ _ _ _ _ (Nat.le_of_ble_eq_true rfl)
theorem rels (o : OpE) : Statement (.rels o) := framed_wordBytes _ _ _ _ _ _ (Nat.le_of_ble_eq_true rfl)
theorem atomAdd (o : OpCm) : Statement (.atomAdd o) := framed_wordBytes _ _ _ _ _ _ (Nat.le_of_ble_eq_true rfl)
theorem atomAddF32 (o : OpCm) : Statement (.atomAddF32 o) := framed_wordBytes _ _ _ _ _ _ (Nat.le_of_ble_eq_true rfl)
theorem atomMinN32 (o : OpCm) : Statement (.atomMinN32 o) := framed_wordBytes _ _ _ _ _ _ (Nat.le_of_ble_eq_true rfl)
theorem atomMinI32 (o : OpCm) : Statement (.atomMinI32 o) := framed_wordBytes _ _ _ _ _ _ (Nat.le_of_ble_eq_true rfl)
theorem atomMinF32 (o : OpCm) : Statement (.atomMinF32 o) := framed_wordBytes _ _ _ _ _ _ (Nat.le_of_ble_eq_true rfl)
theorem atomMaxN32 (o : OpCm) : Statement (.atomMaxN32 o) := framed_wordBytes _ _ _ _ _ _ (Nat.le_of_ble_eq_true rfl)
theorem atomMaxI32 (o : OpCm) : Statement (.atomMaxI32 o) := framed_wordBytes _ _ _ _ _ _ (Nat.le_of_ble_eq_true rfl)
theorem atomMaxF32 (o : OpCm) : Statement (.atomMaxF32 o) := framed_wordBytes _ _ _ _ _ _ (Nat.le_of_ble_eq_true rfl)
theorem atomAnd (o : OpCm) : Statement (.atomAnd o) := framed_wordBytes _ _ _ _ _ _ (Nat.le_of_ble_eq_true rfl)
theorem atomOr (o : OpCm) : Statement (.atomOr o) := framed_wordBytes _ _ _ _ _ _ (Nat.le_of_ble_eq_true rfl)
theorem atomXor (o : OpCm) : Statement (.atomXor o) := framed_wordBytes _ _ _ _ _ _ (Nat.le_of_ble_eq_true rfl)
theorem atomXchg (o : OpCm) : Statement (.atomXchg o) := framed_wordBytes _ _ _ _ _ _ (Nat.le_of_ble_eq_true rfl)
theorem cas (o : OpCm) : Statement (.cas o) := framed_wordBytes _ _ _ _ _ _ (Nat.le_of_ble_eq_true rfl)
theorem red (o : OpCm) : Statement (.red o) := framed_wordBytes _ _ _ _ _ _ (Nat.le_of_ble_eq_true rfl)
theorem bop (o : OpCm) : Statement (.bop o) := framed_wordBytes _ _ _ _ _ _ (Nat.le_of_ble_eq_true rfl)
theorem bred (o : OpCm) : Statement (.bred o) := framed_wordBytes _ _ _ _ _ _ (Nat.le_of_ble_eq_true rfl)
theorem flgs (o : OpE) : Statement (.flgs o) := framed_wordBytes _ _ _ _ _ _ (Nat.le_of_ble_eq_true rfl)
theorem flgw (o : OpE) : Statement (.flgw o) := framed_wordBytes _ _ _ _ _ _ (Nat.le_of_ble_eq_true rfl)
theorem qpush (o : OpE) : Statement (.qpush o) := framed_wordBytes _ _ _ _ _ _ (Nat.le_of_ble_eq_true rfl)
theorem qpop (o : OpE) : Statement (.qpop o) := framed_wordBytes _ _ _ _ _ _ (Nat.le_of_ble_eq_true rfl)
theorem qdone (o : OpE) : Statement (.qdone o) := framed_wordBytes _ _ _ _ _ _ (Nat.le_of_ble_eq_true rfl)
theorem boini (o : OpE) : Statement (.boini o) := framed_wordBytes _ _ _ _ _ _ (Nat.le_of_ble_eq_true rfl)
theorem boarr (o : OpE) : Statement (.boarr o) := framed_wordBytes _ _ _ _ _ _ (Nat.le_of_ble_eq_true rfl)
theorem bowt (o : OpE) : Statement (.bowt o) := framed_wordBytes _ _ _ _ _ _ (Nat.le_of_ble_eq_true rfl)
theorem bra (o : OpD) : Statement (.bra o) := framed_wordBytes _ _ _ _ _ _ (Nat.le_of_ble_eq_true rfl)
theorem brp (o : OpDp) : Statement (.brp o) := framed_wordBytes _ _ _ _ _ _ (Nat.le_of_ble_eq_true rfl)
theorem call (o : OpD) : Statement (.call o) := framed_wordBytes _ _ _ _ _ _ (Nat.le_of_ble_eq_true rfl)
theorem brx (o : OpA) : Statement (.brx o) := framed_wordBytes _ _ _ _ _ _ (Nat.le_of_ble_eq_true rfl)
theorem ret (o : OpA) : Statement (.ret o) := framed_wordBytes _ _ _ _ _ _ (Nat.le_of_ble_eq_true rfl)
theorem reform (o : OpF) : Statement (.reform o) := framed_wordBytes _ _ _ _ _ none (Nat.le_of_ble_eq_true rfl)
theorem exit (o : OpF) : Statement (.exit o) := framed_wordBytes _ _ _ _ _ none (Nat.le_of_ble_eq_true rfl)
theorem nop (o : OpF) : Statement (.nop o) := framed_wordBytes _ _ _ _ _ none (Nat.le_of_ble_eq_true rfl)
theorem join (o : OpA) : Statement (.join o) := framed_wordBytes _ _ _ _ _ _ (Nat.le_of_ble_eq_true rfl)
theorem leave (o : OpA) : Statement (.leave o) := framed_wordBytes _ _ _ _ _ _ (Nat.le_of_ble_eq_true rfl)
theorem wait (o : OpA) : Statement (.wait o) := framed_wordBytes _ _ _ _ _ _ (Nat.le_of_ble_eq_true rfl)
theorem mset (o : OpBW) : Statement (.mset o) := framed_wordBytes _ _ _ _ _ _ (Nat.le_of_ble_eq_true rfl)
theorem mlog (o : OpA) : Statement (.mlog o) := framed_wordBytes _ _ _ _ _ _ (Nat.le_of_ble_eq_true rfl)
theorem ballot (o : OpA) : Statement (.ballot o) := framed_wordBytes _ _ _ _ _ _ (Nat.le_of_ble_eq_true rfl)
theorem elect (o : OpA) : Statement (.elect o) := framed_wordBytes _ _ _ _ _ _ (Nat.le_of_ble_eq_true rfl)
theorem yield (o : OpF) : Statement (.yield o) := framed_wordBytes _ _ _ _ _ none (Nat.le_of_ble_eq_true rfl)
theorem bar (o : OpF) : Statement (.bar o) := framed_wordBytes _ _ _ _ _ none (Nat.le_of_ble_eq_true rfl)
theorem gbar (o : OpF) : Statement (.gbar o) := framed_wordBytes _ _ _ _ _ none (Nat.le_of_ble_eq_true rfl)
theorem trap (o : OpF) : Statement (.trap o) := framed_wordBytes _ _ _ _ _ none (Nat.le_of_ble_eq_true rfl)
theorem mtx (o : OpE) : Statement (.mtx o) := framed_wordBytes _ _ _ _ _ _ (Nat.le_of_ble_eq_true rfl)
theorem mtxg (o : OpE) : Statement (.mtxg o) := framed_wordBytes _ _ _ _ _ _ (Nat.le_of_ble_eq_true rfl)
theorem mtxs (o : OpE) : Statement (.mtxs o) := framed_wordBytes _ _ _ _ _ _ (Nat.le_of_ble_eq_true rfl)
theorem xsect (o : OpE) : Statement (.xsect o) := framed_wordBytes _ _ _ _ _ _ (Nat.le_of_ble_eq_true rfl)
theorem dist (o : OpE) : Statement (.dist o) := framed_wordBytes _ _ _ _ _ _ (Nat.le_of_ble_eq_true rfl)
theorem fixup (o : OpE) : Statement (.fixup o) := framed_wordBytes _ _ _ _ _ _ (Nat.le_of_ble_eq_true rfl)
theorem enext (o : OpE) : Statement (.enext o) := framed_wordBytes _ _ _ _ _ _ (Nat.le_of_ble_eq_true rfl)
theorem ecomb (o : OpE) : Statement (.ecomb o) := framed_wordBytes _ _ _ _ _ _ (Nat.le_of_ble_eq_true rfl)
theorem eact (o : OpE) : Statement (.eact o) := framed_wordBytes _ _ _ _ _ _ (Nat.le_of_ble_eq_true rfl)
theorem edone (o : OpE) : Statement (.edone o) := framed_wordBytes _ _ _ _ _ _ (Nat.le_of_ble_eq_true rfl)
theorem elevel (o : OpF) : Statement (.elevel o) := framed_wordBytes _ _ _ _ _ none (Nat.le_of_ble_eq_true rfl)
theorem emode (o : OpF) : Statement (.emode o) := framed_wordBytes _ _ _ _ _ none (Nat.le_of_ble_eq_true rfl)
theorem launch (o : OpE) : Statement (.launch o) := framed_wordBytes _ _ _ _ _ _ (Nat.le_of_ble_eq_true rfl)
theorem lwait (o : OpE) : Statement (.lwait o) := framed_wordBytes _ _ _ _ _ _ (Nat.le_of_ble_eq_true rfl)
theorem mark (o : OpF) : Statement (.mark o) := framed_wordBytes _ _ _ _ _ none (Nat.le_of_ble_eq_true rfl)
theorem brk (o : OpF) : Statement (.brk o) := framed_wordBytes _ _ _ _ _ none (Nat.le_of_ble_eq_true rfl)
theorem rdts (o : OpF) : Statement (.rdts o) := framed_wordBytes _ _ _ _ _ none (Nat.le_of_ble_eq_true rfl)
theorem rdclk (o : OpF) : Statement (.rdclk o) := framed_wordBytes _ _ _ _ _ none (Nat.le_of_ble_eq_true rfl)
theorem dhalt (o : OpF) : Statement (.dhalt o) := framed_wordBytes _ _ _ _ _ none (Nat.le_of_ble_eq_true rfl)
theorem dresume (o : OpF) : Statement (.dresume o) := framed_wordBytes _ _ _ _ _ none (Nat.le_of_ble_eq_true rfl)
theorem dstep (o : OpF) : Statement (.dstep o) := framed_wordBytes _ _ _ _ _ none (Nat.le_of_ble_eq_true rfl)
theorem dbkpt (o : OpF) : Statement (.dbkpt o) := framed_wordBytes _ _ _ _ _ none (Nat.le_of_ble_eq_true rfl)
theorem dwatch (o : OpF) : Statement (.dwatch o) := framed_wordBytes _ _ _ _ _ none (Nat.le_of_ble_eq_true rfl)
theorem drds (o : OpF) : Statement (.drds o) := framed_wordBytes _ _ _ _ _ none (Nat.le_of_ble_eq_true rfl)
theorem dmboxSend (o : OpF) : Statement (.dmboxSend o) := framed_wordBytes _ _ _ _ _ none (Nat.le_of_ble_eq_true rfl)
theorem dmboxRecv (o : OpF) : Statement (.dmboxRecv o) := framed_wordBytes _ _ _ _ _ none (Nat.le_of_ble_eq_true rfl)
theorem movShort (o : OpS) : Statement (.movShort o) := framed_halfBytes _ _ _ _
theorem iaddShort (o : OpS) : Statement (.iaddShort o) := framed_halfBytes _ _ _ _
theorem isubShort (o : OpS) : Statement (.isubShort o) := framed_halfBytes _ _ _ _
theorem imulShort (o : OpS) : Statement (.imulShort o) := framed_halfBytes _ _ _ _
theorem andShort (o : OpS) : Statement (.andShort o) := framed_halfBytes _ _ _ _
theorem orShort (o : OpS) : Statement (.orShort o) := framed_halfBytes _ _ _ _
theorem xorShort (o : OpS) : Statement (.xorShort o) := framed_halfBytes _ _ _ _
theorem shlShort (o : OpS) : Statement (.shlShort o) := framed_halfBytes _ _ _ _
theorem shrShort (o : OpS) : Statement (.shrShort o) := framed_halfBytes _ _ _ _
theorem shraShort (o : OpS) : Statement (.shraShort o) := framed_halfBytes _ _ _ _
theorem iaddiShort (o : OpS) : Statement (.iaddiShort o) := framed_halfBytes _ _ _ _
theorem faddShort (o : OpS) : Statement (.faddShort o) := framed_halfBytes _ _ _ _
theorem fsubShort (o : OpS) : Statement (.fsubShort o) := framed_halfBytes _ _ _ _
theorem fmulShort (o : OpS) : Statement (.fmulShort o) := framed_halfBytes _ _ _ _
theorem fminShort (o : OpS) : Statement (.fminShort o) := framed_halfBytes _ _ _ _
theorem fmaxShort (o : OpS) : Statement (.fmaxShort o) := framed_halfBytes _ _ _ _
theorem groupDispatch (rid : Nat) (die : Nat) : Statement (.groupDispatch rid die) := .inl rfl
theorem coopPlacement (rid : Nat) : Statement (.coopPlacement rid) := .inl rfl
theorem groupRetire (gid : Nat) : Statement (.groupRetire gid) := .inl rfl
theorem rangeRetire (rid : Nat) : Statement (.rangeRetire rid) := .inl rfl
theorem basinAgeDraw (gid : Nat) (bid : Nat) : Statement (.basinAgeDraw gid bid) := .inl rfl
theorem implicitJoinIssue (gid : Nat) (team : Nat) : Statement (.implicitJoinIssue gid team) := .inl rfl
theorem resultReturn (gid : Nat) (bid : Nat) : Statement (.resultReturn gid bid) := .inl rfl
theorem l1Fill (core : Nat) (asid : Nat) (va : W64) : Statement (.l1Fill core asid va) := .inl rfl
theorem llcFill (asid : Nat) (va : W64) (write : Bool) : Statement (.llcFill asid va write) := .inl rfl
theorem storeAcknowledge (core : Nat) : Statement (.storeAcknowledge core) := .inl rfl
theorem wcbTimeoutDrain (core : Nat) : Statement (.wcbTimeoutDrain core) := .inl rfl
theorem ptsTick (core : Nat) : Statement (.ptsTick core) := .inl rfl
theorem sliceOperation (asid : Nat) (va : W64) : Statement (.sliceOperation asid va) := .inl rfl
theorem streamReadahead (gid : Nat) (team : Nat) (q : Nat) : Statement (.streamReadahead gid team q) := .inl rfl
theorem copyComplete (op : Nat) : Statement (.copyComplete op) := .inl rfl
theorem copyFault (op : Nat) : Statement (.copyFault op) := .inl rfl
theorem copylistPieceComplete (op : Nat) : Statement (.copylistPieceComplete op) := .inl rfl
theorem tileFillStart (gid : Nat) (ring : Nat) : Statement (.tileFillStart gid ring) := .inl rfl
theorem tileFilled (gid : Nat) (ring : Nat) (slot : Nat) : Statement (.tileFilled gid ring slot) := .inl rfl
theorem slotDrained (gid : Nat) (ring : Nat) (slot : Nat) : Statement (.slotDrained gid ring slot) := .inl rfl
theorem reservoirWayDrained (part : Nat) : Statement (.reservoirWayDrained part) := .inl rfl
theorem matrixStart (core : Nat) : Statement (.matrixStart core) := .inl rfl
theorem matrixComplete (op : Nat) : Statement (.matrixComplete op) := .inl rfl
theorem xsectComplete (op : Nat) : Statement (.xsectComplete op) := .inl rfl
theorem matrixFault (op : Nat) : Statement (.matrixFault op) := .inl rfl
theorem fixupOwnerCombine (op : Nat) : Statement (.fixupOwnerCombine op) := .inl rfl
theorem queueEntryAging (rid : Nat) (die : Nat) : Statement (.queueEntryAging rid die) := .inl rfl
theorem levelBoundary (rid : Nat) : Statement (.levelBoundary rid) := .inl rfl
theorem midlevelSwitch (rid : Nat) (die : Nat) : Statement (.midlevelSwitch rid die) := .inl rfl
theorem sluiceFault (rid : Nat) (die : Nat) : Statement (.sluiceFault rid die) := .inl rfl
theorem breakpointHalt (gid : Nat) (bid : Nat) : Statement (.breakpointHalt gid bid) := .inl rfl
theorem watchpointHalt (gid : Nat) (bid : Nat) : Statement (.watchpointHalt gid bid) := .inl rfl
theorem faultRecordPost (queue : Nat) : Statement (.faultRecordPost queue) := .inl rfl
theorem resume (queue : Nat) (slot : Nat) : Statement (.resume queue slot) := .inl rfl
theorem skip (queue : Nat) (slot : Nat) : Statement (.skip queue slot) := .inl rfl
theorem killGroup (queue : Nat) (slot : Nat) : Statement (.killGroup queue slot) := .inl rfl
theorem killRange (queue : Nat) (slot : Nat) : Statement (.killRange queue slot) := .inl rfl
theorem saveRange (queue : Nat) (slot : Nat) : Statement (.saveRange queue slot) := .inl rfl
theorem preemptRequest (rid : Nat) : Statement (.preemptRequest rid) := .inl rfl
theorem safePointStop (gid : Nat) (bid : Nat) : Statement (.safePointStop gid bid) := .inl rfl
theorem hardStop (rid : Nat) : Statement (.hardStop rid) := .inl rfl
theorem preemptImageWrite (rid : Nat) : Statement (.preemptImageWrite rid) := .inl rfl
theorem priorityPreempt (part : Nat) : Statement (.priorityPreempt part) := .inl rfl
theorem frontEndDispatch (part : Nat) : Statement (.frontEndDispatch part) := .inl rfl
theorem doorbellWrite (qid : Nat) (value : W64) : Statement (.doorbellWrite qid value) := .inl rfl
theorem doorbellResync (qid : Nat) (value : W64) : Statement (.doorbellResync qid value) := .inl rfl
theorem nopPacket (part : Nat) : Statement (.nopPacket part) := .inl rfl
theorem launchPacket (part : Nat) : Statement (.launchPacket part) := .inl rfl
theorem indirect (part : Nat) : Statement (.indirect part) := .inl rfl
theorem waitPacket (part : Nat) : Statement (.waitPacket part) := .inl rfl
theorem waitPacketSatisfied (qid : Nat) : Statement (.waitPacketSatisfied qid) := .inl rfl
theorem write (part : Nat) : Statement (.write part) := .inl rfl
theorem inval (part : Nat) : Statement (.inval part) := .inl rfl
theorem partcfg (part : Nat) : Statement (.partcfg part) := .inl rfl
theorem qcreate (part : Nat) : Statement (.qcreate part) := .inl rfl
theorem qdestroy (part : Nat) : Statement (.qdestroy part) := .inl rfl
theorem exportPacket (part : Nat) : Statement (.exportPacket part) := .inl rfl
theorem importPacket (part : Nat) : Statement (.importPacket part) := .inl rfl
theorem policyPacket (part : Nat) : Statement (.policyPacket part) := .inl rfl
theorem cwin (part : Nat) : Statement (.cwin part) := .inl rfl
theorem canalRemoteAccess (package : Nat) (part : Nat) (window : Nat) (asid : Nat) (va : W64) (data : Option PeerData) (size : Nat) (ordered : Option W32) :
    Statement (.canalRemoteAccess package part window asid va data size ordered) := .inl rfl
theorem canalOrderedPass (package : Nat) (part : Nat) (window : Nat) : Statement (.canalOrderedPass package part window) := .inl rfl
theorem canalPortDown (port : Nat) : Statement (.canalPortDown port) := .inl rfl
theorem hostMemAccess (pa : W64) (data : Option (List Byte)) (size : Nat) :
    Statement (.hostMemAccess pa data size) := .inl rfl
theorem gpkt (chan : Nat) : Statement (.gpkt chan) := .inl rfl
theorem treq (chan : Nat) (seq : W32) (va : W64) (write : Bool) (tag : W32) : Statement (.treq chan seq va write tag) := .inl rfl
theorem tinvack (tag : Nat) : Statement (.tinvack tag) := .inl rfl
theorem gcpl (chan : Nat) (seq : W32) (failed : Bool) : Statement (.gcpl chan seq failed) := .inl rfl
theorem gflt (chan : Nat) (seq : W32) (cause : Byte) (addr : W64) (code : W16) : Statement (.gflt chan seq cause addr code) := .inl rfl
theorem gpack (chan : Nat) (rid : Nat) (bytes : List Byte) (seqs : List W32) : Statement (.gpack chan rid bytes seqs) := .inl rfl
theorem grack (chan : Nat) (rid : Nat) (refused : Bool) : Statement (.grack chan rid refused) := .inl rfl
theorem guestAccess (pa : W64) (data : Option (List Byte)) (size : Nat) :
    Statement (.guestAccess pa data size) := .inl rfl
theorem portFence (why : Byte) : Statement (.portFence why) := .inl rfl
theorem socketReset (ident : List Byte) (trained : Bool) : Statement (.socketReset ident trained) := .inl rfl
theorem packageReset : Statement .packageReset := .inl rfl
theorem firmwareVerify (image : List Byte) (svn : W32) (sig : BitVec 768) (key : BitVec 768) : Statement (.firmwareVerify image svn sig key) := .inl rfl
theorem hbmTrained (fotAt : W64) (asidAt : W64) : Statement (.hbmTrained fotAt asidAt) := .inl rfl
theorem grant : Statement .grant := .inl rfl
theorem assign : Statement .assign := .inl rfl
theorem revoke : Statement .revoke := .inl rfl
theorem fqtable : Statement .fqtable := .inl rfl
theorem clock : Statement .clock := .inl rfl
theorem budget : Statement .budget := .inl rfl
theorem asidset : Statement .asidset := .inl rfl
theorem cmap : Statement .cmap := .inl rfl
theorem carve : Statement .carve := .inl rfl
theorem policy : Statement .policy := .inl rfl
theorem keyload : Statement .keyload := .inl rfl
theorem keydrop : Statement .keydrop := .inl rfl
theorem vfbind : Statement .vfbind := .inl rfl
theorem advance (stepDone : Bool) (ident : Option (List Byte)) :
    Statement (.advance stepDone ident) := .inl rfl
theorem count (fn : Nat) : Statement (.count fn) := .inl rfl
theorem attest (fn : Nat) : Statement (.attest fn) := .inl rfl
theorem traceEnable (part : Nat) : Statement (.traceEnable part) := .inl rfl
theorem traceDisable (part : Nat) : Statement (.traceDisable part) := .inl rfl
theorem logEnable (part : Nat) : Statement (.logEnable part) := .inl rfl
theorem registerWrite (reg : Nat) (index : Nat) (value : W64) : Statement (.registerWrite reg index value) := .inl rfl
theorem sampleRecord (core : Nat) : Statement (.sampleRecord core) := .inl rfl
theorem traceSync (part : Nat) : Statement (.traceSync part) := .inl rfl
theorem traceLostRecovery (part : Nat) : Statement (.traceLostRecovery part) := .inl rfl
theorem powerWindow (watts : Nat) (amps : Nat) (overs : List Nat) : Statement (.powerWindow watts amps overs) := .inl rfl
theorem thermalThrottle (die : Nat) : Statement (.thermalThrottle die) := .inl rfl
theorem thermalTrip : Statement .thermalTrip := .inl rfl
theorem coreSelftestFail (die : Nat) (core : Nat) : Statement (.coreSelftestFail die core) := .inl rfl
theorem headgateFault (gid : Nat) (ring : Nat) (slot : Nat) : Statement (.headgateFault gid ring slot) := .inl rfl
theorem fixupDepositComplete (op : Nat) : Statement (.fixupDepositComplete op) := .inl rfl
theorem containerRegistration (part : Nat) (asid : Nat) (code : W64) (codeSize : Nat) (safe : W64) (safeSize : Nat) (config : W64) :
    Statement (.containerRegistration part asid code codeSize safe safeSize config) := .inl rfl
theorem hostDebugMessage (part : Nat) (msg : List Byte) : Statement (.hostDebugMessage part msg) := .inl rfl
theorem debugMailboxRead (part : Nat) : Statement (.debugMailboxRead part) := .inl rfl
theorem guestChannelConfigure (chan : Nat) (depth : Nat) (gsave : Nat) : Statement (.guestChannelConfigure chan depth gsave) := .inl rfl
theorem temperatureBelow95c (die : Nat) : Statement (.temperatureBelow95c die) := .inl rfl

end Laws.Encodable

end Sys2Proof
end

