-- ==== Sys2Proof/Laws/Retire.lean ====
section
/-! SUPPORT. What retiring an instruction leaves, with no result, a fixed result or a variable one. -/

namespace Sys2Proof.Machine

open Sys2Proof.Safety

/-! ## Writing registers of many lanes -/

theorem mapIdx_self {α : Type} (l : List α) : l.mapIdx (fun _ a => a) = l := by
  apply List.ext_getElem?
  intro i
  simp

/-- Folding one idempotent change over indices is a change of each place. -/
theorem foldl_modify_eq_mapIdx {α : Type} (k : Nat → α → α) (idem : ∀ i a, k i (k i a) = k i a) (ts : List Nat) (l : List α) :
    ts.foldl (fun l t => l.modify t (k t)) l = l.mapIdx (fun i a => if ts.contains i then k i a else a) := by
  induction ts generalizing l with
  | nil => simpa using (mapIdx_self l).symm
  | cons t ts ih =>
    rw [List.foldl_cons, ih]
    apply List.ext_getElem?
    intro i
    rw [List.getElem?_mapIdx, List.getElem?_mapIdx, List.getElem?_modify]
    by_cases h : t = i
    · subst h
      cases l[t]? with
      | none => rfl
      | some a => by_cases hc : t ∈ ts <;> simp [hc, idem]
    · have h' : i ≠ t := fun e => h e.symm
      cases l[i]? with
      | none => simp [h]
      | some a => by_cases hc : i ∈ ts <;> simp [hc, h, h']

theorem Thread.setV_setV (th : Thread) (d : BitVec 6) (x : W32) : (th.setV d x).setV d x = th.setV d x := by
  simp [Thread.setV]

theorem Thread.setP_setP (th : Thread) (d : BitVec 3) (b : Bool) : (th.setP d b).setP d b = th.setP d b := by
  unfold Thread.setP
  cases h : (d == 7)
  · cases b <;> simp [BitVec.and_assoc, BitVec.or_assoc]
  · simp

theorem assocSet_assocSet {α : Type} (l : List (Nat × α)) (k : Nat) (v : α) : assocSet (assocSet l k v) k v = assocSet l k v := by
  unfold assocSet updOr
  by_cases h : l.any (fun x => x.1 == k) = true
  · have : (upd (fun x : Nat × α => x.1 == k) (fun _ => (k, v)) l).any (fun x => x.1 == k) = true := by
      obtain ⟨a, ha, hk⟩ := List.any_eq_true.mp h
      exact List.any_eq_true.mpr ⟨(k, v), List.mem_map.mpr ⟨a, ha, by simp [hk]⟩, by simp⟩
    rw [if_pos h, if_pos this]
    simp only [upd, List.map_map]
    refine List.map_congr_left fun a _ => ?_
    by_cases e : a.1 = k <;> simp [e]
  · have h' := h
    simp only [List.any_eq_true, not_exists, not_and] at h'
    simp only [h, Bool.false_eq_true, if_false, List.any_append, List.any_cons, BEq.rfl, Bool.true_or, Bool.or_true, if_true, upd, List.map_append,
      List.map_cons, List.map_nil]
    congr 1
    conv_rhs => rw [← List.map_id l]
    exact List.map_congr_left fun a ha => by simp [h' a ha]

theorem Team.putS_putS (tm : Team) (k i : Nat) (d : BitVec 5) (x : W64) : (tm.putS k i d x).putS k i d x = tm.putS k i d x := by
  have h : ∀ l : List (BitVec 5 × W64), (if l.any (fun y => y.1 == d) then l else l ++ [(d, tm.getS d)]).any (fun y => y.1 == d) = true := by
    intro l
    by_cases e : l.any (fun y => y.1 == d) = true
    · simp only [e, if_true]
    · simp only [e, Bool.false_eq_true, if_false, List.any_append, List.any_cons, BEq.rfl, Bool.true_or, Bool.or_true]
  simp only [Team.putS, Team.setS, BEq.rfl, if_true, h, Vector.set_set, assocSet_assocSet]

theorem Group.writeVs_eq (g : Group) (d : BitVec 6) (ts : List Nat) (f : Nat → W32) :
    g.writeVs (ts.map (fun t => (t, d, f t))) =
      { g with threads := g.threads.mapIdx (fun t th => if ts.contains t then th.setV d (f t) else th) } := by
  have h : ∀ (ts : List Nat) (g : Group), g.writeVs (ts.map (fun t => (t, d, f t))) =
      { g with threads := ts.foldl (fun l t => l.modify t (fun th => th.setV d (f t))) g.threads } := by
    intro ts
    induction ts with
    | nil => intro g; rfl
    | cons t ts ih => intro g; exact ih (g.updTh t (fun th => th.setV d (f t)))
  rw [h]
  congr 1
  exact foldl_modify_eq_mapIdx (fun t th => th.setV d (f t)) (fun _ _ => Thread.setV_setV _ _ _) ts g.threads

theorem Group.writePs_eq (g : Group) (d : BitVec 3) (ts : List Nat) (f : Nat → Bool) :
    g.writePs (ts.map (fun t => (t, d, f t))) =
      { g with threads := g.threads.mapIdx (fun t th => if ts.contains t then th.setP d (f t) else th) } := by
  have h : ∀ (ts : List Nat) (g : Group), g.writePs (ts.map (fun t => (t, d, f t))) =
      { g with threads := ts.foldl (fun l t => l.modify t (fun th => th.setP d (f t))) g.threads } := by
    intro ts
    induction ts with
    | nil => intro g; rfl
    | cons t ts ih => intro g; exact ih (g.updTh t (fun th => th.setP d (f t)))
  rw [h]
  congr 1
  exact foldl_modify_eq_mapIdx (fun t th => th.setP d (f t)) (fun _ _ => Thread.setP_setP _ _ _) ts g.threads

theorem Group.putSs_eq (g : Group) (k i : Nat) (d : BitVec 5) (ts : List Nat) (f : Nat → W64) :
    g.putSs k i (ts.map (fun t => (t, d, f t))) =
      { g with teams := g.teams.mapIdx (fun t tm => if ts.contains t then tm.putS k i d (f t) else tm) } := by
  have h : ∀ (ts : List Nat) (g : Group), g.putSs k i (ts.map (fun t => (t, d, f t))) =
      { g with teams := ts.foldl (fun l t => l.modify t (fun tm => tm.putS k i d (f t))) g.teams } := by
    intro ts
    induction ts with
    | nil => intro g; rfl
    | cons t ts ih => intro g; exact ih (g.updTeam t (fun tm => tm.putS k i d (f t)))
  rw [h]
  congr 1
  exact foldl_modify_eq_mapIdx (fun t tm => tm.putS k i d (f t)) (fun _ _ => Team.putS_putS _ _ _ _ _) ts g.teams

/-! ## Retiring -/

/-- All threads go to one PC: the bundle does. -/
theorem Group.splitPc_const (g : Group) (i : Nat) (b : Bundle) (x : W64) (h : b.ts ≠ []) :
    g.splitPc i (fun _ => x) (pcsOf b.ts (fun _ => x)) = g.updBundle i (fun b => { b with pc := x }) := by
  have : pcsOf b.ts (fun _ => x) = [x] := by
    unfold pcsOf
    cases hb : b.ts with
    | nil => exact absurd hb h
    | cons t ts =>
      have : ∀ n, (List.replicate (n + 1) x).eraseDups = [x] := by
        intro n
        rw [List.replicate_succ, List.eraseDups_cons]
        simp
      have e := this ts.length
      rw [List.replicate_succ] at e
      simpa using e
  rw [this]
  rfl

/-- The change of a group an instruction makes: threads, teams, its own bundle, handles used. -/
def Group.change (bid nb : Nat) (th : Nat → Thread → Thread) (tm : Group → Nat → Team → Team) (bd : Group → Bundle → Bundle) (g : Group) :
    Group :=
  { g with threads := g.threads.mapIdx th, teams := g.teams.mapIdx (tm g), bundles := upd (fun b => b.id == bid) (bd g) g.bundles,
           nextB := g.nextB + nb }

@[simp] theorem Group.splitB_id (g : Group) (i : Nat) (k : Nat → Bool) : (g.splitB i k).id = g.id := by
  unfold Group.splitB
  split
  · rfl
  · dsimp only
    split <;> rfl

@[simp] theorem Group.splitPc_id (f : Nat → W64) : ∀ (l : List W64) (g : Group) (i : Nat), (g.splitPc i f l).id = g.id
  | [], _, _ => rfl
  | [_], _, _ => rfl
  | _ :: q :: l, g, i => by
    show (Group.splitPc _ _ _ (q :: l)).id = _
    rw [Group.splitPc_id f (q :: l)]
    simp

@[simp] theorem Group.passed_id (g : Group) (c : Ctx) (done : Bool) (byp : List BypVal) (age : Nat) (f : Nat → W64) :
    (g.passed c done byp age f).id = g.id := by
  unfold Group.passed
  dsimp only
  split <;> simp

theorem retireNext_change (x : State) (c : Ctx) (m : Bool) (byp : List BypVal) (nb : Nat) (th : Nat → Thread → Thread)
    (tm : Group → Nat → Team → Team) (bd : Group → Bundle → Bundle) (hbd : ∀ g b, (bd g b).id = b.id) (hts : ∀ g b, (bd g b).ts = b.ts)
    (tm' : Nat → Team → Team) (htm : ∀ g, x.group? c.g.id = some g → tm g = tm') :
    ∃ u, retireNext (x.updGroup c.g.id (Group.change c.b.id nb th tm bd)) c m byp = marked m u c ∧
      Passed x u c nb byp th tm' bd := by
  let y := x.updGroup c.g.id (Group.change c.b.id nb th tm bd)
  refine ⟨(y.counted c).updGroup c.g.id (fun g => g.passed c false byp (y.freshAge c.g.die c.g.core) (fun _ => c.next)), ?_, ?_⟩
  · simp only [retireNext, retire, Bool.not_false, Bool.and_true, marked]
    rfl
  have k1 : Kept x y c.g.id := Kept_updGroup (Group.change c.b.id nb th tm bd) (fun _ => rfl)
  have k3 := Kept_updGroup (s := y.counted c) (i := c.g.id)
    (fun g => g.passed c false byp (y.freshAge c.g.die c.g.core) (fun _ => c.next)) (fun g => Group.passed_id ..)
  refine ⟨Kept_trans (Kept_trans k1 (State.counted_kept _ c _)) k3, ?_⟩
  intro g hg
  obtain rfl := htm g hg
  rw [State.group_updGroup_same _ _ _ (fun g => Group.passed_id ..), State.counted_group,
    show y.group? c.g.id = _ from State.group_updGroup_same x c.g.id (Group.change c.b.id nb th tm bd) (fun _ => rfl), hg]
  refine ⟨_, rfl, ?_⟩
  generalize y.freshAge c.g.die c.g.core = age
  have hgid : c.g.id = g.id := (State.group_id hg).symm
  have own : ((Group.change c.b.id nb th tm bd g).updBundle c.b.id (fun b => b.passed c.c.pc false byp age)).bundle? c.b.id =
      (g.bundle? c.b.id).map (fun b => (bd g b).passed c.c.pc false byp age) := by
    rw [Group.bundle_updBundle_same _ _ _ (by intro; rfl)]
    show Option.map _ ((upd _ _ _).find? _) = _
    rw [find_upd_same _ _ _ (fun b hb => by simpa [hbd] using hb), Option.map_map]
    rfl
  have other : ∀ i, i ≠ c.b.id →
      ((Group.change c.b.id nb th tm bd g).updBundle c.b.id (fun b => b.passed c.c.pc false byp age)).bundle? i = g.bundle? i := by
    intro i hi
    rw [Group.bundle_updBundle_other _ _ _ _ (by intro; rfl) hi]
    exact find_upd_other _ _ _ _ (fun b hb => by simp_all; omega) (fun b hb => by simp_all; omega)
  unfold Group.passed
  dsimp only
  split
  · rename_i hn
    have hn' : g.bundle? c.b.id = none := by
      have := (own.symm.trans hn)
      simpa using this
    exact ⟨rfl, fun i hi => other i hi, fun b hb => by rw [hn'] at hb; exact absurd hb (by simp)⟩
  · rename_i b1 hb1
    obtain ⟨b, hb, rfl⟩ := Option.map_eq_some_iff.mp (own.symm.trans hb1)
    by_cases ht : b.ts = []
    · have : pcsOf ((bd g b).passed c.c.pc false byp age).ts (fun _ => c.next) = [] := by simp [pcsOf, hts, ht]
      rw [this]
      exact ⟨rfl, fun i hi => other i hi, fun b' hb' h => absurd ht (by rw [hb] at hb'; cases hb'; exact h)⟩
    · rw [Group.splitPc_const _ _ _ _ (by simpa [hts] using ht)]
      refine ⟨rfl, fun i hi => ?_, fun b' hb' _ => ⟨age, ?_⟩⟩
      · rw [Group.bundle_updBundle_other _ _ _ _ (by intro; rfl) hi]
        exact other i hi
      · rw [hb] at hb'
        cases hb'
        rw [Group.bundle_updBundle_same _ _ _ (by intro; rfl)]
        rw [show Group.bundle? _ c.b.id = _ from hb1]
        rfl

/-! ## Results -/

theorem upd_self {α : Type} (p : α → Bool) (l : List α) : upd p (fun a => a) l = l := by
  induction l with
  | nil => rfl
  | cons a l ih => simp [upd]

theorem Group.change_threads (bid : Nat) (th : Nat → Thread → Thread) (g : Group) :
    Group.change bid 0 th (fun _ _ tm => tm) (fun _ b => b) g = { g with threads := g.threads.mapIdx th } := by
  simp only [Group.change, upd_self, mapIdx_self]
  rfl

theorem Group.change_teams (bid : Nat) (tm : Group → Nat → Team → Team) (g : Group) :
    Group.change bid 0 (fun _ th => th) tm (fun _ b => b) g = { g with teams := g.teams.mapIdx (tm g) } := by
  simp only [Group.change, upd_self, mapIdx_self]
  rfl

theorem State.updGroup_self (s : State) (i : Nat) : s.updGroup i (fun g => g) = s := by
  simp only [State.updGroup, upd_self]

/-- An instruction that writes no register. -/
theorem retireNext_passed (x : State) (c : Ctx) (m : Bool) (byp : List BypVal) :
    ∃ u, retireNext x c m byp = marked m u c ∧ Fixed x u c byp (fun _ th => th) (fun _ tm => tm) := by
  have h := retireNext_change x c m byp 0 (fun _ th => th) (fun _ _ tm => tm) (fun _ b => b) (fun _ _ => rfl) (fun _ _ => rfl) _ (fun _ _ => rfl)
  rwa [show Group.change c.b.id 0 (fun _ th => th) (fun _ _ tm => tm) (fun _ b => b) = fun g => g from
    funext (fun g => by rw [Group.change_threads, mapIdx_self]), State.updGroup_self] at h

theorem retireNext_threads (x : State) (c : Ctx) (m : Bool) (byp : List BypVal) (th : Nat → Thread → Thread) :
    ∃ u, retireNext (x.updGroup c.g.id (fun g => { g with threads := g.threads.mapIdx th })) c m byp = marked m u c ∧
      Fixed x u c byp th (fun _ tm => tm) := by
  have h := retireNext_change x c m byp 0 th (fun _ _ tm => tm) (fun _ b => b) (fun _ _ => rfl) (fun _ _ => rfl) _ (fun _ _ => rfl)
  rwa [show Group.change c.b.id 0 th (fun _ _ tm => tm) (fun _ b => b) = fun g => { g with threads := g.threads.mapIdx th } from
    funext (fun g => Group.change_threads _ th g)] at h

theorem retireNext_teams (x : State) (c : Ctx) (m : Bool) (byp : List BypVal) (tm : Group → Nat → Team → Team)
    (tm' : Nat → Team → Team) (htm : ∀ g, x.group? c.g.id = some g → tm g = tm') :
    ∃ u, retireNext (x.updGroup c.g.id (fun g => { g with teams := g.teams.mapIdx (tm g) })) c m byp = marked m u c ∧
      Fixed x u c byp (fun _ th => th) tm' := by
  have h := retireNext_change x c m byp 0 (fun _ th => th) tm (fun _ b => b) (fun _ _ => rfl) (fun _ _ => rfl) tm' htm
  rwa [show Group.change c.b.id 0 (fun _ th => th) tm (fun _ b => b) = fun g => { g with teams := g.teams.mapIdx (tm g) } from
    funext (fun g => Group.change_teams _ tm g)] at h

theorem fixedV_fixed (x : State) (c : Ctx) (m t : Bool) (d : BitVec 6) (ts : List Nat) (f : Nat → W32) :
    ∃ u, fixedV x c m t d (ts.map (fun l => (l, f l))) = marked m u c ∧
      Fixed x u c [{ reg := d, t := t, vals := ts.map (fun l => (l, f l)) }]
        (fun l th => if !t && ts.contains l then th.setV d (f l) else th) (fun _ tm => tm) := by
  unfold fixedV
  cases t with
  | true => simpa using retireNext_passed x c m [{ reg := d, t := true, vals := ts.map (fun l => (l, f l)) }]
  | false =>
    simp only [List.map_map, Function.comp_def, Group.writeVs_eq, Bool.false_eq_true, if_false, Bool.not_false, Bool.true_and]
    exact retireNext_threads x c m _ _

theorem fixedPair_fixed (x : State) (c : Ctx) (m t : Bool) (d : BitVec 6) (ts : List Nat) (f : Nat → W64) :
    ∃ u, fixedPair x c m t d (ts.map (fun l => (l, f l))) = marked m u c ∧
      Fixed x u c [{ reg := d, t := t, vals := ts.map (fun l => (l, (f l).extractLsb 31 0)) },
          { reg := d + 1, t := t, vals := ts.map (fun l => (l, (f l).extractLsb 63 32)) }]
        (fun l th => if !t && ts.contains l then (th.setV d ((f l).extractLsb 31 0)).setV (d + 1) ((f l).extractLsb 63 32) else th)
        (fun _ tm => tm) := by
  unfold fixedPair
  cases t with
  | true =>
    simpa [List.map_map, Function.comp_def] using retireNext_passed x c m
      [{ reg := d, t := true, vals := ts.map (fun l => (l, (f l).extractLsb 31 0)) },
       { reg := d + 1, t := true, vals := ts.map (fun l => (l, (f l).extractLsb 63 32)) }]
  | false =>
    simp only [List.map_map, Function.comp_def, Group.writeVs_eq, Bool.false_eq_true, if_false, Bool.not_false, Bool.true_and,
      List.mapIdx_mapIdx]
    have e : (fun (i : Nat) (th : Thread) => if ts.contains i = true then
        (if ts.contains i = true then th.setV d ((f i).extractLsb 31 0) else th).setV (d + 1) ((f i).extractLsb 63 32)
        else if ts.contains i = true then th.setV d ((f i).extractLsb 31 0) else th) =
        fun i th => if ts.contains i = true then (th.setV d ((f i).extractLsb 31 0)).setV (d + 1) ((f i).extractLsb 63 32) else th := by
      funext i th; cases ts.contains i <;> rfl
    have h := retireNext_threads x c m [{ reg := d, t := false, vals := ts.map (fun l => (l, (f l).extractLsb 31 0)) },
       { reg := d + 1, t := false, vals := ts.map (fun l => (l, (f l).extractLsb 63 32)) }]
      (fun i th => if ts.contains i = true then (th.setV d ((f i).extractLsb 31 0)).setV (d + 1) ((f i).extractLsb 63 32) else th)
    rw [e]
    exact h

theorem fixedP_fixed (x : State) (c : Ctx) (m : Bool) (d : BitVec 3) (ts : List Nat) (f : Nat → Bool) :
    ∃ u, fixedP x c m d (ts.map (fun l => (l, f l))) = marked m u c ∧
      Fixed x u c [] (fun l th => if ts.contains l then th.setP d (f l) else th) (fun _ tm => tm) := by
  unfold fixedP
  simp only [List.map_map, Function.comp_def, Group.writePs_eq]
  exact retireNext_threads x c m _ _

theorem fixedS_fixed (x : State) (c : Ctx) (m : Bool) (d : BitVec 6) (ts : List Nat) (f : Nat → W64) (hc : x.group? c.g.id = some c.g) :
    ∃ u, fixedS x c m d (ts.map (fun l => (l, f l))) = marked m u c ∧
      Fixed x u c [] (fun _ th => th) (fun l tm => if ts.contains l then tm.putS c.clk c.g.nextB (s5 d) (f l) else tm) := by
  unfold fixedS
  simp only [List.map_map, Function.comp_def, Group.putSs_eq]
  exact retireNext_teams x c m _ (fun g l tm => if ts.contains l then tm.putS c.clk g.nextB (s5 d) (f l) else tm) _
    (fun g hg => by rw [hc] at hg; cases hg; rfl)

theorem noResult_fixed (x : State) (c : Ctx) (m : Bool) :
    ∃ u, noResult x c m = marked m u c ∧ Fixed x u c [] (fun _ th => th) (fun _ tm => tm) := retireNext_passed x c m []

theorem lateResult_late (x : State) (c : Ctx) (m : Bool) (ts : List Nat) (o : Outst) :
    ∃ u, lateResult x c m ts o = marked m u c ∧ Late x u c ts o := by
  unfold lateResult Late
  by_cases h : ts = []
  · simpa [h, Fixed] using retireNext_passed x c m []
  · have h' := retireNext_change x c m [] 1 (fun _ th => th) (fun _ _ tm => tm)
      (fun g b => { b with outst := b.outst ++ [{ o with uid := g.nextB, clk := c.clk, ts := ts }] }) (fun _ _ => rfl) (fun _ _ => rfl) _ (fun _ _ => rfl)
    have e : Group.change c.b.id 1 (fun _ th => th) (fun _ _ tm => tm)
        (fun g b => { b with outst := b.outst ++ [{ o with uid := g.nextB, clk := c.clk, ts := ts }] }) =
        fun g => { g.updBundle c.b.id (fun b => { b with outst := b.outst ++ [{ o with uid := g.nextB, clk := c.clk, ts := ts }] }) with nextB := g.nextB + 1 } := by
      funext g
      simp only [Group.change, mapIdx_self]
      rfl
    rw [e] at h'
    simpa [h] using h'

end Sys2Proof.Machine
end

