-- ==== Sys2Proof/Tests/Slice0.lean ====
section
/-! SUPPORT. Tests on small states, and for every statement with hypotheses a state and operands that meet them. Expected words
and values are taken from the spec or worked by hand from its tables. -/

namespace Sys2Proof.Tests

open Sys2Proof.Machine Sys2Proof.Safety Sys2Proof.Rules

set_option maxRecDepth 100000

/-! ## Well-formedness: an ill-formed term for each check -/

def opA : OpA := { b := 0, a := 2, d := 2, g := 7, t := false, m := false, p := none }
def opF : OpF := { sel := 0, a := 0, d := 0, g := 7, m := false }
def opE : OpE := { b := 0, a := 0, k := 0, g := 7, m := false, p := none }
def opCx : OpCx := { x := false, s := 0, v := 0, t := 0, g := 7, m := false, p := none }
def opCd : OpCd := { i := 0, x := false, w := 2, b := 0, t := 0, g := 7, m := false, p := none }
def opCm : OpCm := { i := false, s := 0, v := 0, d := 0, g := 7, m := false, p := none }

theorem test_wf_good : (Instr.iaddA opA).reject = none := by decide
theorem test_wf_tReserved : (Instr.icmpN32A { opA with t := true }).reject = some .tReserved := by decide
theorem test_wf_reservedField : (Instr.clz { opA with b := 1 }).reject = some .reservedField := by decide
theorem test_wf_reservedCode : (Instr.fadd 3 opA).reject = some .reservedCode := by decide
theorem test_wf_oddPair : (Instr.iadd64A { opA with a := 3 }).reject = some .oddPair := by decide
theorem test_wf_illegalReg : (Instr.saddA { opA with a := 32 }).reject = some .illegalReg := by decide
theorem test_wf_illegalMask : (Instr.join { opA with a := 12, d := 0 }).reject = some .illegalReg := by decide
theorem test_wf_illegalPred : (Instr.icmpN32A { opA with d := 7 }).reject = some .illegalReg := by decide
theorem test_wf_condition : (Instr.icmpN32A { opA with d := 48 }).reject = some .reservedCode := by decide
theorem test_wf_badPrefix : (Instr.iaddA { opA with p := some { qb := 0, qa := 0, rm := 1 } }).reject = some .badPrefix := by decide
theorem test_wf_streamCode : (Instr.iaddA { opA with p := some { qb := 0, qa := 1, rm := 0 } }).reject = some .badPrefix := by decide
theorem test_wf_hi5 : (Instr.movBw { i := 0, d := 0, g := 7, t := false, m := false, p := some 0x100000 }).reject = some .badPrefix := by decide
theorem test_wf_signOnWord : (Instr.ldCx 2 { opCx with x := true }).reject = some .reservedField := by decide
theorem test_wf_doublePair : (Instr.ldCx 3 { opCx with t := 1 }).reject = some .oddPair := by decide
theorem test_wf_loadRelease : (Instr.ldCdS { opCd with p := some { scope := 0, ord := 2, res := 0, lo := 0 } }).reject = some .badPrefix := by decide
theorem test_wf_storeAcquire : (Instr.stCdS { opCd with p := some { scope := 0, ord := 1, res := 0, lo := 0 } }).reject = some .badPrefix := by decide
theorem test_wf_scratchOrder : (Instr.lds { opCd with p := some { scope := 1, ord := 0, res := 0, lo := 0 } }).reject = some .badPrefix := by decide
theorem test_wf_noIndex : (Instr.atomAdd { opCm with i := true }).reject = some .noIndex := by decide
theorem test_wf_indexBits : (Instr.red { opCm with p := some { scope := 0, ord := 0, res := 0, lo := 1 } }).reject = some .badPrefix := by decide
theorem test_wf_enextPrefix : (Instr.enext { opE with p := some { scope := 1, ord := 0 } }).reject = some .badPrefix := by decide
theorem test_wf_flagAcquire : (Instr.flgs { opE with p := some { scope := 0, ord := 1 } }).reject = some .badPrefix := by decide
theorem test_wf_flagField : (Instr.flgs { opE with a := 1 }).reject = some .reservedField := by decide
theorem test_wf_sysSel : (Instr.rdsys { opF with sel := 0x23 }).reject = some .reservedCode := by decide
theorem test_wf_sysClass : (Instr.rdsys { opF with sel := 4, a := 3 }).reject = some .reservedCode := by decide
theorem test_wf_sysPair : (Instr.rdsys { opF with sel := 4, a := 1, d := 1 }).reject = some .oddPair := by decide
theorem test_wf_sysScalar : (Instr.rdsys { opF with sel := 0, a := 2 }).reject = some .illegalReg := by decide

/-! ## Decoding: words written out from Tables 1, 3, 9 and 10 of 07_encoding -/

/-- FADD.F32 v2, v1, v3: L 1, MAJ 0x10 at [8:3], G 7 at [13:11], d 2, a 1, b 3. -/
theorem test_decode_fadd : decode [0x81, 0xB8, 0x10, 0x0C] = .ok (.fadd 0 { opA with b := 3, a := 1, d := 2 }, []) := by decide
/-- SHL v3, v2, #2: MAJ 0x04, MIN 1, format B. -/
theorem test_decode_shl : decode [0x21, 0xFA, 0x20, 0x08] = .ok (.shlB { i := 2, a := 2, d := 3, g := 7, t := false, m := false, p := none }, []) := by
  decide
/-- ENEXT p1: MAJ 0x38, MIN 0, k 1. -/
theorem test_decode_enext : decode [0xC1, 0x79, 0x00, 0x00] = .ok (.enext { opE with k := 1 }, []) := by decide
/-- DHALT s2: MAJ 0x3C, MIN 0, a 2. -/
theorem test_decode_dhalt : decode [0xE1, 0x39, 0x20, 0x00] = .ok (.dhalt { opF with a := 2 }, []) := by decide
/-- DRDS, sel 3, of s10: MAJ 0x3D, MIN 1. -/
theorem test_decode_drds : decode [0xE9, 0x3B, 0xA0, 0x0C] = .ok (.drds { opF with sel := 3, a := 10 }, []) := by decide
/-- QPUSH j2, s6: MAJ 0x2C, MIN 2, k 2, a 6. -/
theorem test_decode_qpush : decode [0x61, 0xBD, 0x60, 0x00] = .ok (.qpush { opE with k := 2, a := 6 }, []) := by decide
/-- MTX s4, s5, b 1, with guard 1: MAJ 0x34, MIN 0. -/
theorem test_decode_mtx : decode [0xA1, 0x09, 0x51, 0x04] = .ok (.mtx { opE with b := 1, a := 5, k := 4, g := 1 }, []) := by decide
/-- FADD v10, v13 in 16 bits: a 13 at [15:11], d 10 at [10:6], code 11 at [5:2], S 0, L 0. -/
theorem test_decode_short : decode [0xAC, 0x6A] = .ok (.faddShort { a := 13, d := 10, m := false }, []) := by decide
/-- An unassigned pair (MAJ 0x3E), a word cut short, a short form behind a prefix (R162, R165). -/
theorem test_decode_unassigned : decode [0xF1, 0x39, 0x00, 0x00] = .error .unassigned := by decide
theorem test_decode_cut : decode [0x05, 0xB8, 0x20] = .error .tooShort := by decide
theorem test_decode_prefixShort : decode [0xF9, 0x01, 0x00, 0x02, 0xAC, 0x6A, 0x00, 0x00] = .error .shortAfterPrefix := by decide
theorem test_decode_prefixTwice : decode [0xF9, 0x01, 0x00, 0x02, 0xF9, 0x01, 0x00, 0x02] = .error .twoPrefixes := by decide
/-- Format F takes no prefix: RDTS (MAJ 0x3B, MIN 0) behind one. -/
theorem test_decode_prefixF : decode [0xF9, 0x01, 0x00, 0x00, 0xD9, 0x39, 0x00, 0x00] = .error .noPrefixHere := by decide

/-! ## A small machine: one group of one thread, in a cooperative edge range with the debug bit -/

def graph : Graph :=
  { desc := 0, nv := 1, ne := 0, optr := 0, oidx := 0, iptr := 0, iidx := 0, owt := 0, iwt := 0, state := 0, fbmp := 0, fq := 0, op := 0,
    autoact := false, midsw := false, settle := false, alpha := 1, beta := 1, maxlv := 1, nil := 0, sluices := [{ die := 0 }] }
def range : RangeSt :=
  { rid := 1, asid := 1, part := 0, h := 64, debug := true, graph := some graph, harps := [{ die := 0 }]
    img := { config := 0x180, rrec := { coop := true, edge := true, qdecl := 1, queue := [1] } } }
def group : Group :=
  { id := 0, rid := 1, die := 0, core := 0, part := 0, gseq := 0, shp := (1, 1, 1), base := (0, 0, 0), ext := (1, 1, 1)
    threads := [{ team := 0, lane := 0 }], teams := [{ idx := 0 }], bundles := [{ id := 0, pc := 0x1000, ts := [0] }], nextB := 1
    scrSize := 4096, flags := [0] }
def cur : Cur := { gid := 0, bid := 0, pc := 0x1000, len := 4, words := 0 }
def one : State := { cur := some cur, groups := [group], ranges := [range], nextGid := 1 }
def ctx0 : Ctx := { g := group, b := { id := 0, pc := 0x1000, ts := [0] }, r := range, c := cur, act := [0], clk := 0 }

theorem one_ctx : one.ctx = some ctx0 := rfl
theorem one_begun (p : Spec) : begun one p ctx0 = one := by
  unfold begun; split <;> rfl

theorem Ctx.spoilt_clean (c : Ctx) (p : Spec) (h : ∀ t ∈ c.active p.g, (c.g.th t).bad = []) : c.spoilt p = [] := by
  unfold Ctx.spoilt
  rw [List.flatMap_eq_nil_iff]
  intro t ht
  simp [h t ht]
theorem one_clean (p : Spec) : (ctx0.at_ p.g).spoilt p = [] :=
  Ctx.spoilt_clean _ _ (fun t _ => by
    cases t with
    | zero => rfl
    | succ t => simp [Ctx.at_, ctx0, group, Group.th, deadThread])
theorem one_free (p : Spec) : (ctx0.at_ p.g).strmHeld one p = false := by
  unfold Ctx.strmHeld
  rw [List.any_eq_false]
  intro x _
  simp [Ctx.heldBack, State.heldBack, State.heldOf, one, Ctx.combHeld, Ctx.at_, ctx0, range, graph]

/-- On this machine every instruction issues. -/
theorem one_ready (p : Spec) : Ready p one ctx0 one (ctx0.at_ p.g) where
  issues := rfl
  window := fun _ _ n _ => n.isLt
  mode := fun _ => rfl
  ended := fun _ => ⟨rfl, rfl⟩
  acts := by
    rw [one_begun]
    show one = metPoison one (ctx0.at_ p.g) ((ctx0.at_ p.g).spoilt p)
    rw [one_clean]; rfl
  ctx := by rw [one_begun]; rfl
  poison := by
    show [] = ((ctx0.at_ p.g).spoilt p).map (·.1)
    rw [one_clean]; rfl
  whole := fun _ => ⟨show ctx0.b.ts.length = (ctx0.g.liveTeam (teamOf (ctx0.b.ts.headD 0))).length by decide,
    fun t ht => by simpa [ctx0, Ctx.at_] using congrArg teamOf (List.mem_singleton.mp ht)⟩
  arm := fun a _ => by
    have free (t : Nat) (j : Bool) : ((ctx0.at_ p.g).g.team t).armed j a.1 = none := by
      cases t <;> cases j <;> simp [Ctx.at_, ctx0, group, Group.team, Team.armed]
    simp [Ctx.armedAt, free]
  tokens := fun t ht _ n _ hn => by
    have hp : (ctx0.g.team t).pend = [] := by
      cases t with
      | zero => rfl
      | succ t => simp [ctx0, group, Group.team]
    simp [Ctx.at_, hp] at hn
  hazards := fun _ _ h hh => by simp [ctx0, Ctx.at_, Bundle.hazards, Bundle.hazEnts] at hh
  room := fun _ => show 0 < 63 by decide
  free := by rw [one_begun]; exact one_free p

/-! ## Every statement's hypotheses are met: instructions -/

theorem met_IntegerArithmetic : ∃ r, arithmetic (.iaddA opA) = some r ∧ ∃ s c0 x c, Ready r.spec s c0 x c ∧ r.ok c :=
  ⟨_, rfl, one, ctx0, one, _, one_ready _, trivial⟩
theorem met_Bitwise : ∃ r, bitwise (.andA opA) = some r ∧ ∃ s c0 x c, Ready r.spec s c0 x c ∧ r.ok c :=
  ⟨_, rfl, one, ctx0, one, _, one_ready _, trivial⟩
theorem met_Comparison : ∃ r, comparison (.icmpN32A { opA with d := 16 }) = some r ∧ ∃ s c0 x c, Ready r.spec s c0 x c ∧ r.ok c :=
  ⟨_, rfl, one, ctx0, one, _, one_ready _, trivial⟩
theorem met_Move : ∃ r, moves (.movA opA) = some r ∧ ∃ s c0 x c, Ready r.spec s c0 x c ∧ r.ok c :=
  ⟨_, rfl, one, ctx0, one, _, one_ready _, trivial⟩
theorem met_Scalar : ∃ r, scalars (.saddA opA) = some r ∧ ∃ s c0 x c, Ready r.spec s c0 x c ∧ r.ok c :=
  ⟨_, rfl, one, ctx0, one, _, one_ready _, trivial⟩
theorem met_SystemRead : ∃ r, systemReads (.rdsys opF) = some r ∧ ∃ s c0 x c, Ready r.spec s c0 x c ∧ r.ok c :=
  ⟨_, rfl, one, ctx0, one, _, one_ready _, trivial⟩
theorem met_Float : ∃ r, floats (.fadd 0 opA) = some r ∧ ∃ s c0 x c, Ready r.spec s c0 x c ∧ r.ok c :=
  ⟨_, rfl, one, ctx0, one, _, one_ready _, trivial⟩
theorem met_Conversion : ∃ r, conversions (.f2i opA) = some r ∧ ∃ s c0 x c, Ready r.spec s c0 x c ∧ r.ok c :=
  ⟨_, rfl, one, ctx0, one, _, one_ready _, trivial⟩
theorem met_ShortForm : ∃ r, shorts (.movShort { a := 1, d := 0, m := false }) = some r ∧ ∃ s c0 x c, Ready r.spec s c0 x c ∧ r.ok c :=
  ⟨_, rfl, one, ctx0, one, _, one_ready _, trivial⟩
theorem met_MaskAndSlot : ∃ r, masks (.mset { i := 1, d := 11, g := 7, t := false, m := false, p := none }) = some r ∧
    ∃ s c0 x c, Ready r.spec s c0 x c ∧ r.ok c :=
  ⟨_, rfl, one, ctx0, one, _, one_ready _, show ∀ t ∈ (ctx0.at_ 7).teams 7, ((ctx0.at_ 7).g.team t).joins.all (fun a => a.mask != 11) ∧
    ((ctx0.at_ 7).g.team t).waits.all (fun a => a.mask != 11) by decide⟩
theorem met_Load : ∃ r, lates (.lds opCd) = some r ∧ ∃ s c0 x c, Ready r.spec s c0 x c ∧ r.ok x c :=
  ⟨_, rfl, one, ctx0, one, _, one_ready _, fun _ => rfl⟩
theorem met_Store : ∃ r, storing (.sts opCd) = some r ∧ ∃ s c0 x c, Ready r.spec s c0 x c ∧ r.ok x c :=
  ⟨_, rfl, one, ctx0, one, _, one_ready _, rfl⟩
theorem met_Atomic : ∃ r, atomics (.atomAdd opCm) = some r ∧ ∃ s c0 x c, Ready r.spec s c0 x c ∧ r.ok x c :=
  ⟨_, rfl, one, ctx0, one, _, one_ready _, rfl, rfl⟩
theorem met_Reduction : ∃ r, reductions (.red opCm) = some r ∧ ∃ s c0 x c, Ready r.spec s c0 x c ∧ r.ok x c :=
  ⟨_, rfl, one, ctx0, one, _, one_ready _, rfl, rfl⟩
theorem met_TeamOperation : ∃ r, teams (.boarr { opE with a := 32 }) = some r ∧ ∃ s c0 x c, Ready r.spec s c0 x c ∧ r.ok x c ∧
    ∃ ts, ts = (c.teams r.spec.g).filter (fun t => !(c.b.part.contains t)) ∧ (∀ t ∈ ts, (r.f c x t).isSome = true) ∧ ∃ z, chain (r.f c) ts x = some z :=
  ⟨_, rfl, one, ctx0, one, _, one_ready _, .inl rfl, [0], by decide, by decide, _, rfl⟩
theorem met_Debug : ∃ r, debugging (.dhalt opF) = some r ∧ ∃ s c0 x c, Ready r.spec s c0 x c ∧ r.ok x c ∧
    ∃ ts, ts = (c.teams r.spec.g).filter (fun t => !(c.b.part.contains t)) ∧ (∀ t ∈ ts, (r.f c x t).isSome = true) ∧ ∃ z, chain (r.f c) ts x = some z :=
  ⟨_, rfl, one, ctx0, one, _, one_ready _, trivial, [0], by decide, by decide, _, rfl⟩
theorem met_WaitingResult : ∃ r, waiters (.dist opE) = some r ∧ ∃ s c0 x c, Ready r.spec s c0 x c ∧ r.ok x c :=
  ⟨_, rfl, one, ctx0, one, _, one_ready _, by decide⟩
theorem met_Control : ∃ r, jumps (.bra { o := 2, g := 7, m := false, p := none }) = some r ∧ ∃ s c0 x c, Ready r.spec s c0 x c ∧ r.ok c :=
  ⟨_, rfl, one, ctx0, one, _, one_ready _, trivial⟩
/-- A return to the even address 0. -/
theorem met_Control_ret : ∃ r, jumps (.ret opA) = some r ∧ ∃ s c0 x c, Ready r.spec s c0 x c ∧ r.ok c :=
  ⟨_, rfl, one, ctx0, one, _, one_ready _, by decide⟩
theorem met_Wait : ∃ r, stays (.bar opF) = some r ∧ ∃ s c0 x c, Ready r.spec s c0 x c ∧ r.ok x c :=
  ⟨_, rfl, one, ctx0, one, _, one_ready _, by decide⟩
theorem met_Wait_gbar : ∃ r, stays (.gbar opF) = some r ∧ ∃ s c0 x c, Ready r.spec s c0 x c ∧ r.ok x c :=
  ⟨_, rfl, one, ctx0, one, _, one_ready _, by decide⟩
theorem met_Effect : ∃ r, effects (.nop opF) = some r ∧ ∃ s c0 x c, Ready r.spec s c0 x c ∧ r.ok x c :=
  ⟨_, rfl, one, ctx0, one, _, one_ready _, trivial⟩
theorem met_Effect_eact : ∃ r, effects (.eact opE) = some r ∧ ∃ s c0 x c, Ready r.spec s c0 x c ∧ r.ok x c :=
  ⟨_, rfl, one, ctx0, one, _, one_ready _, rfl, rfl⟩
theorem met_DebugStep : ∃ s c0 x c, Ready { g := 7, rd := [.s (s5 0)], priv := true } s c0 x c ∧
    ∃ z, chain (stepAsked opF c) ((c.teams 7).filter (fun t => !(c.b.part.contains t))) x = some z :=
  ⟨one, ctx0, one, _, one_ready _, _, rfl⟩
theorem met_MailReceive : ∃ s c0 x c, Ready { g := 7, rd := [.s (s5 0)], priv := true } s c0 x c ∧
    ∃ z, chain (mailAsked opF c) ((c.teams 7).filter (fun t => !(c.b.part.contains t))) x = some z ∧ mailOf z c ≠ [] :=
  ⟨one, ctx0, one, _, one_ready _, _, rfl, by decide⟩

/-! ## Every statement's hypotheses are met: events -/

/-- Core 0's 256 clk have passed (R82). -/
def late : State := { one with clk := 256, ticks := 365, mem := { cores := [{ die := 0, num := 0 }] } }
def op0 : EngOp := { id := 0, gid := 0, team := 0, lane := 0, pc := 0x1000, tok := some 3, kind := .copy 0 0 true true 0 }
def queue0 : Queue :=
  { qid := 0, qcb := 0, qcbAsid := 1, priv := [], ring := 0, rsize := 12, owner := 0, asid := 1, pceil := 7, qflg := 0, key := 0, dbmp := 0 }
def fed : State := { one with fe := { queues := [queue0], parts := [{ num := 0, sel := some { qid := 0, bytes := List.replicate 64 0, units := 1 } }] } }

theorem met_MemoryEvents : ∃ e, memoryEvents (.ptsTick 0) = some e ∧ ∃ s a, e.pre s a := ⟨_, rfl, late, (), show 0 < 256 / 256 by decide⟩
theorem met_GroupEvents : ∃ e, groupEvents (.groupRetire 0) = some e ∧ ∃ s a, e.pre s a :=
  let g : Group := { group with threads := [{ team := 0, lane := 0, live := false }] }
  ⟨_, rfl, { one with groups := [g] }, g, rfl, rfl, rfl, by decide, by decide, by decide⟩
theorem met_EngineEvents : ∃ e, engineEvents (.copyComplete 0) = some e ∧ ∃ s a, e.pre s a :=
  ⟨_, rfl, { one with eng := { ops := [op0] } }, (op0, _, 0, 0, true, true, 0), ⟨rfl, rfl, rfl⟩, rfl, rfl⟩
theorem met_EdgeEvents : ∃ e, edgeEvents (.queueEntryAging 1 0) = some e ∧ ∃ s a, e.pre s a := ⟨_, rfl, one, range, rfl⟩
theorem met_FaultEvents : ∃ e, faultEvents (.watchpointHalt 0 0) = some e ∧ ∃ s a, e.pre s a :=
  let b : Bundle := { id := 0, pc := 0x1000, ts := [0], watch := [(0, 64, 1, 0xFFC)] }
  ⟨_, rfl, { one with groups := [{ group with bundles := [b] }] }, ({ group with bundles := [b] }, b), rfl, rfl, by decide⟩
theorem met_FrontEndEvents : ∃ e, frontEndEvents (.nopPacket 0) = some e ∧ ∃ s a, e.pre s a :=
  ⟨_, rfl, fed, ({ qid := 0, bytes := List.replicate 64 0, units := 1 }, queue0), rfl, rfl, rfl⟩
theorem met_LinkEvents : ∃ e, linkEvents (.canalPortDown 31) = some e ∧ ∃ s a, e.pre s a := ⟨_, rfl, one, (), by decide, by decide⟩
theorem met_BringUpEvents : ∃ e, bringUpEvents (.firmwareVerify [] (Config.imageSvn []) 0 0) = some e ∧ ∃ s a, e.pre s a :=
  ⟨_, rfl, { one with pkg := { phase := 2 } }, (), rfl, rfl⟩
theorem met_TelemetryEvents : ∃ e, telemetryEvents (.thermalThrottle 3) = some e ∧ ∃ s a, e.pre s a := ⟨_, rfl, one, (), by decide, by decide⟩

/-! ## Every statement's hypotheses are met: traps -/

theorem met_WindowTraps : ∃ i p, specOf i = some p ∧ ∃ (s : State) (c : Ctx), s.ctx = some c ∧ ∃ r ∈ named p, ∃ n ∈ r.vs, c.r.h ≤ n.toNat :=
  ⟨.iaddA { opA with d := 32 }, _, rfl, { one with ranges := [{ range with h := 32 }] }, _, rfl, .v 32, by decide, 32, by decide, by decide⟩
theorem met_PrivilegeTraps : ∃ i p, specOf i = some p ∧ p.priv = true ∧ ∃ (s : State) (c : Ctx), s.ctx = some c ∧ (∀ r ∈ named p, ∀ n ∈ r.vs, n.toNat < c.r.h) ∧
    c.r.debug = false :=
  ⟨.dhalt opF, _, rfl, rfl, { one with ranges := [{ range with debug := false }] }, _, rfl, by decide, rfl⟩

/-- The machine in a run that has v2 outstanding, and s0 and s5 pending in its team. -/
def bundleB : Bundle := { id := 0, pc := 0x1000, ts := [0], haz := [(.v 2, [0])] }
def groupB : Group := { group with bundles := [bundleB], teams := [{ idx := 0, pend := [0, 5] }] }
def busy : State := { one with groups := [groupB] }
def ctxB : Ctx := { g := groupB, b := bundleB, r := range, c := cur, act := [0], clk := 0 }
theorem busy_begins (p : Spec) (h : (p.ends || p.coll) = false) (hc : p.coll = false) (ha : p.arm = none) : Begins p busy ctxB busy (ctxB.at_ p.g) where
  issues := rfl
  window := fun _ _ n _ => n.isLt
  mode := fun _ => rfl
  ended := fun h' => by simp [h] at h'
  acts := by simp [begun, h]
  ctx := rfl
  whole := fun h' => by simp [hc] at h'
  arm := fun a h' => by simp [ha] at h'

theorem met_HazardTraps : ∃ i p, specOf i = some p ∧ ∃ s c0 x c, Begins p s c0 x c ∧ (∀ n, RegRef.s n ∈ p.rd ++ p.wr → ¬ Pending p c n) ∧
    ∃ r ∈ named p, ∃ h ∈ c.b.hazards, r.meets h = true :=
  ⟨.iaddA opA, _, rfl, busy, ctxB, busy, _, busy_begins _ rfl rfl rfl, fun n hn => absurd hn (by revert n; decide), .v 2, by decide, .v 2, by decide, by decide⟩
theorem met_TokenRules_read : ∃ i p, specOf i = some p ∧ ∃ s c0 x c, Begins p s c0 x c ∧ ∃ n, RegRef.s n ∈ p.rd ∧ Pending p c n :=
  ⟨.saddA opA, _, rfl, busy, ctxB, busy, _, busy_begins _ rfl rfl rfl, 0, by decide, 0, by decide, by decide, by decide⟩
theorem met_TokenRules_write : ∃ i p, specOf i = some p ∧ ∃ s c0 x c, Begins p s c0 x c ∧ (∀ n, RegRef.s n ∈ p.rd → ¬ Pending p c n) ∧
    ∃ n, RegRef.s n ∈ p.wr ∧ Pending p c n :=
  ⟨.saddA { opA with a := 1, b := 1, d := 5 }, _, rfl, busy, ctxB, busy, _, busy_begins _ rfl rfl rfl,
    fun n hn => by
      have : n = 1 := by revert n; decide
      subst this
      rintro ⟨t, _, _, hm⟩
      cases t with
      | zero => exact absurd hm (by decide)
      | succ t => simp [Ctx.at_, ctxB, groupB, group, Group.team] at hm,
    5, by decide, 0, by decide, by decide, by decide⟩

/-- The thread's registers all hold 1, an odd address as a pair. -/
def threadO : Thread := { team := 0, lane := 0, v := Vector.replicate 64 1 }
theorem met_OddTargetTraps : ∃ s c0 x c, Ready { g := 7, rd := [.pair 2] } s c0 x c ∧
    ∃ t bad, (c.active 7).filter (fun t => (c.pair t 2).getLsbD 0) = t :: bad := by
  let s : State := { one with groups := [{ group with threads := [threadO] }] }
  let c0 : Ctx := { ctx0 with g := { group with threads := [threadO] } }
  refine ⟨s, c0, s, c0.at_ 7, ?_, 0, [], by decide⟩
  exact { issues := rfl, window := fun _ _ n _ => n.isLt, mode := fun _ => rfl, ended := fun h => absurd h (by decide), acts := rfl, ctx := rfl
          poison := rfl, whole := fun h => absurd h (by decide), arm := fun _ h => absurd h (by simp)
          tokens := fun _ _ _ n hn => absurd hn (by revert n; decide), hazards := by decide, room := fun h => absurd h (by decide), free := rfl }

/-- A range that is not cooperative; the second guard is false in every lane. -/
def alone : RangeSt := { range with img := { config := 0x180 } }
theorem alone_ready (g : BitVec 3) : Ready { g := g, ends := true } { one with ranges := [alone] } { ctx0 with r := alone } { one with ranges := [alone] }
    (({ ctx0 with r := alone } : Ctx).at_ g) where
  issues := rfl
  window := fun _ _ n _ => n.isLt
  mode := fun _ => rfl
  ended := fun _ => ⟨rfl, rfl⟩
  acts := by simp [metPoison, Ctx.spoilt, begun]; rfl
  ctx := rfl
  poison := by show [] = _; symm; simp [Ctx.spoilt]
  whole := fun h => Bool.noConfusion h
  arm := fun _ h => absurd h (by simp)
  tokens := fun t ht _ n hn => absurd hn (by simp)
  hazards := fun _ _ h hh => by simp [ctx0, Ctx.at_, Bundle.hazards, Bundle.hazEnts] at hh
  room := fun h => Bool.noConfusion h
  free := rfl
theorem met_GbarOutsideCooperative : ∃ s c0 x c, Ready { g := 7, ends := true } s c0 x c ∧ c.r.img.rrec.coop = false ∧
    c.b.ts.Pairwise (fun a b => laneOf a < laneOf b) ∧ c.active 7 ≠ [] :=
  ⟨_, _, _, _, alone_ready 7, rfl, by decide, by decide⟩
theorem met_GbarOutsideCooperative_none : ∃ s c0 x c, Ready { g := 0, ends := true } s c0 x c ∧ c.r.img.rrec.coop = false ∧
    c.b.ts.Pairwise (fun a b => laneOf a < laneOf b) ∧ c.active 0 = [] :=
  ⟨_, _, _, _, alone_ready 0, rfl, by decide, by decide⟩

/-- A join is armed on m11. -/
def armedTeam : Team := { idx := 0, joins := [{ mask := 11, val := 1, arr := 0, pc := 0x1000 }] }
def armed : State := { one with groups := [{ group with teams := [armedTeam] }] }
theorem met_ArmedMaskKeeps : ∃ i g m k val, maskWrites i = some (g, m, k, val) ∧ ∃ s c0 x c, Ready { g := g } s c0 x c ∧
    ∃ t ∈ c.teams g, ∃ a ∈ (c.g.team t).joins ++ (c.g.team t).waits, a.mask = k :=
  ⟨.mset { i := 1, d := 11, g := 7, t := false, m := false, p := none }, _, _, _, _, rfl, armed,
    { ctx0 with g := { group with teams := [armedTeam] } }, armed, _,
    { issues := rfl, window := fun _ _ n _ => n.isLt, mode := fun _ => rfl, ended := fun h => absurd h (by decide), acts := rfl, ctx := rfl
      poison := rfl, whole := fun h => absurd h (by decide), arm := fun _ h => absurd h (by simp)
      tokens := fun _ _ _ n hn => absurd hn (by simp), hazards := by decide, room := fun h => absurd h (by decide), free := rfl },
    0, by decide, { mask := 11, val := 1, arr := 0, pc := 0x1000 }, by decide, rfl⟩
theorem met_ArmedMaskKeeps_free : ∃ i g m k val, maskWrites i = some (g, m, k, val) ∧ ∃ s c0 x c, Ready { g := g } s c0 x c ∧
    ∀ t ∈ c.teams g, ∀ a ∈ (c.g.team t).joins ++ (c.g.team t).waits, a.mask ≠ k :=
  ⟨.mset { i := 1, d := 11, g := 7, t := false, m := false, p := none }, _, _, _, _, rfl, one, ctx0, one, _, one_ready _, by decide⟩

/-! ## Every statement's hypotheses are met: exceptions, bundles, memory, numbers, steps -/

/-- Lanes 3 and 1 of two bundles have met data faults at one time; the first ended its run. -/
def metAt (n : Nat) : DFault := { num := n, code := .align, cause := 0, level := 0, team := 0, lane := 0, lanes := 1, pc := 0x1000, addr := 0, time := 7 }
def groupF : Group :=
  { group with nextB := 2, bundles := [{ id := 0, pc := 0x1000, ts := [3], dfault := some (metAt 0) }, { id := 1, pc := 0x1000, ts := [1], dfault := some (metAt 1) }] }
theorem met_FaultStopsGroup : ∃ (s : State) (g : Group) (f : FRec) (bid : Option Nat), s.group? g.id = some g ∧ g.stop = none ∧ (g.bundles.map (·.id)).Nodup ∧
    ∀ b ∈ g.bundles, some b.id ≠ bid → ∀ d, b.dfault = some d → d.time = f.time → stopSrc g f bid ≤ b.src g :=
  ⟨one, group, {}, some 0, rfl, rfl, by decide, by decide⟩
theorem met_FaultStopsGroup_lower : ∃ (s : State) (g : Group) (f : FRec) (bid : Option Nat) (b : Bundle) (d : DFault), s.group? g.id = some g ∧ g.stop = none ∧
    (g.bundles.map (·.id)).Nodup ∧ b ∈ g.bundles ∧ some b.id ≠ bid ∧ b.dfault = some d ∧ d.time = f.time ∧ f.cls = .runPrecise ∧ b.src g < stopSrc g f bid ∧
    ∀ y ∈ g.bundles, some y.id ≠ bid → y = b :=
  ⟨{ one with groups := [groupF] }, groupF, { cls := .runPrecise, time := 7 }, some 0, _, metAt 1, rfl, rfl, by decide, .tail _ (.head _), by decide, rfl,
    rfl, rfl, by decide, by decide⟩
theorem met_StoppedGroupRecordsSecondary : ∃ (s : State) (g : Group), s.group? g.id = some g ∧ g.stop ≠ none :=
  let g : Group := { group with stop := some { frec := {}, bid := none, skipPc := none } }
  ⟨{ one with groups := [g] }, g, rfl, by decide⟩
theorem met_BundlesSplitByPc : ∃ (g : Group) (c : Ctx) (b : Bundle), g.bundle? c.b.id = some b ∧ (∀ y ∈ g.bundles, y.id < g.nextB) ∧
    (g.bundles.map (·.id)).Nodup ∧ b.ts ≠ [] := ⟨group, ctx0, _, rfl, by decide, by decide, by decide⟩
theorem met_BarrierPhaseCompletes : ∃ (s : State) (g : Group), s.group? g.id = some g ∧ (g.bundles.map (·.id)).Nodup ∧
    (∀ b ∈ g.bundles, b.st = .bar → b.nm = false) ∧ ((g.bundles.filter (fun b => b.st == .bar)).map (fun b => b.ts.length)).sum ≠ 0 ∧
    ((g.bundles.filter (fun b => b.st == .bar)).map (fun b => b.ts.length)).sum = g.live.length :=
  let g : Group := { group with bundles := [{ id := 0, pc := 0x1000, ts := [0], st := .bar }] }
  ⟨{ one with groups := [g] }, g, rfl, by decide, by decide, by decide, by decide⟩
theorem met_BarrierPhaseCompletes_wait : ∃ (s : State) (g : Group), s.group? g.id = some g ∧ (g.bundles.map (·.id)).Nodup ∧
    (∀ b ∈ g.bundles, b.st = .bar → b.nm = false) ∧ ((g.bundles.filter (fun b => b.st == .bar)).map (fun b => b.ts.length)).sum = 0 :=
  ⟨one, group, rfl, by decide, by decide, by decide⟩

/-- A sector of address space 1 that may be written, in the LLC. -/
def sec : Sector := { asid := 1, va := 0, part := 0xFF, pa := 2 ^ 46, data := zeroSec, w := true, d := true, wr := true }
def held : State := { one with mem := { llc := [sec] } }
def who : Who := { die := 0, core := 0, gid := 0, rid := 1, asid := 1, part := 0 }
/-- The last word of the sector is stored. -/
theorem met_Buffers : ∃ s w va bs t, Buffers s w va bs t :=
  ⟨held, who, 124, [1, 2, 3, 4], _, { kind := by decide, inside := by decide, here := ⟨_, rfl⟩, done := rfl, entries := by unfold OneEntry; decide }⟩
theorem met_ScratchStoreChangesItsBytes : ∃ (s : State) (g : Group), s.group? g.id = some g ∧ g.scratch.wf = true := ⟨one, group, rfl, rfl⟩
theorem met_AtomicUpdatesTheSlice : ∃ s w va n f old y t z, peerPa s w va true = .ok (none, z) ∧ va % 128 + n ≤ 128 ∧
    rmwSlice s w va n f = .ok (old, t) ∧ f old = some y :=
  ⟨held, who, 124, 4, fun x => some (x + 1), _, _, _, _, rfl, by decide, rfl, rfl⟩
theorem met_FillGrantsALease : ∃ (s : State) (w : Who) (va : Nat) (x : Sector), s.sector? w.asid va = some x ∧ s.nextReq w.asid (sectorOf va) = none ∧
    ∀ e ∈ (s.core w.die w.core).wcb, e.asid = w.asid → e.va = sectorOf va → e.reds = [] := ⟨held, who, 124, _, rfl, rfl, by decide⟩
theorem met_WritePassesEveryLease : ∃ (s : State) (asid va : Nat) (x : Sector), s.sector? asid va = some x := ⟨held, 1, 124, _, rfl⟩
theorem met_FillRespectsOwnership : ∃ (s : State) (w : Who) (va : Nat) (write : Bool) (t : State),
    s.sector? w.asid (sectorOf va) = none ∧ llcFill s w va write = .ok t :=
  ⟨State.reset.withFetchWord 32 0, { who with asid := fetchAsid }, fetchVa, false, _, rfl, rfl⟩
theorem met_RoundingIsExactOnTheFormat : ∃ x, x < 2 ^ (1 + F32.ebits + F32.fbits) ∧ F32.val x ≠ .nan := ⟨2 ^ 31, by decide, by decide⟩
theorem met_DecodeInvertsEncode : ∃ i, WellFormed i ∧ encode i ≠ [] := ⟨.iaddA opA, by unfold WellFormed; decide, by decide⟩
theorem met_EncodeInvertsDecode : ∃ bs i rest, decode bs = .ok (i, rest) := ⟨[0xAC, 0x6A, 0], _, _, rfl⟩

/-- A machine without cores' work, and one with a group that fetches `bs` next. -/
theorem met_IdleMachineWaits : ∃ s : State, s.dsteps = [] ∧ s.agenda = [] ∧ collDue s = none ∧ (∀ r ∈ s.ranges, levelDue s r.rid = false) ∧
    oldest (ageAll s) = none := ⟨State.reset, rfl, rfl, rfl, by decide, rfl⟩

/-- RDTS v0 (MAJ 0x3B, MIN 0, G 7) where the next step fetches. -/
def placed : State := State.reset.withFetchWord 32 0x000039D9
/-- An unassigned pair (MAJ 0x3E) there. -/
def placedBad : State := State.reset.withFetchWord 32 0x000039F1
/-- No translation there. -/
def placedOut : State := placed.updMem (fun m => { m with tlb := [] })

/-- A move of a later source has been made in this clk. -/
def placedSoon : State := { placed with order := some (0, 0, policySrc) }

/-- The state once bundle 0 has won, and the one it fetches from. -/
def won (s : State) : State := arbitrated (({ ageAll s with agenda := [] } : State).mark (.issue 0 0)) 0 0
def taken (s : State) : State := (won s).updBundle 0 0 (fun b => { b with st := .ready, atClk := s.clk + 1 })
/-- A core is asked to issue, and bundle 0 wins its arbitration. -/
def Asked (s : State) (g : Group) (b : Bundle) (r : RangeSt) : Prop :=
  s.dsteps = [] ∧ s.agenda = [.issue 0 0] ∧ (∃ h, s.group? 0 = some h ∧ winner ((ageAll s).core h.die h.core).turn (requests (ageAll s) h.die h.core) = some (0, 0)) ∧
    (won s).group? 0 = some g ∧ g.bundle? 0 = some b ∧ (won s).range? g.rid = some r ∧ canIssue (won s) g b = true ∧
    b.watch = [] ∧ (r.pre = none ∨ atSafePoint r b = false) ∧ breakAt (won s) g b = none

theorem met_StepRunsDecoded : ∃ g b r, Asked placed g b r ∧ early (ageAll placed) (.issue 0 0) = false ∧
    ∃ bs u i tail, fetch (taken placed) (fetchWho (taken placed) g r) b.pc.toNat = .ok (bs, u) ∧ decode bs = .ok (i, tail) :=
  ⟨_, _, _, ⟨rfl, rfl, ⟨_, rfl, by decide⟩, rfl, rfl, rfl, by decide, rfl, .inl rfl, by decide⟩, by decide, _, _, _, _, rfl, rfl⟩
theorem met_StepRunsDecoded_undecodable : ∃ g b r, Asked placedBad g b r ∧ early (ageAll placedBad) (.issue 0 0) = false ∧
    ∃ bs u e, fetch (taken placedBad) (fetchWho (taken placedBad) g r) b.pc.toNat = .ok (bs, u) ∧ decode bs = .error e :=
  ⟨_, _, _, ⟨rfl, rfl, ⟨_, rfl, by decide⟩, rfl, rfl, rfl, by decide, rfl, .inl rfl, by decide⟩, by decide, _, _, _, rfl, rfl⟩
theorem met_StepRunsDecoded_unfetched : ∃ g b r, Asked placedOut g b r ∧ early (ageAll placedOut) (.issue 0 0) = false ∧
    ∃ e, fetch (taken placedOut) (fetchWho (taken placedOut) g r) b.pc.toNat = .error e :=
  ⟨_, _, _, ⟨rfl, rfl, ⟨_, rfl, by decide⟩, rfl, rfl, rfl, by decide, rfl, .inl rfl, by decide⟩, by decide, _, rfl⟩
theorem met_StepRunsDecoded_early : ∃ g b r, Asked placedSoon g b r ∧ early (ageAll placedSoon) (.issue 0 0) = true :=
  ⟨_, _, _, ⟨rfl, rfl, ⟨_, rfl, by decide⟩, rfl, rfl, rfl, by decide, rfl, .inl rfl, by decide⟩, by decide⟩
theorem met_StepKeepsCanonical : ∃ s t, Canonical s ∧ step s = .next t := ⟨State.reset, _, by unfold Canonical; decide, rfl⟩

/-! ## Some meanings, on one thread -/

/-- v0 of thread 0 after a step that answers a next state. -/
def v0of (o : Host.Outcome State Machine.Fault Refusal) : Option W32 :=
  match o with
  | .next t => (t.group? 0).map (fun g => (g.th 0).getV 0)
  | _ => none
/-- The machine with v1 and v2 set, v0 being 0. -/
def withV (a b : W32) : State :=
  { one with groups := [{ group with threads := [{ team := 0, lane := 0, v := ((Vector.replicate 64 0).set 1 a).set 2 b }] }] }
def opV : OpA := { b := 2, a := 1, d := 0, g := 7, t := false, m := false, p := none }

/-- R185: IADD and ISUB wrap modulo 2^32; 1.0 + 1.0 = 2.0. -/
theorem test_iadd_wraps : v0of (exec (.iaddA opV) (withV 0xFFFFFFFF 2)) = some 1 := by decide
theorem test_isub : v0of (exec (.isubA opV) (withV 1 3)) = some 0xFFFFFFFE := by decide
theorem test_fadd : v0of (exec (.fadd 0 opV) (withV 0x3F800000 0x3F800000)) = some 0x40000000 := by decide

end Sys2Proof.Tests
end

section
/-! PROOF. R64: GBAR outside a cooperative range. An instruction that ends its run acts for a bundle without a data fault (R152, R154),
so its own fault is the primary one; the first active thread of a bundle in lane-home order is that of lowest lane home. -/

namespace Sys2Proof.Machine

open Sys2Proof.Safety Sys2Proof.Rules

/-! ## The issuing context -/

theorem State.ctx_eq_some {s : State} {c : Ctx} (h : s.ctx = some c) :
    s.cur = some c.c ∧ s.group? c.c.gid = some c.g ∧ c.g.bundle? c.c.bid = some c.b := by
  unfold State.ctx at h
  split at h
  · cases h
  next hcur =>
    split at h
    · cases h
    next hg =>
      split at h
      next hb _ => cases h; exact ⟨hcur, hg, hb⟩
      · cases h

/-! ## Results return to their group -/

theorem Group.foldl_id {α : Type} (f : Group → α → Group) (hf : ∀ g a, (f g a).id = g.id) (l : List α) (g : Group) :
    (l.foldl f g).id = g.id := by
  induction l generalizing g with
  | nil => rfl
  | cons a l ih => exact (ih (f g a)).trans (hf g a)

@[simp] theorem Group.writeVs_id (g : Group) (l : List (Nat × BitVec 6 × W32)) : (g.writeVs l).id = g.id :=
  Group.foldl_id _ (by intros; rfl) l g

@[simp] theorem Group.writePs_id (g : Group) (l : List (Nat × BitVec 3 × Bool)) : (g.writePs l).id = g.id :=
  Group.foldl_id _ (by intros; rfl) l g

@[simp] theorem Group.putLates_id (g : Group) (clk seq : Nat) (l : List (Nat × BitVec 5 × W64)) : (g.putLates clk seq l).id = g.id :=
  Group.foldl_id _ (by intros; rfl) l g

@[simp] theorem Group.writeEs_id (g : Group) (l : List (Nat × Option Triple × W32)) : (g.writeEs l).id = g.id :=
  Group.foldl_id _ (by intros; rfl) l g

@[simp] theorem Group.giveBack_id (g : Group) (o : Outst) : (g.giveBack o).id = g.id := by
  simp [Group.giveBack]

@[simp] theorem Group.returnAll_id (g : Group) (bid : Nat) : (g.returnAll bid).id = g.id := by
  unfold Group.returnAll
  split
  · rfl
  · exact Group.foldl_id _ Group.giveBack_id _ _

/-! ## An instruction that ends its run first -/

/-- A run that ends without a data fault stops nothing: the same bundle issues, and it holds no data fault. -/
theorem endRun_clean {s : State} {gid bid : Nat} {g : Group} {b : Bundle} (pc2 : W64) (hg : s.group? gid = some g)
    (hb : g.bundle? bid = some b) (hend : g.canEnd bid = true) (hd : b.dfault = none) :
    (endRun s gid bid pc2).cur = s.cur ∧
      ∃ g', (endRun s gid bid pc2).group? gid = some g' ∧ ∀ b', g'.bundle? bid = some b' → b'.dfault = none := by
  simp only [endRun, hg, hb, hend, hd, if_true, Option.bind_some, State.updGroup_cur, true_and]
  refine ⟨_, (find_upd_same _ _ _ fun _ _ => ?_).trans (congrArg _ hg), fun b' hb' => ?_⟩
  · exact beq_iff_eq.mpr ((Group.returnAll_id g bid).trans (State.group_id hg))
  · rw [Group.bundle_updBundle_same _ _ _ (by intro; rfl)] at hb'
    obtain ⟨_, _, rfl⟩ := Option.map_eq_some_iff.mp hb'
    rfl

/-- What ends the run before it acts is issued by a bundle that holds no data fault (R152, R154). -/
theorem dfault_of_ready_ends {p : Spec} {s x : State} {c0 c : Ctx} (h : Ready p s c0 x c) (he : p.ends = true) : c.b.dfault = none := by
  obtain ⟨hcur, hg, hb⟩ := State.ctx_eq_some h.issues
  have hgid := State.group_id hg
  have hbid := Group.bundle_id hb
  obtain ⟨hend, hd⟩ := h.ended (by simp [he])
  rw [hbid] at hend
  obtain ⟨hcur', g', hg', hclean⟩ := endRun_clean c0.c.pc hg hb hend hd
  obtain ⟨c1, hc1, hc⟩ := Option.map_eq_some_iff.mp h.ctx
  simp only [begun, he, Bool.true_or, if_true, hgid, hbid] at hc1
  obtain ⟨hcur1, hg1, hb1⟩ := State.ctx_eq_some hc1
  have hplace : c1.c = c0.c := Option.some.inj (hcur1.symm.trans (hcur'.trans hcur))
  rw [hplace] at hg1 hb1
  have hsame : c1.g = g' := Option.some.inj (hg1.symm.trans hg')
  have hown : c1.b = c.b := (congrArg Ctx.b hc : (c1.at_ p.g).b = _)
  rw [← hown]
  exact hclean _ (hsame ▸ hb1)

/-! ## A precise fault -/

theorem precise_of_no_dfault (s : State) (c : Ctx) (code : Code) (cause level : Nat) (addr detail : W64) (t : Nat) (ts : List Nat)
    (hd : c.b.dfault = none) :
    precise s c code cause level addr detail (t :: ts) =
      stopGroup s c.g.id (preciseRec c code cause level addr detail t (t :: ts)) (some c.b.id) (some c.next) := by
  unfold precise
  rw [hd]
  rfl

/-- In a bundle held in lane-home order the first active thread has the lowest lane home. -/
theorem Ctx.active_head_le {c : Ctx} {g : BitVec 3} {t : Nat} {ts : List Nat} (hs : c.b.ts.Pairwise (fun a b => laneOf a < laneOf b))
    (ht : c.active g = t :: ts) : ∀ k ∈ c.active g, laneOf t ≤ laneOf k := by
  have hact : (c.active g).Pairwise (fun a b => laneOf a < laneOf b) := hs.filter _
  rw [ht] at hact ⊢
  intro k hk
  rcases List.mem_cons.mp hk with rfl | hk
  · exact le_rfl
  · exact (List.rel_of_pairwise_cons hact hk).le

/-! ## Going on behind an instruction that has ended its run -/

/-- Only the counters and the group's own place change. -/
theorem retire_done_went (x : State) (c : Ctx) (m : Bool) (next : Nat → W64) :
    Went x (retire x c m true [] next) c true (fun g => g) next := by
  let age := x.freshAge c.g.die c.g.core
  have e : retire x c m true [] next = (x.counted c).updGroup c.g.id (fun g => g.passed c true [] age next) := by
    simp [retire, age]
  rw [e]
  refine ⟨Kept_trans (State.counted_kept x c _) (Kept_updGroup _ (fun _ => Group.passed_id ..)), age, ?_⟩
  rw [State.group_updGroup_same _ _ _ (fun _ => Group.passed_id ..), State.counted_group]

/-! ## GBAR -/

theorem exec_gbar_ready {o : OpF} {s x : State} {c0 c : Ctx} (h : Ready { g := o.g, ends := true } s c0 x c) (hc : c.r.img.rrec.coop = false) :
    exec (.gbar o) s = .next (if (c.active o.g).isEmpty then retire x c o.m true [] (fun _ => c.next)
      else precise x c .gbarnc 0 0 0 0 (c.active o.g)) := by
  show execGbar o s = _
  rw [execGbar, issue_ready h]
  cases ha : (c.active o.g).isEmpty <;> simp [hc, ha, arriveAt]

/-- Settles O37: an active lane makes GBARNC the primary fault, at the head of the active lanes; without one GBAR only retires. -/
theorem gbarOutsideCooperative : Obligations.GbarOutsideCooperative := by
  intro o s c0 x c h hc hs
  have hexec := exec_gbar_ready h hc
  cases ha : c.active o.g with
  | nil =>
    rw [ha] at hexec
    exact ⟨fun hne => absurd rfl hne, fun _ => ⟨_, hexec, retire_done_went x c o.m _⟩⟩
  | cons t ts =>
    have hle := Ctx.active_head_le hs ha
    rw [ha] at hexec hle
    refine ⟨fun _ => ⟨t, List.mem_cons_self, hle, hexec.trans ?_⟩, fun hnil => absurd hnil (List.cons_ne_nil t ts)⟩
    exact congrArg _ (precise_of_no_dfault x c .gbarnc 0 0 0 0 t ts (dfault_of_ready_ends h rfl))

end Sys2Proof.Machine
end

section
/-! PROOF. R355: a walk reads its tables from memory, never from the LLC. What a walk reads of the state is the same whatever the LLC
holds, and what it changes commutes with a change of the LLC; the walk itself goes branch by branch, by induction on its level. -/

namespace Sys2Proof.Machine

open Sys2Proof.Rules

section
variable (l : List Sector) (s : State)

/-! ## What a walk reads is not the LLC's -/

@[simp] theorem phys8_withLlc (pa : Nat) : (withLlc l s).phys8 pa = s.phys8 pa := rfl
@[simp] theorem asidEnt_withLlc (asid : Nat) : (withLlc l s).asidEnt asid = s.asidEnt asid := rfl
@[simp] theorem tlb_withLlc : (withLlc l s).mem.tlb = s.mem.tlb := rfl
@[simp] theorem startOf_withLlc (asid die va : Nat) : (withLlc l s).startOf asid die va = s.startOf asid die va := rfl
@[simp] theorem leafCheck_withLlc (asid die va k level : Nat) (x : W64) :
    leafCheck (withLlc l s) asid die va k level x = leafCheck s asid die va k level x := rfl
@[simp] theorem merges_withLlc (asid va k blk : Nat) : merges (withLlc l s) asid va k blk = merges s asid va k blk := rfl

/-! ## What a walk changes leaves the LLC as it is -/

theorem install_withLlc (t : Tlb) : (withLlc l s).install t = withLlc l (s.install t) := rfl
theorem cachePtr_withLlc (w : WalkEnt) : (withLlc l s).cachePtr w = withLlc l (s.cachePtr w) := rfl
theorem physWrite_withLlc (pa : Nat) (bs : List Byte) : (withLlc l s).physWrite pa bs = withLlc l (s.physWrite pa bs) := rfl

theorem count_withLlc (part e n : Nat) (q : Option Nat) : (withLlc l s).count part e n q = withLlc l (s.count part e n q) := by
  cases q <;> rfl

theorem walked_withLlc (q : Option Nat) (parts : List Nat) : (withLlc l s).walked q parts = withLlc l (s.walked q parts) :=
  List.foldl_hom (withLlc l) fun s p => count_withLlc l s p 7 8 q

theorem leafMark_withLlc (q : Option Nat) (pa n : Nat) (mark : W64) :
    (withLlc l s).leafMark q pa n mark = withLlc l (s.leafMark q pa n mark) := by
  unfold State.leafMark
  rw [apply_ite (withLlc l)]
  refine if_congr Iff.rfl rfl ?_
  simp only [phys8_withLlc]
  rw [List.foldl_hom (withLlc l) fun s x => physWrite_withLlc l s _ _]
  cases chanPart pa with
  | none => rfl
  | some p => exact count_withLlc ..

/-! ## The walk -/

theorem walkMap_bad (f : State → State) (e : AFault) : walkMap f (.bad e) = .bad e := rfl

/-- Two walks that branch on the same condition agree when their branches do. -/
theorem ite_eq_walkMap_ite {f : State → State} {c : Prop} [Decidable c] {w x y z : Walk} (hthen : w = walkMap f y)
    (helse : x = walkMap f z) : (if c then w else x) = walkMap f (if c then y else z) := by
  rw [apply_ite (walkMap f), hthen, helse]

theorem walkFrom_withLlc (q : Option Nat) (rd : List Nat) (asid die va k level t : Nat) :
    walkFrom (withLlc l s) q rd asid die va k level t = walkMap (withLlc l) (walkFrom s q rd asid die va k level t) := by
  induction level generalizing s rd t with
  | zero => rfl
  | succ level ih =>
    rw [walkFrom, walkFrom]
    cases locOf t with
    | ext pa => rfl
    | none => rfl
    | hbm d o =>
      -- the five refusals ahead of the leaf and the one ahead of the next table touch no state
      refine ite_eq_walkMap_ite rfl <| ite_eq_walkMap_ite rfl <| ite_eq_walkMap_ite rfl <| ite_eq_walkMap_ite rfl <|
        ite_eq_walkMap_ite rfl <| ite_eq_walkMap_ite ?leaf <| ite_eq_walkMap_ite rfl ?pointer
      case leaf =>
        simp only [leafCheck_withLlc, phys8_withLlc]
        cases leafCheck s _ _ _ _ _ _ with
        | error f => rfl
        | ok pa =>
          simp only [walked_withLlc, leafMark_withLlc, phys8_withLlc, merges_withLlc, install_withLlc]
          exact ite_eq_walkMap_ite rfl rfl
      case pointer =>
        rw [phys8_withLlc]
        generalize BitVec.toNat _ * 4096 = t'
        cases hloc : locOf t' with
        | ext pa => simp only [hloc, walkMap_bad]
        | none => simp only [hloc, walkMap_bad]
        | hbm d' o' =>
          simp only [hloc, cachePtr_withLlc, ← apply_ite (withLlc l)]
          exact ite_eq_walkMap_ite (ih ..) rfl

theorem translate_withLlc (asid va k : Nat) (q : Option Nat) :
    translate (withLlc l s) asid va k q = walkMap (withLlc l) (translate s asid va k q) := by
  unfold translate
  simp only [tlb_withLlc, startOf_withLlc, asidEnt_withLlc]
  cases s.mem.tlb.find? _ with
  | some t => rfl
  | none =>
    cases s.startOf asid (homeDie va) va with
    | some start => exact walkFrom_withLlc ..
    | none => exact ite_eq_walkMap_ite rfl (walkFrom_withLlc ..)

end

/-- Settles O51: a TLB hit, a walk from a cached pointer and a walk from the root each commute with a change of the LLC. -/
theorem walksIgnoreTheCache : Obligations.WalksIgnoreTheCache :=
  fun s l asid va k => translate_withLlc l s asid va k none

end Sys2Proof.Machine
end

section
/-! PROOF. R146, R148, R156 to R165: words and instructions determine each other. Format by format the fields that are written are the
fields that are read; then the opcode map, row by row. -/

namespace Sys2Proof

/-! ## The header of a word (R148) -/

/-- The code of a word in the opcode map, major × 4 + minor (R164). -/
def opOf (w : W32) : Nat := (w.extractLsb 8 3).toNat * 4 + (w.extractLsb 10 9).toNat

theorem opOf_wordOf (f : BitVec 18) (g : BitVec 3) {op : Nat} (t m : Bool) (h : op < 256) : opOf (wordOf f g op t m) = op := by
  have hmin : (wordOf f g op t m).extractLsb 10 9 = BitVec.ofNat 2 op := by
    rw [wordOf]; ext i hi; grind
  rw [opOf, wordOf_major, hmin]
  simp only [BitVec.toNat_ofNat]
  omega

@[simp] theorem wordOf_top (f : BitVec 18) (g : BitVec 3) (op : Nat) (t m : Bool) : (wordOf f g op t m).extractLsb 31 14 = f := by
  rw [wordOf]; ext i hi; grind
@[simp] theorem wG_wordOf (f : BitVec 18) (g : BitVec 3) (op : Nat) (t m : Bool) : wG (wordOf f g op t m) = g := by
  rw [wG, wordOf]; ext i hi; grind
@[simp] theorem wT_wordOf (f : BitVec 18) (g : BitVec 3) (op : Nat) (t m : Bool) : wT (wordOf f g op t m) = t := by
  rw [wT, wordOf]; grind
@[simp] theorem wS_wordOf (f : BitVec 18) (g : BitVec 3) (op : Nat) (t m : Bool) : wS (wordOf f g op t m) = m := by
  rw [wS, wordOf]; grind

/-- A word whose bit 0 is set is its fields under its header. -/
theorem wordOf_split {w : W32} (h : w.getLsbD 0 = true) : wordOf (w.extractLsb 31 14) (wG w) (opOf w) (wT w) (wS w) = w := by
  have hmin : BitVec.ofNat 2 (opOf w) = w.extractLsb 10 9 := by
    apply BitVec.eq_of_toNat_eq; simp only [opOf, BitVec.toNat_ofNat]; omega
  have hmaj : BitVec.ofNat 6 (opOf w / 4) = w.extractLsb 8 3 := by
    apply BitVec.eq_of_toNat_eq; simp only [opOf, BitVec.toNat_ofNat]; omega
  rw [wordOf, hmin, hmaj, wG, wT, wS]
  ext i hi
  grind

/-! ## Payloads (R158, R159) -/

theorem PfA.parse_bits (p : PfA) : PfA.parse p.bits = .ok p := by
  have h : p.bits.extractLsb 24 8 = 0 := by rw [PfA.bits]; ext i hi; grind
  have hb : p.bits.extractLsb 7 5 = p.qb := by rw [PfA.bits]; ext i hi; grind
  have ha : p.bits.extractLsb 4 2 = p.qa := by rw [PfA.bits]; ext i hi; grind
  have hr : p.bits.extractLsb 1 0 = p.rm := by rw [PfA.bits]; ext i hi; grind
  simp [PfA.parse, h, hb, ha, hr]

theorem PfA.bits_of_parse {x : BitVec 25} {p : PfA} (h : PfA.parse x = .ok p) : p.bits = x := by
  unfold PfA.parse at h
  split at h
  next hz =>
    cases h
    have hz := eq_of_beq hz
    rw [PfA.bits, show (0#17) = x.extractLsb 24 8 from hz.symm]
    ext i hi
    grind
  · cases h

theorem PfC.parse_bits (p : PfC) : PfC.parse p.bits = p := by
  have hs : p.bits.extractLsb 24 22 = p.scope := by rw [PfC.bits]; ext i hi; grind
  have ho : p.bits.extractLsb 21 20 = p.ord := by rw [PfC.bits]; ext i hi; grind
  have hr : p.bits.extractLsb 19 17 = p.res := by rw [PfC.bits]; ext i hi; grind
  have hl : p.bits.extractLsb 16 0 = p.lo := by rw [PfC.bits]; ext i hi; grind
  rw [PfC.parse, hs, ho, hr, hl]

theorem PfC.bits_parse (x : BitVec 25) : (PfC.parse x).bits = x := by
  rw [PfC.bits, PfC.parse]; ext i hi; grind

theorem PfE.parse_bits (p : PfE) : PfE.parse p.bits = .ok p := by
  have h : p.bits.extractLsb 19 0 = 0 := by rw [PfE.bits]; ext i hi; grind
  have hs : p.bits.extractLsb 24 22 = p.scope := by rw [PfE.bits]; ext i hi; grind
  have ho : p.bits.extractLsb 21 20 = p.ord := by rw [PfE.bits]; ext i hi; grind
  simp [PfE.parse, h, hs, ho]

theorem PfE.bits_of_parse {x : BitVec 25} {p : PfE} (h : PfE.parse x = .ok p) : p.bits = x := by
  unfold PfE.parse at h
  split at h
  next hz =>
    cases h
    have hz := eq_of_beq hz
    rw [PfE.bits, show (0#20) = x.extractLsb 19 0 from hz.symm]
    ext i hi
    grind
  · cases h

theorem optPf_map {α : Type} {f : BitVec 25 → Except Reject α} {bits : α → BitVec 25} (h : ∀ p, f (bits p) = .ok p) (q : Option α) :
    optPf f (q.map bits) = .ok q := by
  cases q with
  | none => rfl
  | some p => simp [optPf, h]; rfl

theorem map_of_optPf {α : Type} {f : BitVec 25 → Except Reject α} {bits : α → BitVec 25} (h : ∀ {x p}, f x = .ok p → bits p = x)
    {x : Option (BitVec 25)} {q : Option α} (hq : optPf f x = .ok q) : q.map bits = x := by
  cases x with
  | none => cases hq; rfl
  | some x =>
    cases hf : f x with
    | error e => simp [optPf, hf, Except.map] at hq
    | ok p =>
      simp only [optPf, hf, Except.map] at hq
      cases hq
      exact congrArg some (h hf)

theorem map_PfC_parse_bits (q : Option PfC) : (q.map PfC.bits).map PfC.parse = q := by
  cases q <;> simp [PfC.parse_bits]
theorem map_PfC_bits_parse (x : Option (BitVec 25)) : (x.map PfC.parse).map PfC.bits = x := by
  cases x <;> simp [PfC.bits_parse]

theorem noTWord_eq_ok {α : Type} {w : W32} {x : Except Reject α} {a : α} (h : noTWord w x = .ok a) : wT w = false ∧ x = .ok a := by
  unfold noTWord at h
  split at h
  · cases h
  next ht => exact ⟨by simpa using ht, h⟩

/-! ## Formats (R156, Table 3): a format reads back the fields that it writes, and writes those that it reads -/

/-- A field of the bits above the header. -/
theorem extract_wordOf (f : BitVec 18) (g : BitVec 3) (op : Nat) (t m : Bool) (lo len : Nat) :
    (wordOf f g op t m).extractLsb' (14 + lo) len = f.extractLsb' lo len := by
  rw [wordOf]; ext i hi; grind

theorem getLsbD_wordOf (f : BitVec 18) (g : BitVec 3) (op : Nat) (t m : Bool) (i : Nat) :
    (wordOf f g op t m).getLsbD (14 + i) = f.getLsbD i := by
  rw [wordOf]; grind

theorem OpA.parse_word (o : OpA) (op : Nat) : OpA.parse (o.word op) o.payload = .ok o := by
  have hb : (o.word op).extractLsb 31 26 = o.b := (extract_wordOf _ _ _ _ _ 12 6).trans (by ext i hi; grind)
  have ha : (o.word op).extractLsb 25 20 = o.a := (extract_wordOf _ _ _ _ _ 6 6).trans (by ext i hi; grind)
  have hd : (o.word op).extractLsb 19 14 = o.d := (extract_wordOf _ _ _ _ _ 0 6).trans (by ext i hi; grind)
  have hg : wG (o.word op) = o.g := wG_wordOf ..
  have hm : wS (o.word op) = o.m := wS_wordOf ..
  have hT : wT (o.word op) = o.t := wT_wordOf ..
  rw [OpA.parse, OpA.payload, optPf_map PfA.parse_bits, hb, ha, hd, hg, hm, hT]
  rfl

theorem OpA.word_of_parse (o : OpA) {w : W32} {p : Option (BitVec 25)} {op : Nat} (h : OpA.parse w p = .ok o) (h0 : w.getLsbD 0 = true)
    (hop : opOf w = op) : o.word op = w ∧ o.payload = p := by
  subst hop
  unfold OpA.parse at h
  cases hq : optPf PfA.parse p with
  | error e => simp [hq, Except.map] at h
  | ok q =>
    simp only [hq, Except.map] at h
    cases h
    refine ⟨.trans ?_ (wordOf_split h0), map_of_optPf PfA.bits_of_parse hq⟩
    rw [OpA.word]
    congr 1
    ext i hi
    grind

theorem OpB.parse_word (o : OpB) (op : Nat) : OpB.parse (o.word op) o.payload = .ok o := by
  have hi : (o.word op).extractLsb 31 26 = o.i := (extract_wordOf _ _ _ _ _ 12 6).trans (by ext i hi; grind)
  have ha : (o.word op).extractLsb 25 20 = o.a := (extract_wordOf _ _ _ _ _ 6 6).trans (by ext i hi; grind)
  have hd : (o.word op).extractLsb 19 14 = o.d := (extract_wordOf _ _ _ _ _ 0 6).trans (by ext i hi; grind)
  have hg : wG (o.word op) = o.g := wG_wordOf ..
  have hm : wS (o.word op) = o.m := wS_wordOf ..
  have hT : wT (o.word op) = o.t := wT_wordOf ..
  rw [OpB.parse, hi, ha, hd, hg, hm, hT]
  rfl

theorem OpB.word_of_parse (o : OpB) {w : W32} {p : Option (BitVec 25)} {op : Nat} (h : OpB.parse w p = .ok o) (h0 : w.getLsbD 0 = true)
    (hop : opOf w = op) : o.word op = w ∧ o.payload = p := by
  subst hop
  unfold OpB.parse at h
  cases h
  refine ⟨.trans ?_ (wordOf_split h0), rfl⟩
  rw [OpB.word]
  congr 1
  ext i hi
  grind

theorem OpBW.parse_word (o : OpBW) (op : Nat) : OpBW.parse (o.word op) o.payload = .ok o := by
  have hi : (o.word op).extractLsb 31 20 = o.i := (extract_wordOf _ _ _ _ _ 6 12).trans (by ext i hi; grind)
  have hd : (o.word op).extractLsb 19 14 = o.d := (extract_wordOf _ _ _ _ _ 0 6).trans (by ext i hi; grind)
  have hg : wG (o.word op) = o.g := wG_wordOf ..
  have hm : wS (o.word op) = o.m := wS_wordOf ..
  have hT : wT (o.word op) = o.t := wT_wordOf ..
  rw [OpBW.parse, hi, hd, hg, hm, hT]
  rfl

theorem OpBW.word_of_parse (o : OpBW) {w : W32} {p : Option (BitVec 25)} {op : Nat} (h : OpBW.parse w p = .ok o) (h0 : w.getLsbD 0 = true)
    (hop : opOf w = op) : o.word op = w ∧ o.payload = p := by
  subst hop
  unfold OpBW.parse at h
  cases h
  refine ⟨.trans ?_ (wordOf_split h0), rfl⟩
  rw [OpBW.word]
  congr 1
  ext i hi
  grind

theorem OpCx.parse_word (o : OpCx) (op : Nat) : OpCx.parse (o.word op) o.payload = .ok o := by
  have hx : (o.word op).getLsbD 31 = o.x := (getLsbD_wordOf _ _ _ _ _ 17).trans (by grind)
  have hs : (o.word op).extractLsb 30 26 = o.s := (extract_wordOf _ _ _ _ _ 12 5).trans (by ext i hi; grind)
  have hv : (o.word op).extractLsb 25 20 = o.v := (extract_wordOf _ _ _ _ _ 6 6).trans (by ext i hi; grind)
  have ht : (o.word op).extractLsb 19 14 = o.t := (extract_wordOf _ _ _ _ _ 0 6).trans (by ext i hi; grind)
  have hT : wT (o.word op) = false := wT_wordOf ..
  have hg : wG (o.word op) = o.g := wG_wordOf ..
  have hm : wS (o.word op) = o.m := wS_wordOf ..
  rw [OpCx.parse, noTWord, OpCx.payload, map_PfC_parse_bits, hx, hs, hv, ht, hg, hm, hT]
  rfl

theorem OpCx.word_of_parse (o : OpCx) {w : W32} {p : Option (BitVec 25)} {op : Nat} (h : OpCx.parse w p = .ok o) (h0 : w.getLsbD 0 = true)
    (hop : opOf w = op) : o.word op = w ∧ o.payload = p := by
  subst hop
  obtain ⟨ht, h⟩ := noTWord_eq_ok h
  cases h
  refine ⟨.trans ?_ (wordOf_split h0), map_PfC_bits_parse p⟩
  rw [OpCx.word, ht]
  congr 1
  ext i hi
  grind

theorem OpCd.parse_word (o : OpCd) (op : Nat) : OpCd.parse (o.word op) o.payload = .ok o := by
  have hi : (o.word op).extractLsb 31 29 = o.i := (extract_wordOf _ _ _ _ _ 15 3).trans (by ext i hi; grind)
  have hx : (o.word op).getLsbD 28 = o.x := (getLsbD_wordOf _ _ _ _ _ 14).trans (by grind)
  have hw : (o.word op).extractLsb 27 26 = o.w := (extract_wordOf _ _ _ _ _ 12 2).trans (by ext i hi; grind)
  have hb : (o.word op).extractLsb 25 20 = o.b := (extract_wordOf _ _ _ _ _ 6 6).trans (by ext i hi; grind)
  have ht : (o.word op).extractLsb 19 14 = o.t := (extract_wordOf _ _ _ _ _ 0 6).trans (by ext i hi; grind)
  have hT : wT (o.word op) = false := wT_wordOf ..
  have hg : wG (o.word op) = o.g := wG_wordOf ..
  have hm : wS (o.word op) = o.m := wS_wordOf ..
  rw [OpCd.parse, noTWord, OpCd.payload, map_PfC_parse_bits, hi, hx, hw, hb, ht, hg, hm, hT]
  rfl

theorem OpCd.word_of_parse (o : OpCd) {w : W32} {p : Option (BitVec 25)} {op : Nat} (h : OpCd.parse w p = .ok o) (h0 : w.getLsbD 0 = true)
    (hop : opOf w = op) : o.word op = w ∧ o.payload = p := by
  subst hop
  obtain ⟨ht, h⟩ := noTWord_eq_ok h
  cases h
  refine ⟨.trans ?_ (wordOf_split h0), map_PfC_bits_parse p⟩
  rw [OpCd.word, ht]
  congr 1
  ext i hi
  grind

theorem OpCm.parse_word (o : OpCm) (op : Nat) : OpCm.parse (o.word op) o.payload = .ok o := by
  have hi : (o.word op).getLsbD 31 = o.i := (getLsbD_wordOf _ _ _ _ _ 17).trans (by grind)
  have hs : (o.word op).extractLsb 30 26 = o.s := (extract_wordOf _ _ _ _ _ 12 5).trans (by ext i hi; grind)
  have hv : (o.word op).extractLsb 25 20 = o.v := (extract_wordOf _ _ _ _ _ 6 6).trans (by ext i hi; grind)
  have hd : (o.word op).extractLsb 19 14 = o.d := (extract_wordOf _ _ _ _ _ 0 6).trans (by ext i hi; grind)
  have hT : wT (o.word op) = false := wT_wordOf ..
  have hg : wG (o.word op) = o.g := wG_wordOf ..
  have hm : wS (o.word op) = o.m := wS_wordOf ..
  rw [OpCm.parse, noTWord, OpCm.payload, map_PfC_parse_bits, hi, hs, hv, hd, hg, hm, hT]
  rfl

theorem OpCm.word_of_parse (o : OpCm) {w : W32} {p : Option (BitVec 25)} {op : Nat} (h : OpCm.parse w p = .ok o) (h0 : w.getLsbD 0 = true)
    (hop : opOf w = op) : o.word op = w ∧ o.payload = p := by
  subst hop
  obtain ⟨ht, h⟩ := noTWord_eq_ok h
  cases h
  refine ⟨.trans ?_ (wordOf_split h0), map_PfC_bits_parse p⟩
  rw [OpCm.word, ht]
  congr 1
  ext i hi
  grind

theorem OpD.parse_word (o : OpD) (op : Nat) : OpD.parse (o.word op) o.payload = .ok o := by
  have ho : (o.word op).extractLsb 31 14 = o.o := wordOf_top ..
  have hT : wT (o.word op) = false := wT_wordOf ..
  have hg : wG (o.word op) = o.g := wG_wordOf ..
  have hm : wS (o.word op) = o.m := wS_wordOf ..
  rw [OpD.parse, noTWord, ho, hg, hm, hT]
  rfl

theorem OpD.word_of_parse (o : OpD) {w : W32} {p : Option (BitVec 25)} {op : Nat} (h : OpD.parse w p = .ok o) (h0 : w.getLsbD 0 = true)
    (hop : opOf w = op) : o.word op = w ∧ o.payload = p := by
  subst hop
  obtain ⟨ht, h⟩ := noTWord_eq_ok h
  cases h
  refine ⟨.trans ?_ (wordOf_split h0), rfl⟩
  rw [OpD.word, ht]

theorem OpDp.parse_word (o : OpDp) (op : Nat) : OpDp.parse (o.word op) o.payload = .ok o := by
  have ho : (o.word op).extractLsb 31 18 = o.o := (extract_wordOf _ _ _ _ _ 4 14).trans (by ext i hi; grind)
  have hc : (o.word op).getLsbD 17 = o.c := (getLsbD_wordOf _ _ _ _ _ 3).trans (by grind)
  have hpr : (o.word op).extractLsb 16 14 = o.pr := (extract_wordOf _ _ _ _ _ 0 3).trans (by ext i hi; grind)
  have hT : wT (o.word op) = false := wT_wordOf ..
  have hg : wG (o.word op) = o.g := wG_wordOf ..
  have hm : wS (o.word op) = o.m := wS_wordOf ..
  rw [OpDp.parse, noTWord, ho, hc, hpr, hg, hm, hT]
  rfl

theorem OpDp.word_of_parse (o : OpDp) {w : W32} {p : Option (BitVec 25)} {op : Nat} (h : OpDp.parse w p = .ok o) (h0 : w.getLsbD 0 = true)
    (hop : opOf w = op) : o.word op = w ∧ o.payload = p := by
  subst hop
  obtain ⟨ht, h⟩ := noTWord_eq_ok h
  cases h
  refine ⟨.trans ?_ (wordOf_split h0), rfl⟩
  rw [OpDp.word, ht]
  congr 1
  ext i hi
  grind

theorem OpE.parse_word (o : OpE) (op : Nat) : OpE.parse (o.word op) o.payload = .ok o := by
  have hb : (o.word op).extractLsb 31 26 = o.b := (extract_wordOf _ _ _ _ _ 12 6).trans (by ext i hi; grind)
  have ha : (o.word op).extractLsb 25 20 = o.a := (extract_wordOf _ _ _ _ _ 6 6).trans (by ext i hi; grind)
  have hk : (o.word op).extractLsb 19 14 = o.k := (extract_wordOf _ _ _ _ _ 0 6).trans (by ext i hi; grind)
  have hT : wT (o.word op) = false := wT_wordOf ..
  have hg : wG (o.word op) = o.g := wG_wordOf ..
  have hm : wS (o.word op) = o.m := wS_wordOf ..
  rw [OpE.parse, noTWord, OpE.payload, optPf_map PfE.parse_bits, hb, ha, hk, hg, hm, hT]
  rfl

theorem OpE.word_of_parse (o : OpE) {w : W32} {p : Option (BitVec 25)} {op : Nat} (h : OpE.parse w p = .ok o) (h0 : w.getLsbD 0 = true)
    (hop : opOf w = op) : o.word op = w ∧ o.payload = p := by
  subst hop
  obtain ⟨ht, h⟩ := noTWord_eq_ok h
  cases hq : optPf PfE.parse p with
  | error e => simp [hq, Except.map] at h
  | ok q =>
    simp only [hq, Except.map] at h
    cases h
    refine ⟨.trans ?_ (wordOf_split h0), map_of_optPf PfE.bits_of_parse hq⟩
    rw [OpE.word, ht]
    congr 1
    ext i hi
    grind

theorem OpF.parse_word (o : OpF) (op : Nat) : OpF.parse (o.word op) o.payload = .ok o := by
  have hsel : (o.word op).extractLsb 31 26 = o.sel := (extract_wordOf _ _ _ _ _ 12 6).trans (by ext i hi; grind)
  have ha : (o.word op).extractLsb 25 20 = o.a := (extract_wordOf _ _ _ _ _ 6 6).trans (by ext i hi; grind)
  have hd : (o.word op).extractLsb 19 14 = o.d := (extract_wordOf _ _ _ _ _ 0 6).trans (by ext i hi; grind)
  have hT : wT (o.word op) = false := wT_wordOf ..
  have hg : wG (o.word op) = o.g := wG_wordOf ..
  have hm : wS (o.word op) = o.m := wS_wordOf ..
  show noTWord (o.word op) _ = _
  rw [noTWord, hsel, ha, hd, hg, hm, hT]
  rfl

theorem OpF.word_of_parse (o : OpF) {w : W32} {p : Option (BitVec 25)} {op : Nat} (h : OpF.parse w p = .ok o) (h0 : w.getLsbD 0 = true)
    (hop : opOf w = op) : o.word op = w ∧ o.payload = p := by
  subst hop
  cases p with
  | some x => cases h
  | none =>
    obtain ⟨ht, h⟩ := noTWord_eq_ok h
    cases h
    refine ⟨.trans ?_ (wordOf_split h0), rfl⟩
    rw [OpF.word, ht]
    congr 1
    ext i hi
    grind

/-! ## Bytes (R5, R146, R158) -/

/-- The word of four bytes, lowest first. -/
def wordFrom (b0 b1 b2 b3 : Byte) : W32 := b3 ++ b2 ++ b1 ++ b0

theorem word4_wordFrom (b0 b1 b2 b3 : Byte) : word4 (wordFrom b0 b1 b2 b3) = [b0, b1, b2, b3] := by
  have h0 : (wordFrom b0 b1 b2 b3).extractLsb 7 0 = b0 := by rw [wordFrom]; ext i hi; grind
  have h1 : (wordFrom b0 b1 b2 b3).extractLsb 15 8 = b1 := by rw [wordFrom]; ext i hi; grind
  have h2 : (wordFrom b0 b1 b2 b3).extractLsb 23 16 = b2 := by rw [wordFrom]; ext i hi; grind
  have h3 : (wordFrom b0 b1 b2 b3).extractLsb 31 24 = b3 := by rw [wordFrom]; ext i hi; grind
  rw [word4, h0, h1, h2, h3]

theorem wordFrom_word4 (w : W32) : wordFrom (w.extractLsb 7 0) (w.extractLsb 15 8) (w.extractLsb 23 16) (w.extractLsb 31 24) = w := by
  rw [wordFrom]; ext i hi; grind

theorem isShort_wordFrom (b0 b1 b2 b3 : Byte) : isShort b0 = !(wordFrom b0 b1 b2 b3).getLsbD 0 := by
  rw [isShort, wordFrom]; grind

theorem isPrefix_wordFrom (b0 b1 b2 b3 : Byte) : isPrefix b0 b1 = ((wordFrom b0 b1 b2 b3).extractLsb 8 3 == 63#6) := by
  have h0 : (wordFrom b0 b1 b2 b3).extractLsb 7 0 = b0 := by rw [wordFrom]; ext i hi; grind
  have h1 : (wordFrom b0 b1 b2 b3).extractLsb 15 8 = b1 := by rw [wordFrom]; ext i hi; grind
  rw [← isPrefix_word4, h0, h1]

theorem payloadOf_prefixWord (p : BitVec 25) : payloadOf (prefixWord p) = p := by
  have h2 : (prefixWord p).extractLsb 31 9 = p.extractLsb 24 2 := by rw [prefixWord]; ext i hi; grind
  have h1 : (prefixWord p).extractLsb 2 2 = p.extractLsb 1 1 := by rw [prefixWord]; ext i hi; grind
  have h0 : (prefixWord p).extractLsb 1 1 = p.extractLsb 0 0 := by rw [prefixWord]; ext i hi; grind
  rw [payloadOf, h2, h1, h0]; ext i hi; grind

theorem prefixWord_payloadOf {w : W32} (h0 : w.getLsbD 0 = true) (h : w.extractLsb 8 3 = 63#6) : prefixWord (payloadOf w) = w := by
  have h2 : (payloadOf w).extractLsb 24 2 = w.extractLsb 31 9 := by rw [payloadOf]; ext i hi; grind
  have h1 : (payloadOf w).extractLsb 1 1 = w.extractLsb 2 2 := by rw [payloadOf]; ext i hi; grind
  have h3 : (payloadOf w).extractLsb 0 0 = w.extractLsb 1 1 := by rw [payloadOf]; ext i hi; grind
  rw [prefixWord, ← h, h2, h1, h3]; ext i hi; grind

theorem prefixWord_bit0 (p : BitVec 25) : (prefixWord p).getLsbD 0 = true := by
  rw [prefixWord]; grind
theorem prefixWord_major (p : BitVec 25) : (prefixWord p).extractLsb 8 3 = 63#6 := by
  rw [prefixWord]; ext i hi; grind

theorem halfBytes_join (b0 b1 : Byte) : halfBytes (b1 ++ b0) = [b0, b1] := by
  have h0 : (b1 ++ b0 : W16).extractLsb 7 0 = b0 := by ext i hi; grind
  have h1 : (b1 ++ b0 : W16).extractLsb 15 8 = b1 := by ext i hi; grind
  rw [halfBytes, h0, h1]

theorem join_halfBytes (h : W16) : (h.extractLsb 15 8 ++ h.extractLsb 7 0 : W16) = h := by
  ext i hi; grind

theorem ok_of_map_ok {ε α β : Type} {f : α → β} {x : Except ε α} {b : β} (h : x.map f = .ok b) : ∃ a, x = .ok a ∧ f a = b := by
  cases x with
  | error e => cases h
  | ok a => cases h; exact ⟨a, rfl, rfl⟩

/-! ## Framing (R146, R162) -/

theorem decodeWord_ok {w : W32} {p : Option (BitVec 25)} {i : Instr} (h : decodeMap w p = .ok i) (hwf : WellFormed i) :
    decodeWord w p = .ok i := by
  rw [decodeWord, h]
  show (match i.reject with | none => Except.ok i | some r => Except.error r) = _
  rw [show i.reject = none from hwf]

theorem decodeWord_eq_ok {w : W32} {p : Option (BitVec 25)} {i : Instr} (h : decodeWord w p = .ok i) :
    decodeMap w p = .ok i ∧ WellFormed i := by
  unfold decodeWord at h
  split at h
  · cases h
  next j hj =>
    split at h
    next hr => cases h; exact ⟨hj, hr⟩
    · cases h

/-- A word with its payload, if it carries one, decodes to what the opcode map says. -/
theorem decode_wordBytes {w : W32} {p : Option (BitVec 25)} {i : Instr} (h0 : w.getLsbD 0 = true) (hm : w.extractLsb 8 3 ≠ 63#6)
    (h : decodeWord w p = .ok i) (rest : List Byte) : decode (wordBytes w p ++ rest) = .ok (i, rest) := by
  have hs : isShort (w.extractLsb 7 0) = false := by rw [isShort_word4, h0]; rfl
  have hp : isPrefix (w.extractLsb 7 0) (w.extractLsb 15 8) = false := by rw [isPrefix_word4]; simpa using hm
  have hw := wordFrom_word4 w
  rw [wordFrom] at hw
  cases p with
  | none =>
    simp only [wordBytes, word4, List.cons_append, List.nil_append, decode, hs, hp, hw, h, Bool.false_eq_true, if_false, Except.map]
  | some q =>
    have hs' : isShort ((prefixWord q).extractLsb 7 0) = false := by rw [isShort_word4, prefixWord_bit0]; rfl
    have hp' : isPrefix ((prefixWord q).extractLsb 7 0) ((prefixWord q).extractLsb 15 8) = true := by
      rw [isPrefix_word4, prefixWord_major]; rfl
    have hq := wordFrom_word4 (prefixWord q)
    rw [wordFrom] at hq
    simp only [wordBytes, word4, List.cons_append, List.nil_append, decode, hs, hp, hs', hp', hw, hq, payloadOf_prefixWord, h,
      Bool.false_eq_true, if_false, if_true, Except.map]

/-- What decodes is a short form, or a word with its payload. -/
theorem decode_eq_ok {bs rest : List Byte} {i : Instr} (h : decode bs = .ok (i, rest)) :
    (∃ x : W16, x.getLsbD 0 = false ∧ i = decodeShort x ∧ bs = halfBytes x ++ rest) ∨
    ∃ w p, w.getLsbD 0 = true ∧ decodeWord w p = .ok i ∧ bs = wordBytes w p ++ rest := by
  unfold decode at h
  split at h
  next b0 b1 tl =>
    split at h
    next hs =>
      cases h
      refine .inl ⟨b1 ++ b0, ?_, rfl, by rw [halfBytes_join]; rfl⟩
      rw [isShort] at hs
      grind
    next hs =>
      split at h
      next b2 b3 tl =>
        have h0 : (wordFrom b0 b1 b2 b3).getLsbD 0 = true := by
          rw [isShort_wordFrom b0 b1 b2 b3] at hs; simpa using hs
        split at h
        next hp =>
          split at h
          next c0 c1 c2 c3 tl =>
            split at h
            · cases h
            next hs' =>
              split at h
              · cases h
              · obtain ⟨j, hj, e⟩ := ok_of_map_ok h
                cases e
                refine .inr ⟨_, _, ?_, hj, ?_⟩
                · rw [isShort_wordFrom c0 c1 c2 c3] at hs'; simpa [wordFrom] using hs'
                · rw [isPrefix_wordFrom b0 b1 b2 b3] at hp
                  have hpre := prefixWord_payloadOf h0 (eq_of_beq hp)
                  rw [wordFrom] at hpre
                  have e0 := word4_wordFrom b0 b1 b2 b3
                  have e1 := word4_wordFrom c0 c1 c2 c3
                  rw [wordFrom] at e0 e1
                  rw [wordBytes, hpre, e0, e1]
                  rfl
          · cases h
        next hp =>
          obtain ⟨j, hj, e⟩ := ok_of_map_ok h
          cases e
          refine .inr ⟨_, none, h0, hj, ?_⟩
          rw [wordBytes, word4_wordFrom]
          rfl
      · cases h
  · cases h

/-! ## The opcode map (R164) -/

theorem opOf_lt (w : W32) : opOf w < 256 := by
  have h1 := (w.extractLsb 8 3).isLt
  have h2 := (w.extractLsb 10 9).isLt
  rw [opOf]
  omega

theorem wordOf_no_prefix (f : BitVec 18) (g : BitVec 3) {op : Nat} (t m : Bool) (h : op < 252) : (wordOf f g op t m).extractLsb 8 3 ≠ 63#6 := by
  rw [wordOf_major, Ne, BitVec.toNat_eq]
  simp only [BitVec.toNat_ofNat]
  omega

/-- An operand's word decodes to its instruction, where its row of the map parses the operand's format. -/
theorem decode_of_row {α : Type} {parse : W32 → Option (BitVec 25) → Except Reject α} {mk : α → Instr} {o : α} {f : BitVec 18} {g : BitVec 3}
    {op : Nat} {t m : Bool} {p : Option (BitVec 25)} (hparse : parse (wordOf f g op t m) p = .ok o)
    (row : ∀ {w p}, opOf w = op → decodeMap w p = (parse w p).map mk) (hop : op < 252) (hwf : WellFormed (mk o)) (rest : List Byte) :
    decode (wordBytes (wordOf f g op t m) p ++ rest) = .ok (mk o, rest) := by
  refine decode_wordBytes (wordOf_bit0 ..) (wordOf_no_prefix _ _ _ _ hop) (decodeWord_ok ?_ hwf) rest
  rw [row (opOf_wordOf _ _ _ _ (by omega)), hparse]
  rfl

theorem wordBytes_congr {w w' : W32} {p p' : Option (BitVec 25)} (h : w' = w ∧ p' = p) : wordBytes w' p' = wordBytes w p := by
  rw [h.1, h.2]

/-- Word 246 is two instructions, apart by their selector (R298). -/
theorem encode_dmbox (o : OpF) : encode (if o.sel == 1 then .dmboxRecv o else .dmboxSend o) = wordBytes (o.word 246) o.payload := by
  split <;> rfl

/-- Row by row: an assigned code gives an operand whose word is `w`, an unassigned one gives nothing. -/
theorem encode_of_decodeMap {w : W32} {p : Option (BitVec 25)} {i : Instr} (h0 : w.getLsbD 0 = true) (h : decodeMap w p = .ok i) :
    encode i = wordBytes w p := by
  have hlt := opOf_lt w
  delta decodeMap at h
  generalize hn : (w.extractLsb 8 3).toNat * 4 + (w.extractLsb 10 9).toNat = n at h
  change opOf w = n at hn
  rw [hn] at hlt
  by_cases hm : n = 246
  · subst hm
    obtain ⟨o, ho, rfl⟩ := ok_of_map_ok h
    exact (encode_dmbox o).trans (wordBytes_congr (o.word_of_parse ho h0 hn))
  interval_cases n
  all_goals first
    | exact absurd rfl hm
    | (obtain ⟨o, ho, rfl⟩ := ok_of_map_ok h; exact wordBytes_congr (o.word_of_parse ho h0 hn))
    | cases h

theorem encode_decodeShort (x : W16) (h : x.getLsbD 0 = false) : encode (decodeShort x) = halfBytes x := by
  have hw : ∀ n, (x.extractLsb 5 2).toNat = n → (OpS.parse x).word n = x := by
    rintro n rfl
    rw [OpS.word, OpS.parse, BitVec.ofNat_toNat, BitVec.setWidth_eq]
    ext i hi
    grind
  have hlt := (x.extractLsb 5 2).isLt
  unfold decodeShort
  generalize hn : (x.extractLsb 5 2).toNat = n at hlt
  specialize hw n hn
  interval_cases n <;> exact congrArg halfBytes hw

theorem OpS.parse_word (o : OpS) (op : Nat) : OpS.parse (o.word op) = o := by
  have ha : (o.word op).extractLsb 15 11 = o.a := by rw [OpS.word]; ext i hi; grind
  have hd : (o.word op).extractLsb 10 6 = o.d := by rw [OpS.word]; ext i hi; grind
  have hm : (o.word op).getLsbD 1 = o.m := by rw [OpS.word]; grind
  rw [OpS.parse, ha, hd, hm]

theorem OpS.word_code (o : OpS) {op : Nat} (h : op < 16) : ((o.word op).extractLsb 5 2).toNat = op := by
  have : (o.word op).extractLsb 5 2 = BitVec.ofNat 4 op := by rw [OpS.word]; ext i hi; grind
  rw [this, BitVec.toNat_ofNat]
  omega

theorem decode_halfBytes (x : W16) (h : x.getLsbD 0 = false) (rest : List Byte) : decode (halfBytes x ++ rest) = .ok (decodeShort x, rest) := by
  have hs : isShort (x.extractLsb 7 0) = true := by rw [isShort]; grind
  simp only [halfBytes, List.cons_append, List.nil_append, decode, hs, if_true, join_halfBytes]

theorem decode_short (o : OpS) {op : Nat} {i : Instr} (hop : op < 16)
    (row : ∀ x : W16, (x.extractLsb 5 2).toNat = op → OpS.parse x = o → decodeShort x = i) (rest : List Byte) :
    decode (halfBytes (o.word op) ++ rest) = .ok (i, rest) := by
  rw [decode_halfBytes _ (by rw [OpS.word]; grind), row _ (o.word_code hop) (o.parse_word op)]

theorem two_bits_cases (y : BitVec 2) : y = 0 ∨ y = 1 ∨ y = 2 ∨ y = 3 := by decide +revert

/-! An instruction whose type stands in the minor opcode has one row for each type. -/

theorem decodeMap_fadd (y : BitVec 2) {w : W32} {p : Option (BitVec 25)} (h : opOf w = 64 + y.toNat) :
    decodeMap w p = (OpA.parse w p).map (Instr.fadd y) := by
  rcases two_bits_cases y with rfl | rfl | rfl | rfl <;> (unfold decodeMap; rewrite [show _ * 4 + _ = _ from h]; rfl)

theorem decodeMap_fsub (y : BitVec 2) {w : W32} {p : Option (BitVec 25)} (h : opOf w = 68 + y.toNat) :
    decodeMap w p = (OpA.parse w p).map (Instr.fsub y) := by
  rcases two_bits_cases y with rfl | rfl | rfl | rfl <;> (unfold decodeMap; rewrite [show _ * 4 + _ = _ from h]; rfl)

theorem decodeMap_fmul (y : BitVec 2) {w : W32} {p : Option (BitVec 25)} (h : opOf w = 72 + y.toNat) :
    decodeMap w p = (OpA.parse w p).map (Instr.fmul y) := by
  rcases two_bits_cases y with rfl | rfl | rfl | rfl <;> (unfold decodeMap; rewrite [show _ * 4 + _ = _ from h]; rfl)

theorem decodeMap_ffma (y : BitVec 2) {w : W32} {p : Option (BitVec 25)} (h : opOf w = 76 + y.toNat) :
    decodeMap w p = (OpA.parse w p).map (Instr.ffma y) := by
  rcases two_bits_cases y with rfl | rfl | rfl | rfl <;> (unfold decodeMap; rewrite [show _ * 4 + _ = _ from h]; rfl)

theorem decodeMap_fmin (y : BitVec 2) {w : W32} {p : Option (BitVec 25)} (h : opOf w = 80 + y.toNat) :
    decodeMap w p = (OpA.parse w p).map (Instr.fmin y) := by
  rcases two_bits_cases y with rfl | rfl | rfl | rfl <;> (unfold decodeMap; rewrite [show _ * 4 + _ = _ from h]; rfl)

theorem decodeMap_fmax (y : BitVec 2) {w : W32} {p : Option (BitVec 25)} (h : opOf w = 84 + y.toNat) :
    decodeMap w p = (OpA.parse w p).map (Instr.fmax y) := by
  rcases two_bits_cases y with rfl | rfl | rfl | rfl <;> (unfold decodeMap; rewrite [show _ * 4 + _ = _ from h]; rfl)

theorem decodeMap_fcmp (y : BitVec 2) {w : W32} {p : Option (BitVec 25)} (h : opOf w = 88 + y.toNat) :
    decodeMap w p = (OpA.parse w p).map (Instr.fcmp y) := by
  rcases two_bits_cases y with rfl | rfl | rfl | rfl <;> (unfold decodeMap; rewrite [show _ * 4 + _ = _ from h]; rfl)

theorem decodeMap_ldCx (y : BitVec 2) {w : W32} {p : Option (BitVec 25)} (h : opOf w = 128 + y.toNat) :
    decodeMap w p = (OpCx.parse w p).map (Instr.ldCx y) := by
  rcases two_bits_cases y with rfl | rfl | rfl | rfl <;> (unfold decodeMap; rewrite [show _ * 4 + _ = _ from h]; rfl)

theorem decodeMap_stCx (y : BitVec 2) {w : W32} {p : Option (BitVec 25)} (h : opOf w = 136 + y.toNat) :
    decodeMap w p = (OpCx.parse w p).map (Instr.stCx y) := by
  rcases two_bits_cases y with rfl | rfl | rfl | rfl <;> (unfold decodeMap; rewrite [show _ * 4 + _ = _ from h]; rfl)

theorem decode_dmbox (o : OpF) (i : Instr) (hi : (if o.sel == 1 then Instr.dmboxRecv o else Instr.dmboxSend o) = i) (hwf : WellFormed i)
    (rest : List Byte) : decode (wordBytes (o.word 246) o.payload ++ rest) = .ok (i, rest) := by
  subst hi
  exact decode_of_row (op := 246) (mk := fun o => if o.sel == 1 then Instr.dmboxRecv o else Instr.dmboxSend o) (o.parse_word _)
    (fun h => by unfold decodeMap; rewrite [show _ * 4 + _ = _ from h]; rfl) (Nat.le_of_ble_eq_true rfl) hwf rest

theorem dmboxSend_sel {o : OpF} (h : WellFormed (.dmboxSend o)) : o.sel = 0 := by
  simp only [WellFormed, Instr.reject, Instr.checks, zero, Option.map_eq_none_iff, List.find?_eq_none] at h
  simpa using h _ (List.mem_cons_self ..)

theorem dmboxRecv_sel {o : OpF} (h : WellFormed (.dmboxRecv o)) : o.sel = 1 := by
  simp only [WellFormed, Instr.reject, Instr.checks, code, Option.map_eq_none_iff, List.find?_eq_none] at h
  simpa using h _ (List.mem_cons_self ..)

/-- Majors 0x00 to 0x1F. -/
theorem decode_encode_low (i : Instr) (hlt : i.opcode < 128) (hwf : WellFormed i) (hne : encode i ≠ []) (rest : List Byte) :
    decode (encode i ++ rest) = .ok (i, rest) := by
  cases i with
  | iaddA o | isubA o | imulA o | imadA o | andA o | orA o | xorA o | rotA o | shlA o | shrA o | shraA o | clz o | popc o | bfxA o | bfiA o
    | iminN32 o | iminI32 o | imaxN32 o | imaxI32 o | icmpN32A o | icmpI32A o | movA o | leaA o | iadd64A o | brev o | sxt o | sel o
    | saddA o | smulA o | smovA o | scmpA o | frcp o | frsq o | fex2 o | flg2 o | f2i o | i2f o | fcvt o | pack o | unpack o | shfl o
    | tred o | dot4N8 o | dot4I8 o | iaddB o | isubB o | imulB o | imadB o | andB o | orB o | xorB o | rotB o | shlB o | shrB o | shraB o
    | bfxB o | bfiB o | icmpN32B o | icmpI32B o | leaB o | iadd64B o | saddB o | smulB o | scmpB o | movBw o | slea o | smovBw o | rdsys o =>
    exact decode_of_row (o.parse_word _) (fun h => by unfold decodeMap; rewrite [show _ * 4 + _ = _ from h]; rfl) (Nat.le_of_ble_eq_true rfl) hwf rest
  | fadd y o => exact decode_of_row (o.parse_word _) (decodeMap_fadd y) (typed_lt y (Nat.le_of_ble_eq_true rfl)) hwf rest
  | fsub y o => exact decode_of_row (o.parse_word _) (decodeMap_fsub y) (typed_lt y (Nat.le_of_ble_eq_true rfl)) hwf rest
  | fmul y o => exact decode_of_row (o.parse_word _) (decodeMap_fmul y) (typed_lt y (Nat.le_of_ble_eq_true rfl)) hwf rest
  | ffma y o => exact decode_of_row (o.parse_word _) (decodeMap_ffma y) (typed_lt y (Nat.le_of_ble_eq_true rfl)) hwf rest
  | fmin y o => exact decode_of_row (o.parse_word _) (decodeMap_fmin y) (typed_lt y (Nat.le_of_ble_eq_true rfl)) hwf rest
  | fmax y o => exact decode_of_row (o.parse_word _) (decodeMap_fmax y) (typed_lt y (Nat.le_of_ble_eq_true rfl)) hwf rest
  | fcmp y o => exact decode_of_row (o.parse_word _) (decodeMap_fcmp y) (typed_lt y (Nat.le_of_ble_eq_true rfl)) hwf rest
  | movShort o | iaddShort o | isubShort o | imulShort o | andShort o | orShort o | xorShort o | shlShort o | shrShort o | shraShort o
    | iaddiShort o | faddShort o | fsubShort o | fmulShort o | fminShort o | fmaxShort o =>
    exact decode_short o (Nat.le_of_ble_eq_true rfl) (fun x h e => by subst e; unfold decodeShort; rw [h]; rfl) rest
  | ldCx y o => exact absurd hlt (Nat.not_lt.mpr (Nat.le_add_right_of_le (Nat.le_of_ble_eq_true rfl)))
  | stCx y o => exact absurd hlt (Nat.not_lt.mpr (Nat.le_add_right_of_le (Nat.le_of_ble_eq_true rfl)))
  | brx o | ret o | join o | leave o | wait o | mlog o | ballot o | elect o | mset o | fence o | reform o | exit o | nop o | yield o | bar o
    | gbar o | trap o | elevel o | emode o | mark o | brk o | rdts o | rdclk o | dhalt o | dresume o | dstep o | dbkpt o | dwatch o | drds o
    | ldCdS o | ldCdPair o | stCdS o | stCdPair o | lds o | sts o | ldw o | stw o | ldx o | stx o | qset o | qsave o | cpy o | cpyl o
    | subs o | claim o | rels o | flgs o | flgw o | qpush o | qpop o | qdone o | boini o | boarr o | bowt o | mtx o | mtxg o | mtxs o
    | xsect o | dist o | fixup o | enext o | ecomb o | eact o | edone o | launch o | lwait o | pref o | pgreq o | atomAdd o | atomAddF32 o
    | atomMinN32 o | atomMinI32 o | atomMinF32 o | atomMaxN32 o | atomMaxI32 o | atomMaxF32 o | atomAnd o | atomOr o | atomXor o
    | atomXchg o | cas o | red o | bop o | bred o | bra o | call o | brp o | dmboxSend o | dmboxRecv o =>
    exact absurd hlt (Nat.not_lt.mpr (Nat.le_of_ble_eq_true rfl))
  | _ => exact absurd rfl hne

/-- Majors 0x20 to 0x2D. -/
theorem decode_encode_mid (i : Instr) (hle : 128 ≤ i.opcode) (hlt : i.opcode < 184) (hwf : WellFormed i) (rest : List Byte) :
    decode (encode i ++ rest) = .ok (i, rest) := by
  cases i with
  | fence o | ldCdS o | ldCdPair o | stCdS o | stCdPair o | lds o | sts o | ldw o | stw o | ldx o | stx o | qset o | qsave o | cpy o
    | cpyl o | subs o | claim o | rels o | flgs o | flgw o | qpush o | qpop o | qdone o | boini o | boarr o | bowt o | pref o | pgreq o
    | atomAdd o | atomAddF32 o | atomMinN32 o | atomMinI32 o | atomMinF32 o | atomMaxN32 o | atomMaxI32 o | atomMaxF32 o | atomAnd o
    | atomOr o | atomXor o | atomXchg o | cas o | red o | bop o | bred o =>
    exact decode_of_row (o.parse_word _) (fun h => by unfold decodeMap; rewrite [show _ * 4 + _ = _ from h]; rfl) (Nat.le_of_ble_eq_true rfl) hwf rest
  | ldCx y o => exact decode_of_row (o.parse_word _) (decodeMap_ldCx y) (typed_lt y (Nat.le_of_ble_eq_true rfl)) hwf rest
  | stCx y o => exact decode_of_row (o.parse_word _) (decodeMap_stCx y) (typed_lt y (Nat.le_of_ble_eq_true rfl)) hwf rest
  | fadd y o | fsub y o | fmul y o | ffma y o | fmin y o | fmax y o | fcmp y o =>
    have := y.isLt
    exact absurd hle (by simp only [Instr.opcode]; omega)
  | brx o | ret o | join o | leave o | wait o | mlog o | ballot o | elect o | mset o | reform o | exit o | nop o | yield o | bar o | gbar o
    | trap o | elevel o | emode o | mark o | brk o | rdts o | rdclk o | dhalt o | dresume o | dstep o | dbkpt o | dwatch o | drds o | mtx o
    | mtxg o | mtxs o | xsect o | dist o | fixup o | enext o | ecomb o | eact o | edone o | launch o | lwait o | bra o | call o | brp o
    | dmboxSend o | dmboxRecv o =>
    exact absurd hlt (Nat.not_lt.mpr (Nat.le_of_ble_eq_true rfl))
  | _ => exact absurd hle (Nat.not_le.mpr (Nat.le_of_ble_eq_true rfl))

/-- Majors 0x2E to 0x3D. -/
theorem decode_encode_high (i : Instr) (hle : 184 ≤ i.opcode) (hwf : WellFormed i) (rest : List Byte) :
    decode (encode i ++ rest) = .ok (i, rest) := by
  cases i with
  | brx o | ret o | join o | leave o | wait o | mlog o | ballot o | elect o | mset o | reform o | exit o | nop o | yield o | bar o | gbar o
    | trap o | elevel o | emode o | mark o | brk o | rdts o | rdclk o | dhalt o | dresume o | dstep o | dbkpt o | dwatch o | drds o | mtx o
    | mtxg o | mtxs o | xsect o | dist o | fixup o | enext o | ecomb o | eact o | edone o | launch o | lwait o | bra o | call o | brp o =>
    exact decode_of_row (o.parse_word _) (fun h => by unfold decodeMap; rewrite [show _ * 4 + _ = _ from h]; rfl) (Nat.le_of_ble_eq_true rfl) hwf rest
  | dmboxSend o => exact decode_dmbox o _ (by simp [dmboxSend_sel hwf]) hwf rest
  | dmboxRecv o => exact decode_dmbox o _ (by simp [dmboxRecv_sel hwf]) hwf rest
  | fadd y o | fsub y o | fmul y o | ffma y o | fmin y o | fmax y o | fcmp y o | ldCx y o | stCx y o =>
    have := y.isLt
    exact absurd hle (by simp only [Instr.opcode]; omega)
  | _ => exact absurd hle (Nat.not_le.mpr (Nat.le_of_ble_eq_true rfl))

theorem decode_encode (i : Instr) (hwf : WellFormed i) (hne : encode i ≠ []) (rest : List Byte) : decode (encode i ++ rest) = .ok (i, rest) := by
  by_cases hlow : i.opcode < 128
  · exact decode_encode_low i hlow hwf hne rest
  by_cases hmid : i.opcode < 184
  · exact decode_encode_mid i (by omega) hmid hwf rest
  · exact decode_encode_high i (by omega) hwf rest

/-- Short forms have no operand rules. -/
theorem wellFormed_decodeShort (x : W16) : WellFormed (decodeShort x) := by
  unfold decodeShort
  split <;> rfl

/-- Settles O54, format by format through the opcode map. -/
theorem decodeInvertsEncode : Obligations.DecodeInvertsEncode := decode_encode

/-- Settles O55: a short form, or a word with its payload, is what its row of the opcode map writes again. -/
theorem encodeInvertsDecode : Obligations.EncodeInvertsDecode := by
  intro bs i rest h
  obtain ⟨x, h0, rfl, rfl⟩ | ⟨w, p, h0, hw, rfl⟩ := decode_eq_ok h
  · exact ⟨wellFormed_decodeShort x, by rw [encode_decodeShort x h0]⟩
  · obtain ⟨hmap, hwf⟩ := decodeWord_eq_ok hw
    exact ⟨hwf, by rw [encode_of_decodeMap h0 hmap]⟩

end Sys2Proof
end

section
/-! PROOF. A step runs what it has decoded (R47, R146, R161), what reset leaves, and the records of a precise fault and of a stopped
group. -/

namespace Sys2Proof.Machine

open Sys2Proof.Safety Sys2Proof.Rules

/-! ## The move of the bundle that wins its arbitration -/

/-- Of a core asked to issue, the bundle that wins its arbitration makes the next move, unless it comes too early for its clk. -/
theorem todo_of_winner {s : State} {rest : List Move} {asked : Nat} {any : Nat} {h : Group} {gid bid : Nat} (hd : s.dsteps = [])
    (ha : s.agenda = .issue asked any :: rest) (hg : s.group? asked = some h)
    (hw : (ageAll s).wins h.die h.core = some (gid, bid)) :
    todo s = if early (ageAll s) (.issue gid bid) then .now (elapse (ageAll s) 1 (ticksOfClk (ageAll s)))
      else moveIssue (arbitrated (({ ageAll s with agenda := rest } : State).mark (.issue gid bid)) gid bid) gid bid := by
  have e : early { ageAll s with agenda := rest } (.issue gid bid) = early (ageAll s) (.issue gid bid) := rfl
  simp only [todo, hd, List.find?_nil, ha, askIssue, hg, hw, contend, timely, e]
  cases early (ageAll s) (.issue gid bid) <;> rfl

/-- A bundle at whose boundary nothing is asked for fetches and issues. -/
theorem moveIssue_eq_issueAt {y : State} {gid bid : Nat} {g : Group} {b : Bundle} {r : RangeSt} (hg : y.group? gid = some g)
    (hb : g.bundle? bid = some b) (hr : y.range? g.rid = some r) (hi : canIssue y g b = true) (hw : b.watch = [])
    (hp : r.pre = none ∨ atSafePoint r b = false) (hbk : breakAt y g b = none) : moveIssue y gid bid = issueAt y gid bid none := by
  have hs : (r.pre.isSome && atSafePoint r b) = false := by rcases hp with h | h <;> simp [h]
  simp [moveIssue, hg, hb, hr, hi, hw, hs, hbk]

theorem lose_clk (s : State) (gid bid : Nat) : (lose s gid bid).clk = s.clk := by
  unfold lose
  split
  · rfl
  · cases (s.range? _).bind _ <;> rfl

theorem arbitrated_clk (s : State) (gid bid : Nat) : (arbitrated s gid bid).clk = s.clk := by
  have hl : ∀ (l : List (Nat × Nat × Nat × Nat)) (x : State), (l.foldl (fun s x => lose s x.2.2.1 x.2.2.2) x).clk = x.clk := by
    intro l
    induction l with
    | nil => intro x; rfl
    | cons y l ih => intro x; rw [List.foldl_cons, ih, lose_clk]
  unfold arbitrated
  split
  · rfl
  · exact hl _ _

theorem State.mark_clk (s : State) (m : Move) : (s.mark m).clk = s.clk := by
  unfold State.mark
  split <;> rfl

/-- What the bytes fetched at a bundle's PC bring about. -/
theorem issueAt_ok {y : State} {gid bid : Nat} {g : Group} {b : Bundle} {r : RangeSt} {x u : State} {bs : List Byte}
    (hg : y.group? gid = some g) (hb : g.bundle? bid = some b) (hr : y.range? g.rid = some r)
    (hx : y.updBundle gid bid (fun b => { b with st := .ready, atClk := y.clk + 1 }) = x)
    (hf : fetch x (fetchWho x g r) b.pc.toNat = .ok (bs, u)) :
    issueAt y gid bid none =
      let z : State := { u with cur := some { gid := gid, bid := bid, pc := b.pc, len := bs.length, words := BitVec.ofNat 64 (leNat bs) } }
      match decode bs with
      | .ok (i, _) => .run i z none
      | .error _ => .now (wrapUp none (match z.ctx with | some c => illop z c | none => z)) := by
  subst hx
  unfold issueAt
  rw [hg]
  simp only [hb, hr]
  rw [hf]
  rfl

/-- A fetch that fails at a bundle's PC. -/
theorem issueAt_error {y : State} {gid bid : Nat} {g : Group} {b : Bundle} {r : RangeSt} {x : State} {f : AFault} {a : Nat}
    (hg : y.group? gid = some g) (hb : g.bundle? bid = some b) (hr : y.range? g.rid = some r)
    (hx : y.updBundle gid bid (fun b => { b with st := .ready, atClk := y.clk + 1 }) = x)
    (hf : fetch x (fetchWho x g r) b.pc.toNat = .error (f, a)) :
    issueAt y gid bid none =
      let l := lenAt x (fetchHalf x (fetchWho x g r) b.pc.toNat)
      let z : State := { l.2.poisonRec f with cur := some { gid := gid, bid := bid, pc := b.pc, len := l.1, words := 0 } }
      .now (wrapUp none (match z.ctx with
        | some c => precise z c f.code f.cause f.level (BitVec.ofNat 64 a) 0 c.b.ts
        | none => z)) := by
  subst hx
  unfold issueAt
  rw [hg]
  simp only [hb, hr]
  rw [hf]
  rfl

theorem State.ctx_act {s : State} {c : Ctx} (h : s.ctx = some c) : c.act = c.b.ts := by
  unfold State.ctx at h
  split at h
  · cases h
  · split at h
    · cases h
    · split at h <;> cases h
      rfl

/-- Settles O56: the winner of the arbitration makes the move, and what it fetches decides which. -/
theorem stepRunsDecoded : Obligations.StepRunsDecoded := by
  intro s rest asked any h gid bid g b r hd ha hh a hw y hg hb hr hi hwt hp hbk x
  have ht := todo_of_winner (any := any) hd ha hh hw
  rw [moveIssue_eq_issueAt hg hb hr hi hwt hp hbk] at ht
  have hclk : y.clk = s.clk := by
    rw [arbitrated_clk, State.mark_clk]
    rfl
  have hx : y.updBundle gid bid (fun b => { b with st := .ready, atClk := y.clk + 1 }) = x := by rw [hclk]
  refine ⟨fun he => ?_, fun bs u he hf => ?_, fun f at_ c he hf hc => ?_⟩
  · rw [step, ht, if_pos he]
  · rw [if_neg (by rw [he]; decide), issueAt_ok hg hb hr hx hf] at ht
    intro z
    refine ⟨fun i tail hdec => ?_, fun e c hdec hc => ?_⟩
    · rw [step, ht, hdec] <;> rfl
    · rw [step, ht, hdec]
      have hcur : c.c = _ := (Option.some.inj (State.ctx_eq_some hc).1).symm
      simp only [z] at hcur hc
      simp only [hc]
      rw [illop, State.ctx_act hc, hcur]
  · rw [if_neg (by rw [he]; decide), issueAt_error hg hb hr hx hf] at ht


    rw [step, ht]
    simp only [hc]

/-! ## Words of the spec -/

/-- Settles O53: the decoder computes each instruction. -/
theorem wordsDecode : Obligations.WordsDecode := by
  unfold Obligations.WordsDecode
  refine ⟨?_, ?_, ?_, ?_, ?_, ?_, ?_⟩ <;> rfl

/-! ## Reset -/

/-- Settles O59: memory is empty at reset. -/
theorem resetCanonical : Obligations.ResetCanonical := rfl

/-- No partition has been written at reset. -/
theorem State.reset_part (p : Nat) : State.reset.part p = dfltPart p := rfl

/-- Settles O60: no core and no partition has been written, so each reads as its default. -/
theorem resetValues : Obligations.ResetValues := by
  refine ⟨fun d c => rfl, fun p => ?_, fun p => rfl, rfl, rfl, rfl, rfl, rfl, rfl, rfl, rfl⟩
  rw [State.lease, State.reset_part]
  show ((0x0000005020600C0A : W64).extractLsb 7 0).toNat = 10
  decide

/-! ## Records of faults -/

/-- Settles O41: the record's shape depends only on whether the run holds a data fault. -/
theorem preciseFaultRecord : Obligations.PreciseFaultRecord := by
  intro s c code cause level addr detail t ts
  unfold precise
  cases c.b.dfault <;> rfl

/-- Settles O40: a group already stopped queues the record and nothing else. -/
theorem stoppedGroupRecordsSecondary : Obligations.StoppedGroupRecordsSecondary := by
  intro s g f bid skipPc hg hstop
  have hs : g.stop.isSome = true := by simpa [Option.isSome_iff_ne_none] using hstop
  unfold stopGroup
  simp only [hg, hs, if_true, beq_iff_eq, recorded, stopSrc]
  rfl

end Sys2Proof.Machine
end

section
/-! PROOF. The state an instruction acts on: the group is the one of its context, but for what its bundles hold. -/

namespace Sys2Proof.Machine

open Sys2Proof.Safety

theorem State.walked_groups (s : State) (q : Option Nat) (l : List Nat) : (s.walked q l).groups = s.groups := by
  unfold State.walked
  induction l generalizing s with
  | nil => rfl
  | cons a l ih => rw [List.foldl_cons, ih, State.count_groups]

theorem State.poisonRec_groups (s : State) (f : AFault) : (s.poisonRec f).groups = s.groups := by
  unfold State.poisonRec
  cases f.flow <;> cases f.poison <;> by_cases h : f.drawn = 0 <;> simp [h, State.deviceRec, State.queueRec, State.walked_groups]

/-- The group that an instruction acts in is the one of its context, but for what its bundles hold. -/
theorem Ready.group {p : Spec} {s x : State} {c0 c : Ctx} (h : Ready p s c0 x c) :
    ∃ bs, x.group? c.g.id = some { c.g with bundles := bs } := by
  obtain ⟨c1, hc1, hc⟩ := Option.map_eq_some_iff.mp h.ctx
  obtain ⟨_, hg, _⟩ := State.ctx_eq_some hc1
  have hcg := congrArg Ctx.g hc
  rw [show c1.g = c.g from hcg] at hg
  rw [← State.group_id hg] at hg
  rw [h.acts, metPoison]
  split
  · exact ⟨c.g.bundles, hg⟩
  · have hpoison : ∀ (l : List (Nat × BitVec 6)) (y : State),
        (l.foldl (fun s x => s.poisonRec (poisoned (unitAddr c.g.die c.g.core (Ctx.wordOf { c with bad := [] } x)) true)) y).groups = y.groups := by
      intro l
      induction l with
      | nil => intro y; rfl
      | cons a l ih => intro y; rw [List.foldl_cons, ih, State.poisonRec_groups]
    have hz := hg
    rw [State.group?, ← hpoison (Ctx.spoilt { c with bad := [] } p) (begun s p c0)] at hz
    unfold poisonedRead State.dataFaults
    dsimp only
    split
    · exact ⟨c.g.bundles, hz⟩
    · exact ⟨_, (State.group_updGroup_same _ _ _ (fun _ => by rfl)).trans (congrArg _ hz)⟩

end Sys2Proof.Machine
end

section
/-! PROOF. What makes a row of a table of rules hold: an instruction that issues with the row's names and then writes its result through
the fixed or variable results of R149. One lemma for each kind of row. -/

namespace Sys2Proof.Safety

open Sys2Proof.Machine

/-- What `Rule.Holds` asks of one row: `ex` completes with its result and its frame. -/
def Rule.Does (r : Rule) (ex : State → Out) : Prop :=
  ∀ s c0 x c, Ready r.spec s c0 x c → r.ok c →
    ∃ u, ex s = .next (marked r.m u c) ∧ Fixed (r.x x c) u c (r.byp x c) (r.th x c) (r.tm x c)

theorem Rule.holds_of_does {table : Instr → Option Rule} (h : ∀ i r, table i = some r → r.Does (exec i)) : Rule.Holds table := h

theorem Rule.v_does {p : Spec} {m t : Bool} {d : BitVec 6} {src : State → Ctx → Srcs} {f : Ctx → Srcs → Nat → W32} {ex : State → Out}
    (hex : ∀ s, ex s = issue s { p with wr := [.v d] } (fun c x =>
      fixedV (src x c).s c m t d ((src x c).ts.map (fun l => (l, f c (src x c) l))))) : (Rule.v p m t d src f).Does ex := by
  intro s c0 x c (h : Ready { p with wr := [.v d] } s c0 x c) _
  rw [hex, issue_ready h]
  obtain ⟨u, hu, hfix⟩ := fixedV_fixed (src x c).s c m t d (src x c).ts (f c (src x c))
  exact ⟨u, congrArg _ hu, hfix⟩

theorem Rule.pair_does {p : Spec} {m t : Bool} {d : BitVec 6} {src : State → Ctx → Srcs} {f : Ctx → Srcs → Nat → W64} {ex : State → Out}
    (hex : ∀ s, ex s = issue s { p with wr := [.pair d] } (fun c x =>
      fixedPair (src x c).s c m t d ((src x c).ts.map (fun l => (l, f c (src x c) l))))) : (Rule.pair p m t d src f).Does ex := by
  intro s c0 x c (h : Ready { p with wr := [.pair d] } s c0 x c) _
  rw [hex, issue_ready h]
  obtain ⟨u, hu, hfix⟩ := fixedPair_fixed (src x c).s c m t d (src x c).ts (f c (src x c))
  exact ⟨u, congrArg _ hu, hfix⟩

theorem Rule.p_does {p : Spec} {m : Bool} {d : BitVec 3} {src : State → Ctx → Srcs} {f : Ctx → Srcs → Nat → Bool} {ex : State → Out}
    (hex : ∀ s, ex s = issue s { p with wr := [.p d] } (fun c x =>
      fixedP (src x c).s c m d ((src x c).ts.map (fun l => (l, f c (src x c) l))))) : (Rule.p p m d src f).Does ex := by
  intro s c0 x c (h : Ready { p with wr := [.p d] } s c0 x c) _
  rw [hex, issue_ready h]
  obtain ⟨u, hu, hfix⟩ := fixedP_fixed (src x c).s c m d (src x c).ts (f c (src x c))
  exact ⟨u, congrArg _ hu, hfix⟩

theorem Rule.s_does {p : Spec} {m : Bool} {d : BitVec 6} {f : State → Ctx → Nat → W64} {ex : State → Out}
    (hex : ∀ s, ex s = issue s { p with wr := [.s (s5 d)] } (fun c x => fixedS x c m d ((c.teams p.g).map (fun t => (t, f x c t))))) :
    (Rule.s p m d f).Does ex := by
  intro s c0 x c (h : Ready { p with wr := [.s (s5 d)] } s c0 x c) _
  obtain ⟨bs, hg⟩ := Ready.group h
  rw [hex, issue_ready h, fixedS]
  simp only [List.map_map, Function.comp_def, Group.putSs_eq]
  obtain ⟨u, hu, hfix⟩ := retireNext_teams x c m [] (fun g t tm => if (c.teams p.g).contains t then tm.putS c.clk g.nextB (s5 d) (f x c t) else tm) _
    (fun g hx => by rw [hg] at hx; cases hx; rfl)
  exact ⟨u, congrArg _ hu, hfix⟩

/-- A rule that writes v[d] where its condition holds. -/
theorem Rule.v_does_where {p : Spec} {m t : Bool} {d : BitVec 6} {src : State → Ctx → Srcs} {f : Ctx → Srcs → Nat → W32} {ok : Ctx → Prop}
    {ex : State → Out} {body : Ctx → State → State} (hex : ∀ s, ex s = issue s { p with wr := [.v d] } body)
    (hok : ∀ c x, ok c → body c x = fixedV (src x c).s c m t d ((src x c).ts.map (fun l => (l, f c (src x c) l)))) :
    Rule.Does { Rule.v p m t d src f with ok := ok } ex := by
  intro s c0 x c (h : Ready { p with wr := [.v d] } s c0 x c) hc
  rw [hex, issue_ready h, hok c x hc]
  obtain ⟨u, hu, hfix⟩ := fixedV_fixed (src x c).s c m t d (src x c).ts (f c (src x c))
  exact ⟨u, congrArg _ hu, hfix⟩

end Sys2Proof.Safety
end

section
/-! PROOF. R187 to R191: the lane functions of Table 2, of bit fields and of sign extension are the ones the model computes. -/

namespace Sys2Proof.Rules

open Sys2Proof.Safety Sys2Proof.Machine

theorem add_eq (a b d : W32) : add a b d = a + b := by simp [add, BitVec.ofNat_add]

theorem sub_eq (a b d : W32) : sub a b d = a - b := by
  apply BitVec.eq_of_toNat_eq
  rw [sub, BitVec.toNat_ofInt, BitVec.toNat_sub]
  omega

theorem mul_eq (a b d : W32) : mul a b d = a * b := by simp [mul, BitVec.ofNat_mul]

theorem mad_eq (a b d : W32) : mad a b d = a * b + d := by simp [mad, BitVec.ofNat_mul, BitVec.ofNat_add]

theorem shl_eq (a b d : W32) : shl a b d = shl32 a b := by
  apply BitVec.eq_of_toNat_eq; simp [shl, shl32, Nat.shiftLeft_eq]

theorem shr_eq (a b d : W32) : shr a b d = shr32 a b := by
  apply BitVec.eq_of_toNat_eq
  rw [shr, shr32, BitVec.toNat_ofNat, BitVec.toNat_ushiftRight, Nat.shiftRight_eq_div_pow]
  exact Nat.mod_eq_of_lt (Nat.lt_of_le_of_lt (Nat.div_le_self _ _) a.isLt)

theorem shra_eq (a b d : W32) : shra a b d = shra32 a b := by
  rw [shra, shra32, BitVec.sshiftRight, Int.shiftRight_eq_div_pow]; norm_cast

/-- The bits that a mask of listed lane homes has. -/
theorem getLsbD_maskOf (ls : List Nat) (i : Nat) : (maskOf ls).getLsbD i = (decide (i < 32) && decide (i ∈ ls)) := by
  have h : ∀ (ls : List Nat) (m : W32), (ls.foldl (fun m l => m ||| (1#32 <<< l)) m).getLsbD i =
      (m.getLsbD i || (decide (i < 32) && decide (i ∈ ls))) := by
    intro ls
    induction ls with
    | nil => intro m; simp
    | cons l ls ih =>
      intro m
      rw [List.foldl_cons, ih]
      by_cases hi : i < 32
      · simp only [BitVec.getLsbD_or, BitVec.getLsbD_shiftLeft, BitVec.getLsbD_one, hi, List.mem_cons]
        by_cases hl : i = l
        · simp [hl]
        · simp only [hl, decide_true, Bool.true_and, false_or]
          by_cases hle : i < l
          · simp [hle]
          · simp [show ¬ i - l = 0 by omega]
      · simp [hi, BitVec.getLsbD_of_ge _ _ (Nat.le_of_not_lt hi)]
  simpa [maskOf] using h ls 0

theorem brev_eq (a b d : W32) : brev a b d = brev32 a := by
  rw [brev, brev32]
  ext i hi
  rw [BitVec.getElem_reverse, ← BitVec.getLsbD_eq_getElem, getLsbD_maskOf]
  simp [hi, BitVec.getMsbD]

theorem popc_eq (a b d : W32) : popc a b d = popc32 a := by
  have h : ∀ l : List Nat, (l.map (fun i => (a.getLsbD i).toNat)).sum = (l.filter (fun i => a.getLsbD i)).length := by
    intro l
    induction l with
    | nil => rfl
    | cons i l ih => rw [List.map_cons, List.sum_cons, ih, List.filter_cons]; cases a.getLsbD i <;> simp; omega
  rw [popc, popc32, h]

/-- The first k numbers satisfy the test and the next does not. -/
theorem length_takeWhile_range {p : Nat → Bool} {n k : Nat} (hk : k ≤ n) (h : ∀ i < k, p i = true) (hn : k < n → p k = false) :
    ((List.range n).takeWhile p).length = k := by
  obtain ⟨m, rfl⟩ := Nat.exists_eq_add_of_le hk
  rw [List.range_add, List.takeWhile_append_of_pos (by simpa using h)]
  cases m with
  | zero => simp
  | succ m => simp [List.range_succ_eq_map, hn]

theorem clz_eq (a b d : W32) : clz a b d = clz32 a := by
  rw [clz, clz32]
  congr 1
  by_cases ha : a = 0
  · subst ha
    rfl
  · have hpos : a.toNat ≠ 0 := by simpa [BitVec.toNat_eq] using ha
    have hlog : a.toNat.log2 < 32 := (Nat.log2_lt hpos).mpr a.isLt
    rw [if_neg (by simpa using ha)]
    refine length_takeWhile_range (by omega) (fun i hi => ?_) (fun _ => ?_)
    · have : a.toNat < 2 ^ (31 - i) := (Nat.log2_lt hpos).mp (by omega)
      simp [BitVec.getLsbD, Nat.testBit_lt_two_pow this]
    · rw [show 31 - (31 - a.toNat.log2) = a.toNat.log2 by omega]
      simp [BitVec.getLsbD, Nat.testBit_log2 hpos]

theorem rot_eq (a b d : W32) : rot a b d = rot32 a b := by
  have hk : b.toNat % 32 < 32 := Nat.mod_lt _ (by decide)
  rw [rot, rot32, BitVec.rotateLeft_def, Nat.mod_eq_of_lt hk]
  generalize b.toNat % 32 = k at hk
  have hlt : a.toNat / 2 ^ (32 - k) < 2 ^ k := by
    rw [Nat.div_lt_iff_lt_mul (by positivity), ← Nat.pow_add, show k + (32 - k) = 32 by omega]
    exact a.isLt
  have hle : 2 ^ k ≤ 2 ^ 32 := Nat.pow_le_pow_right (by decide) (by omega)
  apply BitVec.eq_of_toNat_eq
  rw [BitVec.toNat_ofNat, BitVec.toNat_or, BitVec.toNat_shiftLeft, BitVec.toNat_ushiftRight, Nat.shiftRight_eq_div_pow,
    ← Nat.shiftLeft_eq, Nat.shiftLeft_add_eq_or_of_lt hlt, Nat.or_mod_two_pow, Nat.mod_eq_of_lt (Nat.lt_of_lt_of_le hlt hle)]

theorem minN_eq (a b d : W32) : minN a b d = imin32 false a b := by
  simp [minN, imin32, intCond, condInt]

theorem minI_eq (a b d : W32) : minI a b d = imin32 true a b := by
  simp [minI, imin32, intCond, condInt]

theorem maxN_eq (a b d : W32) : maxN a b d = imax32 false a b := by
  rw [maxN, show imax32 false a b = if b.toNat ≤ a.toNat then a else b by simp [imax32, intCond, condInt]]
  split_ifs with h1 h2 h2
  · exact BitVec.eq_of_toNat_eq (by omega)
  · rfl
  · rfl
  · omega

theorem maxI_eq (a b d : W32) : maxI a b d = imax32 true a b := by
  rw [maxI, show imax32 true a b = if b.toInt ≤ a.toInt then a else b by simp [imax32, intCond, condInt]]
  split_ifs with h1 h2 h2
  · exact BitVec.eq_of_toInt_eq (by omega)
  · rfl
  · rfl
  · omega

theorem laneA_does (o : OpA) (useB useD : Bool) {f f' : W32 → W32 → W32 → W32} (hf : ∀ a b d, f a b d = f' a b d) :
    (ofA o useB useD f).Does (fun s => laneA s o useB useD f') :=
  Rule.v_does (fun s => by simp only [laneA, srcA, hf])

theorem laneB_does (o : OpB) (useD : Bool) {f f' : W32 → W32 → W32 → W32} (hf : ∀ a b d, f a b d = f' a b d) :
    (ofB o useD f).Does (fun s => laneB s o useD f') :=
  Rule.v_does (fun s => by simp only [laneB, plain, hf, w32])

theorem pos_eq (k : W32) : pos k = fieldPos k := by
  simp [pos, fieldPos, BitVec.extractLsb_toNat]

theorem wid_eq (k : W32) : wid k = fieldWid k := by
  simp [wid, fieldWid, BitVec.extractLsb_toNat, Nat.shiftRight_eq_div_pow]

theorem bit_eq_testBit (x n : Nat) : bit x n = x.testBit n := by
  simp [bit, Nat.testBit_eq_decide_div_mod_eq]; rfl

theorem bfx_eq (a k d : W32) : bfx a k d = bfx32 a k := by
  rw [bfx, bfx32, pos_eq, wid_eq]
  simp only [bit_eq_testBit, w32, Bool.and_eq_true, decide_eq_true_eq, and_assoc, gt_iff_lt]
  split
  · rfl
  · exact BitVec.ofInt_natCast _ _

theorem bfi_eq (a k d : W32) : bfi a k d = bfi32 a k d := by
  rw [bfi, bfi32, pos_eq, wid_eq]
  congr 2
  apply BitVec.eq_of_toNat_eq
  rw [BitVec.toNat_ofNat, BitVec.toNat_shiftLeft, Nat.shiftLeft_eq]

theorem sext_eq {w x : Nat} (hw : 0 < w) (hx : x < 2 ^ w) : sext w x = if x.testBit (w - 1) then (x : Int) - 2 ^ w else x := by
  rw [sext]
  obtain ⟨n, rfl⟩ : ∃ n, w = n + 1 := ⟨w - 1, by omega⟩
  by_cases h : x < 2 ^ n
  · simp [h, Nat.testBit_lt_two_pow h]
  · rw [Nat.add_sub_cancel, if_neg h, Nat.testBit_eq_decide_div_mod_eq]
    have : x / 2 ^ n = 1 := by
      rw [Nat.div_eq_iff (by positivity)]; omega
    simp [this]

/-- Settles O1: each row's lane function is the one the instruction computes. -/
theorem integerArithmeticCompletes : Obligations.IntegerArithmeticCompletes := by
  refine Rule.holds_of_does (fun i r h => ?_)
  unfold arithmetic at h
  split at h <;> cases h
  next o => exact (laneA_does o true false add_eq : Rule.Does _ (execIaddA o))
  next o => exact (laneB_does o false add_eq : Rule.Does _ (execIaddB o))
  next o => exact (laneA_does o true false sub_eq : Rule.Does _ (execIsubA o))
  next o => exact (laneB_does o false sub_eq : Rule.Does _ (execIsubB o))
  next o => exact (laneA_does o true false mul_eq : Rule.Does _ (execImulA o))
  next o => exact (laneB_does o false mul_eq : Rule.Does _ (execImulB o))
  next o => exact (laneA_does o true true mad_eq : Rule.Does _ (execImadA o))
  next o => exact (laneB_does o true mad_eq : Rule.Does _ (execImadB o))
  next o => exact (laneA_does o true false minN_eq : Rule.Does _ (execIminN32 o))
  next o => exact (laneA_does o true false minI_eq : Rule.Does _ (execIminI32 o))
  next o => exact (laneA_does o true false maxN_eq : Rule.Does _ (execImaxN32 o))
  next o => exact (laneA_does o true false maxI_eq : Rule.Does _ (execImaxI32 o))

theorem sxtOf_eq (b : BitVec 6) (a : W32) : sxtOf b a = BitVec.ofInt 64 (sxt (b.toNat % 32 + 1) a) := by
  have hb : (b.extractLsb 4 0).toNat = b.toNat % 32 := by simp [BitVec.extractLsb_toNat]
  rw [sxtOf, hb, w64, sext_eq (by omega) (Nat.mod_lt _ (by positivity))]
  rfl

theorem setWidth_ofInt (x : Int) : (BitVec.ofInt 64 x).setWidth 32 = BitVec.ofInt 32 x := by
  apply BitVec.eq_of_toNat_eq
  simp only [BitVec.toNat_setWidth, BitVec.toNat_ofInt]
  omega

/-- Settles O2: each row's lane function is the one the instruction computes; SXT writes a pair or one register. -/
theorem bitwiseCompletes : Obligations.BitwiseCompletes := by
  refine Rule.holds_of_does (fun i r h => ?_)
  unfold bitwise at h
  split at h <;> cases h
  next o => exact (laneA_does o true false (fun _ _ _ => rfl) : Rule.Does _ (execAndA o))
  next o => exact (laneB_does o false (fun _ _ _ => rfl) : Rule.Does _ (execAndB o))
  next o => exact (laneA_does o true false (fun _ _ _ => rfl) : Rule.Does _ (execOrA o))
  next o => exact (laneB_does o false (fun _ _ _ => rfl) : Rule.Does _ (execOrB o))
  next o => exact (laneA_does o true false (fun _ _ _ => rfl) : Rule.Does _ (execXorA o))
  next o => exact (laneB_does o false (fun _ _ _ => rfl) : Rule.Does _ (execXorB o))
  next o => exact (laneA_does o true false shl_eq : Rule.Does _ (execShlA o))
  next o => exact (laneB_does o false shl_eq : Rule.Does _ (execShlB o))
  next o => exact (laneA_does o true false shr_eq : Rule.Does _ (execShrA o))
  next o => exact (laneB_does o false shr_eq : Rule.Does _ (execShrB o))
  next o => exact (laneA_does o true false shra_eq : Rule.Does _ (execShraA o))
  next o => exact (laneB_does o false shra_eq : Rule.Does _ (execShraB o))
  next o => exact (laneA_does o true false rot_eq : Rule.Does _ (execRotA o))
  next o => exact (laneB_does o false rot_eq : Rule.Does _ (execRotB o))
  next o => exact (laneA_does o false false clz_eq : Rule.Does _ (execClz o))
  next o => exact (laneA_does o false false popc_eq : Rule.Does _ (execPopc o))
  next o => exact (laneA_does o false false brev_eq : Rule.Does _ (execBrev o))
  next o => exact (laneA_does o true false bfx_eq : Rule.Does _ (execBfxA o))
  next o => exact (laneB_does o false bfx_eq : Rule.Does _ (execBfxB o))
  next o => exact (laneA_does o true true bfi_eq : Rule.Does _ (execBfiA o))
  next o => exact (laneB_does o true bfi_eq : Rule.Does _ (execBfiB o))
  next o =>
    show Rule.Does _ (execSxt o)
    cases hd : o.b.getLsbD 5
    · rw [if_neg Bool.false_ne_true]
      exact Rule.v_does (fun s => by simp only [execSxt, hd, sxtOf_eq, setWidth_ofInt, srcA, Bool.false_eq_true, if_false])
    · rw [if_pos rfl]
      exact Rule.pair_does (fun s => by simp only [execSxt, hd, sxtOf_eq, srcA, if_true])
  next o =>
    show Rule.Does _ (execSel o)
    exact Rule.v_does (fun s => by rw [execSel])

end Sys2Proof.Rules
end

section
/-! PROOF. R190, R192 to R198, R204: comparisons, moves, scalars and system registers. -/

namespace Sys2Proof.Rules

open Sys2Proof.Safety Sys2Proof.Machine

theorem holds_eq_condInt (k : Nat) (a b : Int) : holds k a b = condInt k a b := by
  unfold holds condInt
  split <;> simp [Bool.beq_eq_decide_eq, bne] 

theorem holds_num_eq_intCond {n : Nat} (signed : Bool) (k : BitVec 3) (a b : BitVec n) :
    holds k.toNat (num signed a) (num signed b) = intCond signed k a b := by
  cases signed <;> exact holds_eq_condInt _ _ _

theorem icmpA_does {signed : Bool} {o : OpA} {r : Rule} (h : icmpA signed o = some r) : r.Does (fun s => cmpA s o (intCond signed)) := by
  obtain ⟨_, rfl⟩ : (condOf o.d).toNat < 6 ∧ _ = r := by simpa [icmpA] using h
  exact Rule.p_does (fun s => by simp only [cmpA, holds_num_eq_intCond, srcA])

theorem icmpB_does {signed : Bool} {o : OpB} {r : Rule} (h : icmpB signed o = some r) : r.Does (fun s => cmpB s o signed) := by
  obtain ⟨_, rfl⟩ : (condOf o.d).toNat < 6 ∧ _ = r := by simpa [icmpB] using h
  exact Rule.p_does (fun s => by simp only [cmpB, holds_num_eq_intCond, plain, w32])

theorem scmp_does {g : BitVec 3} {m : Bool} {rd : List RegRef} {a d : BitVec 6} {b : Ctx → Nat → W64} {r : Rule}
    (h : Rules.scmp g m rd a d b = some r) : r.Does (fun s => Machine.scmp s g m rd a d b) := by
  unfold Rules.scmp at h
  split at h <;> cases h
  exact Rule.p_does (fun s => by simp only [Machine.scmp, holds_num_eq_intCond, plain])

/-- Settles O3: the condition of R157 on the operands' numbers. -/
theorem comparisonCompletes : Obligations.ComparisonCompletes := by
  refine Rule.holds_of_does (fun i r h => ?_)
  unfold comparison at h
  split at h
  next o => exact (icmpA_does h : r.Does (execIcmpN32A o))
  next o => exact (icmpA_does h : r.Does (execIcmpI32A o))
  next o => exact (icmpB_does h : r.Does (execIcmpN32B o))
  next o => exact (icmpB_does h : r.Does (execIcmpI32B o))
  next o => exact (scmp_does h : r.Does (execScmpA o))
  next o => exact (scmp_does h : r.Does (execScmpB o))
  next y o =>
    show r.Does (execFcmp y o)
    obtain ⟨_, rfl⟩ : (condOf o.d).toNat < 6 ∧ _ = r := by simpa using h
    exact Rule.p_does (fun s => by simp only [execFcmp, cmpA, srcA, fpCond])
  · cases h

/-- Settles O4, form by form of Table 3. -/
theorem moveCompletes : Obligations.MoveCompletes := by
  refine Rule.holds_of_does (fun i r h => ?_)
  unfold moves at h
  split at h
  next o =>
    show r.Does (execMovA o)
    split at h <;> cases h <;> rename_i hb
    · exact Rule.v_does (fun s => by simp [execMovA, hb, laneA, srcA])
    · exact Rule.pair_does (fun s => by simp [execMovA, hb, plain])
    · exact Rule.v_does (fun s => by simp [execMovA, hb, plain])
    · exact Rule.pair_does (fun s => by simp [execMovA, hb, plain])
  next o =>
    cases h
    show Rule.Does _ (execMovBw o)
    exact Rule.v_does (fun s => by simp only [execMovBw, plain])
  next o =>
    cases h
    show Rule.Does _ (execLeaA o)
    exact Rule.pair_does (fun s => by simp [execLeaA, srcA, BitVec.ofNat_add])
  next o =>
    cases h
    show Rule.Does _ (execLeaB o)
    exact Rule.pair_does (fun s => by simp [execLeaB, plain, BitVec.ofInt_add, w64])
  next o =>
    cases h
    show Rule.Does _ (execIadd64A o)
    exact Rule.pair_does (fun s => by simp [execIadd64A, plain, BitVec.ofNat_add])
  next o =>
    cases h
    show Rule.Does _ (execIadd64B o)
    exact Rule.pair_does (fun s => by simp [execIadd64B, plain, BitVec.ofInt_add, w64])
  · cases h

/-- Settles O5: one write for each team with an active lane. -/
theorem scalarCompletes : Obligations.ScalarCompletes := by
  refine Rule.holds_of_does (fun i r h => ?_)
  unfold scalars at h
  split at h
  next o =>
    cases h
    show Rule.Does _ (execSaddA o)
    exact Rule.s_does (fun s => by simp [execSaddA, scalarOp, BitVec.ofNat_add])
  next o =>
    cases h
    show Rule.Does _ (execSaddB o)
    exact Rule.s_does (fun s => by simp [execSaddB, scalarOp, BitVec.ofInt_add, w64])
  next o =>
    cases h
    show Rule.Does _ (execSmulA o)
    exact Rule.s_does (fun s => by simp [execSmulA, scalarOp, BitVec.ofNat_mul])
  next o =>
    cases h
    show Rule.Does _ (execSmulB o)
    exact Rule.s_does (fun s => by simp [execSmulB, scalarOp, BitVec.ofInt_mul, w64])
  next o =>
    cases h
    show Rule.Does _ (execSlea o)
    exact Rule.s_does (fun s => by simp [execSlea, scalarOp, BitVec.ofInt_add, w64])
  next o =>
    cases h
    show Rule.Does _ (execSmovBw o)
    exact Rule.s_does (fun s => by simp only [execSmovBw, scalarOp, BitVec.signExtend])
  next o =>
    show r.Does (execSmovA o)
    split at h <;> cases h <;> rename_i hb
    · exact Rule.s_does (fun s => by simp [execSmovA, scalarOp, hb])
    · exact Rule.s_does (fun s => by simp [execSmovA, scalarOp, hb])
    · exact Rule.s_does (fun s => by simp [execSmovA, scalarOp, hb])
    · exact Rule.s_does (fun s => by simp only [execSmovA, scalarOp, hb, BitVec.signExtend])
  · cases h

/-- Table 5 selector by selector. -/
theorem sysReg_eq_sysValue (c : Ctx) (t : Nat) {sel : Nat} (hlt : sel < 0x28) (hin : sel ∉ [0x03, 0x07, 0x0B, 0x0F, 0x13, 0x23]) :
    sysReg c t sel = sysValue c t sel := by
  simp only [List.mem_cons, List.not_mem_nil, or_false, not_or] at hin
  rcases htri : (c.g.th t).tri with _ | tri <;>
    interval_cases sel <;> simp_all [sysReg, sysValue, ax, RRec.extent, ceilDiv, teamOf, laneOf]

theorem sysRead_does {o : OpF} {rd : List RegRef} {f : State → Ctx → Nat → W64} {r : Rule} (h : sysRead o rd f = some r)
   : r.Does (fun s => readTo s o rd (fun c s t => f s c t)) := by
  unfold sysRead at h
  split at h <;> rename_i ha
  · cases h
    intro s c0 x c (h : Ready { g := o.g, rd := rd, wr := [.v o.d] } s c0 x c) _
    obtain ⟨u, hu, hfix⟩ := fixedV_fixed x c o.m false o.d (c.active o.g) (fun t => (f x c t).setWidth 32)
    refine ⟨u, ?_, by simpa using hfix⟩
    simp only [readTo, ha]
    exact (issue_ready h _).trans (congrArg _ hu)
  · cases h
    intro s c0 x c (h : Ready { g := o.g, rd := rd, wr := [.pair o.d] } s c0 x c) _
    obtain ⟨u, hu, hfix⟩ := fixedPair_fixed x c o.m false o.d (c.active o.g) (fun t => f x c t)
    refine ⟨u, ?_, by simpa using hfix⟩
    simp only [readTo, ha]
    exact (issue_ready h _).trans (congrArg _ hu)
  · cases h
    exact Rule.s_does (fun s => by simp only [readTo, ha])
  · cases h

/-- Settles O6: the selectors of Table 5, in the class of R197. -/
theorem systemReadCompletes : Obligations.SystemReadCompletes := by
  refine Rule.holds_of_does (fun i r h => ?_)
  unfold systemReads at h
  split at h
  next o =>
    show r.Does (execRdsys o)
    split at h
    next hsel =>
      have := sysRead_does h
      show r.Does (fun s => execRdsys o s)
      simpa only [← sysReg_eq_sysValue _ _ hsel.1 hsel.2, execRdsys, decide_eq_true_eq] using this
    · cases h
  next o => exact (sysRead_does h : r.Does (execRdts o))
  next o => exact (sysRead_does h : r.Does (execRdclk o))
  · cases h

end Sys2Proof.Rules
end

section
/-! PROOF. R163, R202 to R208, R212: floating point, conversions, dot products and the short forms. -/

namespace Sys2Proof.Rules

open Sys2Proof.Safety Sys2Proof.Machine

/-- Settles O7: the operations are the rounded exact results by definition. -/
theorem floatCompletes : Obligations.FloatCompletes := by
  refine Rule.holds_of_does (fun i r h => ?_)
  unfold floats at h
  split at h <;> cases h
  next y o => exact (laneA_does o true false (fun _ _ _ => rfl) : Rule.Does _ (execFadd y o))
  next y o => exact (laneA_does o true false (fun _ _ _ => rfl) : Rule.Does _ (execFsub y o))
  next y o => exact (laneA_does o true false (fun _ _ _ => rfl) : Rule.Does _ (execFmul y o))
  next y o => exact (laneA_does o true true (fun _ _ _ => rfl) : Rule.Does _ (execFfma y o))
  next y o => exact (laneA_does o true false (fun _ _ _ => rfl) : Rule.Does _ (execFmin y o))
  next y o => exact (laneA_does o true false (fun _ _ _ => rfl) : Rule.Does _ (execFmax y o))
  next o => exact (laneA_does o false false (fun _ _ _ => rfl) : Rule.Does _ (execFrcp o))
  next o => exact (laneA_does o false false (fun _ _ _ => rfl) : Rule.Does _ (execFrsq o))
  next o => exact (laneA_does o false false (fun _ _ _ => rfl) : Rule.Does _ (execFex2 o))
  next o => exact (laneA_does o false false (fun _ _ _ => rfl) : Rule.Does _ (execFlg2 o))

theorem ibits_eq {b : BitVec 6} (h : b.toNat / 4 < 6) : ibits (b.toNat / 4) = intBits b := by
  have e : (b.extractLsb 4 2).toNat = b.toNat / 4 := by
    simp only [BitVec.extractLsb_toNat, Nat.shiftRight_eq_div_pow]; omega
  rw [intBits, e]
  generalize b.toNat / 4 = k at h
  interval_cases k <;> rfl

theorem isgn_eq (b : BitVec 6) : isgn (b.toNat / 4) = intSigned b := by
  rw [isgn, intSigned, BitVec.getLsbD, Nat.testBit_eq_decide_div_mod_eq]; rfl

theorem fmtOf_low (b : BitVec 6) : fmtOf (b.toNat % 4) = srcFmt b := by
  rw [srcFmt, BitVec.extractLsb_toNat]; rfl

theorem fmtOf_high {b : BitVec 6} (h : b.toNat < 16) : fmtOf (b.toNat / 4) = fmtOf (b.extractLsb 3 2).toNat := by
  congr 1
  simp only [BitVec.extractLsb_toNat, Nat.shiftRight_eq_div_pow]; omega

theorem intBits_pos (b : BitVec 6) : 0 < intBits b := by unfold intBits; positivity

theorem f2i_eq {o : OpA} (h : o.b.toNat / 4 < 6) (a : W32) :
    BitVec.ofInt 32 (fToInt (fmtOf (o.b.toNat % 4)) (rmOf o) (ibits (o.b.toNat / 4)) (isgn (o.b.toNat / 4)) a.toNat) =
      w32 (fToInt (srcFmt o.b) (rmOf o) (intBits o.b) (intSigned o.b) a.toNat) := by
  rw [ibits_eq h, isgn_eq, fmtOf_low, w32]

theorem readInt_eq {b : BitVec 6} (h : b.toNat / 4 < 6) (a : W32) :
    (if isgn (b.toNat / 4) && (a.toNat % 2 ^ ibits (b.toNat / 4)).testBit (ibits (b.toNat / 4) - 1)
      then ((a.toNat % 2 ^ ibits (b.toNat / 4) : Nat) : Int) - 2 ^ ibits (b.toNat / 4) else (a.toNat % 2 ^ ibits (b.toNat / 4) : Nat)) = readInt b a := by
  rw [ibits_eq h, isgn_eq, readInt, sext_eq (intBits_pos b) (Nat.mod_lt _ (by positivity))]
  cases intSigned b <;> simp

/-- Lane i of a word, signed. -/
theorem toInt_byte (a : W32) (i : Nat) : (a.extractLsb' (8 * i) 8).toInt = sext 8 (a.toNat / 2 ^ (8 * i) % 256) := by
  rw [BitVec.toInt_eq_toNat_cond, BitVec.extractLsb'_toNat, Nat.shiftRight_eq_div_pow, sext]
  generalize a.toNat / 2 ^ (8 * i) = x
  norm_num
  split_ifs <;> omega

theorem dot4N8_eq (a b d : W32) : (BitVec.ofNat 32 (d.toNat + (a.toNat % 256) * (b.toNat % 256) + (a.toNat / 2 ^ 8 % 256) * (b.toNat / 2 ^ 8 % 256) +
      (a.toNat / 2 ^ 16 % 256) * (b.toNat / 2 ^ 16 % 256) + (a.toNat / 2 ^ 24) * (b.toNat / 2 ^ 24)) : W32) = dot4 false a b d := by
  have hm : ∀ x y : Nat, w32 ((x : Int) * y) = BitVec.ofNat 32 (x * y) := fun x y => by
    rw [w32, ← BitVec.ofInt_natCast]; push_cast; rfl
  have ha : a.toNat / 2 ^ 24 % 256 = a.toNat / 2 ^ 24 := by omega
  have hb : b.toNat / 2 ^ 24 % 256 = b.toNat / 2 ^ 24 := by omega
  rw [dot4, show List.range 4 = [0, 1, 2, 3] from rfl]
  simp only [List.foldl_cons, List.foldl_nil, Bool.false_eq_true, if_false, hm, Nat.reduceMul, ha, hb, pow_zero, Nat.div_one]
  simp only [BitVec.ofNat_add, BitVec.ofNat_toNat, BitVec.setWidth_eq]

theorem dot4I8_eq (a b d : W32) : (let k := fun (x : W32) (i : Nat) => (x.extractLsb' (8 * i) 8).toInt
      BitVec.ofInt 32 (d.toInt + k a 0 * k b 0 + k a 1 * k b 1 + k a 2 * k b 2 + k a 3 * k b 3)) = dot4 true a b d := by
  rw [dot4, show List.range 4 = [0, 1, 2, 3] from rfl]
  simp only [List.foldl_cons, List.foldl_nil, if_true, toInt_byte, BitVec.ofInt_add, BitVec.ofInt_toInt, w32]

/-- Settles O8: the type codes of R200 name the formats and widths the instruction uses. -/
theorem conversionCompletes : Obligations.ConversionCompletes := by
  refine Rule.holds_of_does (fun i r h => ?_)
  unfold conversions at h
  split at h
  next o =>
    split at h <;> cases h
    next hb => exact (laneA_does o false false (fun a _ _ => f2i_eq hb a) : Rule.Does _ (execF2i o))
  next o =>
    split at h <;> cases h
    next hb => 
      refine (laneA_does o false false (fun a _ _ => ?_) : Rule.Does _ (execI2f o))
      rw [fmtOf_low]
      simp only [readInt_eq hb, fw]
  next o =>
    split at h <;> cases h
    next hb => 
      refine (laneA_does o false false (fun a _ _ => ?_) : Rule.Does _ (execFcvt o))
      rw [fmtOf_low, fmtOf_high hb, fw]
  next o =>
    cases h
    exact (laneA_does o true true dot4N8_eq : Rule.Does _ (execDot4N8 o))
  next o =>
    cases h
    exact (laneA_does o true true dot4I8_eq : Rule.Does _ (execDot4I8 o))
  · cases h

theorem lowV_eq (r : BitVec 5) : (BitVec.ofNat 6 r.toNat) = lowV r := by rw [lowV, BitVec.ofNat_toNat]

theorem laneS_does (o : OpS) (imm : Bool) {f f' : W32 → W32 → W32} (hf : ∀ a d, f a d = f' a d) :
    (short o imm f).Does (fun s => laneS s o imm f') :=
  Rule.v_does (fun s => by simp only [laneS, plain, lowV_eq, hf])

/-- Settles O9: the lane functions of the long forms on the low registers. -/
theorem shortFormCompletes : Obligations.ShortFormCompletes := by
  refine Rule.holds_of_does (fun i r h => ?_)
  unfold shorts at h
  split at h <;> cases h
  next o =>
    show Rule.Does _ (execMovShort o)
    exact Rule.v_does (fun s => by simp only [execMovShort, plain, lowV_eq])
  next o => exact (laneS_does o false (fun a d => add_eq d a 0) : Rule.Does _ (execIaddShort o))
  next o => exact (laneS_does o false (fun a d => sub_eq d a 0) : Rule.Does _ (execIsubShort o))
  next o => exact (laneS_does o false (fun a d => mul_eq d a 0) : Rule.Does _ (execImulShort o))
  next o => exact (laneS_does o false (fun _ _ => rfl) : Rule.Does _ (execAndShort o))
  next o => exact (laneS_does o false (fun _ _ => rfl) : Rule.Does _ (execOrShort o))
  next o => exact (laneS_does o false (fun _ _ => rfl) : Rule.Does _ (execXorShort o))
  next o => exact (laneS_does o false (fun a d => shl_eq d a 0) : Rule.Does _ (execShlShort o))
  next o => exact (laneS_does o false (fun a d => shr_eq d a 0) : Rule.Does _ (execShrShort o))
  next o => exact (laneS_does o false (fun a d => shra_eq d a 0) : Rule.Does _ (execShraShort o))
  next o =>
    exact (laneS_does o true (f := fun _ d => BitVec.ofInt 32 (d.toNat + o.a.toInt)) (fun a d => by simp [BitVec.ofInt_add, BitVec.signExtend]) :
      Rule.Does _ (execIaddiShort o))
  next o => exact (laneS_does o false (fun _ _ => rfl) : Rule.Does _ (execFaddShort o))
  next o => exact (laneS_does o false (fun _ _ => rfl) : Rule.Does _ (execFsubShort o))
  next o => exact (laneS_does o false (fun _ _ => rfl) : Rule.Does _ (execFmulShort o))
  next o => exact (laneS_does o false (fun _ _ => rfl) : Rule.Does _ (execFminShort o))
  next o => exact (laneS_does o false (fun _ _ => rfl) : Rule.Does _ (execFmaxShort o))

end Sys2Proof.Rules
end

section
/-! PROOF. R133, R173: a rounded value is a pattern of its format; a mask with nothing armed on it is written. -/

namespace Sys2Proof.Machine

open Sys2Proof.Safety Sys2Proof.Rules

theorem Fmt.inf_add (f : Fmt) : f.inf + 2 ^ f.fbits = f.signBit := by
  rw [Fmt.inf, Fmt.signBit, Nat.pow_add, ← Nat.succ_mul, Nat.succ_eq_add_one, Nat.sub_add_cancel Nat.one_le_two_pow]

theorem Fmt.inf_lt (f : Fmt) : f.inf < f.signBit := by
  have := f.inf_add
  have : 0 < 2 ^ f.fbits := by positivity
  omega

theorem Fmt.two_signBit (f : Fmt) : 2 ^ f.width = f.signBit + f.signBit := by
  rw [Fmt.width, Fmt.signBit, Nat.add_assoc, Nat.pow_add]; omega

theorem Fmt.over_lt (f : Fmt) (rm : Nat) (neg : Bool) : f.over rm neg < 2 ^ f.width := by
  have hinf := f.inf_lt
  have hsub : f.inf - 1 ≤ f.inf := Nat.sub_le _ _
  have key : ∀ toInf : Bool, (if toInf then f.inf else f.inf - 1) + (if neg then f.signBit else 0) < f.signBit + f.signBit := by
    intro toInf
    split_ifs <;> omega
  rw [f.two_signBit]
  exact key _

theorem Fmt.roundRat_lt (f : Fmt) (rm : Nat) (neg : Bool) (n d : Nat) : f.roundRat rm neg n d < 2 ^ f.width := by
  have hinf := f.inf_lt
  have key : ∀ mag, (if f.inf ≤ mag then f.over rm neg else (if neg then f.signBit else 0) + mag) < 2 ^ f.width := by
    intro mag
    split
    · exact f.over_lt rm neg
    · rw [f.two_signBit]; split <;> omega
  rw [Fmt.roundRat]
  dsimp only
  split
  · rw [f.two_signBit]; split <;> omega
  · split <;> exact key _

/-- A rounded value is a pattern of the format. -/
theorem Fmt.round_lt (f : Fmt) (hf : 0 < f.fbits) (rm : Nat) (v : FV) : f.round rm v < 2 ^ f.width := by
  cases v with
  | nan =>
    have h := f.inf_add
    have : 2 ^ (f.fbits - 1) < 2 ^ f.fbits := Nat.pow_lt_pow_right (by decide) (by omega)
    rw [f.two_signBit]
    show f.inf + 2 ^ (f.fbits - 1) < _
    omega
  | inf neg =>
    have := f.inf_lt
    rw [f.two_signBit]
    show f.inf + (if neg then f.signBit else 0) < _
    split <;> omega
  | fin neg m e => exact f.roundRat_lt rm neg _ _

/-! ## Writes of masks (R173) -/

theorem Team.setM_setM (t : Team) (k : BitVec 4) (x y : W32) : (t.setM k x).setM k y = t.setM k y := by
  simp only [Team.setM, Vector.setIfInBounds_setIfInBounds]

theorem Group.setMs_eq (g : Group) (k : BitVec 4) (ts : List Nat) (f : Nat → W32) :
    ts.foldl (fun g t => g.updTeam t (fun tm => tm.setM k (f t))) g =
      { g with teams := g.teams.mapIdx (fun t tm => if ts.contains t then tm.setM k (f t) else tm) } := by
  have h : ∀ (ts : List Nat) (g : Group), ts.foldl (fun g t => g.updTeam t (fun tm => tm.setM k (f t))) g =
      { g with teams := ts.foldl (fun l t => l.modify t (fun tm => tm.setM k (f t))) g.teams } := by
    intro ts
    induction ts with
    | nil => intro g; rfl
    | cons t ts ih => intro g; exact ih (g.updTeam t (fun tm => tm.setM k (f t)))
  rw [h]
  congr 1
  exact foldl_modify_eq_mapIdx (fun t tm => tm.setM k (f t)) (fun _ _ => Team.setM_setM _ _ _ _) ts g.teams

/-- With no join and no wait armed on it in these teams, a mask is written. -/
theorem writeMask_clear {s : State} {c : Ctx} {m : Bool} {k : BitVec 4} {ts : List Nat} {f : Nat → W32}
    (h : ∀ t ∈ teamsOf ts, (c.g.team t).armed true k = none ∧ (c.g.team t).armed false k = none) :
    ∃ u, writeMask s c m k ts f = marked m u c ∧
      Fixed s u c [] (fun _ th => th) (fun t tm => if (teamsOf ts).contains t then tm.setM k (f t &&& c.g.liveMask t) else tm) := by
  unfold writeMask
  dsimp only
  split
  next t ht =>
    obtain ⟨hj, hw⟩ := h t (List.mem_of_find?_eq_some ht)
    simpa [hj, hw] using List.find?_some ht
  · simp only [Group.setMs_eq]
    exact retireNext_teams s c m [] (fun _ t tm => if (teamsOf ts).contains t then tm.setM k (f t &&& c.g.liveMask t) else tm) _ (fun _ _ => rfl)

theorem Team.armed_eq_none (t : Team) (join : Bool) (k : BitVec 4) :
    t.armed join k = none ↔ ∀ a ∈ (if join then t.joins else t.waits), a.mask ≠ k := by
  simp [Team.armed]

end Sys2Proof.Machine
end

section
/-! PROOF. R173 to R177, R209 to R211: masks, ballots, ELECT, PACK and UNPACK. -/

namespace Sys2Proof.Rules

open Sys2Proof.Safety Sys2Proof.Machine

/-- The low n bits of a number, shifted to their place. -/
theorem ofInt_shifted_and_mask (k : Int) {n p : Nat} (h : n + p ≤ 32) :
    BitVec.ofInt 32 (k * 2 ^ p) &&& BitVec.ofNat 32 ((2 ^ n - 1) * 2 ^ p) = BitVec.ofNat 32 ((k % (2 ^ n : Nat)).toNat * 2 ^ p) := by
  have hshift : ∀ x : Nat, BitVec.ofNat 32 (x * 2 ^ p) = BitVec.ofNat 32 x <<< p := by
    intro x
    apply BitVec.eq_of_toNat_eq
    simp [Nat.shiftLeft_eq]
  have hk : BitVec.ofInt 32 (k * 2 ^ p) = BitVec.ofInt 32 k <<< p := by
    have : (2 : Int) ^ p = ((2 ^ p : Nat) : Int) := by push_cast; rfl
    rw [this, BitVec.ofInt_mul, BitVec.ofInt_natCast, BitVec.shiftLeft_eq_mul_twoPow]
    congr 1
    apply BitVec.eq_of_toNat_eq
    simp
  rw [hk, hshift, hshift, ← BitVec.shiftLeft_and_distrib]
  congr 1
  apply BitVec.eq_of_toNat_eq
  have hdvd : (2 : Nat) ^ n ∣ 2 ^ 32 := Nat.pow_dvd_pow 2 (by omega)
  have hle : (2 : Nat) ^ n ≤ 2 ^ 32 := Nat.le_of_dvd (by positivity) hdvd
  have hmod : k % ((2 ^ 32 : Nat) : Int) % ((2 ^ n : Nat) : Int) = k % ((2 ^ n : Nat) : Int) :=
    Int.emod_emod_of_dvd k (by exact_mod_cast hdvd)
  have hnn : 0 ≤ k % ((2 ^ 32 : Nat) : Int) := Int.emod_nonneg _ (by positivity)
  have hpos : 0 < 2 ^ n := by positivity
  rw [BitVec.toNat_and, BitVec.toNat_ofInt, BitVec.toNat_ofNat, BitVec.toNat_ofNat, Nat.mod_eq_of_lt (a := 2 ^ n - 1) (by omega),
    Nat.and_two_pow_sub_one_eq_mod]
  push_cast at hmod hnn ⊢
  zify
  rw [Int.toNat_of_nonneg hnn, Int.toNat_of_nonneg (Int.emod_nonneg _ (by positivity)), hmod, eq_comm]
  refine Int.emod_eq_of_lt (Int.emod_nonneg _ (by positivity)) (lt_of_lt_of_le (Int.emod_lt_of_pos _ (by positivity)) (by exact_mod_cast hle))

theorem maskWrite_does {p : Spec} {m : Bool} {k : BitVec 4} {val : Ctx → Nat → W32} {ex : State → Out}
    (hex : ∀ s, ex s = issue s p (fun c x => writeMask x c m k (c.active p.g) (val c))) : (maskWrite p m k val).Does ex := by
  intro s c0 x c (h : Ready p s c0 x c) hok
  rw [hex, issue_ready h]
  obtain ⟨u, hu, hfix⟩ := writeMask_clear (s := x) (c := c) (m := m) (k := k) (ts := c.active p.g) (f := val c) (fun t ht => by
    obtain ⟨hj, hw⟩ := hok t ht
    exact ⟨(Team.armed_eq_none ..).mpr (by simpa using hj), (Team.armed_eq_none ..).mpr (by simpa using hw)⟩)
  exact ⟨u, congrArg _ hu, hfix⟩

theorem mlogF_eq : mlogF = mlog := rfl

theorem mem_sortLane (ts : List Nat) (t : Nat) : t ∈ sortLane ts ↔ t ∈ ts := by
  simp only [sortLane, List.mem_flatten, List.mem_map, List.mem_range]
  constructor
  · rintro ⟨_, ⟨l, _, rfl⟩, h⟩
    exact List.mem_of_mem_filter h
  · intro h
    exact ⟨_, ⟨laneOf t, Nat.mod_lt _ (by decide), rfl⟩, by simpa using h⟩

theorem sortLane_pairwise (ts : List Nat) : (sortLane ts).Pairwise (fun a b => laneOf a ≤ laneOf b) := by
  rw [sortLane, List.pairwise_flatten, List.pairwise_map]
  constructor
  · intro l hl
    obtain ⟨n, _, rfl⟩ := List.mem_map.mp hl
    refine List.pairwise_of_forall_mem_list ?_
    intro a ha b hb
    simp_all
  · refine List.Pairwise.imp ?_ (List.pairwise_lt_range (n := 32))
    intro a b hab x hx y hy
    simp_all; omega

/-- Of threads of one team the first in order of lane home is the one below no other. -/
theorem head_sortLane {ts : List Nat} {team t : Nat} (hteam : ∀ k ∈ ts, teamOf k = team) (ht : t ∈ ts) :
    (some t == (sortLane ts).head?) = ts.all (fun k => decide (laneOf t ≤ laneOf k)) := by
  have hp := sortLane_pairwise ts
  have hmem := (mem_sortLane ts t).mpr ht
  rcases hs : sortLane ts with _ | ⟨h, l⟩
  · rw [hs] at hmem; cases hmem
  · have hle : ∀ k ∈ ts, laneOf h ≤ laneOf k := by
      intro k hk
      have := (mem_sortLane ts k).mpr hk
      rw [hs] at this hp
      rcases List.mem_cons.mp this with rfl | hk
      · exact le_rfl
      · exact List.rel_of_pairwise_cons hp hk
    have hh : h ∈ ts := (mem_sortLane ts h).mp (by rw [hs]; simp)
    rw [List.head?_cons, Bool.eq_iff_iff]
    simp only [beq_iff_eq, Option.some.injEq, List.all_eq_true, decide_eq_true_eq]
    constructor
    · rintro rfl; exact hle
    · intro hall
      have h1 := hall h hh
      have h2 := hle t ht
      have h3 := hteam h hh
      have h4 := hteam t ht
      simp only [laneOf, teamOf] at h1 h2 h3 h4
      omega

theorem elect_does (o : OpA) : Rule.Does (.p { g := o.g, coll := true } o.m (p3 o.d) (plain o.g)
      (fun c _ l => (c.active o.g).all (fun k => decide (laneOf l ≤ laneOf k)))) (execElect o) := by
  intro s c0 x c (h : Ready { g := o.g, coll := true, wr := [.p (p3 o.d)] } s c0 x c) _
  have hteam : ∀ k ∈ c.active o.g, teamOf k = teamOf (c.b.ts.headD 0) := fun k hk =>
    (h.whole rfl).2 k (List.mem_of_mem_filter hk)
  obtain ⟨u, hu, hfix⟩ := fixedP_fixed x c o.m (p3 o.d) (sortLane (c.active o.g)) (fun t => some t == (sortLane (c.active o.g)).head?)
  refine ⟨u, (issue_ready h _).trans (congrArg _ hu), ?_⟩
  have hth : (fun (l : Nat) (th : Thread) => if (sortLane (c.active o.g)).contains l then
      th.setP (p3 o.d) (some l == (sortLane (c.active o.g)).head?) else th) =
      fun l th => if (c.active o.g).contains l then th.setP (p3 o.d) ((c.active o.g).all (fun k => decide (laneOf l ≤ laneOf k))) else th := by
    funext l th
    by_cases hl : l ∈ c.active o.g
    · rw [head_sortLane hteam hl]
      simp [mem_sortLane, hl]
    · simp [mem_sortLane, hl]
  rw [hth] at hfix
  exact hfix

/-! ## Format slots (R209 to R211) -/

/-- Elements of a word: each of n bits, as many as the slot counts. -/
theorem slotCount_cases (f : W64) : slotCount f = 2 ∨ slotCount f = 4 ∨ slotCount f = 8 := by
  unfold slotCount
  split <;> simp

theorem unpack_eq (f : W64) (e : Nat) (x w : W32) : unpack f e x w = unpack32 f e x w := by
  have hpos : 0 < 32 / slotCount f := by rcases slotCount_cases f with h | h | h <;> simp [h]
  rw [unpack, unpack32]
  by_cases h0 : slotType f = 0
  · simp only [h0, if_true]
    rw [fCvt, if_neg (by decide)]
    rfl
  · by_cases h1 : slotType f = 1
    · simp only [h1, if_true]
      rw [if_neg (by decide), fCvt, if_neg (by decide)]
      rfl
    · rw [if_neg h0, if_neg h1, eq_comm]
      split
      · contradiction
      · contradiction
      · simp only [sext_eq hpos (Nat.mod_lt _ (by positivity))]
        cases slotSigned f <;> simp [fw]

theorem pack_eq {f : W64} {e : Nat} (he : e < slotCount f) (rm : Nat) (y w d : W32) : pack f e rm y w d = pack32 f e rm y w d := by
  have hbits : 32 / slotCount f + 32 / slotCount f * e ≤ 32 := by
    rcases slotCount_cases f with h | h | h <;> rw [h] at he ⊢ <;> omega
  have hlow : ∀ x : Nat, x < 2 ^ 16 → slotCount f = 2 → ((x : Int) % (2 ^ (32 / slotCount f) : Nat)).toNat = x := by
    intro x hx h2
    rw [h2]
    exact congrArg Int.toNat (Int.emod_eq_of_lt (by positivity) (by exact_mod_cast hx))
  rw [pack, pack32]
  simp only [ofInt_shifted_and_mask _ hbits]
  congr 4
  split_ifs with h0 h1
  · simp only [h0]
    exact hlow _ (Fmt.round_lt B16 (by decide) _ _) (by simp [slotCount, h0])
  · simp only [h1]
    exact hlow _ (Fmt.round_lt F16 (by decide) _ _) (by simp [slotCount, h1])
  · split
    · contradiction
    · contradiction
    · rfl

/-- Settles O10: masks through `writeMask_clear`, words through `unpack_eq` and `pack_eq`. -/
theorem maskAndSlotCompletes : Obligations.MaskAndSlotCompletes := by
  refine Rule.holds_of_does (fun i r h => ?_)
  unfold masks at h
  split at h
  next o =>
    cases h
    show Rule.Does _ (execMset o)
    exact maskWrite_does (fun s => by rw [execMset])
  next o =>
    cases h
    show Rule.Does _ (execMlog o)
    exact maskWrite_does (fun s => by rw [execMlog, mlogF_eq])
  next o =>
    show r.Does (execBallot o)
    dsimp only at h
    split at h <;> cases h
    next hb => exact Rule.v_does (fun s => by simp only [execBallot, hb, plain, ballotOf, ballot]; rfl)
    next hb => exact maskWrite_does (fun s => by simp only [execBallot, beq_eq_false_iff_ne.mpr hb, ballotOf, ballot]; rfl)
  next o =>
    cases h
    exact elect_does o
  next o =>
    cases h
    show Rule.Does _ (execUnpack o)
    refine Rule.v_does_where (fun s => by rw [execUnpack]) (fun c x hc => ?_)
    simp only [ge_iff_le, Nat.not_le.mpr hc, if_false, plain, unpack_eq]
  next o =>
    cases h
    show Rule.Does _ (execPack o)
    refine Rule.v_does_where (fun s => by rw [execPack]) (fun c x hc => ?_)
    simp only [ge_iff_le, Nat.not_le.mpr hc, if_false, plain, pack_eq hc]
  · cases h

end Sys2Proof.Rules
end

section
/-! PROOF. What makes a row of the other tables hold: an instruction that writes no register as it issues, and one whose result is
outstanding. -/

namespace Sys2Proof.Safety

open Sys2Proof.Machine

/-- What `Act.Holds` asks of one row. -/
def Act.Does (r : Act) (ex : State → Out) : Prop :=
  ∀ s c0 x c, Ready r.spec s c0 x c → r.ok x c →
    ∃ u, ex s = .next (settled r.settles (marked r.m u c) c) ∧ Fixed (r.y x c) u c [] (fun _ th => th) (fun _ tm => tm)

theorem Act.holds_of_does {table : Instr → Option Act} (h : ∀ i r, table i = some r → r.Does (exec i)) : Act.Holds table := h

theorem Act.does_of_body {r : Act} {ex : State → Out} {body : Ctx → State → State} (hex : ∀ s, ex s = issue s r.spec body)
    (hbody : ∀ s c0 x c, Ready r.spec s c0 x c → r.ok x c → body c x = settled r.settles (noResult (r.y x c) c r.m) c) : r.Does ex := by
  intro s c0 x c h hok
  rw [hex, issue_ready h, hbody s c0 x c h hok]
  obtain ⟨u, hu, hfix⟩ := noResult_fixed (r.y x c) c r.m
  exact ⟨u, by rw [hu], hfix⟩

/-- What `Lag.Holds` asks of one row. -/
def Lag.Does (r : Lag) (ex : State → Out) : Prop :=
  ∀ s c0 x c, Ready r.spec s c0 x c → r.ok x c →
    ∃ u, ex s = .next (settled r.settles (marked r.m u c) c) ∧ Late (r.y x c) u c (r.ts x c) (r.o x c)

theorem Lag.holds_of_does {table : Instr → Option Lag} (h : ∀ i r, table i = some r → r.Does (exec i)) : Lag.Holds table := h

theorem Lag.does_of_body {r : Lag} {ex : State → Out} {body : Ctx → State → State} (hex : ∀ s, ex s = issue s r.spec body)
    (hbody : ∀ s c0 x c, Ready r.spec s c0 x c → r.ok x c →
      body c x = settled r.settles (lateResult (r.y x c) c r.m (r.ts x c) (r.o x c)) c) : r.Does ex := by
  intro s c0 x c h hok
  rw [hex, issue_ready h, hbody s c0 x c h hok]
  obtain ⟨u, hu, hlate⟩ := lateResult_late (r.y x c) c r.m (r.ts x c) (r.o x c)
  exact ⟨u, by rw [hu], hlate⟩

end Sys2Proof.Safety
end

section
/-! PROOF. Loads and stores: each row of lates and storing holds. -/

namespace Sys2Proof.Rules
open Sys2Proof.Safety Sys2Proof.Machine

theorem signExt_eq : signExt = sext := rfl

theorem loaded_eq (w : BitVec 2) (sx : Bool) (d : BitVec 6) (l n : Nat) : loaded w sx d l n = loadVals w sx d l n := by
  simp only [loaded, loadVals, signExt_eq, beq_iff_eq, w32]

theorem datumRef_eq (w : BitVec 2) (d : BitVec 6) : datumRef w d = if w = 3 then .pair d else .v d := by
  simp only [datumRef, beq_iff_eq]

theorem resRef_eq (n : Nat) : resRef n = if n = 0 then [] else [.p (BitVec.ofNat 3 (n - 1))] := by
  simp only [resRef, beq_iff_eq]

theorem loadLanes_does {g : BitVec 3} {m glob : Bool} {rd : List RegRef} {w : BitVec 2} {sx : Bool} {d : BitVec 6} {p : Option PfC}
    {addr : Ctx → Nat → W64} {chk : State → Ctx → Nat → W64 → Except AFault Tgt} :
    (load g m glob rd w sx d p addr chk).Does (fun s => loadLanes s g m glob rd w sx d p addr chk) := by
  refine Lag.does_of_body (fun s => by simp only [loadLanes, load, datumRef_eq, resRef_eq]; rfl) (fun s c0 x c _ hok => ?_)
  have hheld : (glob && c.heldBack x true (c.active g) (fun t => isSo (addr c t).toNat) (fun t => (addr c t).toNat) (2 ^ w.toNat)) = false := by
    cases hg : glob
    · rfl
    · exact hok hg
  simp only [hheld, load, settled, fetched, loaded_eq, beq_iff_eq, Bool.false_eq_true, if_false, widthOf]

theorem storeLanes_does {g : BitVec 3} {m glob : Bool} {rd : List RegRef} {w : BitVec 2} {d : BitVec 6} {p : Option PfC}
    {addr : Ctx → Nat → W64} {chk : State → Ctx → Nat → W64 → Except AFault Tgt} :
    (store g m glob rd w d p addr chk).Does (fun s => storeLanes s g m glob rd w d p addr chk) := by
  refine Act.does_of_body (fun s => by simp only [storeLanes, store, datumRef_eq]; rfl) (fun s c0 x c _ hok => ?_)
  have hheld : c.storeHeld x glob (relWide p 3) (c.active g) (fun t => (addr c t).toNat) (2 ^ w.toNat) = false := hok
  simp only [hheld, store, settled, accessed, storeVal, beq_iff_eq, Bool.false_eq_true, if_false, widthOf]

theorem ldx_does (o : OpCd) {r : Lag} (h : lates (.ldx o) = some r) : r.Does (execLdx o) := by
  cases h
  refine Lag.does_of_body (fun s => by rw [execLdx]) (fun s c0 x c _ hok => ?_)
  have hheld : c.heldBack x true (c.leads o.g) (fun t => isSo (c.addrCdS o t (2 ^ o.w.toNat)).toNat)
    (fun t => (c.addrCdS o t (2 ^ o.w.toNat)).toNat) (2 ^ o.w.toNat) = false := hok
  simp only [hheld, settled, fetched, signExt_eq, Bool.false_eq_true, if_false, widthOf, w64]

theorem source_eq (o : OpA) (c : Ctx) (l : Nat)  :
   (let j := shflSrc o (laneOf l) (c.v l o.b)
      let src := if 0 ≤ j ∧ j < 32 then 32 * teamOf (c.b.ts.headD 0) + j.toNat else l
      if (c.g.th src).live then src else l) = source o c l := by
  have hsel : (o.a.extractLsb 5 4).toNat = o.a.toNat / 16 := by
    simp only [BitVec.extractLsb_toNat, Nat.shiftRight_eq_div_pow]; omega
  have hj : shflSrc o (laneOf l) (c.v l o.b) = sourceHome o c l := by
    simp only [shflSrc, sourceHome, hsel, laneOf] <;> rfl
  simp only [hj, source, teamOf]
  by_cases hin : 0 ≤ sourceHome o c l ∧ sourceHome o c l < 32 
  · simp [hin]
  · simp [hin]; intro a b; exact absurd ⟨a, b⟩ hin

/-- SHFL takes its lanes from a register where the mode of its operand a is 0. -/
theorem shflSel_eq (o : OpA) : (o.a.extractLsb 5 4 == 0) = decide (o.a.toNat / 16 = 0) := by
  rw [Bool.eq_iff_iff]
  simp only [beq_iff_eq, BitVec.toNat_eq, BitVec.extractLsb_toNat, Nat.shiftRight_eq_div_pow, decide_eq_true_eq]
  simp; omega

theorem shflReg_eq (o : OpA) : (o.a.extractLsb 3 0).setWidth 6 = BitVec.ofNat 6 (o.a.toNat % 16) := by
  apply BitVec.eq_of_toNat_eq
  simp [BitVec.extractLsb_toNat]

theorem shfl_does (o : OpA) {r : Lag} (h : lates (.shfl o) = some r) : r.Does (execShfl o) := by
  cases h
  refine Lag.does_of_body (fun s => by simp only [execShfl, shflSel_eq, shflReg_eq, decide_eq_true_eq]; rfl) (fun s c0 x c _ hok => ?_)
  simp only [← source_eq, settled, Bool.false_eq_true, if_false]

theorem tred_does (o : OpA) {r : Lag} (h : lates (.tred o) = some r) : r.Does (execTred o) := by
  cases h
  refine Lag.does_of_body (fun s => by rw [execTred]) (fun s c0 x c _ _ => ?_)
  rfl

/-- Settles O11: every row of the table is an instruction whose body is the row's outstanding result. -/
theorem loadCompletes : Obligations.LoadCompletes := by
  refine Lag.holds_of_does (fun i r h => ?_)
  unfold lates at h
  split at h
  next w o => cases h; exact (loadLanes_does : Lag.Does _ (execLdCx w o))
  next o => cases h; exact (loadLanes_does : Lag.Does _ (execLdCdS o))
  next o => cases h; exact (loadLanes_does : Lag.Does _ (execLdCdPair o))
  next o => cases h; exact (loadLanes_does : Lag.Does _ (execLds o))
  next o => cases h; exact (loadLanes_does : Lag.Does _ (execLdw o))
  next o => exact ldx_does o h
  next o => exact shfl_does o h
  next o => exact tred_does o h
  · cases h

theorem stx_does (o : OpCd) {r : Act} (h : storing (.stx o) = some r) : r.Does (execStx o) := by
  cases h
  refine Act.does_of_body (fun s => by rw [execStx]) (fun s c0 x c _ hok => ?_)
  have hheld : c.storeHeld x true false (c.leads o.g) (fun t => (c.addrCdS o t (2 ^ o.w.toNat)).toNat) (2 ^ o.w.toNat) = false := hok
  simp only [hheld, settled, accessed, Bool.false_eq_true, if_false, widthOf]

theorem fence_does (o : OpF) {r : Act} (h : storing (.fence o) = some r) : r.Does (execFence o) := by
  cases h
  refine Act.does_of_body (fun s => by rw [execFence]) (fun s c0 x c _ hok => ?_)
  by_cases ha : c.active o.g = []
  · simp [ha, settled]
  · obtain ⟨hend, hheld⟩ := hok.resolve_left ha
    have hsel : ∀ y : State, (if o.sel.toNat = 5 then fenceSy y c.g.die c.g.core else if 2 ≤ o.sel.toNat then releaseCore y c.g.die c.g.core else y) =
        let x := if 2 ≤ o.sel.toNat then releaseCore y c.g.die c.g.core else y
        if o.sel.toNat = 5 then x.updCore c.g.die c.g.core (fun k => { k with l1 := k.l1.filter (fun l => !l.uo) }) else x := by
      intro y
      by_cases h5 : o.sel.toNat = 5 <;> simp [h5, fenceSy]
    simp [ha, hend, hheld, settled, fenced, hsel]

theorem qset_does (o : OpCd) {r : Act} (h : storing (.qset o) = some r) : r.Does (execQset o) := by
  cases h
  refine Act.does_of_body (fun s => by rw [execQset]) (fun s c0 x c _ hok => ?_)
  obtain ⟨hheld, himg⟩ := hok
  have hall : (images o x c).2.1.any (fun y => !streamOk y.2) = false := by
    rw [List.any_eq_false]
    intro y hy
    have := List.all_eq_true.mp himg y hy
    simp [this]
  show (if c.heldBack x true (c.leads o.g) (fun l => isSo (c.addrQ o l).toNat) (fun l => (c.addrQ o l).toNat) 64 then stallAt x c
    else if (images o x c).2.1.any (fun y => !streamOk y.2) then illop x c else _) = _
  rw [hheld, hall]
  rfl

theorem qsave_does (o : OpCd) {r : Act} (h : storing (.qsave o) = some r) : r.Does (execQsave o) := by
  cases h
  refine Act.does_of_body (fun s => by rw [execQsave]) (fun s c0 x c _ hok => ?_)
  have hheld : c.storeHeld x true false (c.leads o.g) (fun t => (c.addrQ o t).toNat) 64 = false := hok
  simp only [hheld, Bool.false_eq_true, if_false, settled, imageHits, bne_iff_ne]

/-- Settles O12: every row of the table is an instruction whose body is the row's accesses. -/
theorem storeCompletes : Obligations.StoreCompletes := by
  refine Act.holds_of_does (fun i r h => ?_)
  unfold storing at h
  split at h
  next w o => cases h; exact (storeLanes_does : Act.Does _ (execStCx w o))
  next o => cases h; exact (storeLanes_does : Act.Does _ (execStCdS o))
  next o => cases h; exact (storeLanes_does : Act.Does _ (execStCdPair o))
  next o => cases h; exact (storeLanes_does : Act.Does _ (execSts o))
  next o => cases h; exact (storeLanes_does : Act.Does _ (execStw o))
  next o => exact stx_does o h
  next o => exact fence_does o h
  next o =>
    cases h
    show Act.Does _ (execPref o)
    refine Act.does_of_body (fun s => by rw [execPref]) (fun s c0 x c _ _ => ?_)
    rfl
  next o =>
    cases h
    show Act.Does _ (execPgreq o)
    refine Act.does_of_body (fun s => by rw [execPgreq]) (fun s c0 x c _ _ => ?_)
    rfl
  next o => exact qsave_does o h
  next o => exact qset_does o h
  · cases h
end Sys2Proof.Rules
end

section
/-! PROOF. The effects that write no register: the rows of effects. -/

namespace Sys2Proof.Rules
open Sys2Proof.Safety Sys2Proof.Machine

/-- A block that holds, by the checks of R219. -/
theorem blockCheck_eq_none {s : State} {c : Ctx} {off : W64} {n align : Nat} {wr bo : Bool} :
    blockCheck s c off n align wr bo = none ↔ blockOk s c off n align wr bo = true := by
  unfold blockCheck blockOk
  by_cases ha : off.toNat % align = 0
  · by_cases hb : off.toNat + n ≤ c.g.scrSize
    · cases hl : s.locked c.g true off.toNat n wr bo
      · cases hw : (wr && !bo)
        · simp [ha, hl, Nat.not_lt.mpr hb, hb]; 
        · simp [ha, hl, Nat.not_lt.mpr hb, hb]
      · simp [ha, hl, Nat.not_lt.mpr hb]
    · simp [ha, hb, Nat.not_le.mp hb]
  · simp [ha]

theorem onEdge_does {p : Spec} {m : Bool} {f : Ctx → Graph → State → State} {ex : State → Out} {body : Ctx → Graph → State → State}
    (hex : ∀ s, ex s = edgeIssue s p body) (hbody : ∀ c g x, body c g x = noResult (f c g x) c m) : (onEdge p m f).Does ex := by
  refine Act.does_of_body (fun s => by rw [hex, edgeIssue, onEdge]) (fun s c0 x c _ hok => ?_)
  obtain ⟨hedge, hgraph⟩ := hok
  obtain ⟨g, hg⟩ := Option.isSome_iff_exists.mp hgraph
  simp only [hedge, hg, settled, onEdge, hbody, Bool.false_eq_true, if_false]

theorem leave_does (o : OpA) {r : Act} (h : effects (.leave o) = some r) : r.Does (execLeave o) := by
  cases h
  refine Act.does_of_body (fun s => by rw [execLeave]) (fun s c0 x c _ hok => ?_)
  rfl

theorem mark_does (o : OpF) {r : Act} (h : effects (.mark o) = some r) : r.Does (execMark o) := by
  cases h
  refine Act.does_of_body (fun s => by rw [execMark]) (fun s c0 x c _ hok => ?_)
  have hp : ∀ s t, markPacket s c o t = markBytes o s c t := by
    intro s t
    simp only [markPacket, markBytes, List.append_assoc]
    rfl
  simp only [settled, hp, Bool.false_eq_true, if_false]
  rfl

theorem ecomb_does (o : OpE) {r : Act} (h : effects (.ecomb o) = some r) : r.Does (execEcomb o) := by
  cases h
  refine Act.does_of_body (fun s => by rw [execEcomb, edgeIssue, onEdge]) (fun s c0 x c _ hok => ?_)
  obtain ⟨⟨hedge, hgraph⟩, hwait⟩ := hok
  obtain ⟨g, hg⟩ := Option.isSome_iff_exists.mp hgraph
  simp only [hedge, hg, settled, onEdge, hwait g hg, Bool.false_eq_true, if_false, if_true]

theorem emode_does (o : OpF) {r : Act} (h : effects (.emode o) = some r) : r.Does (execEmode o) := by
  cases h
  refine onEdge_does (fun s => by rw [execEmode]) (fun c g x => ?_)
  by_cases ha : c.active o.g = []
  · simp [ha]
  · simp only [ha, if_false, List.isEmpty_iff, State.updEng]
    rcases hsel : o.sel.toNat with _ | _ | n
    · rfl
    · rfl
    · rfl

theorem flgIll_of_flagsIn {o : OpE} {x : State} {c : Ctx} (h : flagsIn o x c) : flgIll c o = false := by
  unfold flagsIn at h
  unfold flgIll flgGlob
  split at h
  next ha => simp [ha]
  next ha => simp [h]

theorem flgHeld_of_flagsIn {o : OpE} {x : State} {c : Ctx} (h : flagsIn o x c) :
    (flgGlob o && c.heldBack x true (c.active o.g) (fun t => isSo (c.s (teamOf t) o.a).toNat) (fun t => (c.s (teamOf t) o.a).toNat) (flgWidth o)) = false := by
  unfold flagsIn at h
  unfold flgGlob flgWidth
  split at h
  next ha => rw [ha]; exact h
  next ha => rw [Bool.not_eq_true] at ha; rw [ha]; rfl

theorem flgw_does (o : OpE) {r : Act} (h : effects (.flgw o) = some r) : r.Does (execFlgw o) := by
  cases h
  refine Act.does_of_body (fun s => by rw [execFlgw]) (fun s c0 x c _ hok => ?_)
  obtain ⟨hin, hall⟩ := hok
  have hpolls : (flagTests o x c).polls.all (·.ok) = true := List.all_eq_true.mpr hall
  rw [flagTests] at hpolls
  simp only [flgIll_of_flagsIn hin, flgHeld_of_flagsIn hin, hpolls, settled, flagTests, Bool.false_eq_true, if_false, if_true]

/-- What BOWT does where every object's block holds. -/
theorem bowt_body {o : OpE} {x : State} {c : Ctx} (h : objectsOk o x c) :
    (let res := (c.teams o.g).map (fun t => (t, blockCheck x c (c.s t o.k) 16 16 false true))
    let fs := res.filterMap (fun y => y.2.map (fun e => laneFault c (c.lowest o.g y.1) e (c.s y.1 o.k)))
    let polls := (res.filter (fun y => y.2.isNone)).map (fun y =>
      let off := (c.s y.1 o.k).toNat
      let p : Poll := { team := y.1, at_ := .phase off, ne := true, cmp := (c.s y.1 o.a).toNat % 2 ^ 32 }
      { p with ok := pollTest p (c.g.scratch.readN (off + 4) 4) })
    (((res.filterMap (·.2)).foldl State.poisonRec x).dataFaults c fs, polls)) = (x, phases o c) := by
  have hres : (c.teams o.g).map (fun t => (t, blockCheck x c (c.s t o.k) 16 16 false true)) = (c.teams o.g).map (fun t => (t, none)) := by
    refine List.map_congr_left (fun t ht => ?_)
    rw [blockCheck_eq_none.mpr (h t ht)]
  have hnone : ∀ l : List Nat, l.filterMap (fun _ => (none : Option AFault)) = [] := fun l => by simp
  have hnone' : ∀ l : List Nat, l.filterMap (fun _ => (none : Option DFault)) = [] := fun l => by simp
  simp only [hres, List.filterMap_map, Function.comp_def, Option.map_none, hnone, hnone', List.filter_map, Option.isNone_none, List.filter_true,
    List.map_map, List.foldl_nil, phases, pollTest, if_true]
  congr 1
  refine List.map_congr_left (fun t _ => ?_)
  simp [bne, Bool.beq_eq_decide_eq]

theorem bowt_does (o : OpE) {r : Act} (h : effects (.bowt o) = some r) : r.Does (execBowt o) := by
  cases h
  refine Act.does_of_body (fun s => by rw [execBowt]) (fun s c0 x c _ hok => ?_)
  obtain ⟨hobj, hall⟩ := hok
  obtain ⟨h1, h2⟩ := Prod.mk.inj (bowt_body hobj)
  simp only [h1, h2, List.all_eq_true.mpr hall, settled, if_true, Bool.false_eq_true, if_false]

theorem extract_high_eq_zero (x : W64) : x.extractLsb 63 32 = 0 ↔ x.toNat < 2 ^ 32 := by
  simp only [BitVec.toNat_eq, BitVec.extractLsb_toNat, Nat.shiftRight_eq_div_pow]
  simp; omega

/-- What LWAIT waits for where its handles are legal. -/
theorem lwaitOf_eq {o : OpE} {c : Ctx} (h : handlesOk o c) :
    (c.teams o.g).map (lwaitOf c o) = (c.teams o.g).map (fun t => some (if c.s t o.a = BitVec.allOnes 64 then c.g.children else [(c.s t o.a).toNat])) := by
  refine List.map_congr_left (fun t ht => ?_)
  unfold lwaitOf
  rcases h t ht with h1 | ⟨h1, h2⟩
  · simp [h1, allOnes64]
  · have hz := (extract_high_eq_zero (c.s t o.a)).mpr h1
    by_cases ho : c.s t o.a = BitVec.allOnes 64
    · rw [ho] at h1; exact absurd h1 (by decide)
    · rw [if_neg (by simpa [allOnes64] using ho), if_neg (by rw [hz]; simp; omega), if_neg ho]

theorem lwait_body {o : OpE} {x : State} {c : Ctx} {m : Bool} (h : handlesOk o c) :
    (let l := (c.teams o.g).map (lwaitOf c o)
    if l.any (·.isNone) then illop x c
    else
      let hs := (l.filterMap id).flatten.eraseDups
      if lwaitDone c.r hs then
        noResult (if hs.isEmpty then x else x.updCore c.g.die c.g.core (fun k => k.setPts (lwaitTime c.r hs))) c m
      else settle (park x c m false c.b.ts (.lwait hs)) c.g.rid) =
      if lwaitDone c.r (handles o c) then
        noResult (if (handles o c).isEmpty then x else x.updCore c.g.die c.g.core (fun k => k.setPts (lwaitTime c.r (handles o c)))) c m
      else settle (park x c m false c.b.ts (.lwait (handles o c))) c.g.rid := by
  have hs : (((c.teams o.g).map (lwaitOf c o)).filterMap id) = (c.teams o.g).map (fun t => if c.s t o.a = BitVec.allOnes 64 then c.g.children else [(c.s t o.a).toNat]) := by
    rw [lwaitOf_eq h, List.filterMap_map]
    simp
  have hn : ((c.teams o.g).map (lwaitOf c o)).any (·.isNone) = false := by
    rw [lwaitOf_eq h]; simp
  dsimp only
  rw [hn, hs]
  rfl

theorem lwaitDone_iff {o : OpE} {c : Ctx} : lwaitDone c.r (handles o c) = true ↔ allRetired o c := by
  simp [lwaitDone, allRetired]

theorem lwait_does (o : OpE) {r : Act} (h : effects (.lwait o) = some r) : r.Does (execLwait o) := by
  cases h
  refine Act.does_of_body (fun s => by rw [execLwait]) (fun s c0 x c _ hok => ?_)
  obtain ⟨hh, hall⟩ := hok
  refine (lwait_body hh).trans ?_
  rw [if_pos (lwaitDone_iff.mpr hall)]
  simp only [settled, List.isEmpty_iff, CoreSt.setPts, Bool.false_eq_true, if_false]

/-- Settles O20: every row of the table is an instruction whose body, under the row's condition, is the row's effect. -/
theorem effectCompletes : Obligations.EffectCompletes := by
  refine Act.holds_of_does (fun i r h => ?_)
  have h' := h
  unfold effects at h'
  split at h'
  next o =>
    cases h
    show Act.Does _ (execNop o)
    refine Act.does_of_body (fun s => by rw [execNop]) (fun s c0 x c _ hok => ?_)
    rfl
  next o => exact leave_does o h
  next o => exact mark_does o h
  next o => exact ecomb_does o h
  next o =>
    cases h
    exact onEdge_does (fun s => show execEact o s = _ by rw [execEact] <;> rfl) (fun c g x => rfl)
  next o =>
    cases h
    exact onEdge_does (fun s => show execEdone o s = _ by rw [execEdone] <;> rfl) (fun c g x => rfl)
  next o => exact emode_does o h
  next o => exact flgw_does o h
  next o => exact bowt_does o h
  next o => exact lwait_does o h
  · cases h'
end Sys2Proof.Rules
end

section
/-! PROOF. CLAIM where the sampler of R425 is due. With a range of no queue, no graph and no placed group, nothing that settling does reaches memory. -/

namespace Sys2Proof.Rules
open Sys2Proof.Safety Sys2Proof.Machine

/-- A range with no queue and no graph, none of whose groups is placed. -/
def bareRange : RangeSt := { rid := 1, asid := 1, part := 0, h := 64, img := {}, started := false }

/-- A state whose one range is the bare one, with the given memory. -/
def Still (m : Mem) (s : State) : Prop := s.mem = m ∧ s.ranges = [bareRange]

theorem Still.range {m : Mem} {s : State} (h : Still m s) {rid : Nat} {r : RangeSt} (hr : s.range? rid = some r) : r = bareRange := by
  rw [State.range?, h.2] at hr
  exact List.mem_singleton.mp (List.mem_of_find?_eq_some hr)

theorem Still.graph {m : Mem} {s : State} (h : Still m s) (rid : Nat) : s.graph? rid = none := by
  unfold State.graph?
  cases hr : s.range? rid with
  | none => rfl
  | some r => rw [h.range hr]; rfl

theorem Still.updGroup {m : Mem} {s : State} (h : Still m s) (gid : Nat) (f : Group → Group) : Still m (s.updGroup gid f) := h

theorem Still.updBundle {m : Mem} {s : State} (h : Still m s) (gid bid : Nat) (f : Bundle → Bundle) : Still m (s.updBundle gid bid f) := h

/-- Where every step of a fold keeps the memory, the fold does. -/
theorem Still.foldl {α : Type} {m : Mem} {f : State → α → State} (hf : ∀ s a, Still m s → Still m (f s a)) (l : List α) {s : State} (h : Still m s) :
    Still m (l.foldl f s) := by
  induction l generalizing s with
  | nil => exact h
  | cons a l ih => exact ih (hf s a h)

theorem Still.postEvent {m : Mem} {s : State} (h : Still m s) (p : Nat) (ev : List Byte) : Still m (s.postEvent p ev) := h

theorem Still.queueRec {m : Mem} {s : State} (h : Still m s) (q : Nat) (f : FRec) : Still m (s.queueRec q f) := h

theorem Still.told {m : Mem} {s : State} (h : Still m s) (rid part : Nat) (ev : List Byte) :
    Still m (match s.range? rid with | some r => if s.attachedTo r then s.postEvent part ev else s | none => s) := by
  split
  · split
    · exact h.postEvent _ _
    · exact h
  · exact h

theorem Still.stopGroup {m : Mem} {s : State} (h : Still m s) (gid : Nat) (f : FRec) (bid : Option Nat) (pc : Option W64) :
    Still m (stopGroup s gid f bid pc) := by
  unfold Machine.stopGroup
  split
  · exact h
  · dsimp only
    split
    · exact h.queueRec _ _
    · have hrec : ∀ l : List FRec, ∀ y : State, ∀ q, Still m y → Still m (l.foldl (fun s r => s.queueRec q r) y) :=
        fun l y q hy => hy.foldl (fun s a h => h.queueRec q a) l
      exact (hrec _ _ _ ((h.updGroup _ _).queueRec _ _)).told _ _ _

theorem Still.endRun {m : Mem} {s : State} (h : Still m s) (gid bid : Nat) (pc : W64) : Still m (endRun s gid bid pc) := by
  unfold Machine.endRun
  split
  · exact h
  · split
    · dsimp only
      split
      · exact (h.updGroup _ _).stopGroup _ _ _ _
      · exact h.updGroup _ _
    · exact h.updBundle _ _ _

theorem Still.finishWait {m : Mem} {s : State} (h : Still m s) (gid bid : Nat) : Still m (finishWait s gid bid) := by
  unfold Machine.finishWait
  split
  · exact h
  · dsimp only
    split
    · exact (h.updBundle _ _ _).endRun _ _ _
    · exact h.updBundle _ _ _

theorem Still.servePop {m : Mem} {s : State} (h : Still m s) (gid bid : Nat) (p : PendRes) (uid : Nat) : Still m (servePop s gid bid p uid) := by
  unfold Machine.servePop
  split
  · exact h
  · exact h
  · split
    · exact h
    · split
      · exact h
      next r hr =>
        cases h.range hr
        dsimp only
        split
        next hf =>
          have hnone : ∀ die mask gseq, bareRange.popFind die mask gseq = none := fun _ _ _ => rfl
          rw [hnone] at hf
          cases hf
        · split
          · exact h.updBundle _ _ _
          · exact h

theorem Still.serveClaim {m : Mem} {s : State} (h : Still m s) (gid bid : Nat) (p : PendRes) (uid : Nat) : Still m (serveClaim s gid bid p uid) := by
  unfold Machine.serveClaim
  split
  · exact h
  · exact h
  · dsimp only
    split
    · exact h.updBundle _ _ _
    · split
      · exact h
      · exact h
      · exact h

theorem Still.sluTake {m : Mem} {s : State} (h : Still m s) (rid die gid tid : Nat) (pc : W64) : sluTake s rid die gid tid pc = .ok (none, s) := by
  have hstart : graphStart s rid gid = .ok s := by
    unfold graphStart
    split
    · rfl
    next r hr => rw [h.range hr]; rfl
  have hmid : midSwitch s rid die = s := by
    unfold midSwitch
    rw [h.graph]
  unfold Machine.sluTake
  rw [hstart]
  dsimp only
  rw [hmid]
  split
  · rfl
  next r hr => rw [h.range hr]; rfl

theorem Still.serveEnextN {m : Mem} (gid bid uid : Nat) (pk : BitVec 3) (pc : W64) (ts : List Nat) {s : State} (h : Still m s) :
    Still m (serveEnextN gid bid uid pk pc s ts).1 := by
  induction ts generalizing s with
  | nil => exact h
  | cons t ts ih =>
    unfold Machine.serveEnextN
    split
    · exact h
    next g hg =>
      rw [h.sluTake]
      exact ih (h.updBundle _ _ _)

theorem Still.serveEnext {m : Mem} {s : State} (h : Still m s) (gid bid : Nat) (p : PendRes) (uid : Nat) : Still m (serveEnext s gid bid p uid) := by
  unfold Machine.serveEnext
  split
  · exact (Still.serveEnextN _ _ _ _ _ _ h).updBundle _ _ _
  · exact h

theorem Still.servePending {m : Mem} {s : State} (h : Still m s) (gid : Nat) : Still m (servePending s gid) := by
  unfold Machine.servePending
  split
  · exact h
  · split
    · exact h
    · exact h.foldl (fun s b h => h.foldl (fun s o h => h.foldl (fun s p h =>
        ((h.servePop _ _ _ _).serveClaim _ _ _ _).serveEnext _ _ _ _) _) _) _

theorem Still.drainDone {m : Mem} {s : State} (h : Still m s) (gid : Nat) : Still m (drainDone s gid) := by
  unfold Machine.drainDone
  split
  · exact h
  · refine h.foldl (fun s b h => ?_) _
    split
    · split
      · split
        · exact h.endRun _ _ _
        · exact h
      · exact h
    · exact h

theorem Still.barDone {m : Mem} {s : State} (h : Still m s) (gid : Nat) : Still m (barDone s gid) := by
  unfold Machine.barDone
  split
  · exact h
  · dsimp only
    split
    · exact (h.foldl (fun s b h => h.finishWait _ _) _).updGroup _ _
    · exact h

theorem Still.rearrive {m : Mem} {s : State} (h : Still m s) (gid : Nat) (b : Bundle) (k : BitVec 4) : Still m (rearrive s gid b k) := by
  unfold Machine.rearrive
  split
  · exact h
  · dsimp only
    split
    · split
      · exact h
      · split
        · exact h.finishWait _ _
        · split
          · exact (h.updBundle _ _ _).stopGroup _ _ _ _
          · exact h.updGroup _ _
    · split
      · exact h.finishWait _ _
      · exact h.updGroup _ _

theorem Still.behindDone {m : Mem} {s : State} (h : Still m s) (gid : Nat) : Still m (behindDone s gid) := by
  unfold Machine.behindDone
  split
  · exact h
  · refine h.foldl (fun s b h => ?_) _
    split
    · exact h.rearrive _ _ _
    · exact h

theorem Still.drawDue {m : Mem} {s : State} (h : Still m s) (die core : Nat) : Still m (drawDue s die core) := by
  unfold Machine.drawDue
  dsimp only
  split
  · exact h
  · exact h.updGroup _ _

theorem Still.settleGroup {m : Mem} {s : State} (h : Still m s) (gid : Nat) : Still m (settleGroup s gid) := by
  have hb := ((((h.servePending gid).updGroup gid (fun g => g.bundles.foldl (fun g b => g.popPark b.id) g)).updGroup gid Group.waitsOver).drainDone gid).barDone gid |>.behindDone gid
  unfold Machine.settleGroup
  dsimp only
  split
  · exact hb.drawDue _ _
  · exact hb

theorem Still.settlePass {m : Mem} {s : State} (h : Still m s) (rid : Nat) : Still m (settlePass s rid) := by
  have hs : Still m ((s.groups.filter (fun g => g.rid == rid)).foldl (fun s g => Machine.servePending s g.id) s) := h.foldl (fun _ _ h => h.servePending _) _
  have hcombs : ∀ y, Still m y → (combsGo y rid).1 = y := by
    intro y hy
    unfold combsGo
    rw [hy.graph]
    rfl
  have hclose : ∀ y, Still m y → Still m (closeQueues y rid) := by
    intro y hy
    unfold closeQueues
    dsimp only
    split
    · exact hy
    next r hr => rw [hy.range hr]; exact hy
  have hgbar : ∀ y, Still m y → gbarDone y rid = y := by
    intro y hy
    have hdue : gbarDue y rid = false := by
      unfold gbarDue
      dsimp only
      cases hr : y.range? rid with
      | none => simp
      | some r => rw [hy.range hr]; simp [bareRange]
    unfold gbarDone
    simp [hdue]
  unfold Machine.settlePass
  dsimp only
  rw [hcombs _ hs, hgbar _ (hclose _ hs)]
  exact (hclose _ hs).foldl (fun s g h => h.settleGroup _) _

theorem Still.settle {m : Mem} {s : State} (h : Still m s) (rid : Nat) : Still m (settle s rid) := by
  have hn : ∀ n s, Still m s → Still m (settleN s rid n) := by
    intro n
    induction n with
    | zero => exact fun _ h => h
    | succ n ih => exact fun s h => ih _ (h.settlePass rid)
  exact hn _ _ h

/-- A group of one thread that holds a ring. -/
def ringGroup : Group :=
  { id := 0, rid := 1, die := 0, core := 0, part := 0, gseq := 0, shp := (1, 1, 1), base := (0, 0, 0), ext := (1, 1, 1)
    threads := [{ team := 0, lane := 0 }], teams := [{ idx := 0 }], bundles := [{ id := 0, pc := 0x1000, ts := [0] }], nextB := 1
    rings := [{ num := 0, pc := 0, base := 0, ts := Vector.replicate 5 0, txm := Vector.replicate 5 0, pitch := 0, rows := 1, rowb := 32,
                off := 0, z := 32, out := false, slots := [{}] }] }

/-- Every 256th memory instruction of the core is sampled (SINT 8), and the next is one of them. -/
def sampling : State :=
  { cur := some { gid := 0, bid := 0, pc := 0x1000, len := 4, words := 0 }, groups := [ringGroup], ranges := [bareRange], nextGid := 1
    fe := { parts := [{ num := 0, tctl := 0x80000 }] }, mem := { cores := [{ die := 0, num := 0, memOps := 256 }] } }

def samplingCtx : Ctx :=
  { g := ringGroup, b := { id := 0, pc := 0x1000, ts := [0] }, r := bareRange, c := { gid := 0, bid := 0, pc := 0x1000, len := 4, words := 0 }
    act := [0], clk := 0 }

/-- CLAIM s0 of ring 0. -/
def claimed : OpE := { b := 0, a := 0, k := 0, g := 7, m := false, p := none }

theorem sampling_ready : Ready { g := 7, wr := [.s (s5 0)], late := true } sampling samplingCtx sampling (samplingCtx.at_ 7) where
  issues := rfl
  window := fun _ _ n _ => n.isLt
  mode := fun h => nomatch h
  ended := fun h => nomatch h
  acts := rfl
  ctx := rfl
  poison := rfl
  whole := fun h => nomatch h
  arm := fun _ h => nomatch h
  tokens := fun t ht _ n _ hn => by
    have hp : (samplingCtx.g.team t).pend = [] := by
      cases t with
      | zero => rfl
      | succ t => rfl
    simp [Ctx.at_, hp] at hn
  hazards := fun _ _ h hh => nomatch hh
  room := fun _ => by decide
  free := rfl

theorem sampleUid_claim : (memIssued sampling (samplingCtx.at_ 7) [0] [] true).mem ≠ (memIssued sampling (samplingCtx.at_ 7) [0] []).mem := by
  intro h
  have h' := congrArg (fun m : Mem => m.cores.map (fun c => c.sampleDue.map (·.uid))) h
  revert h'
  decide

theorem memIssued_still (late : Bool) :
    Still (memIssued sampling (samplingCtx.at_ 7) [0] [] late).mem (memIssued sampling (samplingCtx.at_ 7) [0] [] late) := ⟨rfl, by cases late <;> rfl⟩

theorem late_still {x u : State} {c : Ctx} {ts : List Nat} {o : Outst} {m : Mem} (h : Late x u c ts o) (hx : Still m x) : Still m u := by
  rw [h.kept.rest]
  exact hx

/-- Refutes O17: the rule of CLAIM says nothing of the result that a sampled CLAIM is still to have. Where the sampler of R425 is due, the
sample that the machine begins names the result outstanding, and the rule's does not. -/
theorem not_waitingResultCompletes : ¬ Obligations.WaitingResultCompletes := by
  intro h
  obtain ⟨u, hex, hlate⟩ := h (.claim claimed) _ rfl _ _ _ _ sampling_ready (.inr rfl)
  obtain ⟨v, hv, hvlate⟩ := lateResult_late (memIssued sampling (samplingCtx.at_ 7) [0] [] true) (samplingCtx.at_ 7) false [0]
    { regs := [.s (s5 0)], pend := [.claim 0 (s5 0) 0] }
  have hrun : exec (.claim claimed) sampling = .next (settle (lateResult (memIssued sampling (samplingCtx.at_ 7) [0] [] true) (samplingCtx.at_ 7) false [0]
      { regs := [.s (s5 0)], pend := [.claim 0 (s5 0) 0] }) 1) := by
    show execClaim claimed sampling = _
    rw [execClaim]
    exact (issue_ready sampling_ready _).trans rfl
  rw [hrun, hv] at hex
  have hl := ((late_still hvlate (memIssued_still true)).settle 1).1
  have hr := ((late_still hlate (memIssued_still false)).settle 1).1
  have hs : settle v 1 = settle u 1 := by injection hex
  exact sampleUid_claim (hl.symm.trans ((congrArg State.mem hs).trans hr))
end Sys2Proof.Rules
end

section
/-! PROOF. Control and waiting: where the threads go, and where they stay. -/

namespace Sys2Proof.Safety
open Sys2Proof.Machine

/-- What `Jump.Holds` asks of one row. -/
def Jump.Does (r : Jump) (ex : State → Out) : Prop :=
  ∀ s c0 x c, Ready r.spec s c0 x c → r.ok c →
    ∃ u, ex s = .next (r.fin x c (marked (r.m && !r.done) u c)) ∧ Went x u c r.done (r.f c) (r.next c)

theorem Jump.holds_of_does {table : Instr → Option Jump} (h : ∀ i r, table i = some r → r.Does (exec i)) : Jump.Holds table := h

/-- The group's effect, then the bundle at its next PCs, then the marker. -/
theorem retire_went (x : State) (c : Ctx) (m done : Bool) (f : Group → Group) (hf : ∀ g, (f g).id = g.id) (next : Nat → W64) :
    ∃ u, retire (x.updGroup c.g.id f) c m done [] next = marked (m && !done) u c ∧ Went x u c done f next := by
  let y := x.updGroup c.g.id f
  let age := y.freshAge c.g.die c.g.core
  refine ⟨(y.counted c).updGroup c.g.id (fun g => g.passed c done [] age next), rfl, ?_, age, ?_⟩
  · exact Kept_trans (Kept_trans (Kept_updGroup f hf) (State.counted_kept y c _)) (Kept_updGroup _ (fun _ => Group.passed_id ..))
  · rw [State.group_updGroup_same _ _ _ (fun _ => Group.passed_id ..), State.counted_group, State.group_updGroup_same _ _ _ hf, Option.map_map]
    rfl

/-- A row whose instruction moves its threads once its group has the row's effect, and then does what follows. -/
theorem Jump.does_of_body {r : Jump} {ex : State → Out} {body : Ctx → State → State} (hex : ∀ s, ex s = issue s r.spec body)
    (hid : ∀ c g, (r.f c g).id = g.id)
    (hbody : ∀ s c0 x c, Ready r.spec s c0 x c → r.ok c →
      body c x = r.fin x c (retire (x.updGroup c.g.id (r.f c)) c r.m r.done [] (r.next c))) : r.Does ex := by
  intro s c0 x c h hok
  obtain ⟨u, hu, hwent⟩ := retire_went x c r.m r.done (r.f c) (hid c) (r.next c)
  refine ⟨u, ?_, hwent⟩
  rw [hex, issue_ready h, hbody s c0 x c h hok, hu]

/-- A row that changes nothing of the group before its threads move. -/
theorem Jump.does_of_moves {r : Jump} {ex : State → Out} {body : Ctx → State → State} (hex : ∀ s, ex s = issue s r.spec body)
    (hf : ∀ c g, r.f c g = g) (hbody : ∀ s c0 x c, Ready r.spec s c0 x c → r.ok c → body c x = r.fin x c (retire x c r.m r.done [] (r.next c))) :
    r.Does ex := by
  refine Jump.does_of_body hex (fun c g => by rw [hf]) (fun s c0 x c h hok => ?_)
  rw [show r.f c = fun g => g from funext (hf c), State.updGroup_self, hbody s c0 x c h hok]

end Sys2Proof.Safety

namespace Sys2Proof.Rules
open Sys2Proof.Safety Sys2Proof.Machine

theorem nextOf_toward (c : Ctx) (g : BitVec 3) (dst : Ctx → Nat → W64) : nextOf c (c.active g) (dst c) = toward g dst c := rfl

theorem brTarget_eq (c : Ctx) (off : Int) : brTarget c off = target c off := by
  unfold brTarget target w64
  rw [BitVec.ofInt_add, BitVec.ofInt_natCast, BitVec.ofNat_toNat, BitVec.setWidth_eq]

theorem bra_does (o : OpD) {r : Jump} (h : jumps (.bra o) = some r) : r.Does (execBra o) := by
  cases h
  refine Jump.does_of_moves (fun s => by rw [execBra]) (fun _ _ => rfl) (fun s c0 x c _ _ => ?_)
  simp only [← nextOf_toward, brTarget_eq]

theorem Group.foldl_link (g : Group) (ts : List Nat) (pc : W64) :
    ts.foldl (fun g t => g.updTh t (fun th => { th with link := pc })) g =
      { g with threads := g.threads.mapIdx (fun l th => if ts.contains l then { th with link := pc } else th) } := by
  have h : ∀ (ts : List Nat) (g : Group), ts.foldl (fun g t => g.updTh t (fun th => { th with link := pc })) g =
      { g with threads := ts.foldl (fun l t => l.modify t (fun th => { th with link := pc })) g.threads } := by
    intro ts
    induction ts with
    | nil => intro g; rfl
    | cons t ts ih => intro g; exact ih (g.updTh t (fun th => { th with link := pc }))
  rw [h]
  congr 1
  exact foldl_modify_eq_mapIdx (fun _ th => { th with link := pc }) (fun _ _ => rfl) ts g.threads

theorem call_does (o : OpD) {r : Jump} (h : jumps (.call o) = some r) : r.Does (execCall o) := by
  cases h
  refine Jump.does_of_body (fun s => by rw [execCall]) (fun _ _ => rfl) (fun s c0 x c _ _ => ?_)
  simp only [Group.foldl_link, ← nextOf_toward, brTarget_eq]

theorem brp_does (o : OpDp) {r : Jump} (h : jumps (.brp o) = some r) : r.Does (execBrp o) := by
  cases h
  refine Jump.does_of_moves (fun s => by rw [execBrp]) (fun _ _ => rfl) (fun s c0 x c _ _ => ?_)
  have htaken : brpTaken o.c ((c.active o.g).map (fun t => (c.g.th t).getP o.pr)) = taken o c := by
    unfold brpTaken taken
    simp only [List.isEmpty_map, List.all_map, List.any_map, Function.comp_def, id]
  simp only [htaken, brTarget_eq]

theorem jumpPair_does (o : OpA) {r : Jump} (h : jumps (.brx o) = some r) : r.Does (jumpPair o) := by
  cases h
  refine Jump.does_of_moves (fun s => by rw [jumpPair]) (fun _ _ => rfl) (fun s c0 x c _ hok => ?_)
  have hodd : (c.active o.g).filter (fun t => (c.pair t o.a).getLsbD 0) = [] := by
    rw [List.filter_eq_nil_iff]
    exact fun t ht => by rw [hok t ht]; decide
  dsimp only
  rw [hodd]
  rfl

/-- Settles O36: the lanes whose target is odd are the fault's, the first of them its lane. -/
theorem oddTargetTraps : Obligations.OddTargetTraps := by
  intro i o hi s c0 x c h t bad hodd
  have hexec : exec i s = jumpPair o s := by
    rcases hi with rfl | rfl <;> rfl
  rw [hexec, jumpPair, issue_ready h]
  dsimp only
  rw [hodd]

theorem active_nil_isEmpty {c : Ctx} {g : BitVec 3} (h : c.active g = []) : (c.active g).isEmpty = true := by rw [h]; rfl

theorem arriveAt_none {o : OpF} {st : BStatus} {c : Ctx} {x : State} (h : c.active o.g = []) :
    arriveAt o st c x = retire x c o.m true [] (fun _ => c.next) := by
  simp [arriveAt, h]

theorem softTrap_eq (code : Code) (o : OpF) (c : Ctx) (x : State) :
    softTrap code o.sel.toNat o c x = if c.active o.g = [] then retire x c o.m true [] (fun _ => c.next)
      else stopGroup (retire x c o.m true [] (fun _ => c.next)) c.g.id (softRec code o c) (some c.b.id) none := by
  simp only [softTrap, List.isEmpty_iff]
  rfl

theorem brk_does (o : OpF) {r : Jump} (h : jumps (.brk o) = some r) : r.Does (execBrk o) := by
  cases h
  refine Jump.does_of_moves (fun s => by rw [execBrk]) (fun _ _ => rfl) (fun s c0 x c _ _ => ?_)
  by_cases ha : c.active o.g = []
  · simp [ha, softTrap_eq]
  · by_cases hat : x.attachedTo c.r
    · simp [ha, hat]
    · simp [ha, hat, softTrap_eq]

theorem named_eq (c : Ctx) (g : BitVec 3) (k : BitVec 4) (t : Nat) : Machine.named c.g k t (c.active g) = teamActive g k c t := by
  simp only [Machine.named, inTeam, teamActive, List.filter_filter]
  refine List.filter_congr (fun l _ => ?_)
  rw [Bool.and_comm]
  rfl

/-- Where no team meets another armed value, JOIN and WAIT act. -/
theorem maskGo_ready {join : Bool} {o : OpA} {s x : State} {c0 c : Ctx} {go : Ctx → State → State} (h : Ready { g := o.g, ends := true } s c0 x c)
    (hag : agrees join o.g (m4 o.a) c) : maskGo join o s go = .next (go c x) := by
  unfold maskGo
  rw [issue_ready h]
  dsimp only
  simp only [named_eq]
  split
  next t ht =>
    have hbad := List.find?_some ht
    have hmem := List.mem_of_find?_eq_some ht
    cases hm : (c.g.team t).meets join (m4 o.a) c.c.pc with
    | none => rw [hm] at hbad; cases hbad
    | some a =>
      rw [hm] at hbad
      simp only [Bool.and_eq_true, Bool.not_eq_true', bne_iff_ne, ne_eq, List.isEmpty_eq_false_iff] at hbad
      rcases hag t hmem a hm with hv | hn
      · exact absurd hv hbad.2
      · exact absurd hn hbad.1
  · rfl

theorem agrees_of_none {join : Bool} {g : BitVec 3} {k : BitVec 4} {c : Ctx} (h : maskActive g k c = []) : agrees join g k c := by
  intro t ht a _
  refine .inr ?_
  simp only [maskActive, List.flatten_eq_nil_iff, List.mem_map, forall_exists_index, and_imp, forall_apply_eq_imp_iff₂] at h
  exact h t ht

theorem maskActive_eq (c : Ctx) (g : BitVec 3) (k : BitVec 4) :
    ((teamsOf (c.active g)).map (fun t => Machine.named c.g k t (c.active g))).flatten = maskActive g k c := by
  simp only [named_eq]; rfl

theorem joinGo_eq (o : OpA) (c : Ctx) (x : State) : joinGo o c x =
    if maskActive o.g (m4 o.a) c = [] then retire x c o.m true [] (fun _ => c.next)
    else settle (arriveTeams (m4 o.a) c.c.pc c.g.id (park x c o.m true (maskActive o.g (m4 o.a) c) .stalled) c.b.id
      (teamsOf (maskActive o.g (m4 o.a) c))) c.g.rid := by
  unfold joinGo
  dsimp only
  rw [maskActive_eq]
  simp only [List.isEmpty_iff]

theorem fills_eq (c : Ctx) (g : BitVec 3) (k : BitVec 4) (t : Nat) :
    (c.g.team t).fills k (lanesMask (teamActive g k c t)) = filled g k c t := rfl

/-- Teams but for those whose wait completes: those whose wait does not. -/
theorem filter_not_contains_filter (l : List Nat) (p : Nat → Bool) : l.filter (fun t => !((l.filter p).contains t)) = l.filter (fun t => !(p t)) := by
  refine List.filter_congr (fun t ht => ?_)
  cases hp : p t <;> simp [ht, hp]

theorem bne_nil_eq (l : List Nat) : (l != []) = !l.isEmpty := by cases l <;> rfl

theorem waitGo_eq (o : OpA) (c : Ctx) (x : State) : waitGo o c x =
    settle (waited o c (if staying o.g (m4 o.a) c = [] then retire x c o.m true [] (fun _ => c.next)
      else park x c o.m true (staying o.g (m4 o.a) c) (.wait (m4 o.a)))) c.g.rid := by
  unfold waitGo
  dsimp only
  simp only [named_eq, fills_eq, filter_not_contains_filter, arriveWaits, List.isEmpty_iff]
  have hstay : (List.map (fun t => teamActive o.g (m4 o.a) c t) (List.filter (fun t => !filled o.g (m4 o.a) c t)
      (List.filter (fun t => !(teamActive o.g (m4 o.a) c t).isEmpty) (teamsOf (c.active o.g))))).flatten = staying o.g (m4 o.a) c := by
    unfold staying
    rw [List.filter_filter]
    congr 2
    refine List.filter_congr (fun t _ => ?_)
    rw [Bool.and_comm, bne_nil_eq]
  rw [hstay]
  simp only [waited, Ctx.teams, bne_nil_eq]

/-- Settles O18: every row of the table is an instruction whose body retires to the row's next PCs and then does what follows. -/
theorem controlCompletes : Obligations.ControlCompletes := by
  refine Jump.holds_of_does (fun i r h => ?_)
  have h' := h
  unfold jumps at h'
  split at h'
  next o => exact bra_does o h
  next o => exact call_does o h
  next o => exact brp_does o h
  next o => exact jumpPair_does o h
  next o => exact jumpPair_does o h
  next o =>
    cases h
    show Jump.Does _ (execYield o)
    exact Jump.does_of_moves (fun s => by rw [execYield]) (fun _ _ => rfl) (fun s c0 x c _ _ => rfl)
  next o =>
    cases h
    show Jump.Does _ (execExit o)
    exact Jump.does_of_moves (fun s => by rw [execExit]) (fun _ _ => rfl) (fun s c0 x c _ _ => rfl)
  next o =>
    cases h
    show Jump.Does _ (execReform o)
    refine Jump.does_of_moves (fun s => by rw [execReform]) (fun _ _ => rfl) (fun s c0 x c _ _ => ?_)
    rfl
  next o =>
    cases h
    show Jump.Does _ (execTrap o)
    exact Jump.does_of_moves (fun s => by rw [execTrap]) (fun _ _ => rfl) (fun s c0 x c _ _ => softTrap_eq ..)
  next o => exact brk_does o h
  next o =>
    cases h
    show Jump.Does _ (execBar o)
    exact Jump.does_of_moves (fun s => by rw [execBar]) (fun _ _ => rfl) (fun s c0 x c _ hok => arriveAt_none hok)
  next o =>
    cases h
    show Jump.Does _ (execGbar o)
    refine Jump.does_of_moves (fun s => by rw [execGbar]) (fun _ _ => rfl) (fun s c0 x c _ (hok : c.active o.g = []) => ?_)
    simp [hok, arriveAt_none hok]
  next o =>
    cases h
    show Jump.Does _ (execJoin o)
    intro s c0 x c hr hok
    obtain ⟨u, hu, hwent⟩ := retire_went x c o.m true (fun g => g) (fun _ => rfl) (fun _ => c.next)
    rw [State.updGroup_self] at hu
    refine ⟨u, ?_, hwent⟩
    rw [execJoin, maskGo_ready hr (agrees_of_none hok), joinGo_eq, if_pos hok]
    exact congrArg _ hu
  next o =>
    cases h
    show Jump.Does _ (execWait o)
    intro s c0 x c hr hok
    obtain ⟨hag, hstay⟩ := hok
    obtain ⟨u, hu, hwent⟩ := retire_went x c o.m true (fun g => g) (fun _ => rfl) (fun _ => c.next)
    rw [State.updGroup_self] at hu
    refine ⟨u, ?_, hwent⟩
    rw [execWait, maskGo_ready hr hag, waitGo_eq, if_pos hstay, hu]
  next o =>
    cases h
    show Jump.Does _ (execElevel o)
    refine Jump.does_of_moves (fun s => by rw [execElevel, edgeIssue]) (fun _ _ => rfl) (fun s c0 x c _ hok => ?_)
    obtain ⟨hnone, hedge, hgraph⟩ := hok
    obtain ⟨g, hg⟩ := Option.isSome_iff_exists.mp hgraph
    simp only [hedge, hg, hnone, List.isEmpty_nil, if_true]
    rfl
  · cases h'

/-- What `Stay.Holds` asks of one row. -/
def Stay.Does (r : Stay) (ex : State → Out) : Prop :=
  ∀ s c0 x c, Ready r.spec s c0 x c → r.ok x c →
    ex s = .next (settle (r.arr c (park (r.y x c) c r.m r.done (r.ts c) (r.st x c))) c.g.rid)

theorem stays_of_body {r : Stay} {ex : State → Out} {body : Ctx → State → State} (hex : ∀ s, ex s = issue s r.spec body)
    (hbody : ∀ s c0 x c, Ready r.spec s c0 x c → r.ok x c →
      body c x = settle (r.arr c (park (r.y x c) c r.m r.done (r.ts c) (r.st x c))) c.g.rid) : Stay.Does r ex := by
  intro s c0 x c h hok
  rw [hex, issue_ready h, hbody s c0 x c h hok]

theorem arriveAt_some {o : OpF} {st : BStatus} {c : Ctx} {x : State} (h : c.active o.g ≠ []) :
    arriveAt o st c x = settle (park x c o.m true (c.active o.g) st) c.g.rid := by
  simp [arriveAt, h]

/-- One poll that is not satisfied keeps the bundle waiting. -/
theorem polls_not_all {l : List Poll} (h : ∃ p ∈ l, p.ok = false) : l.all (·.ok) = false := by
  obtain ⟨p, hp, hok⟩ := h
  rw [List.all_eq_false]
  exact ⟨p, hp, by simp [hok]⟩

/-- Settles O19: every row of the table is an instruction whose body parks the row's threads. -/
theorem waitCompletes : Obligations.WaitCompletes := by
  intro i r h
  show Stay.Does r (exec i)
  unfold stays at h
  split at h <;> cases h
  next o =>
    show Stay.Does _ (execBar o)
    exact stays_of_body (fun s => by rw [execBar]) (fun s c0 x c _ hok => arriveAt_some hok)
  next o =>
    show Stay.Does _ (execGbar o)
    refine stays_of_body (fun s => by rw [execGbar]) (fun s c0 x c _ hok => ?_)
    obtain ⟨hact, hcoop⟩ := hok
    simp only [hcoop, arriveAt_some hact, Bool.not_true, Bool.false_and, Bool.false_eq_true, if_false]
  next o =>
    show Stay.Does _ (execJoin o)
    intro s c0 x c hr hok
    obtain ⟨hsome, hag⟩ := hok
    rw [execJoin, maskGo_ready hr hag, joinGo_eq, if_neg hsome]
    rfl
  next o =>
    show Stay.Does _ (execWait o)
    intro s c0 x c hr hok
    obtain ⟨hsome, hag⟩ := hok
    rw [execWait, maskGo_ready hr hag, waitGo_eq, if_neg hsome]
    rfl
  next o =>
    show Stay.Does _ (execElevel o)
    refine stays_of_body (fun s => by rw [execElevel, edgeIssue]) (fun s c0 x c _ hok => ?_)
    obtain ⟨hact, hedge, hgraph⟩ := hok
    obtain ⟨g, hg⟩ := Option.isSome_iff_exists.mp hgraph
    simp only [hedge, hg, List.isEmpty_eq_false_iff.mpr hact, Bool.false_eq_true, if_false]
  next o =>
    show Stay.Does _ (execFlgw o)
    refine stays_of_body (fun s => by rw [execFlgw]) (fun s c0 x c _ hok => ?_)
    obtain ⟨hin, hwait⟩ := hok
    have hpolls := polls_not_all hwait
    rw [flagTests] at hpolls
    simp only [flgIll_of_flagsIn hin, flgHeld_of_flagsIn hin, hpolls, flagTests, Bool.false_eq_true, if_false]
  next o =>
    show Stay.Does _ (execBowt o)
    refine stays_of_body (fun s => by rw [execBowt]) (fun s c0 x c _ hok => ?_)
    obtain ⟨hobj, hwait⟩ := hok
    obtain ⟨h1, h2⟩ := Prod.mk.inj (bowt_body hobj)
    simp only [h1, h2, polls_not_all hwait, Bool.false_eq_true, if_false]
  next o =>
    show Stay.Does _ (execLwait o)
    refine stays_of_body (fun s => by rw [execLwait]) (fun s c0 x c _ hok => ?_)
    obtain ⟨hh, hleft⟩ := hok
    refine (lwait_body hh).trans ?_
    rw [if_neg (fun h => hleft (lwaitDone_iff.mp h))]
end Sys2Proof.Rules
end

section
/-! PROOF. A write of an armed mask. Stopping a group leaves its masks as they are. -/

namespace Sys2Proof.Machine
open Sys2Proof.Safety Sys2Proof.Rules

theorem Group.foldl_teams {α : Type} (f : Group → α → Group) (hf : ∀ g a, (f g a).teams = g.teams) (l : List α) (g : Group) :
    (l.foldl f g).teams = g.teams := by
  induction l generalizing g with
  | nil => rfl
  | cons a l ih => exact (ih (f g a)).trans (hf g a)

@[simp] theorem Group.writeVs_teams (g : Group) (l : List (Nat × BitVec 6 × W32)) : (g.writeVs l).teams = g.teams :=
  Group.foldl_teams _ (by intros; rfl) l g

@[simp] theorem Group.writePs_teams (g : Group) (l : List (Nat × BitVec 3 × Bool)) : (g.writePs l).teams = g.teams :=
  Group.foldl_teams _ (by intros; rfl) l g

@[simp] theorem Group.writeEs_teams (g : Group) (l : List (Nat × Option Triple × W32)) : (g.writeEs l).teams = g.teams :=
  Group.foldl_teams _ (by intros; rfl) l g

/-- Every team's masks are the same in both. -/
def SameMasks (g h : Group) : Prop := ∀ n, (h.team n).m = (g.team n).m

theorem SameMasks.trans {g h k : Group} (h1 : SameMasks g h) (h2 : SameMasks h k) : SameMasks g k := fun n => (h2 n).trans (h1 n)

theorem SameMasks.of_teams {g h : Group} (e : h.teams = g.teams) : SameMasks g h := fun n => by rw [Group.team, Group.team, e]

theorem SameMasks.foldl {α : Type} {f : Group → α → Group} (hf : ∀ g a, SameMasks g (f g a)) (l : List α) (g : Group) : SameMasks g (l.foldl f g) := by
  induction l generalizing g with
  | nil => exact .of_teams rfl
  | cons a l ih => exact (hf g a).trans (ih _)

theorem Team.putLate_m (tm : Team) (k q : Nat) (d : BitVec 5) (x : W64) : (tm.putLate k q d x).m = tm.m := by
  unfold Team.putLate
  split
  · rfl
  · split <;> rfl

theorem putLates_sameMasks (g : Group) (k q : Nat) (l : List (Nat × BitVec 5 × W64)) : SameMasks g (g.putLates k q l) := by
  refine SameMasks.foldl (fun g a n => ?_) l g
  simp only [Group.team, Group.updTeam, List.getD_eq_getElem?_getD, List.getElem?_modify]
  split
  next h =>
    cases g.teams[n]? with
    | none => rfl
    | some tm => exact Team.putLate_m ..
  · cases g.teams[n]? <;> rfl

theorem giveBack_sameMasks (g : Group) (o : Outst) : SameMasks g (g.giveBack o) := by
  have hw : SameMasks g ((g.writeVs o.v).writePs o.p) := .of_teams (by rw [Group.writePs_teams, Group.writeVs_teams])
  exact (hw.trans (putLates_sameMasks _ o.clk o.uid (g.scalarsOf o))).trans (.of_teams (Group.writeEs_teams _ o.e))

theorem returnAll_sameMasks (g : Group) (bid : Nat) : SameMasks g (g.returnAll bid) := by
  unfold Group.returnAll
  split
  · exact .of_teams rfl
  · exact SameMasks.foldl giveBack_sameMasks _ g

theorem quiet_sameMasks (g : Group) (bid : Nat) : SameMasks g (g.quiet bid) := by
  have h : SameMasks g ((g.updBundle bid (fun b => { b with haz := b.hazEnts })).returnAll bid) :=
    (SameMasks.of_teams rfl).trans (returnAll_sameMasks _ bid)
  unfold Group.quiet
  dsimp only
  split
  · exact h.trans (.of_teams (by simp))
  · exact h

theorem quieted_sameMasks (g : Group) : SameMasks g g.quieted := by
  unfold Group.quieted
  exact SameMasks.foldl (f := fun g (b : Bundle) => g.quiet b.id) (fun g b => quiet_sameMasks g b.id) _ g

theorem foldl_queueRec_groups (q : Nat) (l : List FRec) (s : State) : (l.foldl (fun s r => s.queueRec q r) s).groups = s.groups := by
  induction l generalizing s with
  | nil => rfl
  | cons a l ih => exact ih _

/-- The groups of a state that may have told a debug range. -/
theorem told_groups (s : State) (rid part : Nat) (ev : List Byte) :
    (match s.range? rid with | some r => if s.attachedTo r then s.postEvent part ev else s | none => s).groups = s.groups := by
  split
  · split <;> rfl
  · rfl

/-- A group that runs and meets a fault is at its bundles' boundaries, stopped. -/
theorem stopGroup_groups {s : State} {gid : Nat} {g : Group} (f : FRec) (bid : Option Nat) (pc : Option W64) (h : s.group? gid = some g)
    (hrun : g.stop.isSome = false) :
    ∃ bs st, (stopGroup s gid f bid pc).groups = (s.updGroup gid (fun _ => { g.quieted with bundles := bs, stop := some st })).groups := by
  unfold stopGroup
  rw [h]
  dsimp only
  rw [hrun]
  exact ⟨_, _, (told_groups _ _ _ _).trans (foldl_queueRec_groups _ _ _)⟩

/-- A fault of a group changes no mask of it. -/
theorem stopGroup_sameMasks {s : State} {gid : Nat} {f : FRec} {bid : Option Nat} {pc : Option W64} {y y' : Group}
    (h : s.group? gid = some y) (h' : (stopGroup s gid f bid pc).group? gid = some y') : SameMasks y y' := by
  cases hrun : y.stop.isSome with
  | true =>
    have hsame : (stopGroup s gid f bid pc).group? gid = some y := by
      unfold stopGroup
      rw [h]
      dsimp only
      rw [hrun]
      exact h
    rw [show y = y' from Option.some.inj (hsame.symm.trans h')]
    exact .of_teams rfl
  | false =>
    obtain ⟨bs, st, hgroups⟩ := stopGroup_groups f bid pc h hrun
    rw [State.group?, hgroups] at h'
    obtain ⟨z, hz, hm⟩ := List.mem_map.mp (List.mem_of_find?_eq_some h')
    split at hm
    next hid =>
      rw [← hm]
      exact (quieted_sameMasks y).trans (.of_teams rfl)
    next hid =>
      exact absurd (by simpa [← hm] using List.find?_some h') hid
end Sys2Proof.Machine

namespace Sys2Proof.Rules
open Sys2Proof.Safety Sys2Proof.Machine

theorem precise_sameMasks {s : State} {c : Ctx} {code : Code} {cause level : Nat} {addr detail : W64} {ts : List Nat} {y y' : Group}
    (h : s.group? c.g.id = some y) (h' : (precise s c code cause level addr detail ts).group? c.g.id = some y') : SameMasks y y' := by
  unfold precise at h'
  dsimp only at h'
  split at h' <;> exact stopGroup_sameMasks h h'

/-- A team's armed join of a mask, else its armed wait. -/
theorem armed_mem {t : Team} {join : Bool} {k : BitVec 4} {a : Armed} (h : t.armed join k = some a) : a ∈ t.joins ++ t.waits ∧ a.mask = k := by
  have hmem := List.mem_of_find?_eq_some h
  have hk := List.find?_some h
  refine ⟨?_, by simpa using hk⟩
  cases join
  · exact List.mem_append_right _ hmem
  · exact List.mem_append_left _ hmem

theorem writeMask_armed {s : State} {c : Ctx} {m : Bool} {k : BitVec 4} {ts : List Nat} {f : Nat → W32}
    (h : ∃ t ∈ teamsOf ts, ∃ a ∈ (c.g.team t).joins ++ (c.g.team t).waits, a.mask = k) :
    ∃ t ∈ teamsOf ts, ∃ a ∈ (c.g.team t).joins ++ (c.g.team t).waits, a.mask = k ∧
      writeMask s c m k ts f = precise s c .maskmis k.toNat 0 0 ((f t &&& c.g.liveMask t) ++ a.val) (inTeam t ts) := by
  obtain ⟨t0, ht0, a0, ha0, hk0⟩ := h
  unfold writeMask
  dsimp only
  split
  next t ht =>
    have hmem := List.mem_of_find?_eq_some ht
    have hsome := List.find?_some ht
    cases hj : (c.g.team t).armed true k with
    | some a => exact ⟨t, hmem, a, (armed_mem hj).1, (armed_mem hj).2, rfl⟩
    | none =>
      cases hw : (c.g.team t).armed false k with
      | some a => exact ⟨t, hmem, a, (armed_mem hw).1, (armed_mem hw).2, rfl⟩
      | none => rw [hj, hw] at hsome; cases hsome
  next hnone =>
    rw [List.find?_eq_none] at hnone
    have hn := hnone t0 ht0
    have hj : (c.g.team t0).armed true k = none := by
      cases hj : (c.g.team t0).armed true k with
      | none => rfl
      | some a => rw [hj] at hn; exact absurd rfl hn
    rw [hj] at hn
    rw [Bool.not_eq_true, Option.isSome_eq_false_iff, Option.isNone_iff_eq_none] at hn
    rcases List.mem_append.mp ha0 with hm | hm
    · exact absurd hk0 ((Team.armed_eq_none ..).mp hj _ hm)
    · exact absurd hk0 ((Team.armed_eq_none ..).mp hn _ hm)

/-- Settles O38: what `writeMask` does where a join or wait is armed, and where none is. -/
theorem armedMaskKeeps : Obligations.ArmedMaskKeeps := by
  intro i g m k val hi s c0 x c h
  have hexec : exec i s = .next (writeMask x c m k (c.active g) (val c)) := by
    unfold maskWrites at hi
    split at hi
    next o =>
      cases hi
      show execMset o s = _
      rw [execMset, issue_ready h]
    next o =>
      cases hi
      show execMlog o s = _
      rw [execMlog, issue_ready h, mlogF_eq]
    · cases hi
  refine ⟨fun harm => ?_, fun hfree => ?_⟩
  · obtain ⟨t, ht, a, ha, hk, hw⟩ := writeMask_armed (s := x) (m := m) (f := val c) harm
    refine ⟨t, ht, a, ha, hk, _, hexec, hw, fun y y' hy hy' => ?_⟩
    rw [hw] at hy'
    exact precise_sameMasks hy hy'
  · obtain ⟨u, hu, hfix⟩ := writeMask_clear (s := x) (c := c) (m := m) (k := k) (ts := c.active g) (f := val c) (fun t ht =>
      ⟨(Team.armed_eq_none ..).mpr (fun a ha => hfree t ht a (List.mem_append_left _ ha)),
        (Team.armed_eq_none ..).mpr (fun a ha => hfree t ht a (List.mem_append_right _ ha))⟩)
    exact ⟨u, hexec.trans (congrArg _ hu), hfix⟩
end Sys2Proof.Rules
end

section
/-! PROOF. Instructions that act once for each team. -/

namespace Sys2Proof.Safety
open Sys2Proof.Machine

theorem State.dataFaults_nil (s : State) (c : Ctx) : s.dataFaults c [] = s := rfl

/-- Teams each of which may act in its turn act in order. -/
theorem teamFold_chain {s0 : State} {c : Ctx} {g : BitVec 3} {f : State → Nat → TeamRes} {h : State → Nat → Option State} (ts : List Nat) {s z : State}
    (hone : ∀ s t u, h s t = some u → f s t = .ok u) (hchain : chain h ts s = some z) (done : List Nat) : teamFold s0 c g f ts s [] done = .ok (z, []) := by
  induction ts generalizing s done with
  | nil => cases hchain; rfl
  | cons t ts ih =>
    obtain ⟨u, hu, hrest⟩ := Option.bind_eq_some_iff.mp hchain
    unfold teamFold
    rw [hone s t u hu]
    exact ih hrest _

/-- Where no team bars the instruction as it begins and each acts in its turn, what follows the last team follows. -/
theorem eachTeam_chain {x z : State} {c : Ctx} {g : BitVec 3} {f : State → Nat → TeamRes} {h : State → Nat → Option State} {fin : State → State}
    {keep : Nat → List Byte} (hone : ∀ s t u, h s t = some u → f s t = .ok u)
    (hfree : ∀ t ∈ (c.teams g).filter (fun t => !(c.b.part.contains t)), (f x t).bar x c = none)
    (hchain : chain h ((c.teams g).filter (fun t => !(c.b.part.contains t))) x = some z) : eachTeam x c g f fin keep = fin z := by
  unfold eachTeam
  dsimp only
  have hnone : ∀ l : List Nat, (∀ t ∈ l, (f x t).bar x c = none) → l.findSome? (fun t => (f x t).bar x c) = none :=
    fun l hl => List.findSome?_eq_none_iff.mpr hl
  rw [hnone _ (fun t ht => by
    rcases List.mem_append.mp ht with ht | ht
    · exact hfree t (List.mem_of_mem_filter ht)
    · exact hfree t ht)]
  dsimp only
  rw [teamFold_chain _ hone hchain]
  rfl

/-- What `ByTeam.Holds` asks of one row. -/
def ByTeam.Does (r : ByTeam) (ex : State → Out) : Prop :=
  ∀ s c0 x c, Ready r.spec s c0 x c → r.ok x c →
    ∀ ts, ts = (c.teams r.spec.g).filter (fun t => !(c.b.part.contains t)) → (∀ t ∈ ts, (r.f c x t).isSome = true) →
    ∀ z, chain (r.f c) ts x = some z →
    ∃ u, ex s = .next (settled r.settles (marked r.m u c) c) ∧ Fixed (r.fin c z) u c [] (fun _ th => th) (fun _ tm => tm)

theorem ByTeam.holds_of_does {table : Instr → Option ByTeam} (h : ∀ i r, table i = some r → r.Does (exec i)) : ByTeam.Holds table := h

/-- A row whose instruction acts for each of its teams as the row says. -/
theorem ByTeam.does_of_teams {r : ByTeam} {ex : State → Out} {body : Ctx → State → State} (hex : ∀ s, ex s = issue s r.spec body)
    (hbody : ∀ s c0 x c, Ready r.spec s c0 x c → r.ok x c → ∃ one fin keep, body c x = eachTeam x c r.spec.g one fin keep ∧
      (∀ s t u, r.f c s t = some u → one s t = .ok u) ∧ ∀ z, fin z = settled r.settles (noResult (r.fin c z) c r.m) c) : r.Does ex := by
  rintro s c0 x c h hok ts rfl hbegin z hz
  obtain ⟨u, hu, hfix⟩ := noResult_fixed (r.fin c z) c r.m
  obtain ⟨one, fin, keep, heach, hone, hfin⟩ := hbody s c0 x c h hok
  refine ⟨u, ?_, hfix⟩
  rw [hex, issue_ready h, heach, eachTeam_chain hone (fun t ht => ?_) hz, hfin, hu]
  obtain ⟨v, hv⟩ := Option.isSome_iff_exists.mp (hbegin t ht)
  rw [hone x t v hv]
  rfl
end Sys2Proof.Safety

namespace Sys2Proof.Rules
open Sys2Proof.Safety Sys2Proof.Machine

theorem lt_of_high_zero {x : W64} (h : x.toNat < 2 ^ 32) : (x.extractLsb 63 32 != 0) = false := by
  simpa using (extract_high_eq_zero x).mpr h

theorem good_eq_some {α : Type} {x : Except AFault α} {a : α} : good x = some a ↔ x = .ok a := by
  cases x <;> simp [good]

/-- A word changed at its home slice: its address holds, its sector comes in, and what releases first has released. -/
theorem homeChange_eq_some {s u : State} {c : Ctx} {va n : Nat} {k : AKind} {rel : Nat → Bool} {f : Nat → Nat} (h : homeChange s c va n k rel f = some u) :
    ∃ a y v, flgCheck s c va n k = .ok a ∧ llcFill s c.who a true = .ok y ∧
      rmwSlice (if rel a then releaseCore s c.g.die c.g.core else s) c.who a n (fun y => some (f y)) = .ok (v, u) := by
  unfold homeChange at h
  split at h
  · cases h
  next a ha =>
    obtain ⟨y, hy, h⟩ := Option.bind_eq_some_iff.mp h
    obtain ⟨⟨v, w⟩, hv, rfl⟩ := Option.map_eq_some_iff.mp h
    exact ⟨a, y, v, ha, good_eq_some.mp hy, good_eq_some.mp hv⟩

theorem relFree_eq_true {g : BitVec 3} {c : Ctx} {s : State} {t : Nat} {rel : Bool} :
    relFree g c s t rel = true ↔ c.heldBack s false (c.mine g t) (fun _ => rel) (fun _ => 0) 0 = false := by
  simp [relFree]

/-- An aperture's address is no global word. -/
theorem apertureTgt_ne_glob (s : State) (c : Ctx) (va n : Nat) (k : AKind) (a : Nat) : apertureTgt s c va n k ≠ .ok (.glob a) := by
  unfold apertureTgt
  dsimp only
  repeat' split
  all_goals simp

theorem flgCheck_eq_ok {s : State} {c : Ctx} {va n a : Nat} {k : AKind} (h : flgCheck s c va n k = .ok a) : a = va := by
  unfold flgCheck at h
  split at h
  · cases h
  next b hb =>
    cases h
    unfold checkAddr at hb
    split at hb
    · cases hb
    · split at hb
      · cases hb
      · split at hb
        · cases hb
        · split at hb
          · exact absurd hb (apertureTgt_ne_glob _ _ _ _ _ _)
          · cases hb; rfl
  · cases h

/-- FLGS of a global word. -/
theorem flagSet_glob {o : OpE} {c : Ctx} {s : State} {t : Nat} (h : flgGlob o = true) : flagSet o c s t =
    if c.heldBack s true (c.mine o.g t) (fun _ => releases (wideE o.p) (c.s t o.a).toNat) (fun _ => (c.s t o.a).toNat) (flgWidth o) then none
    else homeChange s c (c.s t o.a).toNat (flgWidth o) (if o.b.getLsbD 5 then .rmw 0 true else .store) (releases (wideE o.p))
      (fun w => if o.b.getLsbD 5 then (w + (c.s t o.b).toNat) % 2 ^ (8 * flgWidth o) else (c.s t o.b).toNat % 2 ^ (8 * flgWidth o)) := if_pos h

/-- FLGS of a flag. -/
theorem flagSet_flag {o : OpE} {c : Ctx} {s : State} {t : Nat} (h : ¬ flgGlob o = true) : flagSet o c s t =
    if c.heldBack s false (c.mine o.g t) (fun _ => wideE o.p) (fun _ => 0) 0 then none
    else some (wakeFlag ((if wideE o.p then releaseCore s c.g.die c.g.core else s).updGroup c.g.id (fun g =>
      { g with flags := g.flags.modify o.k.toNat (fun y => if o.b.getLsbD 5 then y + (c.s t o.b).setWidth 32 else (c.s t o.b).setWidth 32) }))
        c.g.id o.k.toNat) := by
  have hset : ∀ w : W32, (if o.b.getLsbD 5 then BitVec.ofNat 32 (w.toNat + (c.s t o.b).toNat) else BitVec.ofNat 32 (c.s t o.b).toNat) =
      if o.b.getLsbD 5 then w + (c.s t o.b).setWidth 32 else (c.s t o.b).setWidth 32 := by
    intro w
    rw [BitVec.ofNat_add, BitVec.ofNat_toNat, BitVec.ofNat_toNat, BitVec.setWidth_eq]
  refine (if_neg h).trans ?_
  simp only [hset, relFree, Bool.not_not]

theorem flgs_does (o : OpE) {r : ByTeam} (h : teams (.flgs o) = some r) : r.Does (execFlgs o) := by
  cases h
  refine ByTeam.does_of_teams (fun s => by rw [execFlgs]) (fun s c0 x c _ hok => ?_)
  have hleg : ¬ flgIll c o = true := by rw [show flgIll c o = false from hok]; exact Bool.false_ne_true
  dsimp only
  rw [if_neg hleg]
  refine ⟨_, _, _, rfl, fun s t u (hu : flagSet o c s t = some u) => ?_, fun z => rfl⟩
  by_cases hglob : flgGlob o = true
  · rw [flagSet_glob hglob] at hu
    rw [if_pos hglob]
    split at hu
    · cases hu
    next hfree =>
      obtain ⟨a, y, v, hchk, hfill, hrmw⟩ := homeChange_eq_some hu
      cases flgCheck_eq_ok hchk
      rw [hchk]
      dsimp only
      rw [if_neg hfree, hfill]
      dsimp only
      rw [hrmw]
  · rw [flagSet_flag hglob] at hu
    rw [if_neg hglob]
    split at hu
    · cases hu
    next hfree =>
      rw [if_neg hfree, ← Option.some.inj hu]

theorem boini_does (o : OpE) {r : ByTeam} (h : teams (.boini o) = some r) : r.Does (execBoini o) := by
  cases h
  refine ByTeam.does_of_teams (fun s => by rw [execBoini]) (fun s c0 x c _ hok => ?_)
  have hleg : (c.teams o.g).any (fun t => c.s t o.a == 0 || (c.s t o.a).extractLsb 63 32 != 0) = false := by
    rw [List.any_eq_false]
    intro t ht
    obtain ⟨hpos, hlt⟩ := hok t ht
    have hne : (c.s t o.a == 0) = false := by
      rw [beq_eq_false_iff_ne]
      intro h0
      rw [h0] at hpos
      exact absurd hpos (by decide)
    rw [hne, lt_of_high_zero hlt]
    decide
  dsimp only
  rw [hleg, if_neg Bool.false_ne_true]
  refine ⟨_, _, _, rfl, fun s t u hu => ?_, fun z => rfl⟩
  dsimp only [objectMade] at hu
  split at hu
  next hblk =>
    rw [blockCheck_eq_none.mpr hblk]
    exact congrArg _ (Option.some.inj hu)
  · cases hu

theorem boarr_does (o : OpE) {r : ByTeam} (h : teams (.boarr o) = some r) : r.Does (execBoarr o) := by
  cases h
  refine ByTeam.does_of_teams (fun s => by rw [execBoarr]) (fun s c0 x c _ hok => ?_)
  have hleg : (c.teams o.g).any (fun t => (boAmount c o t).extractLsb 63 32 != 0) = false := by
    rw [List.any_eq_false]
    intro t ht
    unfold boAmount
    rcases hok with ha | hlt
    · simp [ha]
    · split
      · decide
      · rw [lt_of_high_zero (hlt t ht)]
        decide
  dsimp only
  rw [hleg, if_neg Bool.false_ne_true]
  refine ⟨_, _, _, rfl, fun s t u hu => ?_, fun z => rfl⟩
  dsimp only [objectArrived] at hu
  split at hu
  next hblk =>
    have hamount : (boAmount c o t).toNat = if o.a.getLsbD 5 then 1 else (c.s t o.a).toNat := by
      unfold boAmount
      split <;> rfl
    rw [blockCheck_eq_none.mpr hblk, hamount]
    exact congrArg _ (Option.some.inj hu)
  · cases hu

theorem not_over {x n : Nat} {b : Bool} (h : x ≤ n) : (decide (x > n) && b) = false := by
  rw [decide_eq_false (Nat.not_lt.mpr h), Bool.false_and]

/-- A range of a copy that fits is neither out of its scratch nor across the end of memory. -/
theorem fits_iff {scr : Bool} {x n size : Nat} :
    (if scr then decide (x + n ≤ size) else !(spans x n)) = true ↔ (scr && decide (x + n > size)) = false ∧ (!scr && spans x n) = false := by
  cases scr <;> simp

theorem cpy_does (o : OpE) {r : ByTeam} (h : teams (.cpy o) = some r) : r.Does (execCpy o) := by
  cases h
  refine ByTeam.does_of_teams (fun s => by rw [execCpy]) (fun s c0 x c _ hok => ?_)
  have hleg : (c.teams o.g).any (fun t => decide (((c.g.team t).sAt c.clk (s5 o.k)).toNat > 2 ^ 24) && !(c.b.part.contains t)) = false := by
    rw [List.any_eq_false]
    intro t ht
    exact ne_true_of_eq_false (not_over (hok t ht))
  dsimp only
  rw [hleg, if_neg Bool.false_ne_true]
  refine ⟨_, _, _, rfl, fun s t u hu => ?_, fun z => rfl⟩
  change (if (c.s t o.k).toNat > 2 ^ 24 then _ else if ((c.s t o.k).toNat == 0) = true then _ else _) = _
  unfold copyStarted at hu
  dsimp only at hu
  obtain ⟨hlen, hu⟩ := Option.ite_none_left_eq_some.mp hu
  rw [if_neg hlen]
  by_cases hz : (c.s t o.k).toNat = 0
  · rw [if_pos hz] at hu
    rw [if_pos (beq_iff_eq.mpr hz)]
    exact congrArg _ (Option.some.inj hu)
  · rw [if_neg hz] at hu
    rw [if_neg (by simpa using hz)]
    obtain ⟨hfit, hu⟩ := Option.ite_none_right_eq_some.mp hu
    rw [Bool.and_eq_true, Bool.and_eq_true, fits_iff, fits_iff, Bool.not_eq_true'] at hfit
    obtain ⟨⟨⟨hdst, hdspan⟩, hsrc, hsspan⟩, hlock⟩ := hfit
    change (if (o.a.getLsbD 5 && decide ((c.s t o.a).toNat + (c.s t o.k).toNat > c.g.scrSize)) = true then _ else
      if (o.b.getLsbD 5 && decide ((c.s t o.b).toNat + (c.s t o.k).toNat > c.g.scrSize)) = true then _ else
      if (!o.a.getLsbD 5 && spans (c.s t o.a).toNat (c.s t o.k).toNat) = true then _ else
      if (!o.b.getLsbD 5 && spans (c.s t o.b).toNat (c.s t o.k).toNat) = true then _ else
      if lockBlocked s c.g _ _ = true then _ else _) = _
    rw [if_neg (ne_true_of_eq_false hdst), if_neg (ne_true_of_eq_false hsrc), if_neg (ne_true_of_eq_false hdspan),
      if_neg (ne_true_of_eq_false hsspan)]
    exact (if_neg (ne_true_of_eq_false hlock)).trans (congrArg _ (Option.some.inj hu))

theorem cpyl_does (o : OpE) {r : ByTeam} (h : teams (.cpyl o) = some r) : r.Does (execCpyl o) := by
  cases h
  refine ByTeam.does_of_teams (fun s => by rw [execCpyl]) (fun s c0 x c _ hok => ?_)
  have hleg : (c.teams o.g).any (fun t => decide (((c.g.team t).sAt c.clk (s5 o.b)).toNat > 4096) && !(c.b.part.contains t)) = false := by
    rw [List.any_eq_false]
    intro t ht
    exact ne_true_of_eq_false (not_over (hok t ht))
  dsimp only
  rw [hleg, if_neg Bool.false_ne_true]
  refine ⟨_, _, _, rfl, fun s t u hu => ?_, fun z => rfl⟩
  change (if ((c.s t o.b).toNat == 0) = true then _ else if ((c.s t o.a).toNat % 32 != 0) = true then _ else
    if ((c.s t o.k).toNat % 16 != 0) = true then _ else if (c.s t o.a).toNat + 32 * (c.s t o.b).toNat > c.g.scrSize then _ else
    if (c.s t o.k).toNat + 16 > c.g.scrSize then _ else if lockBlocked s c.g _ _ = true then _ else _) = _
  unfold listStarted at hu
  dsimp only at hu
  by_cases hz : (c.s t o.b).toNat = 0
  · rw [if_pos hz] at hu
    rw [if_pos (beq_iff_eq.mpr hz)]
    exact congrArg _ (Option.some.inj hu)
  · rw [if_neg hz] at hu
    obtain ⟨⟨hl, ho, hls, hos, hlock⟩, hu⟩ := Option.ite_none_right_eq_some.mp hu
    rw [if_neg (by simpa using hz), if_neg (by simpa using hl), if_neg (by simpa using ho), if_neg (Nat.not_lt.mpr hls),
      if_neg (Nat.not_lt.mpr hos)]
    refine (if_neg (ne_true_of_eq_false hlock)).trans ?_
    obtain ⟨p, hp, rfl⟩ := Option.map_eq_some_iff.mp hu
    dsimp only [Ctx.s] at hp ⊢
    rw [hp]

theorem subs_does (o : OpE) {r : ByTeam} (h : teams (.subs o) = some r) : r.Does (execSubs o) := by
  cases h
  refine ByTeam.does_of_teams (fun s => by rw [execSubs]) (fun s c0 x c _ _ => ?_)
  refine ⟨_, _, _, rfl, fun s t u hu => ?_, fun z => rfl⟩
  obtain ⟨hblk, hu⟩ := Option.ite_none_right_eq_some.mp hu
  obtain ⟨g, hg, hu⟩ := Option.bind_eq_some_iff.mp hu
  dsimp only at hu
  obtain ⟨hring, hu⟩ := Option.ite_none_right_eq_some.mp hu
  simp only [Bool.and_eq_true, decide_eq_true_eq, Bool.not_eq_true', Option.isNone_iff_eq_none] at hring
  obtain ⟨⟨⟨⟨⟨hok, hrows⟩, htiles⟩, hnew⟩, hfit⟩, hlap⟩ := hring
  dsimp only
  rw [show blockCheck s c ((c.g.team t).sAt c.clk (s5 o.a)) 64 64 false false = none from blockCheck_eq_none.mpr hblk, hg]
  dsimp only
  simp only [Ctx.s] at hok hrows htiles hnew hfit hlap hu
  rw [hok, hnew, decide_eq_false (Nat.not_lt.mpr hrows), decide_eq_false (Nat.not_lt.mpr htiles), if_neg (by decide), if_neg (Nat.not_lt.mpr hfit),
    if_neg (ne_true_of_eq_false hlap)]
  exact congrArg _ (Option.some.inj hu)

theorem rels_does (o : OpE) {r : ByTeam} (h : teams (.rels o) = some r) : r.Does (execRels o) := by
  cases h
  refine ByTeam.does_of_teams (fun s => by rw [execRels]) (fun s c0 x c _ _ => ?_)
  refine ⟨_, _, _, rfl, fun s t u hu => ?_, fun z => rfl⟩
  obtain ⟨r, hr, hu⟩ := Option.bind_eq_some_iff.mp hu
  dsimp only at hu
  obtain ⟨⟨hin, hheld, hfree⟩, hu⟩ := Option.ite_none_right_eq_some.mp hu
  have hi : bits ((c.g.team t).sAt c.clk (s5 o.b)).toNat 39 32 = (c.s t o.b).toNat / 2 ^ 32 % 256 := rfl
  dsimp only
  rw [hr, hi]
  generalize (c.s t o.b).toNat / 2 ^ 32 % 256 = i at hin hheld hfree hu
  have hown : ((r.slots.getD i {}).held != some t || decide (i ≥ r.slots.length)) = false := by
    rw [hheld, decide_eq_false (Nat.not_le.mpr hin), bne_self_eq_false, Bool.or_false]
  have hgo : (r.out && slotBlocked s c.g [(true, r.slotOff i, r.z)] (r.rowRngs (r.slots.getD i {}).tile)) = false := by
    cases hout : r.out with
    | false => rfl
    | true => exact hfree hout
  dsimp only
  rw [hown, hgo, if_neg Bool.false_ne_true, if_neg Bool.false_ne_true, ← Option.some.inj hu]
  cases r.out <;> rfl

theorem qpush_does (o : OpE) {r : ByTeam} (h : teams (.qpush o) = some r) : r.Does (execQpush o) := by
  cases h
  refine ByTeam.does_of_teams (fun s => by rw [execQpush]) (fun s c0 x c _ hok => ?_)
  have hleg : (!(c.active o.g).isEmpty && !(c.r.declared (o.k.toNat % 16))) = false := by
    rcases hok with ha | hd
    · rw [ha]; rfl
    · rw [hd, Bool.not_true, Bool.and_false]
  dsimp only
  rw [hleg, if_neg Bool.false_ne_true]
  refine ⟨_, _, _, rfl, fun s t u hu => ?_, fun z => rfl⟩
  obtain ⟨hblk, hu⟩ := Option.ite_none_right_eq_some.mp hu
  rw [Bool.and_eq_true, Bool.and_eq_true] at hblk
  obtain ⟨⟨hentry, hstatus⟩, hrel⟩ := hblk
  obtain ⟨y, hy, rfl⟩ := Option.map_eq_some_iff.mp hu
  rw [blockCheck_eq_none.mpr hentry]
  dsimp only
  rw [blockCheck_eq_none.mpr hstatus]
  dsimp only
  cases hguest : c.r.isGuest (o.k.toNat % 16)
  · simp only [hguest, Bool.false_eq_true, if_false] at hrel hy ⊢
    rw [relFree_eq_true.mp hrel, if_neg Bool.false_ne_true, ← Option.some.inj hy]
    rfl
  · simp only [hguest, if_true] at hrel hy ⊢
    rw [relFree_eq_true.mp hrel, if_neg Bool.false_ne_true]
    exact congrArg (fun z : Option (State × Nat) => match z with
      | some x => TeamRes.ok (x.1.scrWrite c.g.id ((c.s t o.a).toNat + 64) (leBytes 4 x.2))
      | none => .stall) hy

theorem qdone_does (o : OpE) {r : ByTeam} (h : teams (.qdone o) = some r) : r.Does (execQdone o) := by
  cases h
  refine ByTeam.does_of_teams (fun s => by rw [execQdone]) (fun s c0 x c _ _ => ?_)
  refine ⟨_, _, _, rfl, fun s t u hu => ?_, fun z => rfl⟩
  obtain ⟨k, hk, hu⟩ := Option.bind_eq_some_iff.mp hu
  obtain ⟨y, hy, rfl⟩ := Option.map_eq_some_iff.mp hu
  rw [hk]
  dsimp only
  by_cases hz : k.sig = 0
  · rw [if_pos hz] at hy
    cases hy
    simp [hz, signalAdd]
  · rw [if_neg hz] at hy
    obtain ⟨hfree, hy⟩ := Option.ite_none_right_eq_some.mp hy
    obtain ⟨a, w, v, hchk, hfill, hrmw⟩ := homeChange_eq_some hy
    have hsig : signalAdd s c k.sig = .ok y := by
      unfold signalAdd
      rw [if_neg (by simpa using hz), hchk]
      dsimp only
      rw [hfill]
      dsimp only
      rw [if_pos rfl] at hrmw
      rw [hrmw]
    rw [relFree_eq_true.mp hfree, Bool.and_false, if_neg Bool.false_ne_true, hsig]

theorem not_not_true {b : Bool} (h : b = true) : ¬ (!b) = true := by rw [h]; decide

theorem tile_does (form : Nat) (o : OpE) : ByTeam.Does
    { spec := { g := o.g, rd := [.s (s5 o.a)], wr := [.s (s5 o.k)] }, m := o.m, f := tileStarted form o, ok := oneLane o.g } (mtxIssue form o) := by
  refine ByTeam.does_of_teams (fun s => by rw [mtxIssue]) (fun s c0 x c _ (hok : manyLanes c o.g = false) => ?_)
  rw [hok, if_neg Bool.false_ne_true]
  refine ⟨_, _, _, rfl, fun s t u hu => ?_, fun z => rfl⟩
  obtain ⟨hblk, hu⟩ := Option.ite_none_right_eq_some.mp hu
  obtain ⟨g, hg, hu⟩ := Option.bind_eq_some_iff.mp hu
  extract_lets bs y x at hu
  obtain ⟨hgo, hu⟩ := Option.ite_none_right_eq_some.mp hu
  simp only [Bool.and_eq_true, Bool.not_eq_true', Option.isNone_iff_eq_none, decide_eq_true_eq] at hgo
  obtain ⟨⟨⟨⟨⟨⟨⟨hform, hpair⟩, hpairs⟩, hca⟩, hcb⟩, hrng⟩, hlock⟩, hroom⟩ := hgo
  have hpairRng : (if y.usePairs then rngBad g [y.pairRng] else none) = none := by
    cases huse : y.usePairs <;> simp_all
  have hpairLock : (y.usePairs && lockBlocked s g [y.pairRng] []) = false := by
    cases huse : y.usePairs <;> simp_all
  unfold mtxTeam
  extract_lets off
  rw [show blockCheck s c off 128 128 false false = none from blockCheck_eq_none.mpr hblk, hg]
  dsimp -zeta only
  extract_lets bs' y' x' src u'
  rw [if_neg (show ¬ (!y'.ok) = true from not_not_true hform), show (if y'.usePairs then rngBad g [y'.pairRng] else none) = none from hpairRng]
  dsimp -zeta only
  rw [if_neg (show ¬ (y'.usePairs && lockBlocked s g [y'.pairRng] []) = true from ne_true_of_eq_false hpairLock)]
  rw [show x'.pairsOk = true from hpairs, show rngMeets g x'.cRng x'.aRng = false from hca, show rngMeets g x'.cRng x'.bRng = false from hcb,
    if_neg (by decide), show rngBad g (x'.auxRngs ++ [x'.aRng, x'.bRng, x'.cRng]) = none from hrng]
  dsimp -zeta only
  rw [show lockBlocked s g src [x'.cRng] = false from hlock, decide_eq_false (Nat.not_le.mpr hroom), if_neg (by decide)]
  exact congrArg _ (Option.some.inj hu)

theorem xsect_does (o : OpE) {r : ByTeam} (h : teams (.xsect o) = some r) : r.Does (execXsect o) := by
  cases h
  refine ByTeam.does_of_teams (fun s => by rw [execXsect]) (fun s c0 x c _ (hok : manyLanes c o.g = false) => ?_)
  dsimp only
  rw [hok, if_neg Bool.false_ne_true]
  refine ⟨_, _, _, rfl, fun s t u hu => ?_, fun z => rfl⟩
  obtain ⟨hgo, hu⟩ := Option.ite_none_right_eq_some.mp hu
  simp only [Bool.and_eq_true, Bool.not_eq_true', Option.isNone_iff_eq_none, decide_eq_true_eq, beq_iff_eq] at hgo
  obtain ⟨⟨⟨⟨⟨⟨⟨⟨⟨hblk, hla⟩, hlb⟩, hna⟩, hnb⟩, hz⟩, hout⟩, hzz⟩, hrng⟩, hlock⟩ := hgo
  rw [blockCheck_eq_none.mpr hblk]
  dsimp only
  rw [show xsectBlock s c o t = scratchOf s c (c.s t o.a).toNat 32 from rfl]
  rw [hla, hlb, hz, hout, hzz, decide_eq_false (Nat.not_lt.mpr hna), decide_eq_false (Nat.not_lt.mpr hnb), if_neg (by decide), hrng]
  exact (if_neg (ne_true_of_eq_false hlock)).trans (congrArg _ (Option.some.inj hu))

theorem fixup_does (o : OpE) {r : ByTeam} (h : teams (.fixup o) = some r) : r.Does (execFixup o) := by
  cases h
  refine ByTeam.does_of_teams (fun s => by rw [execFixup]) (fun s c0 x c _ (hok : manyLanes c o.g = false) => ?_)
  dsimp only
  rw [hok, if_neg Bool.false_ne_true]
  refine ⟨_, _, _, rfl, fun s t u hu => ?_, fun z => rfl⟩
  obtain ⟨hgo, hu⟩ := Option.ite_none_right_eq_some.mp hu
  simp only [Bool.and_eq_true, Bool.not_eq_true', decide_eq_true_eq] at hgo
  obtain ⟨⟨⟨⟨⟨⟨⟨⟨⟨hcoop, hdt⟩, hexact⟩, hend⟩, hrole⟩, hword⟩, hal⟩, hfit⟩, hslots⟩, hlock⟩ := hgo
  cases hg : s.group? c.g.id with
  | none => rw [hg] at hword; cases hword
  | some g =>
    rw [hg] at hword
    rw [hcoop, hend, beq_eq_false_iff_ne.mpr (bne_iff_ne.mp hdt),
      beq_eq_false_iff_ne.mpr (bne_iff_ne.mp hexact),
      beq_eq_false_iff_ne.mpr (bne_iff_ne.mp hrole)]
    dsimp only
    rw [show g.segWords.contains (c.s t o.b) = true from hword, if_neg (by decide), if_neg (by simpa using hal), if_neg (Nat.not_lt.mpr hfit)]
    refine (if_neg ?_).trans ((if_neg (ne_true_of_eq_false hlock)).trans (congrArg _ (Option.some.inj hu)))
    simp only [beq_iff_eq]
    exact not_not_true hslots

theorem launch_does (o : OpE) {r : ByTeam} (h : teams (.launch o) = some r) : r.Does (execLaunch o) := by
  cases h
  refine ByTeam.does_of_teams (fun s => by rw [execLaunch]) (fun s c0 x c _ hok => ?_)
  obtain ⟨hlead, hdepth⟩ := hok
  have hwrong : (c.teams o.g).any (fun t => (c.active o.g).filter (fun x => teamOf x == t) != (c.g.leader t).toList) = false := by
    rw [List.any_eq_false]
    intro t ht
    rw [bne_iff_ne, not_not]
    exact hlead t ht
  have hdeep : (decide (c.r.depth ≥ 10) && !(c.active o.g).isEmpty) = false := by
    rcases hdepth with ha | hd
    · rw [ha, List.isEmpty_nil, Bool.not_true, Bool.and_false]
    · rw [decide_eq_false (Nat.not_le.mpr hd), Bool.false_and]
  dsimp only
  rw [hwrong, if_neg Bool.false_ne_true]
  rw [if_neg (by simpa using hdeep)]
  refine ⟨_, _, _, rfl, fun s t u hu => ?_, fun z => rfl⟩
  obtain ⟨hblk, hu⟩ := Option.ite_none_right_eq_some.mp hu
  obtain ⟨hdesc, hstatus⟩ := (Bool.and_eq_true _ _).mp hblk
  obtain ⟨y, hy, rfl⟩ := Option.map_eq_some_iff.mp hu
  rw [blockCheck_eq_none.mpr hdesc, blockCheck_eq_none.mpr hstatus]
  exact congrArg (fun z : Option (State × Nat) => match z with
    | none => TeamRes.stall
    | some x => .ok (x.1.scrWrite c.g.id ((c.s t o.a).toNat + 64) (leBytes 8 x.2))) hy

/-- Settles O15: every row of the table is an instruction that acts for each of its teams, and a team the rule lets act does so. -/
theorem teamOperationCompletes : Obligations.TeamOperationCompletes := by
  refine ByTeam.holds_of_does (fun i r h => ?_)
  have h' := h
  unfold teams at h'
  split at h'
  next o => exact flgs_does o h
  next o => exact qpush_does o h
  next o => exact qdone_does o h
  next o => exact boini_does o h
  next o => exact boarr_does o h
  next o => exact cpy_does o h
  next o => exact cpyl_does o h
  next o => exact subs_does o h
  next o => exact rels_does o h
  next o => cases h; exact (tile_does 0 o : ByTeam.Does _ (execMtx o))
  next o => cases h; exact (tile_does 1 o : ByTeam.Does _ (execMtxg o))
  next o => cases h; exact (tile_does 2 o : ByTeam.Does _ (execMtxs o))
  next o => exact xsect_does o h
  next o => exact fixup_does o h
  next o => exact launch_does o h
  · cases h'

/-- A debug instruction's team acts where its block and its buffer hold. -/
theorem debugTeam_of_debugged {o : OpF} {bytes : Nat} {wr : Bool} {act : Ctx → State → DBlock → State × Nat × Option Nat} {c : Ctx} {s u : State}
    {t : Nat} (h : debugged o bytes wr act c s t = some u) : debugTeam s c o bytes wr (act c) t = .ok u := by
  obtain ⟨hgo, hu⟩ := Option.ite_none_right_eq_some.mp h
  simp only [Bool.and_eq_true] at hgo
  obtain ⟨⟨⟨⟨⟨hblk, hres⟩, hlow⟩, hhigh⟩, hkind⟩, hbuf⟩ := hgo
  have hfree : (if (bytes == 0) = true then none else blockCheck s c (BitVec.ofNat 64 (dblock (scratchOf s c (c.s t o.a).toNat 64)).buf) bytes 64 wr false)
      = none := by
    rcases (Bool.or_eq_true _ _).mp hbuf with hz | hb
    · rw [if_pos hz]
    · rw [blockCheck_eq_none.mpr hb, ite_self]
  unfold debugTeam
  dsimp only
  rw [blockCheck_eq_none.mpr hblk, blockCheck_eq_none.mpr hres]
  change (if (!(zeros (scratchOf s c (c.s t o.a).toNat 64) 4 7) || !(zeros (scratchOf s c (c.s t o.a).toNat 64) 48 63) ||
    decide ((dblock (scratchOf s c (c.s t o.a).toNat 64)).kind.toNat ≥ 16)) = true then _ else _) = _
  rw [hlow, hhigh, decide_eq_false (Nat.not_le.mpr (of_decide_eq_true hkind)), if_neg (by decide)]
  exact (congrArg (fun z : Option AFault => match z with
    | some f => TeamRes.fault f (BitVec.ofNat 64 (dblock (scratchOf s c (c.s t o.a).toNat 64)).buf) s
    | none => .ok (putStatus (act c s (dblock (scratchOf s c (c.s t o.a).toNat 64))).1 c.g.id (c.s t o.a).toNat
        (act c s (dblock (scratchOf s c (c.s t o.a).toNat 64))).2.1 (act c s (dblock (scratchOf s c (c.s t o.a).toNat 64))).2.2)) hfree).trans
    (congrArg TeamRes.ok (Option.some.inj hu))

theorem debugAct_does {o : OpF} {bytes : Nat} {wr : Bool} {act act' : Ctx → State → DBlock → State × Nat × Option Nat} {ex : State → Out}
    (hex : ∀ s, ex s = debugInstr o bytes wr s act (plainFin o)) (hact : act = act') : (debugAct o bytes wr act').Does ex := by
  subst hact
  refine ByTeam.does_of_teams (fun s => by rw [hex, debugInstr]; rfl) (fun s c0 x c _ _ => ?_)
  exact ⟨_, _, _, rfl, fun s t u hu => debugTeam_of_debugged hu, fun z => rfl⟩

theorem DBlock.all_iff (b : DBlock) : b.all = true ↔ b.gseq = 0xFFFFFFFFFFFFFFFF := beq_iff_eq

/-- Settles O16: every row of the table is a debug instruction whose action is the row's. -/
theorem debugCompletes : Obligations.DebugCompletes := by
  refine ByTeam.holds_of_does (fun i r h => ?_)
  unfold debugging at h
  split at h
  next o =>
    cases h
    show ByTeam.Does _ (execDhalt o)
    refine debugAct_does (fun s => by rw [execDhalt]) ?_
    funext c
    refine congrArg _ (funext fun s => funext fun r => funext fun gs => funext fun b => ?_)
    simp only [Bool.and_eq_true, Bool.or_eq_true, Bool.not_eq_true', List.isEmpty_iff, ne_eq, ← DBlock.all_iff, Bool.not_eq_true]
  next o =>
    cases h
    show ByTeam.Does _ (execDresume o)
    refine debugAct_does (fun s => by rw [execDresume]) ?_
    funext c
    refine congrArg _ (funext fun s => funext fun r => funext fun gs => funext fun b => ?_)
    simp only [Bool.and_eq_true, Bool.not_eq_true', List.isEmpty_iff, ← DBlock.all_iff]
  next o =>
    cases h
    show ByTeam.Does _ (execDbkpt o)
    exact debugAct_does (fun s => by rw [execDbkpt]) rfl
  next o =>
    cases h
    show ByTeam.Does _ (execDwatch o)
    refine debugAct_does (fun s => by rw [execDwatch]) ?_
    funext c
    refine congrArg _ (funext fun s => funext fun r => funext fun b => ?_)
    simp only [Bool.and_eq_true, Bool.not_eq_true', decide_eq_false_iff_not]
  next o =>
    cases h
    show ByTeam.Does _ (execDrds o)
    refine debugAct_does (fun s => by rw [execDrds]) ?_
    funext c
    refine congrArg _ (funext fun s => funext fun r => funext fun b => ?_)
    simp only [Bool.and_eq_true, Bool.or_eq_true, Bool.not_eq_true', decide_eq_true_eq, decide_eq_false_iff_not, bne_iff_ne, beq_iff_eq, ne_eq]
  next o =>
    cases h
    show ByTeam.Does _ (execDmboxSend o)
    refine debugAct_does (fun s => by rw [execDmboxSend]) ?_
    rfl
  · cases h
end Sys2Proof.Rules
end

section
/-! PROOF. Writes of scratch; DSTEP and DMBOX.RECV. -/

namespace Sys2Proof.Machine
open Sys2Proof.Safety Sys2Proof.Rules

/-- Every group of the second state has the scratch it has in the first. -/
structure SameScr (s t : State) : Prop where
  same : ∀ i, (t.group? i).map (·.scratch) = (s.group? i).map (·.scratch)

theorem SameScr.refl (s : State) : SameScr s s := ⟨fun _ => rfl⟩

theorem SameScr.of_groups {s t : State} (h : t.groups = s.groups) : SameScr s t := ⟨fun i => by rw [State.group?, State.group?, h]⟩

theorem SameScr.trans {s t u : State} (h1 : SameScr s t) (h2 : SameScr t u) : SameScr s u := ⟨fun i => (h2.same i).trans (h1.same i)⟩

theorem SameScr.ite {s t u : State} {p : Prop} [Decidable p] (h1 : SameScr s t) (h2 : SameScr s u) : SameScr s (if p then t else u) := by
  split <;> assumption

theorem SameScr.foldl {α : Type} {f : State → α → State} (hf : ∀ s a, SameScr s (f s a)) (l : List α) (s : State) : SameScr s (l.foldl f s) := by
  induction l generalizing s with
  | nil => exact .refl s
  | cons a l ih => exact (hf s a).trans (ih _)

theorem group?_updGroup_of_id (s : State) (gid : Nat) (f : Group → Group) (hf : ∀ g, g.id = gid → (f g).id = gid) :
    (s.updGroup gid f).group? gid = (s.group? gid).map f :=
  find_upd_same _ _ _ (fun g hg => by simpa using hf g (by simpa using hg))

theorem group?_updGroup_ne (s : State) (gid i : Nat) (f : Group → Group) (hf : ∀ g, g.id = gid → (f g).id = gid) (h : i ≠ gid) :
    (s.updGroup gid f).group? i = s.group? i :=
  find_upd_other _ _ _ _ (fun g hg => by simp_all; omega) (fun g hg => by
    have := hf g (by simpa using hg)
    simp_all; omega)

theorem SameScr.updGroup (s : State) (gid : Nat) (f : Group → Group) (hf : ∀ g, g.id = gid → (f g).id = gid)
    (hs : ∀ g, s.group? gid = some g → (f g).scratch = g.scratch) : SameScr s (s.updGroup gid f) := by
  refine ⟨fun i => ?_⟩
  by_cases h : i = gid
  · subst h
    rw [group?_updGroup_of_id s i f hf]
    cases hg : s.group? i with
    | none => rfl
    | some g => exact congrArg some (hs g hg)
  · rw [group?_updGroup_ne s gid i f hf h]

theorem SameScr.updBundle (s : State) (gid bid : Nat) (f : Bundle → Bundle) : SameScr s (s.updBundle gid bid f) :=
  .updGroup s gid _ (fun _ h => h) (fun _ _ => rfl)

/-! ## Results that return leave the scratch as it is -/

theorem Group.foldl_scratch {α : Type} (f : Group → α → Group) (hf : ∀ g a, (f g a).scratch = g.scratch) (l : List α) (g : Group) :
    (l.foldl f g).scratch = g.scratch := by
  induction l generalizing g with
  | nil => rfl
  | cons a l ih => exact (ih (f g a)).trans (hf g a)

theorem Group.writeVs_scratch (g : Group) (l : List (Nat × BitVec 6 × W32)) : (g.writeVs l).scratch = g.scratch :=
  Group.foldl_scratch _ (by intros; rfl) l g

theorem Group.giveBack_scratch (g : Group) (o : Outst) : (g.giveBack o).scratch = g.scratch := by
  have hp : ∀ g (l : List (Nat × BitVec 3 × Bool)), (Group.writePs g l).scratch = g.scratch := fun g l => Group.foldl_scratch _ (by intros; rfl) l g
  have hs : ∀ g k q (l : List (Nat × BitVec 5 × W64)), (Group.putLates g k q l).scratch = g.scratch := fun g k q l => Group.foldl_scratch _ (by intros; rfl) l g
  have he : ∀ g (l : List (Nat × Option Triple × W32)), (Group.writeEs g l).scratch = g.scratch := fun g l => Group.foldl_scratch _ (by intros; rfl) l g
  rw [Group.giveBack, he, hs, hp, Group.writeVs_scratch]

theorem Group.returnAll_scratch (g : Group) (bid : Nat) : (g.returnAll bid).scratch = g.scratch := by
  unfold Group.returnAll
  split
  · rfl
  · exact Group.foldl_scratch _ Group.giveBack_scratch _ g

theorem Group.quiet_id (g : Group) (bid : Nat) : (g.quiet bid).id = g.id := by
  unfold Group.quiet
  dsimp only
  split
  · rw [Group.writeVs_id, Group.returnAll_id, Group.updBundle_id]
  · rw [Group.returnAll_id, Group.updBundle_id]

theorem Group.quiet_scratch (g : Group) (bid : Nat) : (g.quiet bid).scratch = g.scratch := by
  unfold Group.quiet
  dsimp only
  split
  · rw [Group.writeVs_scratch, Group.returnAll_scratch, Group.updBundle_scratch]
  · rw [Group.returnAll_scratch, Group.updBundle_scratch]

theorem Group.quieted_id (g : Group) : g.quieted.id = g.id :=
  Group.foldl_id (fun g (b : Bundle) => g.quiet b.id) (fun g b => g.quiet_id b.id) _ g

theorem Group.quieted_scratch (g : Group) : g.quieted.scratch = g.scratch :=
  Group.foldl_scratch (fun g (b : Bundle) => g.quiet b.id) (fun g b => g.quiet_scratch b.id) _ g

theorem stopGroup_sameScr (s : State) (gid : Nat) (f : FRec) (bid : Option Nat) (pc : Option W64) : SameScr s (stopGroup s gid f bid pc) := by
  cases hg : s.group? gid with
  | none =>
    unfold stopGroup
    rw [hg]
    exact .refl s
  | some g =>
    cases hrun : g.stop.isSome with
    | true =>
      unfold stopGroup
      rw [hg]
      dsimp only
      rw [hrun]
      exact .of_groups rfl
    | false =>
      obtain ⟨bs, st, hgroups⟩ := stopGroup_groups f bid pc hg hrun
      refine (SameScr.updGroup s gid _ (fun _ _ => ?_) (fun y hy => ?_)).trans (.of_groups hgroups)
      · exact g.quieted_id.trans (State.group_id hg)
      · rw [hg] at hy
        cases hy
        exact g.quieted_scratch

theorem endRun_sameScr (s : State) (gid bid : Nat) (pc : W64) : SameScr s (endRun s gid bid pc) := by
  unfold endRun
  split
  · exact .refl s
  next g hg =>
    split
    · have hback : SameScr s (s.updGroup gid (fun _ => (g.returnAll bid).updBundle bid (fun b =>
          { b with byp := [], haz := [], runEnded := true, dfault := none, dall := [], st := if b.st == .drain then .ready else b.st }))) :=
        .updGroup s gid _ (fun _ _ => (Group.returnAll_id g bid).trans (State.group_id hg)) (fun y hy => by
          rw [hg] at hy
          cases hy
          exact g.returnAll_scratch bid)
      dsimp only
      split
      · exact hback.trans (stopGroup_sameScr _ _ _ _ _)
      · exact hback
    · exact .updBundle ..

theorem finishWait_sameScr (s : State) (gid bid : Nat) : SameScr s (finishWait s gid bid) := by
  unfold finishWait
  split
  · exact .refl s
  · dsimp only
    split
    · exact (SameScr.updBundle ..).trans (endRun_sameScr ..)
    · exact .updBundle ..

theorem retest_sameScr (s : State) (sel : Group → Bool) (f : Group → PollAt → Option Nat) (t : Nat) (stale : L1Line → Bool) :
    SameScr s (retest s sel f t stale) := by
  unfold retest
  split
  · refine SameScr.foldl (fun s g => ?_) _ s
    split
    · refine SameScr.foldl (fun s b => ?_) _ s
      split
      · dsimp only
        have hcore : ∀ b' : Bool, ∀ f : CoreSt → CoreSt, SameScr s (if b' = true then s.updCore g.die g.core f else s) := by
          intro b' f
          cases b'
          · exact .refl s
          · exact .of_groups rfl
        split
        · exact ((hcore _ _).trans (.updBundle ..)).trans (finishWait_sameScr ..)
        · exact (hcore _ _).trans (.updBundle ..)
      · exact .refl s
    · exact .refl s
  · exact .refl s

theorem coreHeal_sameScr (s : State) (die num off n : Nat) : SameScr s (s.coreHeal die num off n) := by
  have hbad : ∀ y : State, SameScr s y → SameScr s (((List.range (n / 4 + 1)).map (fun i => roundUp off 4 + 4 * i)).foldl (fun s o =>
      if decide (off ≤ o) && decide (o + 4 ≤ off + n) then (match s.storeAt die num o with
        | .reg gid t r _ => s.updGroup gid (fun g => g.updTh t (fun th => { th with bad := th.bad.filter (· != BitVec.ofNat 6 r) }))
        | _ => s) else s) y) := by
    refine fun y hy => hy.trans (SameScr.foldl (fun s o => ?_) _ y)
    split
    · split
      · exact .updGroup _ _ _ (fun _ h => h) (fun _ _ => rfl)
      · exact .refl s
    · exact .refl s
  have hpoison : ∀ q : Nat × Nat × Nat → Bool, SameScr s (if s.mem.corePoison.isEmpty then s
      else s.updMem (fun m => { m with corePoison := m.corePoison.filter q })) := fun q => .ite (.refl s) (.of_groups rfl)
  exact .ite (hbad _ (hpoison _)) (hpoison _)

/-- What a write of scratch leaves in its group's scratch and in the others'. -/
theorem scrWrite_scratch (s : State) (gid off : Nat) (bs : List Byte) (i : Nat) :
    ((s.scrWrite gid off bs).group? i).map (·.scratch) =
      if i = gid then (s.group? i).map (fun g => g.scratch.write off bs) else (s.group? i).map (·.scratch) := by
  have hheal : ∃ h, s.scrWrite gid off bs = (h.updGroup gid (fun g => { g with scratch := g.scratch.write off bs })).wakeScr gid ∧ SameScr s h := by
    refine ⟨_, rfl, ?_⟩
    split
    · exact coreHeal_sameScr ..
    · exact .refl s
  obtain ⟨h, hwrite, hsame⟩ := hheal
  rw [hwrite, State.wakeScr, (retest_sameScr ..).same]
  by_cases hi : i = gid
  · subst hi
    rw [if_pos rfl, State.group_updGroup_same _ _ (fun g => { g with scratch := g.scratch.write off bs }) (fun _ => rfl), Option.map_map]
    have hm := congrArg (Option.map (fun m : Memory => m.write off bs)) (hsame.same i)
    rwa [Option.map_map, Option.map_map] at hm
  · rw [if_neg hi, State.group_updGroup_other _ _ _ (fun g => { g with scratch := g.scratch.write off bs }) (fun _ => rfl) hi, hsame.same]

/-- Settles O46: the group's scratch is the written one, every other group's is as it was. -/
theorem scratchStoreChangesItsBytes : Obligations.ScratchStoreChangesItsBytes := by
  intro s g off bs hg hwf
  have hscr := scrWrite_scratch s g.id off bs
  have hown := hscr g.id
  rw [if_pos rfl, hg] at hown
  obtain ⟨g', hg', hg's⟩ := Option.map_eq_some_iff.mp hown
  refine ⟨g', hg', ?_, ?_, fun a ha => ?_, fun i hi => ?_⟩
  · rw [hg's]; exact Memory.write_wf hwf off bs
  · rw [Group.scr, hg's]; exact Memory.read_write_same hwf off bs
  · rw [hg's]; exact Memory.read1_write_other hwf off bs a ha
  · rw [hscr, if_neg hi]
end Sys2Proof.Machine

namespace Sys2Proof.Rules
open Sys2Proof.Safety Sys2Proof.Machine

/-- Where every team acts in its turn, each acts in a state that the others have led to. -/
theorem chain_turn {h : State → Nat → Option State} {R : State → State → Prop} (hrefl : ∀ s, R s s) (htrans : ∀ s t u, R s t → R t u → R s u)
    (hstep : ∀ s t u, h s t = some u → R s u) (ts : List Nat) {s z : State} (hz : chain h ts s = some z) :
    ∀ t ∈ ts, ∃ y u, R s y ∧ h y t = some u := by
  induction ts generalizing s with
  | nil => exact fun t ht => nomatch ht
  | cons a ts ih =>
    obtain ⟨u, hu, hrest⟩ := Option.bind_eq_some_iff.mp hz
    intro t ht
    rcases List.mem_cons.mp ht with rfl | ht
    · exact ⟨s, u, hrefl s, hu⟩
    · obtain ⟨y, v, hy, hv⟩ := ih hrest t ht
      exact ⟨y, v, htrans _ _ _ (hstep _ _ _ hu) hy, hv⟩

/-- What of a block's bytes must be 0 or small holds (R292). -/
def blockClean (b : List Byte) : Bool := zeros b 4 7 && zeros b 48 63 && decide ((dblock b).kind.toNat < 16)

theorem debugged_clean {o : OpF} {bytes : Nat} {wr : Bool} {act : Ctx → State → DBlock → State × Nat × Option Nat} {c : Ctx} {s u : State} {t : Nat}
    (h : debugged o bytes wr act c s t = some u) :
    blockOk s c (c.s t o.a) 64 64 false false = true ∧ blockClean (scratchOf s c (c.s t o.a).toNat 64) = true ∧
      ∃ st state, u = putStatus (act c s (dblock (scratchOf s c (c.s t o.a).toNat 64))).1 c.g.id (c.s t o.a).toNat st state := by
  obtain ⟨hgo, hu⟩ := Option.ite_none_right_eq_some.mp h
  simp only [Bool.and_eq_true] at hgo
  obtain ⟨⟨⟨⟨⟨hblk, hres⟩, hlow⟩, hhigh⟩, hkind⟩, hbuf⟩ := hgo
  refine ⟨hblk, ?_, _, _, (Option.some.inj hu).symm⟩
  rw [blockClean, hlow, hhigh, hkind]
  rfl

/-- A debug instruction's team whose block is clean bars nothing as the instruction begins. -/
theorem debugTeam_not_stop {o : OpF} {bytes : Nat} {wr : Bool} {act : State → DBlock → State × Nat × Option Nat} {c : Ctx} {s : State} {t : Nat}
    (h : blockClean (scratchOf s c (c.s t o.a).toNat 64) = true) : (debugTeam s c o bytes wr act t).bar s c = none := by
  simp only [blockClean, Bool.and_eq_true] at h
  obtain ⟨⟨hlow, hhigh⟩, hkind⟩ := h
  unfold debugTeam
  dsimp only
  split
  · rfl
  · rfl
  · change TeamRes.bar s c (if (!(zeros (scratchOf s c (c.s t o.a).toNat 64) 4 7) || !(zeros (scratchOf s c (c.s t o.a).toNat 64) 48 63) ||
      decide ((dblock (scratchOf s c (c.s t o.a).toNat 64)).kind.toNat ≥ 16)) = true then _ else _) = _
    rw [hlow, hhigh, decide_eq_false (Nat.not_le.mpr (of_decide_eq_true hkind)), if_neg (by decide)]
    split <;> rfl

theorem scratchOf_same {s t : State} (h : SameScr s t) (c : Ctx) (off n : Nat) : scratchOf t c off n = scratchOf s c off n := by
  have hm := congrArg (fun m : Option Memory => match m with | some m => m.read off n | none => []) (h.same c.g.id)
  unfold scratchOf
  cases hs : s.group? c.g.id <;> cases ht : t.group? c.g.id <;> rw [hs, ht] at hm <;> exact hm

/-- Whether a block holds does not depend on what its team then does. -/
theorem debugged_any {o : OpF} {bytes : Nat} {wr : Bool} {act act' : Ctx → State → DBlock → State × Nat × Option Nat} {c : Ctx} {s u : State} {t : Nat}
    (h : debugged o bytes wr act c s t = some u) : ∃ v, debugged o bytes wr act' c s t = some v := by
  obtain ⟨hgo, _⟩ := Option.ite_none_right_eq_some.mp h
  exact ⟨_, if_pos hgo⟩

theorem recvTeam_of_asked {o : OpF} {c : Ctx} {s u : State} {t : Nat} (h : mailAsked o c s t = some u) : recvTeam s c o t = .ok u := by
  obtain ⟨y, hy, rfl⟩ := Option.map_eq_some_iff.mp h
  obtain ⟨v, hv⟩ := debugged_any (act' := fun _ s b => (s, 256 + b.buf, none)) hy
  have hteam := debugTeam_of_debugged hv
  unfold recvTeam
  dsimp only at hteam ⊢
  rw [hteam]
  rfl

/-- Settles O22: every team's block waits with the bundle; a team changes the bundle alone, so that every block is clean as the instruction begins. -/
theorem mailReceiveCompletes : Obligations.MailReceiveCompletes := by
  intro o s c0 x c h z hz hmail
  show execDmboxRecv o s = _
  rw [execDmboxRecv, issue_ready h]
  have hturn := chain_turn (R := SameScr) SameScr.refl (fun _ _ _ => SameScr.trans) (fun s t u hu => by
    obtain ⟨_, _, rfl⟩ := Option.map_eq_some_iff.mp hu
    exact .updBundle ..) _ hz
  rw [eachTeam_chain (h := mailAsked o c) (fun s t u => recvTeam_of_asked) (fun t ht => ?_) hz]
  · unfold mailOf at hmail ⊢
    cases hb : (z.group? c.g.id).bind (fun g => g.bundle? c.b.id) with
    | none => rw [hb] at hmail; exact absurd rfl hmail
    | some b =>
      rw [hb] at hmail
      dsimp only at hmail ⊢
      generalize b.st = st at hmail ⊢
      cases st with
      | recv l => rfl
      | _ => exact absurd rfl hmail
  · obtain ⟨y, u, hsame, hu⟩ := hturn t ht
    obtain ⟨v, hv, _⟩ := Option.map_eq_some_iff.mp hu
    obtain ⟨_, hclean, _⟩ := debugged_clean hv
    rw [scratchOf_same hsame] at hclean
    have hbar := debugTeam_not_stop (bytes := 64) (wr := true) (act := fun s b => (s, 256 + b.buf, none)) hclean
    unfold recvTeam
    dsimp only
    split
    · rfl
    next hne => exact hbar
end Sys2Proof.Rules

namespace Sys2Proof.Machine
open Sys2Proof.Safety Sys2Proof.Rules

theorem Memory.read_drop (m : Memory) (a n k : Nat) : (m.read a n).drop k = m.read (a + k) (n - k) := by
  induction k generalizing a n with
  | zero => rfl
  | succ k ih =>
    cases n with
    | zero => rw [Nat.zero_sub]; rfl
    | succ n => rw [Memory.read, List.drop_succ_cons, ih, Nat.add_right_comm, Nat.add_assoc, Nat.add_sub_add_right]

theorem Memory.read_take (m : Memory) (a n k : Nat) (h : k ≤ n) : (m.read a n).take k = m.read a k := by
  induction k generalizing a n with
  | zero => rfl
  | succ k ih =>
    cases n with
    | zero => omega
    | succ n => rw [Memory.read, List.take_succ_cons, ih _ _ (by omega), Memory.read]

theorem Memory.read_all_zero (m : Memory) (a n : Nat) : (m.read a n).all (· == 0) = true ↔ ∀ i, i < n → m.read1 (a + i) = 0 := by
  induction n generalizing a with
  | zero => simp [Memory.read]
  | succ n ih =>
    rw [Memory.read, List.all_cons, Bool.and_eq_true, beq_iff_eq, ih]
    constructor
    · rintro ⟨h0, h⟩ i hi
      cases i with
      | zero => exact h0
      | succ i =>
        have := h i (by omega)
        rwa [Nat.add_assoc, Nat.add_comm 1] at this
    · intro h
      refine ⟨h 0 (by omega), fun i hi => ?_⟩
      have := h (i + 1) (by omega)
      rwa [Nat.add_comm i, ← Nat.add_assoc] at this

/-- A byte that is not what an unlisted one reads as stays under a write elsewhere, whatever the form of the memory. -/
theorem Memory.read1_write1_listed (m : Memory) (x y : Nat) (b : Byte) (hy : y ≠ x) (h : m.read1 y ≠ unlisted) : (m.write1 x b).read1 y = m.read1 y := by
  induction m with
  | nil => exact absurd rfl h
  | cons e m ih =>
    obtain ⟨a, v⟩ := e
    rw [Memory.read1] at h ⊢
    rw [Memory.write1]
    by_cases hay : a = y
    · subst hay
      by_cases hlt : x < a
      · by_cases hb : b = unlisted <;> simp [hy, hlt, hb, Memory.read1, Ne.symm hy, Nat.lt_asymm hlt]
      · simp [hy, hlt, Memory.read1]
    · rw [if_neg (show ¬ (a == y) = true by simpa using hay)] at h ⊢
      by_cases hya : y < a
      · rw [if_pos hya] at h
        exact absurd rfl h
      · rw [if_neg hya] at h ⊢
        by_cases hax : a = x
        · subst hax
          by_cases hb : b = unlisted <;> simp [hb, Memory.read1, hay, hya]
        · by_cases hlt : x < a
          · by_cases hb : b = unlisted <;> simp [hlt, hb, hax, Memory.read1, hay, hya, Ne.symm hy, show ¬ y < x by omega]
          · simp [hax, hlt, Memory.read1, hay, hya, ih h]

theorem Memory.read1_write_listed (m : Memory) (a : Nat) (bs : List Byte) (y : Nat) (hy : y < a ∨ a + bs.length ≤ y) (h : m.read1 y ≠ unlisted) :
    (m.write a bs).read1 y = m.read1 y := by
  induction bs generalizing m a with
  | nil => rfl
  | cons b bs ih =>
    rw [List.length_cons] at hy
    have h1 := Memory.read1_write1_listed m a y b (by omega) h
    rw [Memory.write, ih _ _ (by omega) (by rwa [h1]), h1]

/-- A byte of a group's scratch; 0 where there is no such group. -/
def scrByte (s : State) (gid y : Nat) : Byte := match (s.group? gid).map (·.scratch) with | some m => m.read1 y | none => 0

theorem scrByte_scrWrite_listed (s : State) (gid off : Nat) (bs : List Byte) (y : Nat) (hy : y < off ∨ off + bs.length ≤ y) (h : scrByte s gid y ≠ 0) :
    scrByte (s.scrWrite gid off bs) gid y = scrByte s gid y := by
  unfold scrByte at h ⊢
  rw [scrWrite_scratch, if_pos rfl]
  cases hg : s.group? gid with
  | none => rfl
  | some g =>
    rw [hg] at h
    exact Memory.read1_write_listed g.scratch off bs y hy h
end Sys2Proof.Machine

namespace Sys2Proof.Rules
open Sys2Proof.Safety Sys2Proof.Machine

theorem scratchOf_zeros (s : State) (c : Ctx) (off lo hi : Nat) (h : hi < 64) :
    zeros (scratchOf s c off 64) lo hi = true ↔ ∀ i, lo ≤ i → i ≤ hi → scrByte s c.g.id (off + i) = 0 := by
  unfold zeros scratchOf scrByte
  cases hg : s.group? c.g.id with
  | none => simp
  | some g =>
    dsimp only [Option.map_some]
    rw [Group.scr, Memory.read_drop, Memory.read_take _ _ _ _ (by omega), Memory.read_all_zero]
    constructor
    · intro hz i hlo hhi
      have := hz (i - lo) (by omega)
      rwa [Nat.add_assoc, Nat.add_sub_cancel' hlo] at this
    · intro hz i hi
      rw [Nat.add_assoc]
      exact hz (lo + i) (by omega) (by omega)

theorem scratchOf_kind (s : State) (c : Ctx) (off : Nat) : (dblock (scratchOf s c off 64)).kind = scrByte s c.g.id (off + 29) := by
  unfold dblock scratchOf scrByte fld
  cases hg : s.group? c.g.id with
  | none => rfl
  | some g =>
    dsimp only [Option.map_some]
    rw [Group.scr, Memory.read_drop, Memory.read_take _ _ _ _ (by omega)]
    simp [Memory.read, leNat]

/-- Bytes that a control block's checks look at, where they are not 0, stay: only bytes 36 to 47 of a block are written (R292). -/
def KeepsBlocks (gid : Nat) (s t : State) : Prop := ∀ y, y % 64 < 36 ∨ 48 ≤ y % 64 → scrByte s gid y ≠ 0 → scrByte t gid y = scrByte s gid y

theorem KeepsBlocks.trans {gid : Nat} {s t u : State} (h1 : KeepsBlocks gid s t) (h2 : KeepsBlocks gid t u) : KeepsBlocks gid s u := by
  intro y hy hne
  have e := h1 y hy hne
  rw [h2 y hy (by rwa [e]), e]

theorem KeepsBlocks.of_same {gid : Nat} {s t : State} (h : SameScr s t) : KeepsBlocks gid s t := by
  intro y _ _
  unfold scrByte
  rw [h.same]

theorem putStatus_keepsBlocks (s : State) (gid blk st : Nat) (state : Option Nat) (h : blk % 64 = 0) : KeepsBlocks gid s (putStatus s gid blk st state) := by
  have hone : ∀ (s : State) (k : Nat) (bs : List Byte), 36 ≤ k → k + bs.length ≤ 48 → KeepsBlocks gid s (s.scrWrite gid (blk + k) bs) := by
    intro s k bs hk hlen y hy hne
    exact scrByte_scrWrite_listed s gid (blk + k) bs y (by omega) hne
  unfold putStatus
  dsimp only
  split
  · exact (hone s 36 _ (by omega) (by simp [leBytes])).trans (hone _ 40 _ (by omega) (by simp [leBytes]))
  · exact hone s 36 _ (by omega) (by simp [leBytes])

/-- A block that is clean once others have written their statuses was clean before. -/
theorem clean_of_later {s t : State} {c : Ctx} {off : Nat} (h : KeepsBlocks c.g.id s t) (hoff : off % 64 = 0) (hc : blockClean (scratchOf t c off 64) = true) :
    blockClean (scratchOf s c off 64) = true := by
  simp only [blockClean, Bool.and_eq_true, decide_eq_true_eq, scratchOf_kind] at hc ⊢
  obtain ⟨⟨hlow, hhigh⟩, hkind⟩ := hc
  rw [scratchOf_zeros _ _ _ _ _ (by omega)] at hlow hhigh ⊢
  rw [scratchOf_zeros _ _ _ _ _ (by omega)]
  have hzero : ∀ i, i < 36 ∨ 48 ≤ i ∧ i < 64 → scrByte t c.g.id (off + i) = 0 → scrByte s c.g.id (off + i) = 0 := by
    intro i hi hz
    by_contra hne
    rw [h _ (by omega) hne] at hz
    exact hne hz
  refine ⟨⟨fun i hlo hhi => hzero i (by omega) (hlow i hlo hhi), fun i hlo hhi => hzero i (by omega) (hhigh i hlo hhi)⟩, ?_⟩
  by_cases hne : scrByte s c.g.id (off + 29) = 0
  · rw [hne]; decide
  · rwa [← h _ (by omega) hne]


/-- What a team of DSTEP asks for, and the status where it asks for nothing (R294). -/
def stepAct (o : OpF) (t : Nat) (c : Ctx) : State → DBlock → State × Nat × Option Nat :=
  onHalted c (fun s g b =>
    let n := 32 * b.team + b.lane
    match (if b.lane < 32 ∧ (g.th n).live = true then g.bundleOf n else none) with
    | none => (s, 1, none)
    | some k => if k.stepWaits then (s, 4, none)
      else ({ s with dsteps := s.dsteps ++ [{ gid := c.g.id, bid := c.b.id, blk := (c.s t o.a).toNat, target := g.id, thread := n }] }, 256, none))

theorem stepAsked_eq (o : OpF) (c : Ctx) (s : State) (t : Nat) : stepAsked o c s t =
    (debugged o 0 true (stepAct o t) c s t).map (fun u => if u.dsteps.length = s.dsteps.length then u else { s with dsteps := u.dsteps }) := rfl

/-- A DSTEP changes no group itself. -/
theorem stepAct_groups (o : OpF) (t : Nat) (c : Ctx) (s : State) (b : DBlock) : (stepAct o t c s b).1.groups = s.groups := by
  unfold stepAct onHalted onTargets
  dsimp only
  split
  · rfl
  · split
    · rfl
    · split
      · split
        · split
          · rfl
          · split <;> rfl
        · rfl
      · rfl

theorem stepAsked_keepsBlocks {o : OpF} {c : Ctx} {s u : State} {t : Nat} (h : stepAsked o c s t = some u) : KeepsBlocks c.g.id s u := by
  rw [stepAsked_eq] at h
  obtain ⟨v, hv, rfl⟩ := Option.map_eq_some_iff.mp h
  obtain ⟨hblk, _, st, state, rfl⟩ := debugged_clean hv
  have halign : (c.s t o.a).toNat % 64 = 0 := by
    unfold blockOk at hblk
    simp only [Bool.and_eq_true, beq_iff_eq] at hblk
    exact hblk.1.1.1
  split
  · exact (KeepsBlocks.of_same (.of_groups (stepAct_groups ..))).trans (putStatus_keepsBlocks _ _ _ _ _ halign)
  · exact .of_same (.of_groups rfl)

theorem dstepTeam_eq (s : State) (c : Ctx) (o : OpF) (t : Nat) : dstepTeam s c o t = match debugTeam s c o 0 true (stepAct o t c) t with
    | .ok s' => if s'.dsteps.length == s.dsteps.length then .ok s' else .ok { s with dsteps := s'.dsteps }
    | x => x := by
  unfold dstepTeam stepAct
  simp only [Bool.and_eq_true, decide_eq_true_eq] <;> rfl

theorem dstepTeam_of_asked {o : OpF} {c : Ctx} {s u : State} {t : Nat} (h : stepAsked o c s t = some u) : dstepTeam s c o t = .ok u := by
  rw [stepAsked_eq] at h
  obtain ⟨v, hv, rfl⟩ := Option.map_eq_some_iff.mp h
  rw [dstepTeam_eq, debugTeam_of_debugged hv]
  dsimp only
  by_cases hl : v.dsteps.length = s.dsteps.length
  · rw [if_pos (beq_iff_eq.mpr hl), if_pos hl]
  · rw [if_neg (by simpa using hl), if_neg hl]

/-- Settles O21: a team's status is written into bytes that no block's checks look at, so that the block of each team that acts in its turn is
clean as the instruction begins. -/
theorem debugStepCompletes : Obligations.DebugStepCompletes := by
  intro o s c0 x c h z hz
  show execDstep o s = _
  rw [execDstep, issue_ready h]
  have hturn := chain_turn (R := KeepsBlocks c.g.id) (fun s => .of_same (.refl s)) (fun _ _ _ => KeepsBlocks.trans) (fun _ _ _ => stepAsked_keepsBlocks) _ hz
  rw [eachTeam_chain (h := stepAsked o c) (fun s t u => dstepTeam_of_asked) (fun t ht => ?_) hz]
  obtain ⟨y, u, hkeeps, hu⟩ := hturn t ht
  rw [stepAsked_eq] at hu
  obtain ⟨v, hv, _⟩ := Option.map_eq_some_iff.mp hu
  obtain ⟨hblk, hclean, _⟩ := debugged_clean hv
  have halign : (c.s t o.a).toNat % 64 = 0 := by
    unfold blockOk at hblk
    simp only [Bool.and_eq_true, beq_iff_eq] at hblk
    exact hblk.1.1.1
  have hbar := debugTeam_not_stop (bytes := 0) (wr := true) (act := stepAct o t c) (clean_of_later hkeeps halign hclean)
  rw [dstepTeam_eq]
  split
  · split <;> rfl
  next hne => exact hbar
end Sys2Proof.Rules
end

section
/-! PROOF. The checks of the gate: R315, R165, R95, R151. -/

namespace Sys2Proof.Rules
open Sys2Proof.Safety Sys2Proof.Machine

/-- The instruction's meaning is the gate of `p`, then some effect. -/
def Issues (i : Instr) (p : Spec) : Prop := ∃ body, ∀ s, exec i s = issue s p body

/-- What a table's rows name is what the gates of their instructions ask for. -/
def Named {α : Type} (T : Instr → Option α) (spec : α → Spec) : Prop := ∀ i r, T i = some r → Issues i (spec r)

theorem Named.or {α : Type} {T U : Instr → Option α} {spec : α → Spec} (ht : Named T spec) (hu : Named U spec) :
    Named (fun i => (T i).or (U i)) spec := fun i r h =>
  (Option.or_eq_some_iff.mp h).elim (ht i r) (fun h => hu i r h.2)

theorem Named.map {α : Type} {T : Instr → Option α} {spec : α → Spec} (ht : Named T spec) : Named (fun i => (T i).map spec) id := by
  intro i p h
  obtain ⟨r, hr, rfl⟩ := Option.map_eq_some_iff.mp h
  exact ht i r hr

theorem readTo_issues {o : OpF} {rd : List RegRef} {f : State → Ctx → Nat → W64} {f' : Ctx → State → Nat → W64} {r : Rule}
    (h : sysRead o rd f = some r) : ∃ body, ∀ s, readTo s o rd f' = issue s r.spec body := by
  unfold sysRead at h
  split at h <;> cases h
  all_goals
    rename_i ha
    exact ⟨_, fun s => by simp only [readTo, ha]; rfl⟩

theorem short_spec (o : OpS) (imm : Bool) (f : W32 → W32 → W32) : (short o imm f).spec =
    { g := 7, rd := (if imm then [] else [.v (lowV o.a)]) ++ [.v (lowV o.d)], wr := [.v (lowV o.d)] } := by
  simp only [short, Rule.v, lowV_eq]

theorem loadLanes_issues {g : BitVec 3} {m glob : Bool} {rd : List RegRef} {w : BitVec 2} {sx : Bool} {d : BitVec 6} {p : Option PfC}
    {addr : Ctx → Nat → W64} {chk : State → Ctx → Nat → W64 → Except AFault Tgt} :
    ∃ body, ∀ s, loadLanes s g m glob rd w sx d p addr chk = issue s (load g m glob rd w sx d p addr chk).spec body :=
  ⟨_, fun s => by simp only [loadLanes, load, datumRef_eq, resRef_eq]; rfl⟩

theorem storeLanes_issues {g : BitVec 3} {m glob : Bool} {rd : List RegRef} {w : BitVec 2} {d : BitVec 6} {p : Option PfC}
    {addr : Ctx → Nat → W64} {chk : State → Ctx → Nat → W64 → Except AFault Tgt} :
    ∃ body, ∀ s, storeLanes s g m glob rd w d p addr chk = issue s (store g m glob rd w d p addr chk).spec body :=
  ⟨_, fun s => by simp only [storeLanes, store, datumRef_eq]; rfl⟩

theorem arithmetic_named : Named arithmetic (·.spec) := by
  intro i r h
  unfold arithmetic at h
  split at h <;> cases h <;> exact ⟨_, fun _ => rfl⟩

theorem bitwise_named : Named bitwise (·.spec) := by
  intro i r h
  unfold bitwise at h
  split at h <;> cases h
  case h_22.refl o =>
    cases hd : o.b.getLsbD 5 <;> exact ⟨_, fun s => by simp only [exec, execSxt, hd]; rfl⟩
  all_goals exact ⟨_, fun _ => rfl⟩

theorem comparison_named : Named comparison (·.spec) := by
  intro i r h
  unfold comparison at h
  split at h
  case h_1 => cases (Option.ite_none_right_eq_some.mp h).2; exact ⟨_, fun _ => rfl⟩
  case h_2 => cases (Option.ite_none_right_eq_some.mp h).2; exact ⟨_, fun _ => rfl⟩
  case h_3 => cases (Option.ite_none_right_eq_some.mp h).2; exact ⟨_, fun _ => rfl⟩
  case h_4 => cases (Option.ite_none_right_eq_some.mp h).2; exact ⟨_, fun _ => rfl⟩
  case h_5 => cases (Option.ite_none_right_eq_some.mp h).2; exact ⟨_, fun _ => rfl⟩
  case h_6 => cases (Option.ite_none_right_eq_some.mp h).2; exact ⟨_, fun _ => rfl⟩
  case h_7 => cases (Option.ite_none_right_eq_some.mp h).2; exact ⟨_, fun _ => rfl⟩
  case h_8 => cases h

theorem moves_named : Named moves (·.spec) := by
  intro i r h
  unfold moves at h
  split at h
  case h_1 o =>
    split at h <;> cases h <;> rename_i hb <;> exact ⟨_, fun s => by simp only [exec, execMovA, hb]; rfl⟩
  all_goals (cases h <;> exact ⟨_, fun _ => rfl⟩)

theorem scalars_named : Named scalars (·.spec) := by
  intro i r h
  unfold scalars at h
  split at h
  case h_7 o =>
    split at h <;> cases h <;> rename_i hb <;> exact ⟨_, fun s => by simp only [exec, execSmovA, hb]; rfl⟩
  all_goals (cases h <;> exact ⟨_, fun _ => rfl⟩)

theorem systemReads_named : Named systemReads (·.spec) := by
  intro i r h
  unfold systemReads at h
  split at h
  next o =>
    obtain ⟨hb, hr⟩ := readTo_issues (Option.ite_none_right_eq_some.mp h).2
    exact ⟨_, fun s => (by simp only [exec, execRdsys, decide_eq_true_eq]; exact hr s)⟩
  next o => exact readTo_issues h
  next o => exact readTo_issues h
  · cases h

theorem floats_named : Named floats (·.spec) := by
  intro i r h
  unfold floats at h
  split at h <;> cases h <;> exact ⟨_, fun _ => rfl⟩

theorem conversions_named : Named conversions (·.spec) := by
  intro i r h
  unfold conversions at h
  split at h
  case h_1 => cases (Option.ite_none_right_eq_some.mp h).2; exact ⟨_, fun _ => rfl⟩
  case h_2 => cases (Option.ite_none_right_eq_some.mp h).2; exact ⟨_, fun _ => rfl⟩
  case h_3 => cases (Option.ite_none_right_eq_some.mp h).2; exact ⟨_, fun _ => rfl⟩
  all_goals (cases h <;> exact ⟨_, fun _ => rfl⟩)

theorem shorts_named : Named shorts (·.spec) := by
  intro i r h
  unfold shorts at h
  split at h <;> cases h
  all_goals exact ⟨_, fun s => by simp only [shortFp, short_spec, Rule.v, lowV_eq]; rfl⟩

theorem masks_named : Named masks (·.spec) := by
  intro i r h
  unfold masks at h
  split at h
  case h_3 o =>
    dsimp only at h
    split at h <;> cases h <;> rename_i hb <;> exact ⟨_, fun s => by simp only [exec, execBallot, beq_iff_eq, hb]; rfl⟩
  all_goals (cases h <;> exact ⟨_, fun _ => rfl⟩)

theorem lates_named : Named lates (·.spec) := by
  intro i r h
  unfold lates at h
  split at h <;> cases h
  case h_6 => exact ⟨_, fun _ => rfl⟩
  case h_7 => exact ⟨_, fun s => by simp only [exec, execShfl, shflSel_eq, shflReg_eq, decide_eq_true_eq]; rfl⟩
  case h_8 => exact ⟨_, fun _ => rfl⟩
  all_goals exact loadLanes_issues

theorem atomics_named : Named atomics (·.spec) := by
  intro i r h
  unfold atomics at h
  split at h <;> cases h <;> exact ⟨_, fun _ => rfl⟩

theorem waiters_named : Named waiters (·.spec) := by
  intro i r h
  unfold waiters at h
  split at h <;> cases h <;> exact ⟨_, fun _ => rfl⟩

theorem storing_named : Named storing (·.spec) := by
  intro i r h
  unfold storing at h
  split at h <;> cases h
  case h_1 => exact storeLanes_issues
  case h_2 => exact storeLanes_issues
  case h_3 => exact storeLanes_issues
  case h_4 => exact storeLanes_issues
  case h_5 => exact storeLanes_issues
  all_goals exact ⟨_, fun _ => rfl⟩

theorem reductions_named : Named reductions (·.spec) := by
  intro i r h
  unfold reductions at h
  split at h <;> cases h <;> exact ⟨_, fun _ => rfl⟩

theorem effects_named : Named effects (·.spec) := by
  intro i r h
  unfold effects at h
  split at h <;> cases h <;> exact ⟨_, fun _ => rfl⟩

theorem teams_named : Named teams (·.spec) := by
  intro i r h
  unfold teams at h
  split at h <;> cases h <;> exact ⟨_, fun _ => rfl⟩

theorem debugging_named : Named debugging (·.spec) := by
  intro i r h
  unfold debugging at h
  split at h <;> cases h <;> exact ⟨_, fun _ => rfl⟩

theorem jumps_named : Named jumps (·.spec) := by
  intro i r h
  unfold jumps at h
  split at h <;> cases h <;> exact ⟨_, fun _ => rfl⟩

theorem stays_named : Named stays (·.spec) := by
  intro i r h
  unfold stays at h
  split at h <;> cases h <;> exact ⟨_, fun _ => rfl⟩


/-- DSTEP and DMBOX.RECV, which are in no table. -/
def waitsOnDebug : Instr → Option Spec
  | .dstep o => some { g := o.g, rd := [.s (s5 o.a)], priv := true }
  | .dmboxRecv o => some { g := o.g, rd := [.s (s5 o.a)], priv := true }
  | _ => none

theorem waitsOnDebug_named : Named waitsOnDebug id := by
  intro i r h
  unfold waitsOnDebug at h
  split at h <;> cases h <;> exact ⟨_, fun _ => rfl⟩

/-- What an instruction names, as its rule gives it, is what its gate asks for. -/
theorem specOf_named : Named specOf id :=
  .or (.map <| .or arithmetic_named <| .or bitwise_named <| .or comparison_named <| .or moves_named <| .or scalars_named <|
    .or systemReads_named <| .or floats_named <| .or conversions_named <| .or shorts_named masks_named) <|
  .or (.map <| .or lates_named <| .or atomics_named waiters_named) <|
  .or (.map <| .or storing_named <| .or reductions_named effects_named) <|
  .or (.map <| .or teams_named debugging_named) <|
  .or (.map jumps_named) <| .or (.map stays_named) waitsOnDebug_named


theorem exec_of_gate_stop {i : Instr} {p : Spec} (h : specOf i = some p) {s : State} {out : Out} (hg : gate s p = .stop out) :
    exec i s = out := by
  obtain ⟨body, hb⟩ := specOf_named i p h
  rw [hb, issue, id_eq, hg]

theorem overWindow_eq_true {h : Nat} {l : List RegRef} : overWindow h l = true ↔ ∃ r ∈ l, ∃ n ∈ r.vs, h ≤ n.toNat := by
  simp only [overWindow, List.any_eq_true, decide_eq_true_eq]

theorem gate_window {p : Spec} {s : State} {c : Ctx} (hc : s.ctx = some c) (hw : ∃ r ∈ named p, ∃ n ∈ r.vs, c.r.h ≤ n.toNat) :
    gate s p = .stop (.next (precise s c .illop 0 0 0 c.c.words (c.active p.g))) := by
  unfold gate
  rw [hc]
  exact if_pos (overWindow_eq_true.mpr hw)

theorem gate_priv {p : Spec} {s : State} {c : Ctx} (hc : s.ctx = some c) (hw : ∀ r ∈ named p, ∀ n ∈ r.vs, n.toNat < c.r.h)
    (hp : p.priv = true) (hd : c.r.debug = false) :
    gate s p = .stop (.next (precise s c .illpriv 0 0 0 c.c.words (c.active p.g))) := by
  have hover : ¬ overWindow c.r.h (named p) = true := by
    rw [overWindow_eq_true]
    rintro ⟨r, hr, n, hn, h⟩
    exact absurd (hw r hr n hn) (Nat.not_lt.mpr h)
  have hpriv : (p.priv && !(c.at_ p.g).r.debug) = true := by rw [hp, show (c.at_ p.g).r.debug = false from hd]; rfl
  unfold gate
  rw [hc]
  exact (if_neg hover).trans (if_pos hpriv)

/-- Settles O32: the window is the first check of the gate. -/
theorem windowTraps : Obligations.WindowTraps := fun _ _ hi _ _ hc hw => exec_of_gate_stop hi (gate_window hc hw)

/-- Settles O33: the privilege is the second check of the gate. -/
theorem privilegeTraps : Obligations.PrivilegeTraps := fun _ _ hi hp _ _ hc hw hd => exec_of_gate_stop hi (gate_priv hc hw hp hd)

/-- The teams whose tokens the gate looks at. -/
def acting (p : Spec) (c : Ctx) : List Nat := (c.teams p.g).filter (fun t => !(c.b.part.contains t))

/-- What the gate looks at behind the implicit join: tokens, then the registers of the run, then room and poison. -/
def runChecks (x : State) (p : Spec) (c : Ctx) : Gate :=
  if (pendingOf c (acting p c) p.rd).isSome then .stop (.next (stallAt x c))
  else
    match pendingOf c (acting p c) p.wr with
    | some r => .stop (.next (precise x c .runhaz 0 0 0 (BitVec.ofNat 64 r.detail) c.act))
    | none =>
      match (named p).find? (fun r => c.b.hazards.any (RegRef.meets r)) with
      | some r => .stop (.next (precise x c .runhaz 0 0 0 (BitVec.ofNat 64 r.detail) c.act))
      | none =>
        if p.late && decide (c.b.outst.length ≥ 63) || c.strmHeld x p then .stop (.next (stallAt x c))
        else if (c.spoilt p).isEmpty then .go c x
        else .go { c with bad := (c.spoilt p).map (·.1) } (poisonedRead x c (c.spoilt p))

theorem ballotMet_eq_none {x : State} {p : Spec} {c : Ctx} (h : ∀ a, p.arm = some a → c.armedAt p.g a.1 = none) : ballotMet x p c = none := by
  unfold ballotMet
  cases ha : p.arm with
  | none => rfl
  | some a => rw [Option.bind_some, h a ha, Option.map_none]

theorem collGate_eq_none {x : State} {c : Ctx} (h : c.b.ts.length = (c.g.liveTeam (teamOf (c.b.ts.headD 0))).length ∧
    ∀ t ∈ c.b.ts, teamOf t = teamOf (c.b.ts.headD 0)) : collGate x c = none := by
  unfold collGate
  exact if_pos (by simpa using h)

theorem gate_begins {p : Spec} {s x : State} {c0 c : Ctx} (h : Begins p s c0 x c) : gate s p = runChecks x p c := by
  obtain ⟨hc0, hwin, hmode, hended, rfl, hctx, hwhole, harm⟩ := h
  obtain ⟨c1, hc1, rfl⟩ := Option.map_eq_some_iff.mp hctx
  have hover : ¬ overWindow c0.r.h (named p) = true := by
    rw [overWindow_eq_true]
    rintro ⟨r, hr, n, hn, h⟩
    exact absurd (hwin r hr n hn) (Nat.not_lt.mpr h)
  have hpriv : ¬ (p.priv && !(c0.at_ p.g).r.debug) = true := by
    rw [Bool.and_eq_true, Bool.not_eq_true']
    exact fun h => Bool.false_ne_true (h.2.symm.trans (hmode h.1))
  have hend : ¬ ((p.ends || p.coll) && !(c0.g.canEnd c0.b.id)) = true := by
    rw [Bool.and_eq_true, Bool.not_eq_true']
    exact fun h => Bool.false_ne_true (h.2.symm.trans (hended h.1).1)
  have hfault : ¬ ((p.ends || p.coll) && c0.b.dfault.isSome) = true := by
    rw [Bool.and_eq_true]
    exact fun h => by simp [(hended h.1).2] at h
  have hcoll : (if p.coll then collGate (begun s p c0) (c1.at_ p.g) else none) = none :=
    ite_eq_right_iff.mpr (fun hc => collGate_eq_none (hwhole hc))
  unfold gate
  rw [hc0]
  refine (if_neg hover).trans <| (if_neg hpriv).trans <| (if_neg hend).trans <| (if_neg hfault).trans ?_
  show (match (begun s p c0).ctx with | none => _ | some c => _) = _
  rw [hc1]
  have hbegun : (if p.ends || p.coll then endRun s (c0.at_ p.g).g.id (c0.at_ p.g).b.id (c0.at_ p.g).c.pc else s) = begun s p c0 := rfl
  simp only [hbegun, ballotMet_eq_none harm, hcoll]
  rfl

theorem pending_iff {p : Spec} {c : Ctx} {n : BitVec 5} : Pending p c n ↔ (acting p c).any (fun t => (c.g.team t).pend.contains n) = true := by
  simp only [Pending, acting, List.any_eq_true, List.mem_filter, Bool.not_eq_true', List.contains_eq_mem, decide_eq_true_eq,
    decide_eq_false_iff_not, and_assoc]

theorem pendingOf_eq_none {p : Spec} {c : Ctx} {l : List RegRef} (h : ∀ n, RegRef.s n ∈ l → ¬ Pending p c n) :
    pendingOf c (acting p c) l = none := by
  rw [pendingOf, List.find?_eq_none]
  intro r hr
  split
  case h_1 n => exact fun hp => h n hr (pending_iff.mpr hp)
  case h_2 => exact Bool.false_ne_true

theorem pendingOf_eq_some {p : Spec} {c : Ctx} {l : List RegRef} (h : ∃ n, RegRef.s n ∈ l ∧ Pending p c n) :
    ∃ n, pendingOf c (acting p c) l = some (.s n) ∧ RegRef.s n ∈ l ∧ Pending p c n := by
  obtain ⟨n, hn, hp⟩ := h
  have hsome : (pendingOf c (acting p c) l).isSome = true := by
    rw [pendingOf, List.find?_isSome]
    exact ⟨_, hn, pending_iff.mp hp⟩
  obtain ⟨r, hr⟩ := Option.isSome_iff_exists.mp hsome
  have hmem := List.mem_of_find?_eq_some hr
  have hmet := List.find?_some hr
  cases r with
  | s m => exact ⟨m, hr, hmem, pending_iff.mpr hmet⟩
  | _ => exact absurd hmet Bool.false_ne_true

theorem runChecks_reads {x : State} {p : Spec} {c : Ctx} (h : ∃ n, RegRef.s n ∈ p.rd ∧ Pending p c n) :
    runChecks x p c = .stop (.next (stallAt x c)) := by
  obtain ⟨n, hn, _⟩ := pendingOf_eq_some h
  exact if_pos (by rw [hn]; rfl)

theorem runChecks_writes {x : State} {p : Spec} {c : Ctx} (hr : ∀ n, RegRef.s n ∈ p.rd → ¬ Pending p c n)
    (hw : ∃ n, RegRef.s n ∈ p.wr ∧ Pending p c n) : ∃ n, RegRef.s n ∈ p.wr ∧ Pending p c n ∧
      runChecks x p c = .stop (.next (precise x c .runhaz 0 0 0 (BitVec.ofNat 64 (n.toNat + 256)) c.act)) := by
  obtain ⟨n, hn, hmem, hp⟩ := pendingOf_eq_some hw
  refine ⟨n, hmem, hp, (if_neg (by rw [pendingOf_eq_none hr]; exact Bool.false_ne_true)).trans ?_⟩
  show (match pendingOf c (acting p c) p.wr with | some r => _ | none => _) = _
  rw [hn]
  rfl

theorem runChecks_hazard {x : State} {p : Spec} {c : Ctx} (ht : ∀ n, RegRef.s n ∈ p.rd ++ p.wr → ¬ Pending p c n)
    (hh : ∃ r ∈ named p, ∃ h ∈ c.b.hazards, r.meets h = true) : ∃ r ∈ named p, (∃ h ∈ c.b.hazards, r.meets h = true) ∧
      runChecks x p c = .stop (.next (precise x c .runhaz 0 0 0 (BitVec.ofNat 64 r.detail) c.act)) := by
  have hsome : ((named p).find? (fun r => c.b.hazards.any (RegRef.meets r))).isSome = true := by
    simpa only [List.find?_isSome, List.any_eq_true] using hh
  obtain ⟨r, hr⟩ := Option.isSome_iff_exists.mp hsome
  refine ⟨r, List.mem_of_find?_eq_some hr, by simpa only [List.any_eq_true] using List.find?_some hr, ?_⟩
  have hrd : pendingOf c (acting p c) p.rd = none := pendingOf_eq_none (fun n hn => ht n (List.mem_append_left _ hn))
  have hwr : pendingOf c (acting p c) p.wr = none := pendingOf_eq_none (fun n hn => ht n (List.mem_append_right _ hn))
  refine (if_neg (by rw [hrd]; exact Bool.false_ne_true)).trans ?_
  show (match pendingOf c (acting p c) p.wr with | some r => _ | none => _) = _
  rw [hwr]
  dsimp only
  rw [hr]

theorem Begins.act_eq {p : Spec} {s x : State} {c0 c : Ctx} (h : Begins p s c0 x c) : c.act = c.active p.g := by
  obtain ⟨c1, _, rfl⟩ := Option.map_eq_some_iff.mp h.ctx
  rfl

/-- Settles O34: with no token in the way, the gate finds the first outstanding register that is named. -/
theorem hazardTraps : Obligations.HazardTraps := by
  intro i p hi s c0 x c hb ht hh
  obtain ⟨r, hr, hmet, hgate⟩ := runChecks_hazard (x := x) ht hh
  rw [hb.act_eq] at hgate
  exact ⟨r, hr, hmet, exec_of_gate_stop hi ((gate_begins hb).trans hgate)⟩

/-- Settles O35: the tokens read are looked at before those written. -/
theorem tokenRules : Obligations.TokenRules := by
  intro i p hi s c0 x c hb
  refine ⟨fun hr => exec_of_gate_stop hi ((gate_begins hb).trans (runChecks_reads hr)), fun hr hw => ?_⟩
  obtain ⟨n, hn, hp, hgate⟩ := runChecks_writes (x := x) hr hw
  rw [hb.act_eq] at hgate
  exact ⟨n, hn, hp, exec_of_gate_stop hi ((gate_begins hb).trans hgate)⟩
end Sys2Proof.Rules
end

section
/-! PROOF. Bundles split by next PC, BAR phases, and the stop of a group. -/

namespace Sys2Proof.Machine

/-- What `splitB` makes of a bundle that has threads of both kinds. -/
structure Halves (g h : Group) (b : Bundle) (keep : Nat → Bool) : Prop where
  mine : ∃ y, h.bundle? b.id = some y ∧ y.ts = b.ts.filter keep
  out : ∃ y, h.bundle? g.nextB = some y ∧ y.ts = b.ts.filter (fun t => !keep t)
  others : ∀ i, i ≠ b.id → i < g.nextB → h.bundle? i = g.bundle? i
  fresh : h.nextB = g.nextB + 1
  below : ∀ y ∈ h.bundles, y.id < h.nextB
  count : h.bundles.length = g.bundles.length + 1

theorem length_upd {α : Type} (p : α → Bool) (f : α → α) (l : List α) : (upd p f l).length = l.length := List.length_map _

/-- A bundle replaced by one of its identifier, and one of a fresh identifier added. -/
theorem halves_of_bundles {g h : Group} {b b1 b2 : Bundle} {keep : Nat → Bool} (hb : g.bundle? b.id = some b)
    (hids : ∀ y ∈ g.bundles, y.id < g.nextB) (h1 : b1.id = b.id) (h2 : b2.id = g.nextB) (ht1 : b1.ts = b.ts.filter keep)
    (ht2 : b2.ts = b.ts.filter (fun t => !keep t)) (hn : h.nextB = g.nextB + 1)
    (hbs : h.bundles = upd (fun x => x.id == b.id) (fun _ => b1) g.bundles ++ [b2]) : Halves g h b keep := by
  have hlt : b.id < g.nextB := hids b (List.mem_of_find?_eq_some hb)
  have hupd : ∀ y ∈ upd (fun x => x.id == b.id) (fun _ => b1) g.bundles, y.id < g.nextB := by
    intro y hy
    obtain ⟨z, hz, rfl⟩ := List.mem_map.mp hy
    split
    · rw [h1]; exact hlt
    · exact hids z hz
  have hfind : ∀ i, i < g.nextB → h.bundle? i = (upd (fun x => x.id == b.id) (fun _ => b1) g.bundles).find? (fun y => y.id == i) := by
    intro i hi
    have hne : (b2.id == i) = false := by rw [h2]; exact beq_eq_false_iff_ne.mpr hi.ne'
    rw [Group.bundle?, hbs, List.find?_append, List.find?_singleton, hne]
    simp
  refine ⟨⟨b1, ?_, ht1⟩, ⟨b2, ?_, ht2⟩, fun i hi hlt => ?_, hn, fun y hy => ?_, ?_⟩
  · rw [hfind _ hlt, find_upd_same _ _ _ (fun _ _ => by simpa using h1)]
    exact congrArg (Option.map _) hb
  · have hnone : (upd (fun x => x.id == b.id) (fun _ => b1) g.bundles).find? (fun y => y.id == g.nextB) = none :=
      List.find?_eq_none.mpr (fun y hy => by simpa using (hupd y hy).ne)
    rw [Group.bundle?, hbs, List.find?_append, hnone, List.find?_singleton, h2]
    simp
  · rw [hfind i hlt]
    exact find_upd_other _ _ _ _ (fun y hy => by rw [beq_iff_eq.mp hy]; exact beq_eq_false_iff_ne.mpr hi.symm)
      (fun _ _ => by rw [h1]; exact beq_eq_false_iff_ne.mpr hi.symm)
  · rw [hbs, List.mem_append, List.mem_singleton] at hy
    rw [hn]
    rcases hy with hy | rfl
    · exact (hupd y hy).trans (Nat.lt_succ_self _)
    · rw [h2]; exact Nat.lt_succ_self _
  · rw [hbs, List.length_append, length_upd, List.length_singleton]

theorem Group.splitB_halves {g : Group} {bid : Nat} {b : Bundle} {keep : Nat → Bool} (hb : g.bundle? bid = some b)
    (hids : ∀ y ∈ g.bundles, y.id < g.nextB) (hmine : b.ts.filter keep ≠ []) (hout : b.ts.filter (fun t => !keep t) ≠ []) :
    Halves g (g.splitB bid keep) b keep := by
  obtain rfl : b.id = bid := Group.bundle_id hb
  have hno : ((b.ts.filter (fun t => !keep t)).isEmpty || (b.ts.filter keep).isEmpty) = false := by
    simp only [Bool.or_eq_false_iff, List.isEmpty_eq_false_iff]
    exact ⟨hout, hmine⟩
  unfold Group.splitB
  rw [hb]
  simp only [hno, Bool.false_eq_true, if_false]
  refine halves_of_bundles hb hids ?_ ?_ ?_ ?_ rfl rfl <;> rfl

/-- The bundle at another PC. -/
def Bundle.setPc (p : W64) (b : Bundle) : Bundle := { b with pc := p }

/-- What `splitPc` makes of a bundle: one for each next PC, the first at the bundle's own place. -/
structure SplitByPc (g h : Group) (b : Bundle) (next : Nat → W64) (n : Nat) : Prop where
  places : ∀ t ∈ b.ts, ∃ y ∈ h.bundles, y.pc = next t ∧ y.ts = b.ts.filter (fun u => next u == next t)
  others : ∀ i, i ≠ b.id → i < g.nextB → h.bundle? i = g.bundle? i
  count : h.bundles.length + 1 = g.bundles.length + n

theorem Group.mem_of_bundle {g : Group} {i : Nat} {b : Bundle} (h : g.bundle? i = some b) : b ∈ g.bundles := List.mem_of_find?_eq_some h

theorem splitPc_one {g : Group} {b : Bundle} {next : Nat → W64} {p : W64} (hb : g.bundle? b.id = some b) (hp : ∀ t ∈ b.ts, next t = p) :
    SplitByPc g (g.updBundle b.id (Bundle.setPc p)) b next 1 := by
  refine ⟨fun t ht => ⟨b.setPc p, Group.mem_of_bundle (i := b.id) ?_, (hp t ht).symm, ?_⟩, fun i hi _ => ?_, ?_⟩
  · rw [Group.bundle_updBundle_same g b.id (Bundle.setPc p) (fun _ => rfl), hb, Option.map_some]
  · exact (List.filter_eq_self.mpr (fun u hu => by rw [hp u hu, hp t ht, beq_self_eq_true])).symm
  · exact Group.bundle_updBundle_other g b.id i (Bundle.setPc p) (fun _ => rfl) hi
  · rw [Group.updBundle_bundles, length_upd]

theorem eraseDups_map_cons {next : Nat → W64} {ts : List Nat} {p : W64} {ps : List W64} (h : (ts.map next).eraseDups = p :: ps) :
    ((ts.filter (fun t => !(next t == p))).map next).eraseDups = ps ∧ ∃ t ∈ ts, next t = p := by
  cases ts with
  | nil => cases h
  | cons t ts =>
    rw [List.map_cons, List.eraseDups_cons] at h
    obtain ⟨rfl, rfl⟩ := List.cons.inj h
    refine ⟨?_, t, List.mem_cons_self, rfl⟩
    rw [List.filter_cons_of_neg (by simp), List.filter_map]
    rfl

theorem filter_next {ts : List Nat} {next : Nat → W64} {p q : W64} (h : q ≠ p) :
    (ts.filter (fun t => !(next t == p))).filter (fun u => next u == q) = ts.filter (fun u => next u == q) := by
  rw [List.filter_filter]
  refine List.filter_congr (fun t _ => ?_)
  by_cases ht : next t = q <;> simp [ht, h]

theorem splitPc_splits {next : Nat → W64} {ps : List W64} : ∀ {g : Group} {bid : Nat} {b : Bundle}, g.bundle? bid = some b →
    (∀ y ∈ g.bundles, y.id < g.nextB) → (b.ts.map next).eraseDups = ps → ps ≠ [] →
    SplitByPc g (g.splitPc bid next ps) b next ps.length := by
  induction ps with
  | nil => exact fun _ _ _ h => absurd rfl h
  | cons p ps ih =>
    intro g bid b hb hids hps _
    obtain rfl : b.id = bid := Group.bundle_id hb
    obtain ⟨hrest, t0, ht0, hp0⟩ := eraseDups_map_cons hps
    cases ps with
    | nil =>
      refine splitPc_one hb (fun t ht => ?_)
      have : next t ∈ (b.ts.map next).eraseDups := List.mem_eraseDups.mpr (List.mem_map_of_mem ht)
      rw [hps] at this
      exact List.mem_singleton.mp this
    | cons q qs =>
      have hmine : b.ts.filter (fun t => next t == p) ≠ [] :=
        List.ne_nil_of_mem (List.mem_filter.mpr ⟨ht0, beq_iff_eq.mpr hp0⟩)
      have hout : b.ts.filter (fun t => !(next t == p)) ≠ [] := fun h => by rw [h] at hrest; cases hrest
      have hlt : b.id < g.nextB := hids b (Group.mem_of_bundle hb)
      obtain ⟨⟨y1, hy1, ht1⟩, ⟨y2, hy2, ht2⟩, hothers, hfresh, hbelow, hcount⟩ := Group.splitB_halves hb hids hmine hout
      -- the half that stays has its PC; the other goes on from here
      generalize hg1 : g.splitB b.id (fun t => next t == p) = g1 at *
      have hout' : (g1.updBundle b.id (Bundle.setPc p)).bundle? g.nextB = some y2 :=
        (Group.bundle_updBundle_other g1 b.id g.nextB (Bundle.setPc p) (fun _ => rfl) hlt.ne').trans hy2
      have hmine' : (g1.updBundle b.id (Bundle.setPc p)).bundle? b.id = some (y1.setPc p) := by
        rw [Group.bundle_updBundle_same g1 b.id (Bundle.setPc p) (fun _ => rfl), hy1, Option.map_some]
      have hids' : ∀ y ∈ (g1.updBundle b.id (Bundle.setPc p)).bundles, y.id < g1.nextB := by
        intro y hy
        obtain ⟨z, hz, rfl⟩ := List.mem_map.mp hy
        split <;> exact hbelow z hz
      have hgo : g.splitPc b.id next (p :: q :: qs) = (g1.updBundle b.id (Bundle.setPc p)).splitPc g.nextB next (q :: qs) := by
        rw [← hg1]; rfl
      have hid2 : y2.id = g.nextB := Group.bundle_id hy2
      obtain ⟨hplaces, hkept, hlen⟩ := ih hout' hids' (ht2 ▸ hrest) (List.cons_ne_nil _ _)
      have hstay : ∀ i, i ≠ g.nextB → i < g.nextB + 1 →
          ((g1.updBundle b.id (Bundle.setPc p)).splitPc g.nextB next (q :: qs)).bundle? i = (g1.updBundle b.id (Bundle.setPc p)).bundle? i :=
        fun i hi hlt => hkept i (hid2 ▸ hi) (hfresh ▸ hlt)
      rw [hgo]
      refine ⟨fun t ht => ?_, fun i hi hlt => ?_, ?_⟩
      · by_cases hp : next t = p
        · refine ⟨y1.setPc p, Group.mem_of_bundle ((hstay b.id hlt.ne (by omega)).trans hmine'), hp.symm, ?_⟩
          rw [hp]; exact ht1
        · have ht' : t ∈ y2.ts := ht2 ▸ List.mem_filter.mpr ⟨ht, by simpa using hp⟩
          obtain ⟨y, hy, hpc, hts⟩ := hplaces t ht'
          exact ⟨y, hy, hpc, by rw [hts, ht2, filter_next hp]⟩
      · rw [hstay i hlt.ne (by omega), Group.bundle_updBundle_other g1 b.id i (Bundle.setPc p) (fun _ => rfl) hi, hothers i hi hlt]
      · rw [Group.updBundle_bundles, length_upd, hcount] at hlen
        rw [List.length_cons]
        omega
end Sys2Proof.Machine

namespace Sys2Proof.Rules
open Sys2Proof.Safety Sys2Proof.Machine

/-- Settles O42, by induction on the next PCs. -/
theorem bundlesSplitByPc : Obligations.BundlesSplitByPc := by
  intro g c done byp age next b hb hids _ hts
  let h : Group := { g with issues := g.issues + 1, lanesIssued := g.lanesIssued + c.b.ts.length }
  let y := b.passed c.c.pc done byp age
  have hid : b.id = c.b.id := Group.bundle_id hb
  have hy : (h.updBundle c.b.id (fun b => b.passed c.c.pc done byp age)).bundle? c.b.id = some y :=
    (Group.bundle_updBundle_same h c.b.id (fun b => b.passed c.c.pc done byp age) (fun _ => rfl)).trans (congrArg _ hb)
  have hids' : ∀ y ∈ (h.updBundle c.b.id (fun b => b.passed c.c.pc done byp age)).bundles, y.id < g.nextB := by
    intro y hy
    obtain ⟨z, hz, rfl⟩ := List.mem_map.mp hy
    split <;> exact hids z hz
  have hne : (y.ts.map next).eraseDups ≠ [] := by
    obtain ⟨t, ht⟩ := List.exists_mem_of_ne_nil _ hts
    exact List.ne_nil_of_mem (List.mem_eraseDups.mpr (List.mem_map_of_mem (f := next) ht))
  obtain ⟨hplaces, hothers, hcount⟩ := splitPc_splits hy hids' rfl hne
  have hpassed : g.passed c done byp age next =
      (h.updBundle c.b.id (fun b => b.passed c.c.pc done byp age)).splitPc c.b.id next (y.ts.map next).eraseDups := by
    unfold Group.passed
    simp only [h] at hy
    simp only [hy, pcsOf]
    rfl
  rw [hpassed]
  refine ⟨hplaces, fun i hi hlt => (hothers i (hid.symm ▸ hi) hlt).trans ?_, ?_⟩
  · exact Group.bundle_updBundle_other h c.b.id i (fun b => b.passed c.c.pc done byp age) (fun _ => rfl) hi
  · rw [hcount, Group.updBundle_bundles, length_upd]
    rfl
end Sys2Proof.Rules

namespace Sys2Proof.Machine

/-- A bundle whose wait has ended. -/
def Bundle.goesOn (b : Bundle) : Bundle := { b with st := .ready, pc := b.npc, nm := false, age := 0 }

theorem finishWait_eq {s : State} {gid bid : Nat} {g : Group} {b : Bundle} (hg : s.group? gid = some g) (hb : g.bundle? bid = some b)
    (hm : b.nm = false) : finishWait s gid bid = s.updBundle gid bid Bundle.goesOn := by
  unfold finishWait
  rw [hg, Option.bind_some, hb]
  simp only [hm, Bool.false_eq_true, if_false]
  rfl

/-- The waits of some bundles end, where none of them stands at a marker. -/
theorem finishWaits {gid : Nat} (l : List Bundle) : ∀ {s : State} {g : Group}, s.group? gid = some g →
    (∀ b ∈ l, ∃ y, g.bundle? b.id = some y ∧ y.nm = false) →
    let u := l.foldl (fun s b => finishWait s gid b.id) s
    u.group? gid = some (l.foldl (fun g b => g.updBundle b.id Bundle.goesOn) g) ∧ (∀ i, i ≠ gid → u.group? i = s.group? i) ∧
      u = { s with groups := u.groups } := by
  induction l with
  | nil => exact fun hg _ => ⟨hg, fun _ _ => rfl, rfl⟩
  | cons b l ih =>
    intro s g hg hl
    obtain ⟨y, hy, hm⟩ := hl b List.mem_cons_self
    have hg' : (s.updBundle gid b.id Bundle.goesOn).group? gid = some (g.updBundle b.id Bundle.goesOn) := by
      rw [State.updBundle, State.group_updGroup_same s gid (fun g => g.updBundle b.id Bundle.goesOn) (fun _ => rfl), hg, Option.map_some]
    have hl' : ∀ x ∈ l, ∃ y, (g.updBundle b.id Bundle.goesOn).bundle? x.id = some y ∧ y.nm = false := by
      intro x hx
      obtain ⟨z, hz, hzm⟩ := hl x (List.mem_cons_of_mem _ hx)
      by_cases he : x.id = b.id
      · exact ⟨z.goesOn, by rw [he, Group.bundle_updBundle_same g b.id Bundle.goesOn (fun _ => rfl), ← he, hz, Option.map_some], rfl⟩
      · exact ⟨z, (Group.bundle_updBundle_other g b.id x.id Bundle.goesOn (fun _ => rfl) he).trans hz, hzm⟩
    obtain ⟨hgrp, hothers, hrest⟩ := ih hg' hl'
    rw [List.foldl_cons, List.foldl_cons, finishWait_eq hg hy hm]
    refine ⟨hgrp, fun i hi => (hothers i hi).trans ?_, hrest⟩
    exact State.group_updGroup_other s gid i (fun g => g.updBundle b.id Bundle.goesOn) (fun _ => rfl) hi

theorem foldl_updBundle_goesOn (l : List Bundle) (g : Group) : l.foldl (fun g b => g.updBundle b.id Bundle.goesOn) g =
    { g with bundles := g.bundles.map (fun b => if b.id ∈ l.map (·.id) then b.goesOn else b) } := by
  induction l generalizing g with
  | nil => simp
  | cons b l ih =>
    rw [List.foldl_cons, ih]
    simp only [Group.updBundle, upd, List.map_map, List.map_cons, List.mem_cons]
    refine congrArg (fun bs => { g with bundles := bs }) (List.map_congr_left (fun x _ => ?_))
    by_cases hx : x.id = b.id <;> by_cases hl : x.id ∈ l.map (·.id) <;> simp [hx, hl, Function.comp]
    all_goals exact fun _ _ _ => rfl

theorem foldl_add {α : Type} (f : α → Nat) (l : List α) (n : Nat) : l.foldl (fun n x => n + f x) n = n + (l.map f).sum := by
  induction l generalizing n with
  | nil => rfl
  | cons x l ih => rw [List.foldl_cons, ih, List.map_cons, List.sum_cons, Nat.add_assoc]

theorem sumOf_eq {α : Type} (f : α → Nat) (l : List α) : sumOf f l = (l.map f).sum := by
  rw [sumOf, foldl_add, Nat.zero_add]

/-- With identifiers of their own, the bundles at BAR are those whose identifier is that of a bundle at BAR. -/
theorem foldl_bar {g : Group} (hids : (g.bundles.map (·.id)).Nodup) (hm : ∀ b ∈ g.bundles, b.st = .bar → b.nm = false) :
    (g.bundles.filter (fun b => b.st == .bar)).foldl (fun g b => g.updBundle b.id Bundle.goesOn) g = { g with
      bundles := g.bundles.map (fun b => if b.st == .bar then { b with st := .ready, pc := b.npc, age := 0 } else b) } := by
  rw [foldl_updBundle_goesOn]
  refine congrArg (fun bs => { g with bundles := bs }) (List.map_congr_left (fun b hb => ?_))
  have hmem : b.id ∈ (g.bundles.filter (fun b => b.st == .bar)).map (·.id) ↔ (b.st == .bar) = true := by
    constructor
    · intro h
      obtain ⟨y, hy, he⟩ := List.mem_map.mp h
      obtain ⟨hy, hbar⟩ := List.mem_filter.mp hy
      exact List.inj_on_of_nodup_map hids hy hb he ▸ hbar
    · exact fun h => List.mem_map_of_mem (List.mem_filter.mpr ⟨hb, h⟩)
  simp only [hmem]
  split
  next h => rw [Bundle.goesOn, ← hm b hb (beq_iff_eq.mp h)]
  next h => rfl

end Sys2Proof.Machine

namespace Sys2Proof.Rules
open Sys2Proof.Safety Sys2Proof.Machine

/-- The group with one more BAR phase, completed at a clk. -/
def nextPhase (clk : Nat) (g : Group) : Group := { g with barph := g.barph + 1, barAt := clk + 1 }

theorem bundle_of_mem {g : Group} {b : Bundle} (hids : (g.bundles.map (·.id)).Nodup) (hb : b ∈ g.bundles) : g.bundle? b.id = some b := by
  have hsome : (g.bundles.find? (fun y => y.id == b.id)).isSome := List.find?_isSome.mpr ⟨b, hb, beq_self_eq_true b.id⟩
  obtain ⟨y, hy⟩ := Option.isSome_iff_exists.mp hsome
  rw [Group.bundle?, hy, ← List.inj_on_of_nodup_map hids (List.mem_of_find?_eq_some hy) hb (by simpa using List.find?_some hy)]

/-- Settles O43: each bundle at BAR goes on in its turn, and none of them stands at a marker. -/
theorem barrierPhaseCompletes : Obligations.BarrierPhaseCompletes := by
  intro s g hg hids hm
  have hcond : (sumOf (fun b : Bundle => b.ts.length) (g.bundles.filter (fun b => b.st == .bar)) != 0 &&
      sumOf (fun b : Bundle => b.ts.length) (g.bundles.filter (fun b => b.st == .bar)) == g.live.length) = true ↔
      ((g.bundles.filter (fun b => b.st == .bar)).map (fun b => b.ts.length)).sum ≠ 0 ∧
      ((g.bundles.filter (fun b => b.st == .bar)).map (fun b => b.ts.length)).sum = g.live.length := by
    rw [sumOf_eq, Bool.and_eq_true, bne_iff_ne, beq_iff_eq]
  refine ⟨fun h0 hn => ?_, fun h => ?_⟩
  · have hdone : barDone s g.id = ((g.bundles.filter (fun b => b.st == .bar)).foldl (fun s b => finishWait s g.id b.id) s).updGroup g.id
        (nextPhase s.clk) := by
      unfold barDone
      rw [hg]
      exact if_pos (hcond.mpr ⟨h0, hn⟩)
    rw [hdone]
    obtain ⟨hgrp, hothers, hrest⟩ := finishWaits (gid := g.id) (g.bundles.filter (fun b => b.st == .bar)) hg
      (fun b hb => ⟨b, bundle_of_mem hids (List.mem_filter.mp hb).1, hm b (List.mem_filter.mp hb).1 (beq_iff_eq.mp (List.mem_filter.mp hb).2)⟩)
    rw [foldl_bar hids hm] at hgrp
    refine ⟨?_, fun i hi => (State.group_updGroup_other _ g.id i (nextPhase s.clk) (fun _ => rfl) hi).trans (hothers i hi), ?_⟩
    · rw [State.group_updGroup_same _ g.id (nextPhase s.clk) (fun _ => rfl), hgrp, Option.map_some, BitVec.ofNat_add, BitVec.ofNat_toNat, BitVec.setWidth_eq]
      rfl
    · rw [hrest]; rfl
  · unfold barDone
    rw [hg]
    refine if_neg (fun hc => ?_)
    have := hcond.mp hc
    omega

/-- Three bundles hold results of one instruction in scalar 3 of team 0: one that waits still, one that has come, and one for which the
others hold it. -/
def splitGroup : Machine.Group :=
  { ringGroup with rings := [], nextB := 3, bundles := [
      { id := 0, pc := 0x1000, ts := [32], outst := [{ uid := 5, regs := [.s 3], s := [(0, 3, 9)], pend := [.claim 1 3 0] }] },
      { id := 1, pc := 0x1000, ts := [0], outst := [{ uid := 5, regs := [.s 3], s := [(0, 3, 8)] }] },
      { id := 2, pc := 0x1000, ts := [1], outst := [{ uid := 5, regs := [.s 3], shadow := [0] }] }] }

theorem splitGroup_stopped : ((stopGroup { groups := [splitGroup] } 0 {} none none).group? 0).map (fun g => (g.team 0).getS 3) = some 9 := by
  decide

theorem splitGroup_returned :
    ((splitGroup.bundles.foldl (fun y b => ((b.outst.filter (Outst.complete splitGroup)).foldl Group.giveBack y).writeVs b.received) splitGroup).team 0).getS 3 = 8 := by
  decide

/-- Refutes O39: the statement returns every bundle's results as they stood before the stop, while the machine returns those of one bundle
after the other. Where a bundle takes a scalar that other bundles of its split hold, the statement's order of the holders makes another one
the last writer than the machine, which finds no more what it has returned already. -/
theorem not_faultStopsGroup : ¬ Obligations.FaultStopsGroup := by
  intro h
  obtain ⟨⟨g', hg', _, hsame, _⟩, _⟩ := (h { groups := [splitGroup] } splitGroup {} none none rfl rfl (by decide)).1 (fun _ _ hmet => nomatch hmet.2.2.2.2)
  have hteams := congrArg (fun g : Machine.Group => (g.team 0).getS 3) hsame
  have hstop : ((stopGroup { groups := [splitGroup] } splitGroup.id {} none none).group? splitGroup.id).map (fun g => (g.team 0).getS 3) = some 9 :=
    splitGroup_stopped
  rw [hg'] at hstop
  have h9 : (g'.team 0).getS 3 = 9 := Option.some.inj hstop
  have h8 : (g'.team 0).getS 3 = 8 := hteams.trans splitGroup_returned
  rw [h8] at h9
  exact absurd h9 (by decide)
end Sys2Proof.Rules
end

section
/-! PROOF. A clk in which nothing else happens; values of a format's patterns round to them. -/

namespace Sys2Proof.Machine

theorem passClk_eq (x : State) (n : Nat) : passClk x n = if x.pkg.railsOff then { logHolds x n with ticks := x.ticks + n }
    else fallDue { samplesOver (countCores (logHolds x n)) with
      clk := (samplesOver (countCores (logHolds x n))).clk + 1, ticks := (samplesOver (countCores (logHolds x n))).ticks + n } := rfl

theorem elapse_one (x : State) (n : Nat) : elapse x 1 n = passClk x n := by
  unfold elapse
  simp

theorem idle_eq (x : State) : idle x = if x.pkg.railsOff then { logHolds x (ticksOfClk x) with ticks := x.ticks + ticksOfClk x }
    else clockWork (fallDue { samplesOver (countCores (logHolds x (ticksOfClk x))) with
      clk := (samplesOver (countCores (logHolds x (ticksOfClk x)))).clk + 1
      ticks := (samplesOver (countCores (logHolds x (ticksOfClk x)))).ticks + ticksOfClk x }) := by
  rw [idle, elapse_one, passClk_eq]
  split
  next h => exact if_pos h
  next h => rfl

theorem byItself_idle {s : State} (hc : collDue s = none) (hl : ∀ r ∈ s.ranges, levelDue s r.rid = false) (ho : oldest (ageAll s) = none) :
    byItself s = .now (idle (ageAll s)) := by
  have hfind : s.ranges.find? (fun r => !s.pkg.railsOff && levelDue s r.rid) = none :=
    List.find?_eq_none.mpr (fun r hr => by rw [hl r hr, Bool.and_false]; exact Bool.false_ne_true)
  unfold byItself
  rw [hc]
  dsimp only
  rw [hfind]
  dsimp only
  rw [ho]

theorem step_byItself {s t : State} (hd : s.dsteps = []) (ha : s.agenda = []) (h : byItself s = .now t) : step s = .next t := by
  have ht : todo s = .now t := by
    unfold todo
    rw [hd, ha]
    exact h
  unfold step
  rw [ht]

end Sys2Proof.Machine

namespace Sys2Proof.Rules
open Sys2Proof.Safety Sys2Proof.Machine

/-- Settles O57: with nothing due the machine's own choice is to let one clk pass. -/
theorem idleMachineWaits : Obligations.IdleMachineWaits := by
  intro s hd ha hc hl x ho n y
  rw [step_byItself hd ha (byItself_idle hc hl ho), idle_eq]
  rfl
end Sys2Proof.Rules

namespace Sys2Proof.Machine

theorem log2_mul_pow {m : Nat} (h : m ≠ 0) (k : Nat) : (m * 2 ^ k).log2 = m.log2 + k := by
  have hmk : m * 2 ^ k ≠ 0 := Nat.mul_ne_zero h (Nat.two_pow_pos k).ne'
  rw [Nat.log2_eq_iff hmk]
  have hle := Nat.log2_self_le h
  have hlt : m < 2 ^ (m.log2 + 1) := Nat.lt_log2_self
  rw [show m.log2 + k + 1 = m.log2 + 1 + k by omega, Nat.pow_add, Nat.pow_add]
  exact ⟨Nat.mul_le_mul_right _ hle, (Nat.mul_lt_mul_right (Nat.two_pow_pos k)).mpr hlt⟩

/-- The difference of the binary logarithms is the logarithm where the quotient reaches its power. -/
theorem log2Rat_eq {n d : Nat} (hpos : 0 ≤ (n.log2 : Int) - d.log2 → d * 2 ^ ((n.log2 : Int) - d.log2).toNat ≤ n)
    (hneg : (n.log2 : Int) - d.log2 < 0 → d ≤ n * 2 ^ (-((n.log2 : Int) - d.log2)).toNat) : log2Rat n d = (n.log2 : Int) - d.log2 := by
  unfold log2Rat
  refine if_pos ?_
  split
  next h => exact decide_eq_true (hpos h)
  next h => exact decide_eq_true (hneg (not_le.mp h))

theorem log2Rat_mul_pow {m : Nat} (h : m ≠ 0) (k : Nat) : log2Rat (m * 2 ^ k) 1 = m.log2 + k := by
  have hle : 2 ^ (m.log2 + k) ≤ m * 2 ^ k := by
    rw [Nat.pow_add]; exact Nat.mul_le_mul_right _ (Nat.log2_self_le h)
  have hg : ((m * 2 ^ k).log2 : Int) - Nat.log2 1 = (m.log2 + k : Nat) := by
    rw [log2_mul_pow h, show Nat.log2 1 = 0 by decide]; omega
  rw [log2Rat_eq]
  · rw [hg]; omega
  · rw [hg, Int.toNat_natCast, Nat.one_mul]; exact fun _ => hle
  · rw [hg]; intro h; omega

theorem log2Rat_pow {m : Nat} (h : m ≠ 0) (k : Nat) : log2Rat m (2 ^ k) = m.log2 - k := by
  have hle := Nat.log2_self_le h
  rw [log2Rat_eq, Nat.log2_two_pow]
  · rw [Nat.log2_two_pow]
    intro hg
    rw [← Nat.pow_add, show k + ((m.log2 : Int) - k).toNat = m.log2 by omega]
    exact hle
  · rw [Nat.log2_two_pow]
    intro hg
    calc 2 ^ k = 2 ^ m.log2 * 2 ^ (-((m.log2 : Int) - k)).toNat := by rw [← Nat.pow_add]; congr 1; omega
      _ ≤ m * 2 ^ (-((m.log2 : Int) - k)).toNat := Nat.mul_le_mul_right _ hle

theorem away_zero (rm : Nat) (neg : Bool) (q : Nat) {d : Nat} (hd : 0 < d) : away rm neg q 0 d = false := by
  have h0 : ¬ 2 * 0 > d := by omega
  have h1 : (2 * 0 == d) = false := by rw [beq_eq_false_iff_ne]; omega
  unfold away
  split <;> simp only [h0, h1, decide_false, Bool.false_and, Bool.or_false, bne_self_eq_false, Bool.and_false]

/-- A multiple m of the unit at its exponent q is rounded to that multiple. -/
theorem roundRat_exact {f : Fmt} {rm : Nat} {neg : Bool} {m n d : Nat} {e : Int} (hr : ratOf m e = (n, d)) (hm : m ≠ 0)
    (he : e = max (m.log2 + e) (1 - f.bias) - f.fbits) :
    f.roundRat rm neg n d = (if f.inf ≤ (e + f.fbits + f.bias - 1).toNat * 2 ^ f.fbits + m then f.over rm neg
      else (if neg then f.signBit else 0) + ((e + f.fbits + f.bias - 1).toNat * 2 ^ f.fbits + m)) := by
  unfold ratOf at hr
  unfold Fmt.roundRat
  split at hr <;> cases hr
  next h =>
    have hlog : log2Rat (m * 2 ^ e.toNat) 1 = m.log2 + e := by rw [log2Rat_mul_pow hm]; omega
    have hn : m * 2 ^ e.toNat ≠ 0 := Nat.mul_ne_zero hm (Nat.two_pow_pos _).ne'
    have hdiv : m * 2 ^ e.toNat / (1 * 2 ^ e.toNat) = m := by rw [Nat.one_mul, Nat.mul_div_cancel _ (Nat.two_pow_pos _)]
    have hmod : m * 2 ^ e.toNat % (1 * 2 ^ e.toNat) = 0 := by rw [Nat.one_mul, Nat.mul_mod_left]
    rw [if_neg (by simpa using hn)]
    simp only [hlog, ← he, if_pos h, hdiv, hmod, away_zero rm neg m (show 0 < 1 * 2 ^ e.toNat by simp), Bool.false_eq_true, if_false, Nat.add_zero]
  next h =>
    have hlog : log2Rat m (2 ^ (-e).toNat) = m.log2 + e := by rw [log2Rat_pow hm]; omega
    have hdiv : m * 2 ^ (-e).toNat / 2 ^ (-e).toNat = m := Nat.mul_div_cancel _ (Nat.two_pow_pos _)
    have hmod : m * 2 ^ (-e).toNat % 2 ^ (-e).toNat = 0 := Nat.mul_mod_left _ _
    rw [if_neg (by simpa using hm)]
    simp only [hlog, ← he, if_neg h, hdiv, hmod, away_zero rm neg m (Nat.two_pow_pos (-e).toNat), Bool.false_eq_true, if_false, Nat.add_zero]

/-- A magnitude of the format below infinity, with its sign. -/
theorem roundRat_mag {f : Fmt} {rm : Nat} {neg : Bool} {m n d mag : Nat} {e : Int} (hr : ratOf m e = (n, d)) (hm : m ≠ 0)
    (he : e = max (m.log2 + e) (1 - f.bias) - f.fbits) (hmag : (e + f.fbits + f.bias - 1).toNat * 2 ^ f.fbits + m = mag) (hlt : mag < f.inf) :
    f.roundRat rm neg n d = (if neg then f.signBit else 0) + mag := by
  rw [roundRat_exact hr hm he, hmag, if_neg (Nat.not_le.mpr hlt)]

theorem round_zero (f : Fmt) (rm : Nat) (neg : Bool) (e : Int) : f.round rm (.fin neg 0 e) = if neg then f.signBit else 0 := by
  show f.roundRat rm neg (ratOf 0 e).1 (ratOf 0 e).2 = _
  have hz : (ratOf 0 e).1 = 0 := by
    unfold ratOf
    split
    · exact Nat.zero_mul _
    · rfl
  rw [hz]
  rfl

theorem round_subnormal {f : Fmt} {rm fr : Nat} {neg : Bool} (h0 : fr ≠ 0) (hlt : fr < 2 ^ f.fbits) (hinf : fr < f.inf) :
    f.round rm (.fin neg fr (1 - f.bias - f.fbits)) = (if neg then f.signBit else 0) + fr := by
  have hlog : fr.log2 < f.fbits := (Nat.log2_lt h0).mpr hlt
  refine roundRat_mag (e := 1 - f.bias - f.fbits) rfl h0 (by omega) ?_ hinf
  rw [show ((1 : Int) - f.bias - f.fbits + f.fbits + f.bias - 1).toNat = 0 by omega, Nat.zero_mul, Nat.zero_add]

theorem round_normal {f : Fmt} {rm ex fr : Nat} {neg : Bool} (hex : ex ≠ 0) (hlt : fr < 2 ^ f.fbits) (hinf : ex * 2 ^ f.fbits + fr < f.inf) :
    f.round rm (.fin neg (2 ^ f.fbits + fr) (ex - f.bias - f.fbits)) = (if neg then f.signBit else 0) + (ex * 2 ^ f.fbits + fr) := by
  have hm : 2 ^ f.fbits + fr ≠ 0 := by have := Nat.two_pow_pos f.fbits; omega
  have hlog : (2 ^ f.fbits + fr).log2 = f.fbits := by
    rw [Nat.log2_eq_iff hm, Nat.pow_succ]; omega
  refine roundRat_mag (e := ex - f.bias - f.fbits) rfl hm (by rw [hlog]; omega) ?_ hinf
  rw [show ((ex : Int) - f.bias - f.fbits + f.fbits + f.bias - 1).toNat = ex - 1 by omega, ← Nat.add_assoc, ← Nat.succ_mul,
    Nat.succ_eq_add_one, Nat.sub_add_cancel (Nat.pos_of_ne_zero hex)]

theorem val_mag {f : Fmt} {x : Nat} (hx : x < f.signBit + f.signBit) : x = (if decide (f.signBit ≤ x) then f.signBit else 0) + x % f.signBit := by
  by_cases h : f.signBit ≤ x
  · rw [decide_eq_true h, if_pos rfl, Nat.mod_eq_sub_mod h, Nat.mod_eq_of_lt (by omega)]; omega
  · rw [decide_eq_false h, if_neg Bool.false_ne_true, Nat.mod_eq_of_lt (by omega)]; omega

theorem round_val {f : Fmt} {rm x : Nat} (hx : x < f.signBit + f.signBit) (hn : f.val x ≠ .nan) : f.round rm (f.val x) = x := by
  have hxs := val_mag hx
  have hmod : x % (2 * f.signBit) = x := Nat.mod_eq_of_lt (by omega)
  have hdm := Nat.div_add_mod (x % f.signBit) (2 ^ f.fbits)
  have hfr : x % f.signBit % 2 ^ f.fbits < 2 ^ f.fbits := Nat.mod_lt _ (Nat.two_pow_pos _)
  unfold Fmt.val at hn ⊢
  simp only [hmod] at hn ⊢
  split at hn
  · exact absurd rfl hn
  next hgt =>
    rw [if_neg hgt]
    split
    next hinf => 
      rw [beq_iff_eq] at hinf
      show f.inf + (if _ then f.signBit else 0) = x
      rw [← hinf]; omega
    next hinf =>
      have hlt : x % f.signBit < f.inf := by
        rw [beq_iff_eq] at hinf; omega
      split
      next hex =>
        rw [beq_iff_eq] at hex
        rw [hex, Nat.mul_zero, Nat.zero_add] at hdm
        rw [hdm] at hfr ⊢
        by_cases h0 : x % f.signBit = 0
        · rw [h0, round_zero]; omega
        · rw [round_subnormal h0 hfr hlt]; exact hxs.symm
      next hex =>
        rw [beq_iff_eq] at hex
        rw [Nat.mul_comm] at hdm
        rw [round_normal hex hfr (by rw [hdm]; exact hlt), hdm]
        exact hxs.symm
end Sys2Proof.Machine

namespace Sys2Proof.Rules
open Sys2Proof.Safety Sys2Proof.Machine

/-- Settles O52: a pattern's value is a multiple of the unit at its own exponent, so that nothing is rounded away. -/
theorem roundingIsExactOnTheFormat : Obligations.RoundingIsExactOnTheFormat := by
  intro f _ rm _ x hx hn
  exact round_val (f.two_signBit ▸ hx) hn
end Sys2Proof.Rules
end

section
/-! PROOF. The memory side: sectors, leases, fills and the write-combining buffer. -/

namespace Sys2Proof.Rules
open Sys2Proof.Safety Sys2Proof.Machine

/-- Thread 0 waits in a marked FLGW for the word at 0 to be 1, with a load's result 7 for v3 outstanding. -/
def pollGroup : Machine.Group :=
  { ringGroup with rings := [], bundles := [{ id := 0, pc := 0x1000, ts := [0], st := .poll [{ team := 0, at_ := .glob 0 4, ne := false, cmp := 1 }], nm := true
                                              outst := [{ regs := [.v 3], v := [(0, 3, 7)] }] }] }

/-- A sector of address space 1 that may be written, in the LLC; the guest has written 1 to its first byte. -/
def guestWrote : State :=
  { groups := [pollGroup], ranges := [bareRange]
    mem := { llc := [{ asid := 1, va := 0, part := 0xFF, pa := 2 ^ 46, data := zeroSec, w := true, d := true, wr := true }] }
    sock := { lines := [{ sec := 2 ^ 46 / 128, bytes := [(0, 1)] }] } }

def storer : Who := { die := 0, core := 0, gid := 0, rid := 1, asid := 1, part := 0 }

theorem guestWrote_stored :
    (storeGlobal guestWrote storer 64 [5] false).toOption.map (fun t => (t.group? 0).map (fun g => (g.th 0).getV 3)) = some (some 7) := by
  decide +kernel

theorem guestWrote_buffers : ∃ t, Buffers guestWrote storer 64 [5] t ∧ (t.group? 0).map (fun g => (g.th 0).getV 3) = some 7 := by
  have hrun := guestWrote_stored
  cases hs : storeGlobal guestWrote storer 64 [5] false with
  | error f => rw [hs] at hrun; cases hrun
  | ok t =>
    rw [hs] at hrun
    exact ⟨t, { kind := by decide, inside := by decide, here := ⟨_, rfl⟩, done := hs, entries := by unfold OneEntry; decide }, Option.some.inj hrun⟩

/-- Refutes O45: the registers of every group are said to stay whatever the guest has written. Where it has written the word that a marked
FLGW waits for, its copy comes home before the store, the wait ends, the run ends with it, and its outstanding results are written. -/
theorem not_storeChangesItsBytes : ¬ Obligations.StoreChangesItsBytes := by
  intro h
  obtain ⟨t, hbuf, h7⟩ := guestWrote_buffers
  obtain ⟨_, _, _, _, hkept⟩ := h _ _ _ _ _ hbuf
  have hregs := congrArg (Option.map (fun x : List Thread × List Team × Memory => (x.1.getD 0 deadThread).getV 3)) (hkept 0)
  rw [Option.map_map, Option.map_map] at hregs
  have h0 : (t.group? 0).map (fun g => (g.th 0).getV 3) = some 0 := hregs.trans (by decide)
  rw [h7] at h0
  exact absurd h0 (by decide)
end Sys2Proof.Rules

namespace Sys2Proof.Machine
open Sys2Proof.Safety Sys2Proof.Rules

/-! ## What leaves the memory system alone -/

theorem foldl_mem {α : Type} (f : State → α → State) (hf : ∀ s a, (f s a).mem = s.mem) (l : List α) (s : State) : (l.foldl f s).mem = s.mem := by
  induction l generalizing s with
  | nil => rfl
  | cons a l ih => exact (ih (f s a)).trans (hf s a)

@[simp] theorem State.count_mem (s : State) (part e n : Nat) (q : Option Nat) : (s.count part e n q).mem = s.mem := by cases q <;> rfl

@[simp] theorem State.counted_mem (s : State) (c : Ctx) : (s.counted c).mem = s.mem := by rw [State.counted, State.count_mem, State.count_mem]

@[simp] theorem State.postEvent_mem (s : State) (p : Nat) (ev : List Byte) : (s.postEvent p ev).mem = s.mem := rfl

@[simp] theorem State.deviceRec_mem (s : State) (f : FRec) : (s.deviceRec f).mem = s.mem := rfl

@[simp] theorem State.walked_mem (s : State) (q : Option Nat) (l : List Nat) : (s.walked q l).mem = s.mem :=
  foldl_mem _ (fun s p => s.count_mem p 7 8 q) l s

theorem told_mem (s : State) (rid part : Nat) (ev : List Byte) :
    (match s.range? rid with | some r => if s.attachedTo r then s.postEvent part ev else s | none => s).mem = s.mem := by
  split
  · split <;> rfl
  · rfl

@[simp] theorem stopGroup_mem (s : State) (gid : Nat) (f : FRec) (bid : Option Nat) (pc : Option W64) : (stopGroup s gid f bid pc).mem = s.mem := by
  unfold stopGroup
  split
  · rfl
  · dsimp only
    split
    · rfl
    · exact (told_mem _ _ _ _).trans (foldl_mem _ (fun s r => s.queueRec_mem _ r) _ _)

@[simp] theorem precise_mem (s : State) (c : Ctx) (code : Code) (cause level : Nat) (addr detail : W64) (ts : List Nat) :
    (precise s c code cause level addr detail ts).mem = s.mem := by
  unfold precise
  dsimp only
  split <;> exact stopGroup_mem _ _ _ _ _

@[simp] theorem endRun_mem (s : State) (gid bid : Nat) (pc : W64) : (endRun s gid bid pc).mem = s.mem := by
  unfold endRun
  split
  · rfl
  · split
    · dsimp only
      split
      · exact stopGroup_mem _ _ _ _ _
      · rfl
    · rfl

@[simp] theorem finishWait_mem (s : State) (gid bid : Nat) : (finishWait s gid bid).mem = s.mem := by
  unfold finishWait
  split
  · rfl
  · dsimp only
    split
    · exact endRun_mem _ _ _ _
    · rfl

@[simp] theorem State.poisonRec_mem (s : State) (f : AFault) : (s.poisonRec f).mem = s.mem := by
  unfold State.poisonRec
  dsimp only
  split
  all_goals
    split
    · split <;> exact State.walked_mem _ _ _
    · split <;> exact State.walked_mem _ _ _

/-! ## What an access to a sector of the LLC leaves -/

/-- A property that no change of a core touches, but of its buffer. -/
def OfBuffers (P : Mem → Prop) : Prop :=
  ∀ m (s : State) d c f, (∀ k, (f k).die = k.die ∧ (f k).num = k.num ∧ (f k).wcb = k.wcb) → P m →
    P { m with cores := updOr (fun x => x.die == d && x.num == c) (s.dfltCore d c) f m.cores }

theorem keeps_foldl {P : Mem → Prop} {α : Type} {f : State → α → State} (hf : ∀ s a, P s.mem → P (f s a).mem) (l : List α) {s : State} (h : P s.mem) :
    P (l.foldl f s).mem := by
  induction l generalizing s with
  | nil => exact h
  | cons a l ih => exact ih (hf s a h)

namespace OfBuffers
variable {P : Mem → Prop} (hP : OfBuffers P)
include hP

theorem retest {s : State} (sel : Group → Bool) (f : Group → PollAt → Option Nat) (t : Nat) (stale : L1Line → Bool) (h : P s.mem) :
    P (retest s sel f t stale).mem := by
  unfold Machine.retest
  split
  · refine keeps_foldl (fun s g hs => ?_) _ h
    split
    · refine keeps_foldl (fun s b hs => ?_) _ hs
      split
      · have hcore : P (s.updCore g.die g.core (fun c => { c with pts := max c.pts t, l1 := c.l1.filter (fun x => !(x.uo && stale x)) })).mem :=
          hP s.mem s g.die g.core _ (fun _ => ⟨rfl, rfl, rfl⟩) hs
        dsimp only
        split
        · rw [finishWait_mem, State.updBundle_mem]
          split
          · exact hcore
          · exact hs
        · rw [State.updBundle_mem]
          split
          · exact hcore
          · exact hs
      · exact hs
    · exact hs
  · exact h

theorem wakeSector {s : State} (asid va : Nat) (h : P s.mem) : P (s.wakeSector asid va).mem := by
  unfold State.wakeSector
  split
  · exact h
  · exact hP.retest _ _ _ _ h

end OfBuffers

/-! ## What a walk leaves -/

/-- A property that neither the tables of the TLBs, nor the counters, nor a write of memory touch. -/
structure OfWalks (Q : State → Prop) : Prop where
  tables : ∀ s tlb walks, Q s → Q (s.updMem (fun m => { m with tlb := tlb, walks := walks }))
  phys : ∀ s a bs, Q s → Q (s.physWrite a bs)
  count : ∀ s part e n q, Q s → Q (s.count part e n q)

/-- The state that a walk leaves has the property, where it finds a leaf. -/
def Walked (Q : State → Prop) : Walk → Prop
  | .ok _ s => Q s
  | .bad _ => True

theorem walked_ite {Q : State → Prop} {p : Prop} [Decidable p] {w x : Walk} (hw : Walked Q w) (hx : Walked Q x) : Walked Q (if p then w else x) := by
  split <;> assumption

theorem holds_foldl {Q : State → Prop} {α : Type} {f : State → α → State} (hf : ∀ s a, Q s → Q (f s a)) (l : List α) {s : State} (h : Q s) :
    Q (l.foldl f s) := by
  induction l generalizing s with
  | nil => exact h
  | cons a l ih => exact ih (hf s a h)

namespace OfWalks
variable {Q : State → Prop} (hQ : OfWalks Q)
include hQ

theorem walked {s : State} (q : Option Nat) (l : List Nat) (h : Q s) : Q (s.walked q l) :=
  holds_foldl (f := fun s p => s.count p 7 8 q) (fun s p hs => hQ.count s p 7 8 q hs) l h

theorem leafMark {s : State} (q : Option Nat) (at_ n : Nat) (mark : W64) (h : Q s) : Q (s.leafMark q at_ n mark) := by
  unfold State.leafMark
  dsimp only
  split
  · exact h
  · have hw := holds_foldl (f := fun s (x : Nat × W64) => s.physWrite x.1 (leBytes 8 (x.2 ||| mark).toNat)) (fun s x hs =>
      hQ.phys s x.1 _ hs) ((List.range n).map (fun i => (at_ + 8 * i, s.phys8 (at_ + 8 * i)))) h
    split
    · exact hQ.count _ _ _ _ _ hw
    · exact hw

theorem install {s : State} (t : Tlb) (h : Q s) : Q (s.install t) := hQ.tables s _ s.mem.walks h

theorem cachePtr {s : State} (w : WalkEnt) (h : Q s) : Q (s.cachePtr w) := hQ.tables s s.mem.tlb _ h

theorem walkFrom (q : Option Nat) (asid die va k level : Nat) {s : State} (rd : List Nat) (t : Nat) (h : Q s) :
    Walked Q (walkFrom s q rd asid die va k level t) := by
  induction level generalizing s rd t with
  | zero => trivial
  | succ level ih =>
    rw [Machine.walkFrom]
    cases locOf t with
    | ext pa => trivial
    | none => trivial
    | hbm d o =>
      -- the five refusals ahead of the leaf and the one ahead of the next table leave nothing
      refine walked_ite trivial <| walked_ite trivial <| walked_ite trivial <| walked_ite trivial <| walked_ite trivial <|
        walked_ite ?leaf <| walked_ite trivial ?pointer
      case leaf =>
        cases leafCheck s _ _ _ _ _ _ with
        | error f => trivial
        | ok pa =>
          have hw : ∀ l, Q (s.walked q l) := fun l => hQ.walked q l h
          exact walked_ite (hQ.install _ (hQ.leafMark _ _ _ _ (hw _))) (hQ.install _ (hQ.leafMark _ _ _ _ (hw _)))
      case pointer =>
        generalize BitVec.toNat _ * 4096 = t'
        cases hloc : locOf t' with
        | ext pa => simp only [hloc]; trivial
        | none => simp only [hloc]; trivial
        | hbm d' o' =>
          simp only [hloc]
          refine walked_ite (ih _ _ ?_) trivial
          split
          · exact hQ.cachePtr _ h
          · exact h

theorem translate (asid va k : Nat) (q : Option Nat) {s : State} (h : Q s) : Walked Q (translate s asid va k q) := by
  unfold Machine.translate
  dsimp only
  cases s.mem.tlb.find? _ with
  | some t => exact h
  | none =>
    cases s.startOf asid (homeDie va) va with
    | some start => exact hQ.walkFrom _ _ _ _ _ _ _ _ h
    | none => exact walked_ite trivial (hQ.walkFrom _ _ _ _ _ _ _ _ h)

end OfWalks

/-- A property of the memory side that no access to a sector of the LLC touches: the LLC keeps its sectors, each core its buffer. -/
structure Quiet (P : Mem → Prop) : Prop where
  walks : OfWalks (fun s => P s.mem)
  core : OfBuffers P
  llc : ∀ m (p : Sector → Bool) f, (∀ x, (f x).asid = x.asid ∧ (f x).va = x.va ∧ (f x).part = x.part ∧ (f x).pa = x.pa) → P m →
    P { m with llc := upd p f m.llc }
  slice : ∀ m l, P m → P { m with slice := l }

namespace Quiet
variable {P : Mem → Prop} (hP : Quiet P)

include hP

theorem updCore {s : State} (d c : Nat) (f : CoreSt → CoreSt) (hf : ∀ k, (f k).die = k.die ∧ (f k).num = k.num ∧ (f k).wcb = k.wcb)
    (h : P s.mem) : P (s.updCore d c f).mem := hP.core s.mem s d c f hf h

theorem updSector {s : State} (asid va : Nat) (f : Sector → Sector) (hf : ∀ x, (f x).asid = x.asid ∧ (f x).va = x.va ∧ (f x).part = x.part ∧ (f x).pa = x.pa)
    (h : P s.mem) : P (s.updSector asid va f).mem := hP.llc s.mem _ f hf h

theorem slicePut {s : State} (asid va : Nat) (bs : List (Nat × Byte)) (pts : Nat) (h : P s.mem) : P (s.slicePut asid va bs pts).1.mem := by
  unfold State.slicePut
  split
  · exact h
  next x _ => exact hP.core.wakeSector asid va (hP.updSector asid va (fun y => { y with data := Sec.put y.data bs, wts := max pts (x.rts + 1), rts := max pts (x.rts + 1), dirty := true }) (fun _ => ⟨rfl, rfl, rfl, rfl⟩) h)

theorem guestOut {s : State} (asid va : Nat) (write : Bool) (h : P s.mem) : P (s.guestOut asid va write).mem := by
  unfold State.guestOut
  split
  · exact h
  · split
    · exact h
    · dsimp only
      split
      · exact h
      · exact hP.slicePut _ _ _ _ h

theorem writable {s u : State} {x : Sector} {q : Option Nat} (hu : s.writable x q = .ok u) (h : P s.mem) : P u.mem := by
  unfold State.writable at hu
  split at hu
  · cases hu; exact h
  · have hw := hP.walks.translate x.asid x.va 1 q h
    split at hu
    · cases hu
    next t y hy =>
      cases hu
      rw [hy] at hw
      exact hP.updSector _ _ _ (fun _ => ⟨rfl, rfl, rfl, rfl⟩) hw

theorem ack {s : State} (die core wts : Nat) (h : P s.mem) : P (s.ack die core wts).mem :=
  hP.updCore die core _ (fun _ => ⟨rfl, rfl, rfl⟩) h

theorem dropReqs {s : State} (l : List SliceReq) (h : P s.mem) : P (dropReqs s l).mem := hP.slice s.mem _ h

theorem reqLost {s : State} (r : SliceReq) (f : AFault) (h : P s.mem) : P (reqLost s r f).mem := by
  unfold Machine.reqLost
  rw [State.deviceRec_mem, State.poisonRec_mem]
  exact hP.dropReqs _ h

theorem sliceDo {s : State} (asid sv : Nat) (r : SliceReq) (h : P s.mem) : P (sliceDo s asid sv r).mem := by
  unfold Machine.sliceDo
  split
  · exact hP.ack _ _ _ (hP.dropReqs _ (hP.slicePut _ _ _ _ h))
  next q _ =>
    dsimp only
    split
    · exact keeps_foldl (fun s (y : SliceReq) hs => hP.ack y.die y.core _ hs) _ (hP.dropReqs _ (hP.slicePut _ _ _ _ h))
    · refine hP.ack _ _ _ (hP.dropReqs _ ?_)
      have hput := hP.slicePut asid sv (wordBytesAt q.off (applyOp q.code 0 (s.sliceWord asid (sv + q.off)) q.y)) r.pts h
      have htake : P (if q.code == 1 then (s.slicePut asid sv (wordBytesAt q.off (applyOp q.code 0 (s.sliceWord asid (sv + q.off)) q.y)) r.pts).1.updRange
          q.rid (fun rg => orderTake rg (sv + q.off)) else (s.slicePut asid sv (wordBytesAt q.off (applyOp q.code 0 (s.sliceWord asid (sv + q.off)) q.y)) r.pts).1).mem := by
        split <;> exact hput
      split
      · exact hP.updCore _ _ _ (fun _ => ⟨rfl, rfl, rfl⟩) htake
      · exact htake

end Quiet
end Sys2Proof.Machine

namespace Sys2Proof.Machine
open Sys2Proof.Safety Sys2Proof.Rules

/-! ## Cores -/

/-- What waits in a core's buffer. -/
def Mem.wcbOf (m : Mem) (d c : Nat) : List WcbEnt := ((m.cores.find? (fun x => x.die == d && x.num == c)).map (·.wcb)).getD []

theorem State.core_wcb (s : State) (d c : Nat) : (s.core d c).wcb = s.mem.wcbOf d c := by
  unfold State.core Mem.wcbOf
  cases s.mem.cores.find? _ <;> rfl

theorem State.core_updCore (s : State) (d c : Nat) (f : CoreSt → CoreSt) (hf : ∀ k, (f k).die = k.die ∧ (f k).num = k.num) :
    (s.updCore d c f).core d c = f (s.core d c) := by
  have hfind := updOr_find_same (fun x : CoreSt => x.die == d && x.num == c) (s.dfltCore d c) f s.mem.cores
    (fun k hk => by rw [(hf k).1, (hf k).2]; exact hk) (by rw [(hf _).1, (hf _).2]; simp [State.dfltCore])
  unfold State.core
  rw [show (s.updCore d c f).mem.cores = updOr (fun x => x.die == d && x.num == c) (s.dfltCore d c) f s.mem.cores from rfl, hfind]
  rfl

theorem wcbOf_updOr (m : Mem) (s : State) (d c : Nat) (f : CoreSt → CoreSt) (hf : ∀ k, (f k).die = k.die ∧ (f k).num = k.num ∧ (f k).wcb = k.wcb)
    (d' c' : Nat) : Mem.wcbOf { m with cores := updOr (fun x => x.die == d && x.num == c) (s.dfltCore d c) f m.cores } d' c' = m.wcbOf d' c' := by
  unfold Mem.wcbOf
  dsimp only
  by_cases h : d' = d ∧ c' = c
  · obtain ⟨rfl, rfl⟩ := h
    rw [updOr_find_same (fun x : CoreSt => x.die == d' && x.num == c') (s.dfltCore d' c') f m.cores
      (fun k hk => by rw [(hf k).1, (hf k).2.1]; exact hk) (by rw [(hf _).1, (hf _).2.1]; simp [State.dfltCore])]
    cases m.cores.find? _ with
    | none => exact (hf _).2.2
    | some k => exact (hf k).2.2
  · have hne : ∀ k : CoreSt, (k.die == d && k.num == c) = true → (k.die == d' && k.num == c') = false := by
      intro k hk
      simp only [Bool.and_eq_true, beq_iff_eq, Bool.and_eq_false_iff, beq_eq_false_iff_ne] at hk ⊢
      omega
    rw [updOr_find_other _ _ _ _ _ hne (fun k hk => by rw [(hf k).1, (hf k).2.1]; exact hne k hk)
      (by rw [(hf _).1, (hf _).2.1]; exact hne _ (by simp [State.dfltCore]))]

/-! ## The same sectors, the same buffers -/

/-- What names a sector of the LLC and the frame it is from. -/
def Sector.key (x : Sector) : Nat × Nat × Nat × Nat := (x.asid, x.va, x.part, x.pa)

/-- The same sectors stand in the LLC, and the same bytes wait in the cores' buffers. -/
structure SameSectors (m m' : Mem) : Prop where
  asids : m'.asids = m.asids
  poison : m'.poison = m.poison
  keys : m'.llc.map Sector.key = m.llc.map Sector.key
  wcb : ∀ d c, m'.wcbOf d c = m.wcbOf d c

theorem SameSectors.refl (m : Mem) : SameSectors m m := ⟨rfl, rfl, rfl, fun _ _ => rfl⟩

theorem SameSectors.quiet (m : Mem) : Quiet (SameSectors m) where
  walks := {
    tables := fun _ _ _ ⟨a, p, k, w⟩ => ⟨a, p, k, w⟩
    phys := fun _ _ _ ⟨a, p, k, w⟩ => ⟨a, p, k, w⟩
    count := fun s part e n q h => by rw [State.count_mem]; exact h }
  core := fun m' s d c f hf ⟨a, p, k, w⟩ => ⟨a, p, k, fun d' c' => (wcbOf_updOr m' s d c f hf d' c').trans (w d' c')⟩
  llc := fun m' q f hf ⟨a, p, k, w⟩ => ⟨a, p, by
    refine Eq.trans ?_ k
    rw [upd, List.map_map]
    refine List.map_congr_left (fun x _ => ?_)
    obtain ⟨h1, h2, h3, h4⟩ := hf x
    simp only [Function.comp]
    split
    · rw [Sector.key, h1, h2, h3, h4]; rfl
    · rfl, w⟩
  slice := fun _ _ ⟨a, p, k, w⟩ => ⟨a, p, k, w⟩

/-- Whether a sector's names are those of an access. -/
def keyAt (part asid va : Nat) (k : Nat × Nat × Nat × Nat) : Bool := k.1 == asid && k.2.1 == sectorOf va && k.2.2.1 == part

theorem sector?_key (s : State) (asid va : Nat) :
    (s.sector? asid va).map Sector.key = (s.mem.llc.map Sector.key).find? (keyAt (s.homePart asid va) asid va) := by
  rw [State.sector?, List.find?_map]
  rfl

theorem partOn_congr {s u : State} (h : u.mem.asids = s.mem.asids) (asid d : Nat) : u.partOn asid d = s.partOn asid d := by
  unfold State.partOn State.asidEnt
  rw [h]

theorem SameSectors.sector? {s u : State} (h : SameSectors s.mem u.mem) (asid va : Nat) :
    (u.sector? asid va).map Sector.key = (s.sector? asid va).map Sector.key := by
  rw [sector?_key, sector?_key, h.keys, State.homePart, State.homePart, partOn_congr h.asids]

theorem SameSectors.isSome {s u : State} (h : SameSectors s.mem u.mem) {asid va : Nat} (hx : (s.sector? asid va).isSome) :
    (u.sector? asid va).isSome := by
  have := congrArg Option.isSome (h.sector? asid va)
  rw [Option.isSome_map, Option.isSome_map] at this
  rw [this]; exact hx

/-! ## Requests of a sector that is in the LLC -/

namespace Quiet
variable {P : Mem → Prop} (hP : Quiet P)
include hP

theorem sliceNext {s : State} {asid sv : Nat} (hx : (s.sector? asid sv).isSome) (h : P s.mem) : P (sliceNext s asid sv).mem := by
  obtain ⟨x, hx⟩ := Option.isSome_iff_exists.mp hx
  unfold Machine.sliceNext
  split
  · exact h
  next r _ =>
    rw [hx]
    dsimp only
    split
    next y hy => exact hP.sliceDo _ _ _ (hP.guestOut _ _ _ (hP.writable hy h))
    next f _ => exact hP.reqLost _ _ h

theorem performSectorN {asid sv : Nat} (n : Nat) : ∀ {s : State}, (s.sector? asid sv).isSome → P s.mem → P (performSectorN s asid sv n).mem := by
  induction n with
  | zero => exact fun _ h => h
  | succ n ih =>
    intro s hx h
    unfold Machine.performSectorN
    split
    · exact h
    · have hsame := (SameSectors.quiet s.mem).sliceNext (asid := asid) (sv := sv) hx (.refl _)
      exact ih (hsame.isSome hx) (hP.sliceNext hx h)

theorem performSector {s : State} {asid sv : Nat} (hx : (s.sector? asid sv).isSome) (h : P s.mem) : P (performSector s asid sv).mem :=
  hP.performSectorN _ hx h

end Quiet
end Sys2Proof.Machine

namespace Sys2Proof.Machine
open Sys2Proof.Safety Sys2Proof.Rules

/-! ## Sectors of the LLC (R82) -/

theorem isAt_congr {s u : State} (h : u.mem.asids = s.mem.asids) : u.isAt = s.isAt := by
  funext asid va x
  rw [State.isAt, State.isAt, State.homePart, State.homePart, partOn_congr h]

theorem sector?_congr {s u : State} (hl : u.mem.llc = s.mem.llc) (ha : u.mem.asids = s.mem.asids) (asid va : Nat) :
    u.sector? asid va = s.sector? asid va := by
  rw [State.sector?, State.sector?, hl, isAt_congr ha]

theorem isAt_updSector (s : State) (asid va : Nat) (f : Sector → Sector) : (s.updSector asid va f).isAt = s.isAt := isAt_congr rfl

theorem sector?_updSector (s : State) (asid va : Nat) (f : Sector → Sector) (hf : ∀ x, (f x).asid = x.asid ∧ (f x).va = x.va ∧ (f x).part = x.part) :
    (s.updSector asid va f).sector? asid va = (s.sector? asid va).map f := by
  rw [State.sector?, isAt_updSector]
  exact find_upd_same _ _ _ (fun x hx => by
    obtain ⟨h1, h2, h3⟩ := hf x
    rw [State.isAt, h1, h2, h3]; exact hx)

theorem sector?_updSector_other (s : State) {asid va b a : Nat} (f : Sector → Sector) (hf : ∀ x, (f x).asid = x.asid ∧ (f x).va = x.va ∧ (f x).part = x.part)
    (h : b ≠ asid ∨ sectorOf a ≠ sectorOf va) : (s.updSector asid va f).sector? b a = s.sector? b a := by
  have hno : ∀ x, s.isAt asid va x = true → s.isAt b a x = false := by
    intro x hx
    simp only [State.isAt, Bool.and_eq_true, beq_iff_eq] at hx
    obtain ⟨⟨ha, hv⟩, _⟩ := hx
    simp only [State.isAt, Bool.and_eq_false_iff, beq_eq_false_iff_ne]
    rw [ha, hv]
    rcases h with h | h
    · exact .inl (.inl h.symm)
    · exact .inl (.inr h.symm)
  rw [State.sector?, isAt_updSector]
  refine find_upd_other _ _ _ _ hno (fun x hx => ?_)
  obtain ⟨h1, h2, h3⟩ := hf x
  rw [State.isAt, h1, h2, h3]
  exact hno x hx

theorem wakeSector_llc (s : State) (asid va : Nat) : (s.wakeSector asid va).mem.llc = s.mem.llc ∧ (s.wakeSector asid va).mem.asids = s.mem.asids :=
  OfBuffers.wakeSector (P := fun m => m.llc = s.mem.llc ∧ m.asids = s.mem.asids) (fun _ _ _ _ _ _ h => h) asid va ⟨rfl, rfl⟩

theorem sector?_wakeSector (s : State) (asid va b a : Nat) : (s.wakeSector asid va).sector? b a = s.sector? b a :=
  sector?_congr (wakeSector_llc s asid va).1 (wakeSector_llc s asid va).2 b a

/-- A sector with bytes written at a time. -/
def Sector.written (bs : List (Nat × Byte)) (t : Nat) (x : Sector) : Sector := { x with data := Sec.put x.data bs, wts := t, rts := t, dirty := true }

/-- A sector leased up to a time. -/
def Sector.leased (e : Nat) (x : Sector) : Sector := { x with rts := e }

theorem slicePut_of_sector {s : State} {asid va : Nat} {x : Sector} (h : s.sector? asid va = some x) (bs : List (Nat × Byte)) (pts : Nat) :
    s.slicePut asid va bs pts = ((s.updSector asid va (Sector.written bs (max pts (x.rts + 1)))).wakeSector asid va, max pts (x.rts + 1)) := by
  unfold State.slicePut
  rw [h]
  rfl

end Sys2Proof.Machine

namespace Sys2Proof.Rules
open Sys2Proof.Safety Sys2Proof.Machine

/-- Settles O49: the waits that the write ends touch no sector. -/
theorem writePassesEveryLease : Obligations.WritePassesEveryLease := by
  intro s asid va bs pts x hx
  rw [slicePut_of_sector hx]
  refine ⟨rfl, ?_, fun b a h => ?_⟩
  · rw [sector?_wakeSector, sector?_updSector _ _ _ (Sector.written _ _) (fun _ => ⟨rfl, rfl, rfl⟩), hx, Option.map_some]
    rfl
  · rw [sector?_wakeSector, sector?_updSector_other _ (Sector.written _ _) (fun _ => ⟨rfl, rfl, rfl⟩) h]

theorem sectorOf_sectorOf (va : Nat) : sectorOf (sectorOf va) = sectorOf va := by
  unfold sectorOf; omega

theorem lease_eq (s : State) (p : Nat) : s.lease p = (s.part p).policy.toNat % 256 := by
  rw [State.lease, BitVec.extractLsb_toNat]
  rfl

theorem line?_addLine (c : CoreSt) (l : L1Line) (sets : Nat) (va : Nat) (hv : l.va = sectorOf va) : (c.addLine l sets).line? l.asid va = some l := by
  have hgone : ∀ x ∈ (c.dropLine l.asid l.va).l1, (x.asid == l.asid && x.va == sectorOf va) = false := by
    intro x hx
    have h := (List.mem_filter.mp hx).2
    rw [hv, sectorOf_sectorOf, Bool.not_eq_true'] at h
    exact h
  have hkept : ∀ x ∈ (if ((c.dropLine l.asid l.va).l1.filter (fun x => x.va / 128 % sets == l.va / 128 % sets)).length ≥ 8
      then (match ((c.dropLine l.asid l.va).l1.filter (fun x => x.va / 128 % sets == l.va / 128 % sets)).head? with
        | some o => (c.dropLine l.asid l.va).l1.erase o
        | none => (c.dropLine l.asid l.va).l1)
      else (c.dropLine l.asid l.va).l1), x ∈ (c.dropLine l.asid l.va).l1 := by
    intro x hx
    split at hx
    · split at hx
      · exact List.mem_of_mem_erase hx
      · exact hx
    · exact hx
  unfold CoreSt.line? CoreSt.addLine
  dsimp only
  rw [List.find?_append, List.find?_eq_none.mpr (fun x hx => by rw [hgone x (hkept x hx)]; exact Bool.false_ne_true)]
  simp [hv]

/-- The line that a leased fill of a sector makes in a core. -/
def leasedLine (w : Who) (va : Nat) (x : Sector) (e : Nat) (c : CoreSt) : L1Line :=
  { asid := w.asid, va := sectorOf va, pa := x.pa, data := Sec.put x.data (c.waiting w.asid va), wts := x.wts, e := e, uo := false }

/-- A core behind such a fill. -/
def leasedCore (w : Who) (va : Nat) (x : Sector) (e sets : Nat) (c : CoreSt) : CoreSt := (c.addLine (leasedLine w va x e c) sets).setPts x.wts

/-- Settles O48: with nothing to settle first, the fill changes the sector's lease, the core's clock and its line. -/
theorem fillGrantsALease : Obligations.FillGrantsALease := by
  intro s w va x hx hreq hred e t
  have hwait : (s.core w.die w.core).wcb.any (fun e => e.asid == w.asid && e.va == sectorOf va && !e.reds.isEmpty) = false := by
    rw [List.any_eq_false]
    intro y hy h
    simp only [Bool.and_eq_true, beq_iff_eq, Bool.not_eq_true', List.isEmpty_eq_false_iff] at h
    exact h.2 (hred y hy h.1.1 h.1.2)
  have hperf : performSector s w.asid (sectorOf va) = s := by
    unfold performSector
    cases s.mem.slice.length with
    | zero => rfl
    | succ n => unfold performSectorN; rw [hreq]
  have hown : settleOwn s w va = s := by
    unfold settleOwn
    rw [hwait]
    exact hperf
  -- what the fill makes of the core
  let sets := (s.updSector w.asid va (Sector.leased e)).l1Sets w.part w.die w.core
  have ht : t = (s.updSector w.asid va (Sector.leased e)).updCore w.die w.core (leasedCore w va x e sets) := by
    show l1Fill s w va false = _
    unfold l1Fill
    rw [hown]
    dsimp only
    rw [hx]
    dsimp only
    rw [lease_eq]
    rfl
  have hcore : t.core w.die w.core = leasedCore w va x e sets (s.core w.die w.core) := by
    rw [ht, State.core_updCore _ _ _ (leasedCore w va x e sets) (fun _ => ⟨rfl, rfl⟩)]
    rfl
  refine ⟨?_, ?_, leasedLine w va x e (s.core w.die w.core), ?_, rfl, rfl, rfl⟩
  · have hsec : t.sector? w.asid va = (s.updSector w.asid va (Sector.leased e)).sector? w.asid va := by
      rw [ht]; exact sector?_congr rfl rfl _ _
    rw [hsec, sector?_updSector _ _ _ (Sector.leased e) (fun _ => ⟨rfl, rfl, rfl⟩), hx, Option.map_some]
    rfl
  · rw [hcore]; rfl
  · rw [hcore]
    exact line?_addLine _ (leasedLine w va x e _) sets va rfl
end Sys2Proof.Rules

namespace Sys2Proof.Machine
open Sys2Proof.Safety Sys2Proof.Rules

/-! ## The fill of a sector (R87, R350, R352) -/

/-- What a fill's checks read of the state. -/
structure SameChecks (s u : State) : Prop where
  llc : u.mem.llc = s.mem.llc
  asids : u.mem.asids = s.mem.asids
  fot : u.mem.fot = s.mem.fot
  pkg : u.pkg = s.pkg

theorem SameChecks.walks (s : State) : OfWalks (SameChecks s) where
  tables := fun _ _ _ ⟨a, b, c, d⟩ => ⟨a, b, c, d⟩
  phys := fun _ _ _ ⟨a, b, c, d⟩ => ⟨a, b, c, d⟩
  count := fun _ _ _ _ q ⟨a, b, c, d⟩ => by cases q <;> exact ⟨a, b, c, d⟩

theorem SameChecks.fotOk {s u : State} (h : SameChecks s u) (owners : List Nat) (pa : Nat) (write : Bool) : u.fotOk owners pa write = s.fotOk owners pa write := by
  unfold State.fotOk State.fotAllows State.fotEnt State.keyFilled
  rw [h.pkg, h.fot]

theorem SameChecks.synonym {s u : State} (h : SameChecks s u) (asid va pa : Nat) (write : Bool) : u.synonym asid va pa write = s.synonym asid va pa write := by
  unfold State.synonym
  rw [h.llc]

/-- A sector whose bytes memory has. -/
def Sector.clean (x : Sector) : Sector := { x with dirty := false }

/-- A property of the memory side that the leaving of sectors does not touch. -/
structure OfLeaving (P : Mem → Prop) : Prop where
  back : ∀ m a bs p, P m → P { m with phys := m.phys.write a bs, llc := upd p Sector.clean m.llc }
  leave : ∀ m p t, P m → P { m with llc := m.llc.filter p, mts := t }

theorem writeBack_mem (s : State) (x : Sector) : (s.writeBack x).mem = s.mem ∨ ∃ a bs p,
    (s.writeBack x).mem = { s.mem with phys := s.mem.phys.write a bs, llc := upd p Sector.clean s.mem.llc } := by
  unfold State.writeBack
  split
  · refine .inr ?_
    dsimp only
    split
    · refine ⟨keyOf x.pa, x.data.toList, fun y => y.asid == x.asid && y.va == x.va && y.part == x.part, ?_⟩
      cases chanPart x.pa with
      | none => rfl
      | some p =>
        rw [State.updMem_mem, State.physWrite, State.updMem_mem, State.count_mem]
        rfl
    · exact ⟨0, [], _, rfl⟩
  · exact .inl rfl

namespace OfLeaving
variable {P : Mem → Prop} (hP : OfLeaving P)
include hP

theorem writeBack {s : State} (x : Sector) (h : P s.mem) : P (s.writeBack x).mem := by
  rcases writeBack_mem s x with he | ⟨a, bs, p, he⟩ <;> rw [he]
  · exact h
  · exact hP.back _ _ _ _ h

theorem leaveLlc {s : State} (p : Sector → Bool) (h : P s.mem) : P (s.leaveLlc p).mem :=
  hP.leave _ _ _ (keeps_foldl (f := fun s x => s.writeBack x) (fun _ x hs => hP.writeBack x hs) (s.mem.llc.filter p) h)

theorem makeRoom {s : State} (asid va : Nat) (h : P s.mem) : P (s.makeRoom asid va).mem := by
  unfold State.makeRoom
  dsimp only
  split
  · exact h
  · split
    · exact hP.leaveLlc _ h
    · exact h

end OfLeaving

/-- Every sector of the second memory was in the first under the same names. -/
structure FewerSectors (m m' : Mem) : Prop where
  asids : m'.asids = m.asids
  keys : ∀ k ∈ m'.llc.map Sector.key, k ∈ m.llc.map Sector.key

theorem map_key_upd (p : Sector → Bool) (l : List Sector) : (upd p Sector.clean l).map Sector.key = l.map Sector.key := by
  rw [upd, List.map_map]
  refine List.map_congr_left (fun y _ => ?_)
  simp only [Function.comp]
  split <;> rfl

theorem FewerSectors.leaving (m : Mem) : OfLeaving (FewerSectors m) where
  back := fun _ _ _ _ ⟨a, k⟩ => ⟨a, fun x hx => k x (map_key_upd _ _ ▸ hx)⟩
  leave := fun _ _ _ ⟨a, k⟩ => ⟨a, fun x hx => by
    obtain ⟨y, hy, rfl⟩ := List.mem_map.mp hx
    exact k _ (List.mem_map_of_mem (List.mem_filter.mp hy).1)⟩

theorem sector?_none_iff (s : State) (asid va : Nat) :
    s.sector? asid va = none ↔ ∀ k ∈ s.mem.llc.map Sector.key, keyAt (s.homePart asid va) asid va k = false := by
  rw [← Option.map_eq_none_iff (f := Sector.key), sector?_key, List.find?_eq_none]
  simp only [Bool.not_eq_true]

theorem FewerSectors.none {s u : State} (h : FewerSectors s.mem u.mem) {asid va : Nat} (hx : s.sector? asid va = none) : u.sector? asid va = none := by
  rw [sector?_none_iff] at hx ⊢
  intro k hk
  rw [State.homePart, partOn_congr h.asids]
  exact hx k (h.keys k hk)

@[simp] theorem State.llcMiss_mem (s : State) (w : Who) (va pa : Nat) : (s.llcMiss w va pa).mem = s.mem := by
  unfold State.llcMiss
  dsimp only
  split
  · rw [State.updGroup_mem, State.count_mem, State.count_mem]
  · exact State.count_mem _ _ _ _ _

/-- A sector that stands last, where no other has its names, is the one found. -/
theorem sector?_append {s : State} {asid va : Nat} {x : Sector} (hs : s.sector? asid va = none) (hx : s.isAt asid va x = true) :
    (s.updMem (fun m => { m with llc := m.llc ++ [x] })).sector? asid va = some x := by
  have hat : (s.updMem (fun m => { m with llc := m.llc ++ [x] })).isAt = s.isAt := isAt_congr rfl
  rw [State.sector?, hat]
  show (s.mem.llc ++ [x]).find? _ = _
  rw [List.find?_append, show s.mem.llc.find? (s.isAt asid va) = none from hs, List.find?_singleton, hx]
  rfl

/-- What a fill on a miss answers. -/
structure Filled (s u : State) (asid sv : Nat) (write : Bool) : Prop where
  sector : ∃ x, u.sector? asid sv = some x ∧ s.fotOk [s.homePart asid sv] x.pa write = true ∧ s.synonym asid sv x.pa write = false ∧
    u.sectorBad x.pa = false

theorem llcGet_miss {s u : State} {w : Who} {va : Nat} {write : Bool} (hs : s.sector? w.asid (sectorOf va) = none)
    (h : llcGet s w va write = .ok u) : Filled s u w.asid (sectorOf va) write := by
  unfold llcGet at h
  dsimp only at h
  rw [hs] at h
  dsimp only at h
  split at h
  · cases h
  · split at h
    · cases h
    next t y ht =>
      have hc : SameChecks s y := by
        have hw := (SameChecks.walks s).translate w.asid (sectorOf va) (if write then 1 else 0) w.qid ⟨rfl, rfl, rfl, rfl⟩
        rw [ht] at hw
        exact hw
      split at h
      · cases h
      next hfot =>
        split at h
        · cases h
        next hsyn =>
          split at h
          · cases h
          next hbad =>
            cases h
            rw [Bool.not_eq_true, Bool.not_eq_false'] at hfot
            rw [Bool.not_eq_true] at hsyn hbad
            rw [hc.fotOk, State.homePart, partOn_congr hc.asids] at hfot
            rw [hc.synonym] at hsyn
            have hnone : ((y.makeRoom w.asid (sectorOf va)).llcMiss w (sectorOf va) (t.pa + (sectorOf va - t.va))).sector? w.asid (sectorOf va) = none := by
              refine (sector?_congr (congrArg Mem.llc (State.llcMiss_mem _ _ _ _)) (congrArg Mem.asids (State.llcMiss_mem _ _ _ _)) _ _).trans ?_
              exact ((FewerSectors.leaving y.mem).makeRoom _ _ ⟨rfl, fun _ h => h⟩).none ((sector?_congr hc.llc hc.asids _ _).trans hs)
            refine ⟨_, sector?_append hnone ?_, hfot, hsyn, ?_⟩
            · rw [State.isAt, sectorOf_sectorOf]
              simp only [beq_self_eq_true, Bool.and_self]
            · have hpoison : (y.makeRoom w.asid (sectorOf va)).mem.poison = y.mem.poison :=
                OfLeaving.makeRoom (P := fun m => m.poison = y.mem.poison) ⟨fun _ _ _ _ h => h, fun _ _ _ h => h⟩ _ _ rfl
              rw [State.sectorBad, State.updMem_mem, State.llcMiss_mem, hpoison]
              exact hbad

theorem sector?_guestOut {u : State} {asid va : Nat} {x : Sector} (hx : u.sector? asid va = some x) (write : Bool) :
    ∃ y, (u.guestOut asid va write).sector? asid va = some y ∧ y.key = x.key := by
  have hsame := ((SameSectors.quiet u.mem).guestOut asid va write (.refl _)).sector? asid va
  rw [hx] at hsame
  obtain ⟨y, hy, hkey⟩ := Option.map_eq_some_iff.mp hsame
  exact ⟨y, hy, hkey⟩

theorem Sector.pa_of_key {x y : Sector} (h : y.key = x.key) : y.pa = x.pa := congrArg (fun k => k.2.2.2) h

theorem llcFill_ok {s u : State} {w : Who} {va : Nat} {write : Bool} (h : llcFill s w va write = .ok u) :
    ∃ y, llcGet s w va write = .ok y ∧ u = y.guestOut w.asid (sectorOf va) write := by
  unfold llcFill at h
  split at h
  · cases h
  next y hy => cases h; exact ⟨y, hy, rfl⟩

end Sys2Proof.Machine

namespace Sys2Proof.Rules
open Sys2Proof.Safety Sys2Proof.Machine

/-- Settles O50: neither the walk nor the room made for the line changes what the checks read, and the guest's copy changes the sector's bytes
and times alone. -/
theorem fillRespectsOwnership : Obligations.FillRespectsOwnership := by
  intro s w va write t hs h
  obtain ⟨y, hy, rfl⟩ := llcFill_ok h
  obtain ⟨x, hx, hfot, hsyn, _⟩ := llcGet_miss hs hy
  obtain ⟨z, hz, hkey⟩ := sector?_guestOut hx write
  exact ⟨z, hz, Sector.pa_of_key hkey ▸ hfot, Sector.pa_of_key hkey ▸ hsyn⟩
end Sys2Proof.Rules

namespace Sys2Proof.Machine
open Sys2Proof.Safety Sys2Proof.Rules

/-! ## An address and its sector -/

theorem sectorOf_div (va : Nat) {lo : Nat} (h : 7 ≤ lo) : sectorOf va / 2 ^ lo = va / 2 ^ lo := by
  obtain ⟨k, rfl⟩ := Nat.exists_eq_add_of_le h
  rw [Nat.pow_add, ← Nat.div_div_eq_div_mul, ← Nat.div_div_eq_div_mul, sectorOf]
  congr 1
  omega

theorem bits_sectorOf (va hi : Nat) {lo : Nat} (h : 7 ≤ lo) : bits (sectorOf va) hi lo = bits va hi lo := by
  rw [bits, bits, sectorOf_div va h]

theorem bit_sectorOf (va : Nat) {n : Nat} (h : 7 ≤ n) : bit (sectorOf va) n = bit va n := by
  rw [bit, bit, sectorOf_div va h]

theorem homeDie_sectorOf (va : Nat) : homeDie (sectorOf va) = homeDie va := by
  unfold homeDie xorDie
  simp only [bits_sectorOf, bit_sectorOf, Nat.reduceLeDiff]

theorem sector?_sectorOf (s : State) (asid va : Nat) : s.sector? asid (sectorOf va) = s.sector? asid va := by
  unfold State.sector?
  congr 1
  funext x
  rw [State.isAt, State.isAt, sectorOf_sectorOf, State.homePart, State.homePart, homeDie_sectorOf]

/-! ## A sector that may be read -/

/-- The sector of an access stands in the LLC and is not poisoned. -/
def Readable (s : State) (asid va : Nat) : Prop := ∃ x, s.sector? asid va = some x ∧ s.sectorBad x.pa = false

theorem Readable.same {s u : State} {asid va : Nat} (hr : Readable s asid va) (h : SameSectors s.mem u.mem) : Readable u asid va := by
  obtain ⟨x, hx, hbad⟩ := hr
  have hkey := h.sector? asid va
  rw [hx] at hkey
  obtain ⟨y, hy, hyx⟩ := Option.map_eq_some_iff.mp hkey
  refine ⟨y, hy, ?_⟩
  rw [Sector.pa_of_key hyx, State.sectorBad, h.poison]
  exact hbad

theorem Readable.isSome {s : State} {asid va : Nat} (h : Readable s asid va) : (s.sector? asid va).isSome := by
  obtain ⟨x, hx, _⟩ := h
  rw [hx]; rfl

@[simp] theorem State.llcHit_mem (s : State) (w : Who) (va : Nat) : (s.llcHit w va).mem = s.mem := by
  unfold State.llcHit
  split
  · rfl
  · rw [State.updGroup_mem, State.count_mem]

theorem Quiet.writer {P : Mem → Prop} (hP : Quiet P) {s : State} (w : Who) (va : Nat) (write : Bool) (h : P s.mem) : P (s.writer w va write).mem := by
  unfold State.writer
  split
  · exact hP.updSector _ _ _ (fun _ => ⟨rfl, rfl, rfl, rfl⟩) h
  · exact h

theorem llcGet_hit {P : Mem → Prop} (hP : Quiet P) {s u : State} {w : Who} {va : Nat} {write : Bool} {x : Sector} (hs : s.sector? w.asid (sectorOf va) = some x)
    (h : llcGet s w va write = .ok u) (hm : P s.mem) : P u.mem ∧ s.sectorBad x.pa = false := by
  unfold llcGet at h
  dsimp only at h
  rw [hs] at h
  dsimp only at h
  split at h
  · cases h
  next hbad =>
    split at h
    · cases h
    next y hy =>
      cases h
      refine ⟨hP.writer _ _ _ ?_, Bool.eq_false_iff.mpr hbad⟩
      rw [State.llcHit_mem]
      split at hy
      · exact hP.writable hy hm
      · cases hy; exact hm

theorem llcFill_readable {s u : State} {w : Who} {va : Nat} {write : Bool} (h : llcFill s w va write = .ok u) : Readable u w.asid va := by
  obtain ⟨y, hy, rfl⟩ := llcFill_ok h
  have hread : Readable y w.asid (sectorOf va) := by
    cases hs : s.sector? w.asid (sectorOf va) with
    | none =>
      obtain ⟨x, hx, _, _, hbad⟩ := llcGet_miss hs hy
      exact ⟨x, hx, hbad⟩
    | some x =>
      obtain ⟨hsame, hbad⟩ := llcGet_hit (SameSectors.quiet s.mem) hs hy (.refl _)
      exact Readable.same ⟨x, hs, hbad⟩ hsame
  have hout := hread.same ((SameSectors.quiet y.mem).guestOut w.asid (sectorOf va) write (.refl _))
  obtain ⟨x, hx, hbad⟩ := hout
  exact ⟨x, (sector?_sectorOf _ _ _).symm.trans hx, hbad⟩

/-- A fill for a read of a sector that may be read. -/
theorem llcFill_of_readable {s : State} {w : Who} {va : Nat} (h : Readable s w.asid va) :
    ∃ u, llcFill s w va false = .ok u ∧ SameSectors s.mem u.mem := by
  obtain ⟨x, hx, hbad⟩ := h
  have hget : llcGet s w va false = .ok ((s.llcHit w (sectorOf va)).writer w (sectorOf va) false) := by
    unfold llcGet
    dsimp only
    rw [sector?_sectorOf, hx]
    dsimp only
    rw [hbad]
    rfl
  refine ⟨_, by unfold llcFill; rw [hget], (SameSectors.quiet s.mem).guestOut _ _ _ ?_⟩
  exact (SameSectors.quiet s.mem).writer _ _ _ (by rw [State.llcHit_mem]; exact .refl _)

end Sys2Proof.Machine

namespace Sys2Proof.Machine
open Sys2Proof.Safety Sys2Proof.Rules

/-! ## The write-combining buffer (R83) -/

def keyed (asid sv : Nat) (e : WcbEnt) : Bool := e.asid == asid && e.va == sv

/-- Bytes of an entry under others. -/
def under (bs old : List (Nat × Byte)) : List (Nat × Byte) := old.filter (fun x => !(bs.any (fun y => y.1 == x.1))) ++ bs

/-- A core's buffer holds these bytes of a sector, and no reduction of it. -/
structure Covered (l : List WcbEnt) (asid sv : Nat) (bs : List (Nat × Byte)) : Prop where
  entry : ∃ e old, l.find? (keyed asid sv) = some e ∧ e.bytes = under bs old
  plain : ∀ e ∈ l, keyed asid sv e = true → e.reds = []

/-- The oldest entry has left a core. -/
def CoreSt.without (rest : List WcbEnt) (c : CoreSt) : CoreSt := { c with wcb := rest }

theorem drainOne_wcb (s : State) (d c : Nat) : (drainOne s d c).mem.wcbOf d c = (s.mem.wcbOf d c).drop 1 := by
  rw [← State.core_wcb, ← State.core_wcb]
  unfold drainOne
  dsimp only
  split
  next h => rw [h, List.drop_nil]
  next e rest h =>
    show ((s.updCore d c (CoreSt.without rest)).core d c).wcb = _
    rw [State.core_updCore _ _ _ (CoreSt.without rest) (fun _ => ⟨rfl, rfl⟩), h]
    rfl

theorem drainN_wcb (n : Nat) : ∀ (s : State) (d c : Nat), (drainN s d c n).mem.wcbOf d c = (s.mem.wcbOf d c).drop n := by
  induction n with
  | zero => exact fun _ _ _ => rfl
  | succ n ih =>
    intro s d c
    rw [drainN, ih, drainOne_wcb, List.drop_drop, Nat.add_comm]

/-- The LLC, its partitions and its poison are the same. -/
structure SameLlc (s u : State) : Prop where
  llc : u.mem.llc = s.mem.llc
  asids : u.mem.asids = s.mem.asids
  poison : u.mem.poison = s.mem.poison

theorem SameLlc.refl (s : State) : SameLlc s s := ⟨rfl, rfl, rfl⟩

theorem SameLlc.trans {s t u : State} (h : SameLlc s t) (h' : SameLlc t u) : SameLlc s u := ⟨h'.1.trans h.1, h'.2.trans h.2, h'.3.trans h.3⟩

theorem SameLlc.updCore (s : State) (d c : Nat) (f : CoreSt → CoreSt) : SameLlc s (s.updCore d c f) := ⟨rfl, rfl, rfl⟩

theorem Readable.sameLlc {s u : State} {asid va : Nat} (hr : Readable s asid va) (h : SameLlc s u) : Readable u asid va := by
  obtain ⟨x, hx, hbad⟩ := hr
  exact ⟨x, (sector?_congr h.llc h.asids _ _).trans hx, by rw [State.sectorBad, h.poison]; exact hbad⟩

theorem drainOne_sameLlc (s : State) (d c : Nat) : SameLlc s (drainOne s d c) := by
  unfold drainOne
  dsimp only
  split
  · exact .refl s
  · exact ⟨rfl, rfl, rfl⟩

theorem drainN_sameLlc (n : Nat) : ∀ (s : State) (d c : Nat), SameLlc s (drainN s d c n) := by
  induction n with
  | zero => exact fun s _ _ => .refl s
  | succ n ih => exact fun s d c => (drainOne_sameLlc s d c).trans (ih _ d c)

/-- An entry of the sector that holds reductions has drained, with those before it (log entry 94). -/
def redsGone (s : State) (d c asid sv : Nat) : State :=
  match (s.core d c).wcb.find? (fun e => e.asid == asid && e.va == sv) with
  | some e => if e.reds.isEmpty then s else drainThrough s d c asid sv
  | none => s

/-- Room for an entry more. -/
def roomFor (s : State) (d c : Nat) : State := if (s.core d c).wcb.length ≥ 16 then drainOne s d c else s

/-- The bytes join the open entry of the sector. -/
def CoreSt.joined (asid sv : Nat) (bs : List (Nat × Byte)) (c : CoreSt) : CoreSt :=
  { c with wcb := upd (keyed asid sv) (fun e => { e with bytes := under bs e.bytes }) c.wcb }

/-- The bytes open an entry of their own. -/
def CoreSt.opened (asid sv : Nat) (bs : List (Nat × Byte)) (clk : Nat) (c : CoreSt) : CoreSt :=
  { c with wcb := c.wcb ++ [{ asid := asid, va := sv, bytes := bs, since := clk }] }

theorem wcbStore_eq (s : State) (d c asid sv : Nat) (bs : List (Nat × Byte)) :
    wcbStore s d c asid sv bs =
      if ((redsGone s d c asid sv).core d c).wcb.any (keyed asid sv) then (redsGone s d c asid sv).updCore d c (CoreSt.joined asid sv bs)
      else (roomFor (redsGone s d c asid sv) d c).updCore d c (CoreSt.opened asid sv bs (roomFor (redsGone s d c asid sv) d c).clk) := rfl

theorem redsGone_sameLlc (s : State) (d c asid sv : Nat) : SameLlc s (redsGone s d c asid sv) := by
  unfold redsGone
  split
  · split
    · exact .refl s
    · unfold drainThrough
      dsimp only
      split
      · exact .refl s
      · exact drainN_sameLlc _ s d c
  · exact .refl s

theorem roomFor_sameLlc (s : State) (d c : Nat) : SameLlc s (roomFor s d c) := by
  unfold roomFor
  split
  · exact drainOne_sameLlc s d c
  · exact .refl s

theorem wcbStore_sameLlc (s : State) (d c asid sv : Nat) (bs : List (Nat × Byte)) : SameLlc s (wcbStore s d c asid sv bs) := by
  rw [wcbStore_eq]
  split
  · exact (redsGone_sameLlc s d c asid sv).trans (.updCore _ d c _)
  · exact ((redsGone_sameLlc s d c asid sv).trans (roomFor_sameLlc _ d c)).trans (.updCore _ d c _)

/-! ## A buffer with one entry a sector -/

theorem keyed_iff {asid sv : Nat} {e : WcbEnt} : keyed asid sv e = true ↔ e.asid = asid ∧ e.va = sv := by
  rw [keyed, Bool.and_eq_true, beq_iff_eq, beq_iff_eq]

/-- Two entries of one sector are one. -/
theorem eq_of_keyed {l : List WcbEnt} {asid sv : Nat} (hnd : (l.map (fun e => (e.asid, e.va))).Nodup) {e x : WcbEnt} (he : e ∈ l) (hx : x ∈ l)
    (hek : keyed asid sv e = true) (hxk : keyed asid sv x = true) : e = x := by
  obtain ⟨h1, h2⟩ := keyed_iff.mp hek
  obtain ⟨h3, h4⟩ := keyed_iff.mp hxk
  exact List.inj_on_of_nodup_map hnd he hx (by rw [h1, h2, h3, h4])

/-- With one entry a sector, none is left behind the first of it. -/
theorem none_behind {l : List WcbEnt} {asid sv i : Nat} (hnd : (l.map (fun e => (e.asid, e.va))).Nodup) (hi : l.findIdx? (keyed asid sv) = some i) :
    ∀ e ∈ l.drop (i + 1), keyed asid sv e = false := by
  intro e he
  obtain ⟨hlt, hat, _⟩ := List.findIdx?_eq_some_iff_getElem.mp hi
  by_contra hk
  rw [Bool.not_eq_false] at hk
  obtain ⟨j, hj, rfl⟩ := List.mem_iff_getElem.mp he
  rw [List.getElem_drop] at hk
  have hkey : (l.map (fun e => (e.asid, e.va)))[i + 1 + j]'(by simp at hj ⊢; omega) = (l.map (fun e => (e.asid, e.va)))[i]'(by simpa using hlt) := by
    rw [List.getElem_map, List.getElem_map, (keyed_iff.mp hk).1, (keyed_iff.mp hk).2, (keyed_iff.mp hat).1, (keyed_iff.mp hat).2]
  have := (List.Nodup.getElem_inj_iff hnd).mp hkey
  omega

/-- No entry of the sector holds reductions once such a one has drained. -/
theorem redsGone_plain {s : State} {d c asid sv : Nat} (hnd : ((s.mem.wcbOf d c).map (fun e => (e.asid, e.va))).Nodup) :
    ∀ e ∈ (redsGone s d c asid sv).mem.wcbOf d c, keyed asid sv e = true → e.reds = [] := by
  unfold redsGone
  rw [State.core_wcb]
  split
  next x hx =>
    split
    next hr =>
      intro e he hk
      rw [eq_of_keyed hnd he (List.mem_of_find?_eq_some hx) hk (List.find?_some hx)]
      exact List.isEmpty_iff.mp hr
    · intro e he hk
      unfold drainThrough at he
      dsimp only at he
      rw [State.core_wcb] at he
      split at he
      next hi =>
        have := List.findIdx?_eq_none_iff.mp hi e he
        rw [show (e.asid == asid && e.va == sv) = true from hk] at this
        cases this
      next i hi =>
        rw [drainN_wcb] at he
        rw [none_behind hnd hi e he] at hk
        cases hk
  next hx =>
    intro e he hk
    exact absurd hk (List.find?_eq_none.mp hx e he)

theorem roomFor_wcb (s : State) (d c : Nat) : ∀ e ∈ (roomFor s d c).mem.wcbOf d c, e ∈ s.mem.wcbOf d c := by
  unfold roomFor
  split
  · rw [drainOne_wcb]
    exact fun e he => List.mem_of_mem_drop he
  · exact fun e he => he

/-- A buffered store's bytes are in the buffer (R83). -/
theorem wcbStore_covered {s : State} {d c asid sv : Nat} (bs : List (Nat × Byte)) (hnd : ((s.mem.wcbOf d c).map (fun e => (e.asid, e.va))).Nodup) :
    Covered ((wcbStore s d c asid sv bs).mem.wcbOf d c) asid sv bs := by
  have hplain := redsGone_plain (asid := asid) (sv := sv) hnd
  rw [wcbStore_eq, State.core_wcb]
  generalize redsGone s d c asid sv = u at hplain ⊢
  split
  next hany =>
    rw [← State.core_wcb, State.core_updCore _ _ _ (CoreSt.joined asid sv bs) (fun _ => ⟨rfl, rfl⟩)]
    show Covered (upd _ _ (u.core d c).wcb) _ _ _
    rw [State.core_wcb]
    obtain ⟨x, hx⟩ := Option.isSome_iff_exists.mp (List.find?_isSome.mpr (List.any_eq_true.mp hany))
    refine ⟨⟨_, x.bytes, by rw [find_upd_same (keyed asid sv) (fun e => { e with bytes := under bs e.bytes }) _ (fun _ h => h), hx]; rfl, rfl⟩, fun e he hk => ?_⟩
    obtain ⟨y, hy, rfl⟩ := List.mem_map.mp he
    by_cases hyk : keyed asid sv y = true
    · rw [if_pos hyk]
      exact hplain y hy hyk
    · rw [if_neg hyk] at hk
      exact absurd hk hyk
  next hany =>
    rw [← State.core_wcb, State.core_updCore _ _ _ (CoreSt.opened asid sv bs _) (fun _ => ⟨rfl, rfl⟩)]
    show Covered (((roomFor u d c).core d c).wcb ++ _) _ _ _
    rw [State.core_wcb]
    have hnone : ∀ e ∈ (roomFor u d c).mem.wcbOf d c, ¬ keyed asid sv e = true :=
      fun e he hk => hany (List.any_eq_true.mpr ⟨e, roomFor_wcb u d c e he, hk⟩)
    refine ⟨⟨{ asid := asid, va := sv, bytes := bs, since := (roomFor u d c).clk }, [], ?_, rfl⟩, fun e he hk => ?_⟩
    · rw [List.find?_append, List.find?_eq_none.mpr hnone]
      simp [keyed]
    · rcases List.mem_append.mp he with he | he
      · exact absurd hk (hnone e he)
      · rw [List.mem_singleton.mp he]

/-! ## What the core reads of its own bytes -/

theorem assoc_append_of_none {β : Type} {l : List (Nat × β)} {k : Nat} (h : ∀ x ∈ l, x.1 ≠ k) (l' : List (Nat × β)) : assoc (l ++ l') k = assoc l' k := by
  rw [assoc, List.find?_append, List.find?_eq_none.mpr (fun x hx => by simpa using h x hx)]
  rfl

theorem assoc_under {bs old : List (Nat × Byte)} {k : Nat} (h : ∃ x ∈ bs, x.1 = k) : assoc (under bs old) k = assoc bs k := by
  obtain ⟨x, hx, rfl⟩ := h
  refine assoc_append_of_none (fun y hy he => ?_) bs
  have hno := (List.mem_filter.mp hy).2
  rw [Bool.not_eq_true', List.any_eq_false] at hno
  exact hno x hx (by simp [he])

theorem offs_cons (off : Nat) (b : Byte) (bs : List Byte) : offs off (b :: bs) = (off, b) :: offs (off + 1) bs := by
  simp [offs, List.mapIdx_cons, Nat.add_comm, Nat.add_left_comm]

theorem assoc_offs (bs : List Byte) : ∀ off i, assoc (offs off bs) (off + i) = bs[i]? := by
  induction bs with
  | nil => exact fun _ _ => rfl
  | cons b bs ih =>
    intro off i
    rw [offs_cons]
    cases i with
    | zero => simp [assoc]
    | succ i =>
      have := ih (off + 1) i
      rw [List.getElem?_cons_succ, ← this, assoc, assoc, List.find?_cons_of_neg (by simp), Nat.add_assoc, Nat.add_comm 1 i]

theorem mem_offs {off i : Nat} {bs : List Byte} (hi : i < bs.length) : ∃ x ∈ offs off bs, x.1 = off + i :=
  ⟨(off + i, bs[i]), List.mem_iff_getElem.mpr ⟨i, by simpa [offs] using hi, by simp [offs]⟩, rfl⟩

theorem overlay_covered {c : CoreSt} {asid va : Nat} {bs r : List Byte} (h : Covered c.wcb asid (sectorOf va) (offs (va % 128) bs)) (hr : r.length = bs.length) :
    overlay c asid va r = bs := by
  obtain ⟨e, old, he, hbytes⟩ := h.entry
  unfold overlay
  rw [show (fun e : WcbEnt => e.asid == asid && e.va == sectorOf va) = keyed asid (sectorOf va) from rfl, he]
  dsimp only
  rw [hbytes]
  refine List.ext_getElem (by rw [List.length_mapIdx, hr]) (fun i _ hi => ?_)
  rw [List.getElem_mapIdx, assoc_under (mem_offs hi), assoc_offs, List.getElem?_eq_getElem hi]
  rfl

theorem length_get (d : Sec) {off n : Nat} (h : off + n ≤ 128) : (Sec.get d off n).length = n := by
  simp [Sec.get]
  omega

/-! ## A store that is buffered, and a load of its bytes -/

/-- The cores' buffers are the same. -/
def SameWcb (m m' : Mem) : Prop := ∀ d c, m'.wcbOf d c = m.wcbOf d c

theorem SameWcb.quiet (m : Mem) : Quiet (SameWcb m) where
  walks := {
    tables := fun _ _ _ h => h
    phys := fun _ _ _ h => h
    count := fun s part e n q h => by rw [State.count_mem]; exact h }
  core := fun m' s d c f hf h d' c' => (wcbOf_updOr m' s d c f hf d' c').trans (h d' c')
  llc := fun _ _ _ _ h => h
  slice := fun _ _ h => h

theorem SameWcb.leaving (m : Mem) : OfLeaving (SameWcb m) where
  back := fun _ _ _ _ h => h
  leave := fun _ _ _ h => h

theorem llcGet_wcb {s u : State} {w : Who} {va : Nat} {write : Bool} (h : llcGet s w va write = .ok u) : SameWcb s.mem u.mem := by
  cases hs : s.sector? w.asid (sectorOf va) with
  | some x => exact (llcGet_hit (SameWcb.quiet s.mem) hs h (fun _ _ => rfl)).1
  | none =>
    unfold llcGet at h
    dsimp only at h
    rw [hs] at h
    dsimp only at h
    split at h
    · cases h
    · split at h
      · cases h
      next t y ht =>
        have hy : SameWcb s.mem y.mem := by
          have hw := (SameWcb.quiet s.mem).walks.translate w.asid (sectorOf va) (if write then 1 else 0) w.qid (fun _ _ => rfl)
          rw [ht] at hw
          exact hw
        split at h
        · cases h
        · split at h
          · cases h
          · split at h
            · cases h
            · cases h
              have hroom := (SameWcb.leaving s.mem).makeRoom w.asid (sectorOf va) hy
              exact fun d c => (congrArg (fun m : Mem => m.wcbOf d c) (State.llcMiss_mem _ w (sectorOf va) (t.pa + (sectorOf va - t.va)))).trans (hroom d c)

theorem llcFill_wcb {s u : State} {w : Who} {va : Nat} {write : Bool} (h : llcFill s w va write = .ok u) : SameWcb s.mem u.mem := by
  obtain ⟨y, hy, rfl⟩ := llcFill_ok h
  exact (SameWcb.quiet s.mem).guestOut _ _ _ (llcGet_wcb hy)

theorem peerPa_wcb {s y : State} {w : Who} {va : Nat} {write : Bool} {p : Option Nat} (h : peerPa s w va write = .ok (p, y)) : SameWcb s.mem y.mem := by
  unfold peerPa at h
  split at h
  · cases h; exact fun _ _ => rfl
  · have hw := (SameWcb.quiet s.mem).walks.translate w.asid va (if write then 1 else 0) none (fun _ _ => rfl)
    split at h
    · cases h
    next t z ht =>
      rw [ht] at hw
      split at h <;> cases h <;> exact hw

/-- A core's lines of the sector take the bytes that it stores. -/
def CoreSt.storedIn (asid va : Nat) (cells : List (Nat × Byte)) (c : CoreSt) : CoreSt :=
  { c with l1 := upd (fun l => l.asid == asid && l.va == sectorOf va) (fun l => { l with data := Sec.put l.data cells }) c.l1 }

/-- What a buffered store leaves: the sector may be read, and the buffer holds the bytes (R83). -/
theorem covered_of_buffers {s t : State} {w : Who} {va : Nat} {bs : List Byte} (h : Buffers s w va bs t) :
    Readable t w.asid va ∧ Covered (t.mem.wcbOf w.die w.core) w.asid (sectorOf va) (offs (va % 128) bs) := by
  obtain ⟨y, hy⟩ := h.here
  have hdone := h.done
  have hrel : releases false va = false := by
    rw [releases, isSo, beq_eq_false_iff_ne.mpr h.kind]; rfl
  unfold storeGlobal at hdone
  dsimp only at hdone
  rw [hy] at hdone
  dsimp only at hdone
  split at hdone
  · cases hdone
  next z hz =>
    rw [hrel, beq_eq_false_iff_ne.mpr h.kind] at hdone
    cases hdone
    have hwcb : ((z.updCore w.die w.core (CoreSt.storedIn w.asid va (offs (va % 128) bs))).mem.wcbOf w.die w.core) = s.mem.wcbOf w.die w.core :=
      ((SameWcb.quiet z.mem).updCore w.die w.core (CoreSt.storedIn w.asid va _) (fun _ => ⟨rfl, rfl, rfl⟩) (fun _ _ => rfl) _ _).trans
        ((llcFill_wcb hz _ _).trans (peerPa_wcb hy _ _))
    refine ⟨((llcFill_readable hz).sameLlc (.updCore z w.die w.core _)).sameLlc (wcbStore_sameLlc _ _ _ _ _ _), wcbStore_covered _ ?_⟩
    have := h.entries.1
    rw [State.core_wcb] at this
    exact hwcb ▸ this

theorem addLine_fields (c : CoreSt) (l : L1Line) (sets : Nat) : (c.addLine l sets).die = c.die ∧ (c.addLine l sets).num = c.num ∧ (c.addLine l sets).wcb = c.wcb :=
  ⟨rfl, rfl, rfl⟩

/-- An L1 fill where the core's buffer holds no reduction of the sector. -/
theorem Quiet.l1Fill {P : Mem → Prop} (hP : Quiet P) {s : State} {w : Who} {va : Nat} (uo : Bool) (hx : (s.sector? w.asid (sectorOf va)).isSome)
    (hplain : ∀ e ∈ s.mem.wcbOf w.die w.core, keyed w.asid (sectorOf va) e = true → e.reds = []) (h : P s.mem) : P (l1Fill s w va uo).mem := by
  have hown : settleOwn s w va = Machine.performSector s w.asid (sectorOf va) := by
    unfold settleOwn
    rw [State.core_wcb, List.any_eq_false.mpr (fun e he => ?_)]
    · rfl
    · rw [Bool.and_eq_true, Bool.not_eq_true', List.isEmpty_eq_false_iff]
      exact fun ⟨hk, hne⟩ => hne (hplain e he hk)
  have hperf := hP.performSector hx h
  unfold Machine.l1Fill
  rw [hown]
  dsimp only
  split
  · exact hperf
  next x _ =>
    refine hP.updCore _ _ _ (fun k => ?_) ?_
    · split <;> exact ⟨rfl, rfl, rfl⟩
    · split
      · exact hperf
      · exact hP.updSector _ _ _ (fun _ => ⟨rfl, rfl, rfl, rfl⟩) hperf

/-- A load of bytes that the core's own buffer covers answers them. -/
theorem loadGlobal_of_covered {t : State} {w : Who} {va : Nat} {bs : List Byte} (hkind : kindOf va ≠ 1) (hin : va % 128 + bs.length ≤ 128)
    (hread : Readable t w.asid va) (hcov : Covered (t.mem.wcbOf w.die w.core) w.asid (sectorOf va) (offs (va % 128) bs)) :
    ∃ u, loadGlobal t w va bs.length false = .ok (bs, u) := by
  have hhome : (kindOf va == 1 || false && kindOf va == 0) = false := by
    rw [beq_eq_false_iff_ne.mpr hkind]; rfl
  have hkind' : (kindOf va == 1) = false := beq_eq_false_iff_ne.mpr hkind
  unfold loadGlobal
  dsimp only
  rw [hhome]
  split
  next l _ =>
    refine ⟨_, congrArg Except.ok (Prod.ext (overlay_covered ?_ (length_get _ hin)) rfl)⟩
    rw [State.core_wcb]
    exact hcov
  · have hpeer : peerPa t w va false = .ok (none, t) := by
      obtain ⟨x, hx, _⟩ := hread
      unfold peerPa; rw [hx]
    obtain ⟨u, hu, hsame⟩ := llcFill_of_readable hread
    rw [hpeer]
    dsimp only
    rw [hu]
    dsimp only
    rw [hkind']
    have hsec : (u.sector? w.asid (sectorOf va)).isSome := by
      rw [sector?_sectorOf]; exact hsame.isSome hread.isSome
    have hfill : SameSectors t.mem (l1Fill u w va (kindOf va == 2)).mem :=
      (SameSectors.quiet t.mem).l1Fill _ hsec (fun e he => hcov.plain e (hsame.wcb _ _ ▸ he)) hsame
    obtain ⟨y, hy⟩ := Option.isSome_iff_exists.mp (hfill.isSome hread.isSome)
    refine ⟨_, congrArg Except.ok (Prod.ext ?_ rfl)⟩
    show (match (l1Fill u w va (kindOf va == 2)).sector? w.asid va with | some _ => _ | none => _) = bs
    rw [hy]
    refine overlay_covered ?_ (length_get _ hin)
    rw [State.core_wcb, hfill.wcb]
    exact hcov

end Sys2Proof.Machine

namespace Sys2Proof.Rules
open Sys2Proof.Safety Sys2Proof.Machine

/-- Settles O44: the store leaves its bytes in the one open entry of the sector, and whether the load hits a line or fills one, that entry
lies over what it reads. -/
theorem coreSeesItsStore : Obligations.CoreSeesItsStore := by
  intro s w va bs t h
  obtain ⟨hread, hcov⟩ := covered_of_buffers h
  exact loadGlobal_of_covered h.kind h.inside.2 hread hcov
end Sys2Proof.Rules
end

section
/-! PROOF. The events of groups and ranges. -/

namespace Sys2Proof.Rules
open Sys2Proof.Safety Sys2Proof.Machine

/-- The event has its effect wherever it may come. -/
def Happens (i : Instr) (e : Event) : Prop := ∀ s a, e.pre s a → ∃ t, exec i s = .next t ∧ e.post s a t

/-! ## One group becomes another -/

theorem groupBecomes_updGroup {s : State} {gid : Nat} {g : Machine.Group} (hg : s.group? gid = some g) {f : Machine.Group → Machine.Group} (hf : ∀ g, (f g).id = g.id) :
    groupBecomes s (s.updGroup gid f) gid (f g) :=
  ⟨rfl, by rw [State.group_updGroup_same _ _ _ hf, hg]; rfl, fun _ hi => State.group_updGroup_other _ _ _ _ hf hi⟩

theorem groupBecomes_trans {s u v : State} {gid : Nat} {g k : Machine.Group} (h : groupBecomes s u gid g) (h' : groupBecomes u v gid k) : groupBecomes s v gid k := by
  obtain ⟨hu, _, ho⟩ := h
  obtain ⟨hv, hk, ho'⟩ := h'
  refine ⟨?_, hk, fun i hi => (ho' i hi).trans (ho i hi)⟩
  rw [hv, hu]

theorem mergeB_id (g : Machine.Group) (p : Bundle → Bool) (pc : W64) : (g.mergeB p pc).id = g.id := by
  unfold Group.mergeB
  split <;> rfl

theorem updBundle_updBundle (g : Machine.Group) (bid : Nat) (f k : Bundle → Bundle) (hf : ∀ b, (f b).id = b.id) :
    (g.updBundle bid f).updBundle bid k = g.updBundle bid (fun b => k (f b)) := by
  unfold Group.updBundle upd
  simp only [List.map_map]
  congr 1
  refine List.map_congr_left (fun b _ => ?_)
  simp only [Function.comp]
  by_cases h : (b.id == bid) = true
  · rw [if_pos h, if_pos (by rw [hf]; exact h), if_pos h]
  · rw [if_neg h, if_neg h, if_neg h]

theorem returnOne_id (g : Machine.Group) (bid : Nat) : (g.returnOne bid).id = g.id := by
  unfold Group.returnOne
  split
  · rfl
  · split
    · rfl
    · rw [Group.updBundle_id, Group.giveBack_id]

/-! ## The rows -/

/-- A Harp that has given a group of its first box. -/
def Harp.gave (b : Box) (rest : List Box) (h : Harp) : Harp :=
  let b' := { b with done := b.done + 1 }
  let boxes := if b'.left == 0 then rest else b' :: rest
  { h with count := h.count + 1, boxes := boxes, asked := h.asked || boxes.isEmpty }

/-- A range that has counted a group more of a die. -/
def RangeSt.counted (die : Nat) (r : RangeSt) : RangeSt := { r with seqs := assocSet r.seqs die ((assoc r.seqs die).getD 0 + 1) }

/-- The machine with the next group of a Harp's first box on its core. -/
def withGroup (s : State) (r : RangeSt) (h : Harp) (b : Box) (rest : List Box) (at_ : Nat × List Nat × Nat) : State :=
  let g := newGroup s r h (s.partOn r.asid h.die) b.shp (zip3 (· + ·) b.lo b.next.1) b.next.2 at_
  ((State.updHarp { s with groups := s.groups ++ [g], nextGid := s.nextGid + 1 } r.rid h.num (Harp.gave b rest)).updRange r.rid (RangeSt.counted h.die)).count
    (s.partOn r.asid h.die) 13 1 r.qid

theorem placeNext_eq {s : State} {rid : Nat} {r : RangeSt} {h : Harp} {b : Box} {rest : List Box} {at_ : Nat × List Nat × Nat} (hr : s.range? rid = some r)
    (hharp : r.harp? h.num = some h) (hboxes : h.boxes = b :: rest) (hpick : pickCore s (s.partOn r.asid h.die) r.h (vol b.shp) (Machine.scratchOf r.img.rrec (vol b.shp)) = some at_) :
    placeNext s rid h.num = some (withGroup s r h b rest at_) := by
  have hrid : r.rid = rid := by simpa using List.find?_some hr
  unfold placeNext
  rw [hr]
  dsimp only
  rw [hharp]
  dsimp only
  rw [hboxes]
  dsimp only
  rw [hpick, ← hrid]
  rfl

theorem turn_die {r : RangeSt} {die : Nat} {h : Harp} (hturn : r.turn die = some h) : h.die = die := by
  unfold RangeSt.turn at hturn
  dsimp only at hturn
  have hmem : h ∈ r.harps.filter (fun h => h.die == die) := by
    rcases Option.or_eq_some_iff.mp hturn with h1 | ⟨_, h1⟩
    · exact List.mem_of_find?_eq_some h1
    · exact List.mem_of_head? h1
  exact beq_iff_eq.mp (List.mem_filter.mp hmem).2

/-- Where nothing stands in the way, a dispatch places the next group of the Harp's first box. -/
theorem dispatchOne_eq {s : State} {rid die : Nat} {r : RangeSt} {h : Harp} (hr : s.range? rid = some r) (hturn : r.turn die = some h)
    (hharp : r.harp? h.num = some h) (hdue : h.due = none) (hmay : mayPlace s r die = true) (hstart : r.started = true) (hparked : ∀ g ∈ r.parked, g.die ≠ die)
    (hpins : ∀ x, h.pins.head? = some x → firstIs x h = false) : dispatchOne s rid die = (placeNext s rid h.num).getD s := by
  have hretry : cutRetry s rid h.num = s := by
    unfold cutRetry
    rw [hr]; dsimp only; rw [hharp]; dsimp only; rw [hdue]
  have hpin : pinDue s rid h.num = some s := by
    unfold pinDue
    rw [hr]; dsimp only; rw [hharp]; dsimp only [Option.bind]
    cases hp : h.pins.head? with
    | none => rfl
    | some x => dsimp only [Option.map]; rw [hpins x hp]; rfl
  have hnone : r.parked.any (fun g => g.die == die) = false := List.any_eq_false.mpr (fun g hg => by simpa using hparked g hg)
  unfold dispatchOne
  rw [hr]
  dsimp only [Option.bind]
  rw [hturn]
  dsimp only
  rw [hretry, hr]
  dsimp only
  rw [hmay, hstart, hharp, hnone, hpin, show (some h).any (fun h => h.due.isSome) = false by rw [Option.any_some, hdue]; rfl]
  rfl

theorem replicate_getS {n : BitVec 5} (a b : W64) (h0 : n ≠ 0) (h1 : n ≠ 1) : (((Vector.replicate 32 (0 : W64)).setIfInBounds 0 a).setIfInBounds 1 b)[n.toNat] = 0 := by
  have h0' : n.toNat ≠ 0 := fun h => h0 (BitVec.eq_of_toNat_eq h)
  have h1' : n.toNat ≠ 1 := fun h => h1 (BitVec.eq_of_toNat_eq h)
  simp [h0'.symm, h1'.symm]

theorem count_range? (s : State) (part e n : Nat) (q : Option Nat) (rid : Nat) : (s.count part e n q).range? rid = s.range? rid := by cases q <;> rfl

theorem count_eng (s : State) (part e n : Nat) (q : Option Nat) : (s.count part e n q).eng = s.eng := by cases q <;> rfl

theorem range?_updRange {s : State} {rid : Nat} {r : RangeSt} (hr : s.range? rid = some r) {f : RangeSt → RangeSt} (hf : ∀ r, (f r).rid = r.rid) :
    (s.updRange rid f).range? rid = some (f r) := by
  have hfind := find_upd_same (fun r : RangeSt => r.rid == rid) f s.ranges (fun x hx => by rw [hf]; exact hx)
  rw [show s.ranges.find? (fun r => r.rid == rid) = some r from hr] at hfind
  exact hfind

theorem withGroup_range? {s : State} {rid : Nat} {r : RangeSt} {h : Harp} {b : Box} {rest : List Box} {at_ : Nat × List Nat × Nat} (hr : s.range? rid = some r) :
    (withGroup s r h b rest at_).range? rid = some (RangeSt.counted h.die (r.updHarp h.num (Harp.gave b rest))) := by
  have hrid : r.rid = rid := by simpa using List.find?_some hr
  unfold withGroup State.updHarp
  rw [count_range?, hrid]
  exact range?_updRange (f := RangeSt.counted h.die) (range?_updRange (f := fun r => r.updHarp h.num (Harp.gave b rest)) hr (fun _ => rfl)) (fun _ => rfl)

theorem harp?_updHarp {r : RangeSt} {n : Nat} {h : Harp} (hh : r.harp? n = some h) {f : Harp → Harp} (hf : ∀ h, (f h).num = h.num) :
    (r.updHarp n f).harp? n = some (f h) := by
  have hfind := find_upd_same (fun h : Harp => h.num == n) f r.harps (fun x hx => by rw [hf]; exact hx)
  rw [show r.harps.find? (fun h => h.num == n) = some h from hh] at hfind
  exact hfind

theorem assoc_assocSet {β : Type} (l : List (Nat × β)) (k : Nat) (v : β) : assoc (assocSet l k v) k = some v := by
  unfold assoc assocSet
  rw [updOr_find_same (fun x : Nat × β => x.1 == k) (k, v) (fun _ => (k, v)) l (fun _ _ => beq_self_eq_true k) (beq_self_eq_true k)]
  rfl

theorem groupDispatch_happens (rid die : Nat) {e : Event} (h : groupEvents (.groupDispatch rid die) = some e) : Happens (.groupDispatch rid die) e := by
  obtain rfl := Option.some.inj h
  rintro s ⟨r, h, b, rest, at_⟩ ⟨hr, hturn, hharp, hdue, hmay, hstart, hparked, hpins, hboxes, hpick⟩
  dsimp only at hr hturn hharp hdue hmay hstart hparked hpins hboxes hpick ⊢
  have hdie := turn_die hturn
  have hrid : r.rid = rid := by simpa using List.find?_some hr
  rw [← hdie] at hpick
  refine ⟨withGroup s r h b rest at_, ?_, newGroup s r h (s.partOn r.asid h.die) b.shp (zip3 (· + ·) b.lo b.next.1) b.next.2 at_,
    State.count_groups _ _ _ _ _, hrid, hdie, rfl, by rw [← hdie]; rfl, rfl, rfl, rfl, rfl, ?_, ?_, ?_, ?_, ?_, ?_, ?_, ?_⟩
  · show (.next (dispatchOne s rid die) : Out) = _
    rw [dispatchOne_eq hr hturn hharp hdue hmay hstart hparked hpins, placeNext_eq hr hharp hboxes hpick]
    rfl
  · simp [newGroup, vol]
  · intro th hth
    obtain ⟨_, _, rfl⟩ := List.mem_map.mp hth
    exact ⟨rfl, rfl, fun n => Vector.getElem_replicate _⟩
  · intro tm htm
    obtain ⟨_, _, rfl⟩ := List.mem_map.mp htm
    exact ⟨rfl, rfl, fun n h0 h1 => replicate_getS _ _ h0 h1⟩
  · intro x hx
    obtain ⟨_, _, rfl⟩ := List.mem_map.mp hx
    exact ⟨rfl, rfl⟩
  · rw [withGroup_range? hr]
    show ((r.updHarp h.num (Harp.gave b rest)).harp? h.num).map (·.count) = _
    rw [harp?_updHarp (f := Harp.gave b rest) hharp (fun _ => rfl)]
    rfl
  · rw [withGroup_range? hr, ← hdie]
    exact assoc_assocSet _ _ _
  · exact State.count_mem _ _ _ _ _
  · exact count_eng _ _ _ _ _

theorem coopPlacement_happens (rid : Nat) {e : Event} (h : groupEvents (.coopPlacement rid) = some e) : Happens (.coopPlacement rid) e := by
  obtain rfl := Option.some.inj h
  rintro s ⟨r, u⟩ ⟨hr, hstart, hcoop, hmay, hplace⟩
  refine ⟨_, ?_, rfl⟩
  show execCoopPlacement rid s = _
  have hall : r.harps.all (fun h => mayPlace s r h.die) = true := List.all_eq_true.mpr hmay
  unfold execCoopPlacement
  rw [hr]
  dsimp only at hstart hcoop hplace ⊢
  rw [hstart, hcoop, hall, hplace]
  rfl

theorem groupRetire_happens (gid : Nat) {e : Event} (h : groupEvents (.groupRetire gid) = some e) : Happens (.groupRetire gid) e := by
  obtain rfl := Option.some.inj h
  rintro s g ⟨hg, hlive, hstop, hsluice, hops, hlocks, hpkts⟩
  have hid := State.group_id hg
  have hdone : groupDone (sluiceExit s gid) g = true := by
    unfold groupDone
    rw [hid]
    simp only [Bool.and_eq_true, Bool.or_eq_true, Bool.not_eq_true', List.any_eq_false, List.any_eq_true, hlive, hstop, beq_iff_eq, List.isEmpty_eq_false_iff]
    exact ⟨⟨⟨⟨⟨rfl, rfl⟩, hsluice⟩, hops⟩, hlocks⟩, fun c hc ⟨p, hp, he⟩ => hpkts c hc p hp he⟩
  refine ⟨_, ?_, rfl⟩
  show execGroupRetire gid s = _
  unfold execGroupRetire
  rw [hg]
  dsimp only
  rw [hlive, hstop, show (if (([] : List Nat).isEmpty && (none : Option Stop).isNone) = true then sluiceExit s gid else s) = sluiceExit s gid from rfl,
    if_pos hdone, retireGroup, hid]
  simp only [beq_iff_eq, Bool.toNat, Bool.cond_eq_ite]

theorem rangeRetire_happens (rid : Nat) {e : Event} (h : groupEvents (.rangeRetire rid) = some e) : Happens (.rangeRetire rid) e := by
  obtain rfl := Option.some.inj h
  rintro s r ⟨hr, hboxes, hparked, hgroups, hchildren, hpre, hslice⟩
  have hdone : rangeDone s r = true := by
    have hrid : r.rid = rid := by simpa using List.find?_some hr
    unfold rangeDone
    rw [hrid]
    simp only [Bool.and_eq_true, Bool.not_eq_true', List.any_eq_false, List.all_eq_true, beq_iff_eq, hparked, hpre, List.isEmpty_iff]
    refine ⟨⟨⟨⟨⟨fun x hx => ?_, hboxes⟩, trivial⟩, hgroups⟩, hchildren⟩, rfl⟩
    rintro ⟨hheld, hop⟩
    split at hop
    next q hq =>
      rw [hslice x hx q hq (beq_iff_eq.mp hop)] at hheld
      cases hheld
    · cases hop
  refine ⟨_, ?_, rfl⟩
  show execRangeRetire rid s = _
  unfold execRangeRetire
  rw [hr]
  dsimp only
  have hnone : r.parent.isNone = decide (r.parent = none) := by cases r.parent <;> simp
  rw [hdone, Bool.not_true, if_neg Bool.false_ne_true, hnone]
  cases r.qid <;> simp only [List.foldl_map]

theorem resultReturn_happens (gid bid : Nat) {e : Event} (h : groupEvents (.resultReturn gid bid) = some e) : Happens (.resultReturn gid bid) e := by
  obtain rfl := Option.some.inj h
  rintro s ⟨g, b, o⟩ ⟨hg, hb, ho⟩
  dsimp only at hg hb ho ⊢
  have hone : g.returnOne bid = (g.giveBack o).updBundle bid (fun b => { b with outst := b.outst.erase o, haz := b.haz ++ o.hazOf b.ts, byp := bypWithout [o] b.byp }) := by
    unfold Group.returnOne
    rw [hb]; dsimp only; rw [ho]
  have hret := groupBecomes_updGroup hg (f := fun g => g.returnOne bid) (fun g => returnOne_id g bid)
  have hgo := groupBecomes_updGroup hret.2.1 (f := fun g => g.updBundle bid (fun b => { b with st := if b.st == .stalled then .ready else b.st })) (fun _ => rfl)
  refine ⟨settle _ g.rid, ?_, (s.updGroup gid (fun g => g.returnOne bid)).updGroup gid (fun g => g.updBundle bid (fun b => { b with st := if b.st == .stalled then .ready else b.st })), rfl, ?_⟩
  · show execResultReturn gid bid s = _
    unfold execResultReturn
    rw [hg]
    rfl
  · have hall := groupBecomes_trans hret hgo
    rw [hone, updBundle_updBundle _ _ _ _ (by exact fun _ => rfl)] at hall
    simp only [beq_iff_eq] at hall ⊢
    exact hall

theorem basinAgeDraw_happens (gid bid : Nat) {e : Event} (h : groupEvents (.basinAgeDraw gid bid) = some e) : Happens (.basinAgeDraw gid bid) e := by
  obtain rfl := Option.some.inj h
  rintro s ⟨g, b, k, since⟩ ⟨hg, hb, hst, haged⟩
  dsimp only at hg hb hst haged ⊢
  refine ⟨_, ?_, rfl⟩
  show execBasinAgeDraw gid bid s = _
  have hin : inBasin k b = true := by unfold inBasin; rw [hst]; exact beq_self_eq_true k
  unfold execBasinAgeDraw
  rw [hg]
  dsimp only [Option.bind]
  rw [hb]
  dsimp only [Option.map]
  rw [haged]
  dsimp only
  rw [hin, beq_self_eq_true, drawAt, hg]
  rfl

theorem implicitJoinIssue_happens (gid team : Nat) {e : Event} (h : groupEvents (.implicitJoinIssue gid team) = some e) : Happens (.implicitJoinIssue gid team) e := by
  obtain rfl := Option.some.inj h
  rintro s ⟨g, pc⟩ ⟨hg, hstop, hcoll⟩
  dsimp only at hg hstop hcoll ⊢
  have hid : ∀ g : Machine.Group, (g.collIssue team).id = g.id := by
    intro g
    unfold Group.collIssue
    split
    · rfl
    · exact mergeB_id _ _ _
  refine ⟨s.updGroup gid (fun g => g.collIssue team), ?_, ?_⟩
  · show execImplicitJoinIssue gid team s = _
    unfold execImplicitJoinIssue
    rw [hg]
    dsimp only
    rw [hstop]
    rfl
  · have := groupBecomes_updGroup hg hid
    rw [Group.collIssue, hcoll] at this
    exact this

/-- Settles O24, row by row: each precondition is what the event itself tests. -/
theorem groupEventsComplete : Obligations.GroupEventsComplete := by
  intro i e h
  show Happens i e
  unfold groupEvents at h
  split at h
  · exact groupDispatch_happens _ _ h
  · exact coopPlacement_happens _ h
  · exact groupRetire_happens _ h
  · exact rangeRetire_happens _ h
  · exact resultReturn_happens _ _ h
  · exact basinAgeDraw_happens _ _ h
  · exact implicitJoinIssue_happens _ _ h
  · cases h

end Sys2Proof.Rules
end

section
/-! PROOF. The engines: copies, Headgates, matrix arrays, fix-ups. -/

namespace Sys2Proof.Rules
open Sys2Proof.Safety Sys2Proof.Machine

/-! ## What the engines find -/

theorem finishOp_eq (s : State) (o : EngOp) (x : W64) : finishOp s o x = freed s o x := by
  unfold finishOp writeToken freed lockFree
  cases o.tok <;> rfl

theorem op_id {s : State} {op : Nat} {o : EngOp} (h : s.op? op = some o) : o.id = op := by simpa using List.find?_some h

theorem copyRun_copy {s : State} {op d r n : Nat} {o : EngOp} {c : Ctx} {ds ss : Bool} (h : opAt s op o c) (hk : o.kind = .copy d r ds ss n) :
    copyRun s o = some (c, engCopy s c ds ss d r n o.done, n) := by
  obtain ⟨_, hc, hheld⟩ := h
  unfold copyRun
  rw [hk, hc]
  dsimp only
  rw [hheld]
  rfl

theorem copyRun_list {s : State} {o : EngOp} {b l n k : Nat} {ps : List Piece} (hk : o.kind = .copyList b l n k ps) : copyRun s o = none := by
  unfold copyRun
  rw [hk]

theorem pieceRun_cons {s : State} {op b l n k : Nat} {o : EngOp} {c : Ctx} {p : Piece} {ps : List Piece} (h : opAt s op o c)
    (hk : o.kind = .copyList b l n k (p :: ps)) : pieceRun s o = some (c, pieceIo s c p, p) := by
  obtain ⟨_, hc, hheld⟩ := h
  unfold pieceRun
  rw [hk, hc]
  dsimp only
  rw [hheld]
  rfl

theorem pieceRun_nil {s : State} {o : EngOp} {b l n k : Nat} (hk : o.kind = .copyList b l n k []) : pieceRun s o = none := by
  unfold pieceRun
  rw [hk]

theorem slotRun_eq {s : State} {gid n i : Nat} {st : SlotSt} {c : Ctx} {r : Ring} {sl : RingSlot} (hr : s.ringAt gid n = some (c, r)) (hsl : r.slots[i]? = some sl)
    (hst : sl.st = st) (herr : sl.err = false) (hnext : r.isNext st sl = true) : slotRun s gid n i st = some (c, r, sl, rowsMove s c r i sl.tile) := by
  have hget : r.slots.getD i {} = sl := by rw [List.getD_eq_getElem?_getD, hsl]; rfl
  have hlt : i < r.slots.length := (List.getElem?_eq_some_iff.mp hsl).1
  unfold slotRun
  rw [hr]
  dsimp only
  rw [hget, if_pos]
  simp only [hst, beq_self_eq_true, hlt, decide_true, herr, Bool.not_false, hnext, Bool.and_self]

theorem opRun_kind {s : State} {op : Nat} {o : EngOp} {c : Ctx} (h : opAt s op o c) : o.held = false ∧ engCtx s o.gid = some c := ⟨h.2.2, h.2.1⟩

/-! ## The copy engine -/

theorem copyComplete_happens (op : Nat) {e : Event} (h : engineEvents (.copyComplete op) = some e) : Happens (.copyComplete op) e := by
  obtain rfl := Option.some.inj h
  rintro s ⟨o, c, d, r, ds, ss, n⟩ ⟨hat, hk, hbad⟩
  refine ⟨_, ?_, rfl⟩
  show execCopyComplete op s = _
  unfold execCopyComplete
  rw [hat.1]
  dsimp only
  rw [copyRun_copy hat hk]
  dsimp only
  rw [hbad, finishOp_eq]
  rfl

theorem copyFault_happens (op : Nat) {e : Event} (h : engineEvents (.copyFault op) = some e) : Happens (.copyFault op) e := by
  obtain rfl := Option.some.inj h
  rintro s ⟨o, c, f, ad, u, det⟩ ⟨hat, hcase⟩
  refine ⟨_, ?_, rfl⟩
  show execCopyFault op s = _
  unfold execCopyFault
  rw [hat.1]
  dsimp only
  rcases hcase with ⟨d, r, ds, ss, n, hk, hbad, rfl, rfl⟩ | ⟨b, l, n, k, p, ps, hk, hbad, rfl, rfl⟩ | ⟨b, l, n, k, hk, hread, rfl⟩
  · rw [copyRun_copy hat hk]
    dsimp only
    rw [hbad]
    rfl
  · rw [copyRun_list hk]
    dsimp only
    rw [pieceRun_cons hat hk]
    dsimp only
    rw [hbad]
    rfl
  · rw [copyRun_list hk]
    dsimp only
    rw [pieceRun_nil hk]
    dsimp only
    rw [hat.2.1]
    dsimp only
    rw [hat.2.2, hread]
    rfl

theorem copylistPieceComplete_happens (op : Nat) {e : Event} (h : engineEvents (.copylistPieceComplete op) = some e) : Happens (.copylistPieceComplete op) e := by
  obtain rfl := Option.some.inj h
  rintro s ⟨o, c, ⟨obj, l, n, k⟩, ps⟩ ⟨hat, hk, hbad⟩
  cases ps with
  | nil =>
    refine ⟨_, ?_, rfl⟩
    show execCopylistPieceComplete op s = _
    unfold execCopylistPieceComplete
    rw [hat.1]
    dsimp only
    rw [pieceRun_nil hk]
    dsimp only
    rw [hat.2.1]
    dsimp only
    rw [hat.2.2]
    rfl
  | cons p ps =>
    refine ⟨_, ?_, rfl⟩
    show execCopylistPieceComplete op s = _
    unfold execCopylistPieceComplete
    rw [hat.1]
    dsimp only
    rw [pieceRun_cons hat hk]
    dsimp only
    rw [hbad p rfl, hk]
    rfl

/-! ## The Headgates -/

theorem tileFillStart_happens (gid n : Nat) {e : Event} (h : engineEvents (.tileFillStart gid n) = some e) : Happens (.tileFillStart gid n) e := by
  obtain rfl := Option.some.inj h
  rintro s ⟨c, r, sl⟩ ⟨hr, hout, hleft, hsl, hst, hheld, hstop, hfree⟩
  dsimp only at hr hout hleft hsl hst hheld hstop hfree ⊢
  refine ⟨_, ?_, rfl⟩
  show execTileFillStart gid n s = _
  have hget : r.slots.getD (r.refill.headD (r.started % r.slots.length)) {} = sl := by rw [List.getD_eq_getElem?_getD, hsl]; rfl
  unfold execTileFillStart
  rw [hr]
  dsimp only
  cases hrefill : r.refill with
  | nil =>
    rw [hrefill] at hget hfree
    rw [List.headD_nil] at hget hfree
    dsimp only
    rw [hget, hout, hst, hheld, hstop, decide_eq_false (Nat.not_le.mpr (hleft hrefill))]
    rw [if_pos rfl] at hfree
    simp only [List.isEmpty_nil, if_true, hfree, List.isEmpty_iff]
    rfl
  | cons j l =>
    rw [hrefill] at hget hfree
    rw [List.headD_cons] at hget hfree
    dsimp only
    rw [hget, hout, hst, hheld, hstop]
    rw [if_neg (List.cons_ne_nil _ _)] at hfree
    simp only [List.isEmpty_cons, Bool.false_eq_true, if_false, hfree, List.isEmpty_iff, Bool.false_and, List.cons_ne_nil]
    rfl

theorem tileFilled_happens (gid n i : Nat) {e : Event} (h : engineEvents (.tileFilled gid n i) = some e) : Happens (.tileFilled gid n i) e := by
  obtain rfl := Option.some.inj h
  rintro s ⟨c, r, sl⟩ ⟨hr, hsl, hst, herr, hnext, hbad⟩
  refine ⟨_, ?_, rfl⟩
  show execTileFilled gid n i s = _
  unfold execTileFilled
  rw [slotRun_eq hr hsl hst herr hnext]
  dsimp only
  rw [hbad]
  rfl

theorem slotDrained_happens (gid n i : Nat) {e : Event} (h : engineEvents (.slotDrained gid n i) = some e) : Happens (.slotDrained gid n i) e := by
  obtain rfl := Option.some.inj h
  rintro s ⟨c, r, sl⟩ ⟨hr, hsl, hst, herr, hnext, hbad⟩
  refine ⟨_, ?_, rfl⟩
  show execSlotDrained gid n i s = _
  unfold execSlotDrained
  rw [slotRun_eq hr hsl hst herr hnext]
  dsimp only
  rw [hbad]
  rfl

theorem headgateFault_happens (gid n i : Nat) {e : Event} (h : engineEvents (.headgateFault gid n i) = some e) : Happens (.headgateFault gid n i) e := by
  obtain rfl := Option.some.inj h
  rintro s ⟨c, r, sl, f, ad⟩ ⟨hr, hsl, hst, herr, hnext, hbad⟩
  dsimp only at hr hsl hst herr hnext hbad ⊢
  refine ⟨_, ?_, rfl⟩
  show execHeadgateFault gid n i s = _
  unfold execHeadgateFault
  rcases hst with hst | hst
  · rw [hst] at hnext
    rw [slotRun_eq hr hsl hst herr hnext]
    dsimp only
    rw [hbad]
  · have hnot : slotRun s gid n i .filling = none := by
      have hget : r.slots.getD i {} = sl := by rw [List.getD_eq_getElem?_getD, hsl]; rfl
      unfold slotRun
      rw [hr]
      dsimp only
      rw [hget, hst]
      rfl
    rw [hst] at hnext
    rw [hnot, slotRun_eq hr hsl hst herr hnext]
    dsimp only
    rw [hbad]

/-! ## The matrix arrays -/

theorem matrixStart_happens (core : Nat) {e : Event} (h : engineEvents (.matrixStart core) = some e) : Happens (.matrixStart core) e := by
  obtain rfl := Option.some.inj h
  rintro s ⟨id, rest⟩ ⟨hq, hgood, hidle⟩
  refine ⟨_, ?_, rfl⟩
  have hany : ((coreDie core, coreNum core, id) :: rest).any (fun x => match s.op? x.2.2 with | some o => o.started | none => false) = false := by
    refine List.any_eq_false.mpr (fun x hx => ?_)
    cases ho : s.op? x.2.2 with
    | none => exact Bool.false_ne_true
    | some o => exact Bool.eq_false_iff.mp (hidle x hx o ho)
  let z : State := { s with eng := { s.eng with mtxQ := arrayQueue s core } }
  have hexec : execMatrixStart core s = .next (
      let q := (arrayQueue s core).filter (fun x => x.1 == coreDie core && x.2.1 == coreNum core)
      if (coreAt s core).failed || q.any (fun x => match s.op? x.2.2 with | some o => o.started | none => false) then z
      else match q with
        | x :: _ => z.updOp x.2.2 (fun o => { o with started := true })
        | [] => z) := rfl
  show execMatrixStart core s = _
  rw [hexec, hq]
  dsimp only
  rw [hgood, hany]
  rfl

theorem opDone_eq (o : EngOp) (c : Ctx) (r : MRes) (s : State) (off : Nat) : opDone o c r s off = opEnds s o c off r.out r.tok := by
  unfold opDone opEnds
  dsimp only
  rw [finishOp_eq]

theorem extractLsb_high (x : W64) : (x.extractLsb 63 32).toNat = x.toNat / 2 ^ 32 := by
  rw [BitVec.extractLsb_toNat, Nat.shiftRight_eq_div_pow]
  exact Nat.mod_eq_of_lt (by have := x.isLt; omega)

theorem matrixComplete_happens (op : Nat) {e : Event} (h : engineEvents (.matrixComplete op) = some e) : Happens (.matrixComplete op) e := by
  obtain rfl := Option.some.inj h
  rintro s ⟨o, c, form, b, fa, fb, ps⟩ ⟨⟨ho, hc, hheld⟩, hk, hstart, hbad⟩
  refine ⟨_, ?_, rfl⟩
  have hrun : opRun s o = some (c, mtxRun s c { form := form, b := b, fa := fa, fb := fb, pairs := ps }) := by
    unfold opRun
    rw [hheld, hc, hk, hstart]
    rfl
  show execMatrixComplete op s = _
  unfold execMatrixComplete
  rw [ho]
  dsimp only
  rw [hrun, hk]
  dsimp only
  rw [hbad, opDone_eq, extractLsb_high]
  rfl

theorem xsectComplete_happens (op : Nat) {e : Event} (h : engineEvents (.xsectComplete op) = some e) : Happens (.xsectComplete op) e := by
  obtain rfl := Option.some.inj h
  rintro s ⟨o, c, la, lb, na, nb, out⟩ ⟨⟨ho, hc, hheld⟩, hk, ha, hb⟩
  refine ⟨_, ?_, rfl⟩
  show execXsectComplete op s = _
  unfold execXsectComplete opRun
  rw [ho]
  dsimp only
  rw [hheld, hc, hk, if_neg Bool.false_ne_true]
  dsimp only
  rw [ha, hb]
  dsimp only
  rw [opDone_eq]
  rfl

theorem matrixFault_happens (op : Nat) {e : Event} (h : engineEvents (.matrixFault op) = some e) : Happens (.matrixFault op) e := by
  obtain rfl := Option.some.inj h
  rintro s ⟨o, c, r, f, ad⟩ ⟨ho, hrun, hbad⟩
  refine ⟨_, ?_, rfl⟩
  show execMatrixFault op s = _
  unfold execMatrixFault
  rw [ho]
  dsimp only at hrun hbad ⊢
  rw [hrun]
  dsimp only
  rw [hbad]
  rfl

/-! ## FIXUP -/

theorem fixupDepositComplete_happens (op : Nat) {e : Event} (h : engineEvents (.fixupDepositComplete op) = some e) : Happens (.fixupDepositComplete op) e := by
  obtain rfl := Option.some.inj h
  rintro s ⟨o, c, off, w, bs, u⟩ ⟨⟨ho, hc, hheld⟩, hk, hload⟩
  refine ⟨_, ?_, rfl⟩
  have hrun : opRun s o = some (c, { s := u, out := bs, tok := 1 }) := by
    unfold opRun
    rw [hheld, hc, hk]
    dsimp only
    unfold fixRun
    rw [hload]
    rfl
  show execFixupDepositComplete op s = _
  unfold execFixupDepositComplete
  rw [ho]
  dsimp only
  rw [hrun, hk]
  dsimp only
  rw [finishOp_eq]
  rfl

theorem fixupOwnerCombine_happens (op : Nat) {e : Event} (h : engineEvents (.fixupOwnerCombine op) = some e) : Happens (.fixupOwnerCombine op) e := by
  obtain rfl := Option.some.inj h
  rintro s ⟨o, c, off, w, bs, u, gs⟩ ⟨⟨ho, hc, hheld⟩, hk, hload, harr, hcell, hslots⟩
  refine ⟨_, ?_, rfl⟩
  have hnone : gs.findSome? (fun n => (u.resBad c.who (c.r.ownerDie s (segTile w)) (c.r.fixSlot n) 16384).map (fun e => (e, resvVa (c.r.ownerDie s (segTile w)) (c.r.fixSlot n)))) = none :=
    List.findSome?_eq_none_iff.mpr (fun n hn => by rw [hslots n hn]; rfl)
  show execFixupOwnerCombine op s = _
  unfold execFixupOwnerCombine opRun
  rw [ho]
  dsimp only
  rw [hheld, hc, hk, if_neg Bool.false_ne_true]
  dsimp only
  unfold fixRun
  rw [hload]
  dsimp only
  rw [harr, if_pos rfl]
  dsimp only
  rw [hcell]
  dsimp only [Option.map_none, Option.orElse]
  rw [hnone]
  dsimp only
  rw [Option.map_some]
  dsimp only
  rw [opDone_eq, if_pos Option.isNone_none]

/-- Settles O25, row by row: what each precondition says is what the engine finds. -/
theorem engineEventsComplete : Obligations.EngineEventsComplete := by
  intro i e h
  show Happens i e
  unfold engineEvents at h
  split at h
  · exact copyComplete_happens _ h
  · exact copyFault_happens _ h
  · exact copylistPieceComplete_happens _ h
  · exact tileFillStart_happens _ _ h
  · exact tileFilled_happens _ _ _ h
  · exact slotDrained_happens _ _ _ h
  · exact headgateFault_happens _ _ _ h
  · exact matrixStart_happens _ h
  · exact matrixComplete_happens _ h
  · exact xsectComplete_happens _ h
  · exact matrixFault_happens _ h
  · exact fixupDepositComplete_happens _ h
  · exact fixupOwnerCombine_happens _ h
  · cases h

end Sys2Proof.Rules
end

section
/-! PROOF. Queues and the Sluices. -/

namespace Sys2Proof.Rules
open Sys2Proof.Safety Sys2Proof.Machine

/-! ## Aging -/

theorem home_ageDie (q : RQueue) (die dec : Nat) :
    RQueue.home { q with homes := q.homes.map (fun x => if x.1 == die then (x.1, x.2.map (fun e => e.aged dec)) else x) } die = (q.home die).map (fun e => e.aged dec) := by
  unfold RQueue.home assoc
  dsimp only
  rw [List.find?_map]
  have hkey : ((fun x : Nat × List QEnt => x.1 == die) ∘ fun x => if x.1 == die then (x.1, x.2.map (fun e => e.aged dec)) else x) = fun x => x.1 == die := by
    funext x
    simp only [Function.comp]
    split <;> rfl
  rw [hkey]
  cases hf : q.homes.find? (fun x => x.1 == die) with
  | none => rfl
  | some x =>
    have hx : (x.1 == die) = true := by simpa using List.find?_some hf
    simp only [Option.map_some, Option.getD_some]
    rw [if_pos hx]

theorem queueEntryAging_happens (rid die : Nat) {e : Event} (h : edgeEvents (.queueEntryAging rid die) = some e) : Happens (.queueEntryAging rid die) e := by
  obtain rfl := Option.some.inj h
  intro s r hr
  refine ⟨_, rfl, rfl, fun q hq x hx => ⟨r.ageDie die, range?_updRange (f := fun r => r.ageDie die) hr (fun _ => rfl), _, List.mem_map.mpr ⟨q, hq, rfl⟩, rfl, ?_⟩⟩
  rw [home_ageDie]
  exact List.mem_map.mpr ⟨x, hx, rfl⟩

/-! ## The level boundary -/

theorem sumOf_fv (g : Graph) : sumOf (fun (x : Sluice) => x.fv) g.sluices = levelFv g := by rw [levelFv, List.foldl_map]; rfl

theorem sumOf_feSum (g : Graph) : sumOf (fun (x : Sluice) => x.feSum) g.sluices = levelFe g := by rw [levelFe, List.foldl_map]; rfl

theorem not_lt_eq (a b : Nat) : (!(decide (a < b))) = decide (b ≤ a) := by rw [← decide_not, decide_eq_decide, Nat.not_lt]

theorem nextMode_eq (draw : Bool) (alpha beta fv fe nv ne : Nat) :
    nextMode draw alpha beta fv fe nv ne = if draw = true then decide (nv ≤ fv * beta) else decide (ne < fe * alpha) := by
  unfold nextMode
  rw [not_lt_eq]

/-- The requests of a range's dies, one mode where all name it (R283). -/
theorem reqMode_eq (s : State) (g : Graph) (d : Bool) :
    (reqMode s g).getD d = if requested s g ≠ [] ∧ ∀ m ∈ requested s g, m = true then true
      else if requested s g ≠ [] ∧ ∀ m ∈ requested s g, m = false then false else d := by
  have hreq : reqMode s g = match requested s g with | [] => none | q :: qs => if qs.all (· == q) then some q else none := rfl
  rw [hreq]
  cases requested s g with
  | nil => rw [if_neg (fun h => h.1 rfl), if_neg (fun h => h.1 rfl)]; rfl
  | cons q qs =>
    simp only [ne_eq, List.cons_ne_nil, not_false_eq_true, true_and, List.forall_mem_cons, List.all_eq_true, beq_iff_eq]
    cases q with
    | true =>
      by_cases hall : ∀ m ∈ qs, m = true
      · rw [if_pos hall, if_pos ⟨rfl, hall⟩]; rfl
      · rw [if_neg hall, if_neg (fun h => hall h.2), if_neg (fun h => absurd h.1 (by decide))]; rfl
    | false =>
      by_cases hall : ∀ m ∈ qs, m = false
      · rw [if_pos hall, if_neg (fun h => absurd h.1 (by decide)), if_pos ⟨rfl, hall⟩]; rfl
      · rw [if_neg hall, if_neg (fun h => absurd h.1 (by decide)), if_neg (fun h => hall h.2)]; rfl

theorem levelDraw_eq (s : State) (g : Graph) : (reqMode s g).getD (nextMode g.levelMode g.alpha g.beta (levelFv g) (levelFe g) g.nv g.ne) = levelDraw s g := by
  rw [reqMode_eq, nextMode_eq]
  rfl

theorem levelEmode_eq (s : State) (g : Graph) :
    (if levelFv g == 0 || (g.maxlv != 0 && decide (g.level + 1 ≥ g.maxlv)) then 2 else if levelDraw s g then 1 else 0) = levelEmode s g := by
  unfold levelEmode
  simp only [Bool.or_eq_true, Bool.and_eq_true, beq_iff_eq, bne_iff_ne, decide_eq_true_eq, ge_iff_le]

theorem levelBoundary_happens (rid : Nat) {e : Event} (h : edgeEvents (.levelBoundary rid) = some e) : Happens (.levelBoundary rid) e := by
  obtain rfl := Option.some.inj h
  rintro s ⟨gid, u0, u, r, g, bs, u2, u3, u4, u5⟩ ⟨hdue, hgid0, hgid, hstart, hwork, hr, hg, hread, hcur, hnext, hdesc⟩
  refine ⟨_, ?_, rfl⟩
  have hb : boundary u rid = .ok (u5.updGraph rid (fun x => { x with
      combed := [], level := (x.level + 1) % 2 ^ 32, levelMode := levelDraw u g, emode := levelEmode u g, curQ := 1 - x.curQ, curN := x.nextN, nextN := 0
      sluices := x.sluices.map (fun y => { y with mode := levelDraw u g, fi := 0, fe := 0, ti := 0, fv := 0, feSum := 0, delivered := 0, decided := 0 }) })) := by
    unfold boundary
    rw [hr]
    dsimp only
    rw [hg]
    dsimp only
    rw [hgid, sumOf_fv, sumOf_feSum, levelDraw_eq, levelEmode_eq, hread]
    dsimp only
    rw [hcur]
    dsimp only
    rw [hnext]
    dsimp only
    rw [hdesc]
  show execLevelBoundary rid s = _
  unfold execLevelBoundary levelEnd
  rw [hdue, if_pos rfl]
  dsimp only
  rw [hgid0, hstart]
  dsimp only
  rw [hwork]
  dsimp only
  rw [hb]

theorem midlevelSwitch_happens (rid die : Nat) {e : Event} (h : edgeEvents (.midlevelSwitch rid die) = some e) : Happens (.midlevelSwitch rid die) e := by
  obtain rfl := Option.some.inj h
  rintro s ⟨g, x⟩ ⟨hg, hx, hsw, hdel, hdec, hem⟩
  dsimp only at hg hx hsw hdel hdec hem
  refine ⟨_, ?_, rfl⟩
  have hdue : switchDue g x = true := by
    unfold switchDue
    simp only [Bool.and_eq_true, beq_iff_eq, bne_iff_ne]
    exact ⟨⟨⟨hsw, hdel⟩, hdec⟩, hem⟩
  show (.next (midSwitch s rid die) : Out) = _
  unfold midSwitch
  rw [hg]
  dsimp only
  rw [hx]
  dsimp only
  rw [hdue, if_pos rfl, nextMode_eq]
  simp only [beq_iff_eq]

theorem sluiceFault_happens (rid die : Nat) {e : Event} (h : edgeEvents (.sluiceFault rid die) = some e) : Happens (.sluiceFault rid die) e := by
  obtain rfl := Option.some.inj h
  rintro s ⟨u, f, pc⟩ hf
  refine ⟨_, ?_, rfl⟩
  show execSluiceFault rid die s = _
  unfold execSluiceFault
  rw [hf]

/-- Settles O26: the requests that the dies hold, where all name one mode, and the switching rule give the boundary's mode. -/
theorem edgeEventsComplete : Obligations.EdgeEventsComplete := by
  intro i e h
  show Happens i e
  unfold edgeEvents at h
  split at h
  · exact queueEntryAging_happens _ _ h
  · exact levelBoundary_happens _ h
  · exact midlevelSwitch_happens _ _ h
  · exact sluiceFault_happens _ _ h
  · cases h

end Sys2Proof.Rules
end

section
/-! PROOF. Halts, fault queues, dispositions, pre-emption. -/

namespace Sys2Proof.Rules
open Sys2Proof.Safety Sys2Proof.Machine

/-! ## Halts -/

theorem breakpointHalt_happens (gid bid : Nat) {e : Event} (h : faultEvents (.breakpointHalt gid bid) = some e) : Happens (.breakpointHalt gid bid) e := by
  obtain rfl := Option.some.inj h
  rintro s ⟨g, b, k⟩ ⟨hg, hb, hst, hstop, hhalt, hbreak⟩
  refine ⟨_, ?_, rfl⟩
  have hmay : mayIssue g b = true := by
    unfold mayIssue
    rw [hstop, hhalt]
    rcases hst with hst | hst <;> rw [hst] <;> rfl
  show execBreakpointHalt gid bid s = _
  unfold execBreakpointHalt breakHalt
  rw [hg]
  dsimp only [Option.bind]
  rw [hb]
  dsimp only [Option.map]
  rw [hmay, if_pos rfl, hbreak]

theorem watchpointHalt_happens (gid bid : Nat) {e : Event} (h : faultEvents (.watchpointHalt gid bid) = some e) : Happens (.watchpointHalt gid bid) e := by
  obtain rfl := Option.some.inj h
  rintro s ⟨g, b⟩ ⟨hg, hb, hw⟩
  refine ⟨_, ?_, rfl⟩
  show (.next (watchHalt s gid bid) : Out) = _
  unfold watchHalt
  rw [hg]
  dsimp only
  rw [hb]
  dsimp only
  rw [if_neg (by rw [List.isEmpty_iff]; exact hw)]

/-! ## Fault queues and dispositions -/

theorem faultRecordPost_happens (queue : Nat) {e : Event} (h : faultEvents (.faultRecordPost queue) = some e) : Happens (.faultRecordPost queue) e := by
  obtain rfl := Option.some.inj h
  rintro s ⟨b, q, f⟩ ⟨hb, hroom, hnext⟩
  refine ⟨_, ?_, rfl⟩
  show execFaultRecordPost queue s = _
  unfold execFaultRecordPost
  rw [hb]
  dsimp only
  rw [if_neg (Nat.not_le.mpr hroom), hnext]
  simp only [Bool.and_eq_true]
  rfl

theorem actionOf_eq (w : Nat) : actionOf w = if 1 ≤ w % 8 ∧ w % 8 ≤ 5 then w % 8 else 3 := rfl

/-- A slot's disposition is carried out. -/
theorem act_eq {s : State} {queue slot action : Nat} {f : State → Nat → FRec → Nat → State} {a : Nat × FRec × Nat × Nat} (h : (disposition queue slot action f).pre s a) :
    act s queue slot action f = .next (f (acted s queue a.1) a.2.2.2 a.2.1 a.2.2.1) := by
  obtain ⟨n, r, w, gid⟩ := a
  obtain ⟨hd, ha, hr⟩ := h
  unfold act
  rw [hd]
  dsimp only
  rw [actionOf_eq, ha, bne_self_eq_false, if_neg Bool.false_ne_true, hr]
  rfl

theorem rank_eq (why : Nat) : preRank why = rank why := by
  unfold preRank rank
  split
  next h => rw [beq_iff_eq.mp h]; rfl
  next h =>
    split
    next h2 => rw [beq_iff_eq.mp h2]; rfl
    next h2 =>
      rw [beq_iff_eq] at h h2
      split
      · exact absurd rfl h
      · exact absurd rfl h2
      · rfl

theorem wantPre_eq (s : State) (rid why : Nat) (dest : W64) : wantPre s rid why dest = s.updRange rid (wanted why dest) := by
  unfold wantPre
  congr 1
  funext r
  unfold wanted
  simp only [rank_eq]
  cases hk : r.killed with
  | true =>
    rw [if_pos rfl]
    cases r.pre with
    | none => exact (if_pos (.inl rfl)).symm
    | some p => exact (if_neg (fun h => absurd h.1 (by decide))).symm
  | false =>
    rw [if_neg Bool.false_ne_true]
    cases r.pre with
    | none =>
      dsimp only
      have hany : (r.want.any fun w => decide (rank w.1 > rank why)) = true ↔ (false = true ∨ ∃ w ∈ r.want, rank why < rank w.1) := by
        cases r.want <;> simp
      simp only [hany]
    | some p => simp

theorem resume_happens (queue slot : Nat) {e : Event} (h : faultEvents (.resume queue slot) = some e) : Happens (.resume queue slot) e := by
  obtain rfl := Option.some.inj h
  exact fun s a hp => ⟨_, act_eq hp, rfl⟩

theorem skip_happens (queue slot : Nat) {e : Event} (h : faultEvents (.skip queue slot) = some e) : Happens (.skip queue slot) e := by
  obtain rfl := Option.some.inj h
  exact fun s a hp => ⟨_, act_eq hp, rfl⟩

theorem killGroup_happens (queue slot : Nat) {e : Event} (h : faultEvents (.killGroup queue slot) = some e) : Happens (.killGroup queue slot) e := by
  obtain rfl := Option.some.inj h
  exact fun s a hp => ⟨_, act_eq hp, rfl⟩

theorem killRange_happens (queue slot : Nat) {e : Event} (h : faultEvents (.killRange queue slot) = some e) : Happens (.killRange queue slot) e := by
  obtain rfl := Option.some.inj h
  exact fun s a hp => ⟨_, act_eq hp, rfl⟩

theorem saveRange_happens (queue slot : Nat) {e : Event} (h : faultEvents (.saveRange queue slot) = some e) : Happens (.saveRange queue slot) e := by
  obtain rfl := Option.some.inj h
  exact fun s a hp => ⟨_, act_eq (f := fun s _ f w => wantPre s f.rid 1 (BitVec.ofNat 64 (w / 512 * 512))) hp, wantPre_eq _ _ _ _⟩

/-! ## Pre-emption -/

theorem preemptRequest_happens (rid : Nat) {e : Event} (h : faultEvents (.preemptRequest rid) = some e) : Happens (.preemptRequest rid) e := by
  obtain rfl := Option.some.inj h
  rintro s ⟨r, w⟩ ⟨hr, hw⟩
  refine ⟨_, ?_, rfl⟩
  show execPreemptRequest rid s = _
  unfold execPreemptRequest
  rw [hr]
  dsimp only [Option.bind]
  rw [hw]

theorem safePointStop_happens (gid bid : Nat) {e : Event} (h : faultEvents (.safePointStop gid bid) = some e) : Happens (.safePointStop gid bid) e := by
  obtain rfl := Option.some.inj h
  rintro s ⟨g, b, r⟩ ⟨hg, hb, hr, hpre, hend, hout, hst, hsafe⟩
  refine ⟨_, ?_, groupBecomes_updGroup (f := fun g => g.updBundle bid (fun b => { b with safe := true })) hg (fun _ => rfl)⟩
  have hat : atSafePoint r b = true := by
    unfold atSafePoint
    rw [hend, hout]
    simp only [Bool.and_eq_true, Bool.or_eq_true, beq_iff_eq, List.any_eq_true]
    exact ⟨⟨⟨trivial, rfl⟩, hst⟩, hsafe⟩
  show execSafePointStop gid bid s = _
  unfold execSafePointStop
  rw [hg]
  dsimp only
  rw [hr, hb]
  dsimp only
  rw [hpre, hat]
  rfl

theorem foldl_ticks {α : Type} (f : State → α → State) (hf : ∀ s a, (f s a).ticks = s.ticks) (l : List α) (s : State) : (l.foldl f s).ticks = s.ticks := by
  induction l generalizing s with
  | nil => rfl
  | cons a l ih => exact (ih _).trans (hf s a)

/-- The watchdog stops the bundles of the groups that still run. -/
def hardAtAll (s : State) (gs : List Machine.Group) : State :=
  gs.foldl (fun (s : State) g => s.updGroup g.id (fun g =>
    { (g.bundles.foldl (fun (g : Machine.Group) b => if bundleStopped g b then g else g.quiet b.id) g) with hardAt := true })) s

/-- How many bundles of a range still run. -/
def unstopped (s : State) (rid : Nat) : Nat :=
  ((s.groups.filter (fun g => g.rid == rid)).map (fun g => (g.bundles.filter (fun b => !bundleStopped g b)).length)).sum

theorem hardStop_happens (rid : Nat) {e : Event} (h : faultEvents (.hardStop rid) = some e) : Happens (.hardStop rid) e := by
  obtain rfl := Option.some.inj h
  rintro s ⟨r, p⟩ ⟨hr, hp, hhard, htime⟩
  dsimp only at hr hp hhard htime
  refine ⟨_, ?_, rfl⟩
  show (.next (hardStop s rid) : Out) = _
  unfold hardStop
  rw [hr]
  dsimp only
  rw [hp]
  dsimp only
  rw [hhard, decide_eq_false (Nat.not_lt.mpr htime), if_neg (by decide), sumOf_eq]
  refine congrArg _ (if_congr beq_iff_eq rfl ?_)
  exact congrArg (fun n => (hardAtAll (s.updRange rid (fun r => { r with pre := some { p with hard := true } })) (s.groups.filter (fun g => g.rid == rid))).queueRec r.part
    { cls := .hardStop, rid := rid, detail := BitVec.ofNat 64 (unstopped s rid), time := n }) (foldl_ticks _ (by exact fun _ _ => rfl) _ _)

theorem preemptImageWrite_happens (rid : Nat) {e : Event} (h : faultEvents (.preemptImageWrite rid) = some e) : Happens (.preemptImageWrite rid) e := by
  obtain rfl := Option.some.inj h
  rintro s ⟨r0, p, r⟩ ⟨hr0, hp, hr, hquiet, hlog⟩
  refine ⟨_, ?_, rfl⟩
  have hget : ((preGuest s rid).range? rid).getD r0 = r := by rw [hr]; rfl
  show execPreemptImageWrite rid s = _
  unfold execPreemptImageWrite
  rw [hr0]
  dsimp only
  rw [hp]
  dsimp only
  rw [hget, hquiet, Bool.not_true, if_neg Bool.false_ne_true, if_neg]
  · simp only [savedAt, beq_iff_eq]
    rfl
  · intro hw
    rw [Bool.and_eq_true] at hw
    have hno := hlog hw.1
    have hyes := hw.2
    simp only [beq_iff_eq] at hyes
    exact Bool.false_ne_true (hno.symm.trans hyes)

theorem priorityPreempt_happens (part : Nat) {e : Event} (h : faultEvents (.priorityPreempt part) = some e) : Happens (.priorityPreempt part) e := by
  obtain rfl := Option.some.inj h
  rintro s ⟨x, n, v⟩ ⟨hstarved, hvictim, hprio, hrid, hqid⟩
  refine ⟨_, ?_, rfl⟩
  show execPriorityPreempt part s = _
  unfold execPriorityPreempt
  rw [hstarved, hvictim]
  dsimp only
  rw [if_pos, wantPre_eq]
  · rfl
  · simp only [Bool.and_eq_true, decide_eq_true_eq, bne_iff_ne]
    exact ⟨⟨hprio, hrid⟩, hqid⟩

/-- Settles O27: what each precondition says is what the event tests, and the ranks of the places for an image are those of log entry 129. -/
theorem faultEventsComplete : Obligations.FaultEventsComplete := by
  intro i e h
  show Happens i e
  unfold faultEvents at h
  split at h
  · exact breakpointHalt_happens _ _ h
  · exact watchpointHalt_happens _ _ h
  · exact faultRecordPost_happens _ h
  · exact resume_happens _ _ h
  · exact skip_happens _ _ h
  · exact killGroup_happens _ _ h
  · exact killRange_happens _ _ h
  · exact saveRange_happens _ _ h
  · exact preemptRequest_happens _ h
  · exact safePointStop_happens _ _ h
  · exact hardStop_happens _ h
  · exact preemptImageWrite_happens _ h
  · exact priorityPreempt_happens _ h
  · cases h

end Sys2Proof.Rules
end

section
/-! PROOF. Two queues under one QID. -/

namespace Sys2Proof.Rules
open Sys2Proof.Safety Sys2Proof.Machine

/-- Two queues under one QID, of two owners. -/
def twin (owner : Nat) : Queue := { qid := 0, qcb := 0, qcbAsid := 1, priv := [], ring := 0, rsize := 12, owner := owner, asid := 1, pceil := 0, qflg := 0, key := 0, dbmp := 0 }

/-- A WAIT for a word of at least 0. -/
def waitFor0 : Packet := { qid := 0, bytes := 3 :: List.replicate 63 0, units := 1 }

/-- The WAIT is selected; the partition of the second queue has made a decision more than that of the first. -/
def twins : State :=
  { fe := { queues := [twin 0, twin 1], parts := [{ num := 0, sel := some waitFor0 }, { num := 1, decisions := 1 }] }
    mem := { asids := [{ asid := 1, parts := #v[0, 0, 0, 0] }], llc := [{ asid := 1, va := 0, part := 0, pa := 2 ^ 46, data := zeroSec, w := true, d := true, wr := true }] } }

/-- When what waits behind the head of each queue has entered it, counted in decisions. -/
def floors (s : State) : List Nat := s.fe.queues.map (fun q => q.floor.1)

/-- What the rule of the WAIT leaves, once the word is read. -/
def ruledFloors (x : List Byte × State) : Option (List Nat) :=
  (x.2.queue? 0).map (fun z => floors (complete (consume (entered x.2 z) waitFor0 [] none) 0 waitFor0.crec 0 0))

theorem twins_exec : ∀ t, exec (.waitPacket 0) twins = .next t → floors t = [0, 0] := by
  have h : (match exec (.waitPacket 0) twins with | .next t => floors t | _ => []) = [0, 0] := by decide +kernel
  intro t ht
  rw [ht] at h
  exact h

theorem twins_ruled : (feRead twins (feWho twins 1 0 (some 0)) (some 0) 0 8).toOption.bind ruledFloors = some [0, 1] := by decide +kernel

/-- Refutes O28: where two queues have one QID, a satisfied WAIT notes for both the decisions of the found queue's owner; its rule says
for each those of its own. -/
theorem not_frontEndEventsComplete : ¬ Obligations.FrontEndEventsComplete := by
  intro h
  have hruled := twins_ruled
  cases hread : feRead twins (feWho twins 1 0 (some 0)) (some 0) 0 8 with
  | error f => rw [hread] at hruled; cases hruled
  | ok x =>
    obtain ⟨b, u⟩ := x
    rw [hread] at hruled
    cases hz : u.queue? 0 with
    | none =>
      have : ruledFloors (b, u) = some [0, 1] := hruled
      rw [ruledFloors, hz] at this
      cases this
    | some z =>
      have hfloors : ruledFloors (b, u) = some [0, 1] := hruled
      rw [ruledFloors, hz] at hfloors
      obtain ⟨t, ht, hyes, _⟩ := h (.waitPacket 0) _ rfl twins (waitFor0, twin 0, b, u, z) ⟨⟨rfl, by decide, rfl⟩, hread, hz⟩
      have hpost := hyes (by rw [show opQ waitFor0 32 1 = 0 by decide, show opQ waitFor0 24 8 = 0 by decide]; exact Nat.zero_le _)
      have h0 := twins_exec t ht
      rw [hpost] at h0
      exact absurd (h0.symm.trans (Option.some.inj hfloors)) (by decide)
end Sys2Proof.Rules
end

section
/-! PROOF. Registers, telemetry, power, temperature and self-test. -/

namespace Sys2Proof.Rules
open Sys2Proof.Safety Sys2Proof.Machine

/-! ## TCTL -/

theorem sintOk_iff (x : W64) : sintOk x = true ↔ intervalOk x := by
  unfold sintOk intervalOk
  simp only [Bool.or_eq_true, beq_iff_eq, decide_eq_true_eq]

theorem tctlWrite_eq {s : State} {x : W64} (hp : s.pkg.phase = 9) (hx : intervalOk x) (p : Nat) : tctlWrite s p x = tctlSet s p x := by
  unfold tctlWrite
  rw [hp, (sintOk_iff x).mpr hx]
  rfl

theorem traceEnable_happens (part : Nat) {e : Event} (h : telemetryEvents (.traceEnable part) = some e) : Happens (.traceEnable part) e := by
  obtain rfl := Option.some.inj h
  rintro s _ ⟨hp, hx⟩
  exact ⟨_, congrArg (fun t => (.next t : Out)) (tctlWrite_eq hp hx part), rfl⟩

theorem traceDisable_happens (part : Nat) {e : Event} (h : telemetryEvents (.traceDisable part) = some e) : Happens (.traceDisable part) e := by
  obtain rfl := Option.some.inj h
  rintro s _ ⟨hp, hx⟩
  exact ⟨_, congrArg (fun t => (.next t : Out)) (tctlWrite_eq hp hx part), rfl⟩

theorem logEnable_happens (part : Nat) {e : Event} (h : telemetryEvents (.logEnable part) = some e) : Happens (.logEnable part) e := by
  obtain rfl := Option.some.inj h
  rintro s _ ⟨hp, hx⟩
  exact ⟨_, congrArg (fun t => (.next t : Out)) (tctlWrite_eq hp hx part), rfl⟩

/-! ## Samples and the trace's own packets -/

theorem sampleRecord_happens (core : Nat) {e : Event} (h : telemetryEvents (.sampleRecord core) = some e) : Happens (.sampleRecord core) e := by
  obtain rfl := Option.some.inj h
  intro s x hx
  refine ⟨_, ?_, rfl⟩
  show execSampleRecord core s = _
  unfold execSampleRecord
  rw [show (s.core (coreDie core) (coreNum core)).sampleDue.find? (sampleOver s (s.core (coreDie core) (coreNum core))) = some x from hx]

theorem traceSync_happens (part : Nat) {e : Event} (h : telemetryEvents (.traceSync part) = some e) : Happens (.traceSync part) e := by
  obtain rfl := Option.some.inj h
  rintro s _ ⟨hten, hsince, hdrop⟩
  refine ⟨_, ?_, rfl⟩
  have hdue : syncDue (s.part part) = true := by
    unfold syncDue ten
    rw [hten, hdrop, decide_eq_true hsince]
    rfl
  show execTraceSync part s = _
  unfold execTraceSync
  rw [if_pos hdue]
  rfl

theorem traceLostRecovery_happens (part : Nat) {e : Event} (h : telemetryEvents (.traceLostRecovery part) = some e) : Happens (.traceLostRecovery part) e := by
  obtain rfl := Option.some.inj h
  rintro s r ⟨hten, hdrop, hring, hroom⟩
  refine ⟨_, ?_, rfl⟩
  have hdue : lostDue (s.part part) = true := by
    unfold lostDue ten ringFits
    rw [hten, hring, decide_eq_true hdrop]
    exact decide_eq_true hroom
  show execTraceLostRecovery part s = _
  unfold execTraceLostRecovery
  rw [if_pos hdue]
  rfl

/-! ## Temperature -/

theorem thermalThrottle_happens (die : Nat) {e : Event} (h : telemetryEvents (.thermalThrottle die) = some e) : Happens (.thermalThrottle die) e := by
  obtain rfl := Option.some.inj h
  rintro s _ ⟨hdie, hhot⟩
  refine ⟨_, ?_, rfl, ?_⟩
  · show execThermalThrottle die s = _
    unfold execThermalThrottle
    rw [decide_eq_true hdie, List.contains_eq_mem, decide_eq_false hhot]
    rfl
  · unfold State.coreRate
    exact if_neg (by simp)

theorem temperatureBelow95c_happens (die : Nat) {e : Event} (h : telemetryEvents (.temperatureBelow95c die) = some e) : Happens (.temperatureBelow95c die) e := by
  obtain rfl := Option.some.inj h
  rintro s _ _
  refine ⟨_, rfl, rfl, fun hcool => ?_⟩
  unfold State.coreRate
  refine if_pos ?_
  rw [List.isEmpty_iff]
  refine List.filter_eq_nil_iff.mpr ?_
  intro d hd
  simpa using hcool d hd

theorem thermalTrip_happens {e : Event} (h : telemetryEvents .thermalTrip = some e) : Happens .thermalTrip e := by
  obtain rfl := Option.some.inj h
  rintro s _ _
  refine ⟨_, rfl, rfl, fun g b => ?_⟩
  unfold canIssue coreIssues
  simp

/-! ## Power -/

theorem powerWindow_free {s : State} (watts amps : Nat) (overs : List Nat) (h : s.pkg.fixedClk = false) :
    execPowerWindow watts amps overs s = .next { s with pkg := { s.pkg with mhz :=
      (if 3600 < watts ∨ 7500 < amps then max 350 (s.pkg.mhz - 25) else if watts < 3420 ∧ amps < 7125 then min 700 (s.pkg.mhz + 25) else s.pkg.mhz) } } := by
  unfold execPowerWindow
  rw [h, if_neg (by decide)]
  simp only [gt_iff_lt, Bool.or_eq_true, Bool.and_eq_true, decide_eq_true_eq]
  split
  · rfl
  · split <;> rfl

/-- What a window has measured of a partition: more than its budget where it is listed, at most its budget otherwise. -/
def Measured (overs : List Nat) (p : Nat) (x y : Part) : Prop :=
  y.withheld = decide (p ∈ overs) ∧ y.withheld = decide (x.budget < y.power) ∧ x = { y with power := x.power, withheld := x.withheld }

theorem freshBytes_eq (n : Nat) : ∀ s : State, ∃ bs k, s.freshBytes n = (bs, { s with pkg := { s.pkg with fresh := k } }) := by
  induction n with
  | zero => exact fun s => ⟨[], s.pkg.fresh, rfl⟩
  | succ n ih =>
    intro s
    obtain ⟨bs, k, h⟩ := ih s.freshByte.2
    refine ⟨s.freshByte.1 :: bs, k, ?_⟩
    rw [State.freshBytes]
    dsimp only
    rw [h]
    rfl

/-- A partition as a window leaves it that has measured these bytes. -/
def metered (overs : List Nat) (p n : Nat) (x : Part) : Part :=
  let w := if overs.contains p then x.budget + 1 + n else n % (x.budget + 1)
  { x with power := w, withheld := decide (w > x.budget) }

theorem measure_eq (s : State) (overs : List Nat) (p : Nat) :
    ∃ n k, Machine.measure s overs p = ({ s with pkg := { s.pkg with fresh := k } } : State).updPart p (metered overs p n) := by
  obtain ⟨bs, k, h⟩ := freshBytes_eq 2 s
  refine ⟨leNat bs, k, ?_⟩
  unfold Machine.measure
  rw [h]
  rfl

theorem measured_metered (overs : List Nat) (p n : Nat) (x : Part) : Measured overs p x (metered overs p n x) := by
  refine ⟨?_, rfl, rfl⟩
  unfold metered
  dsimp only
  rw [decide_eq_decide, List.contains_eq_mem]
  by_cases hp : p ∈ overs
  · simp only [hp, decide_true, if_true, iff_true]
    omega
  · simp only [hp, decide_false, Bool.false_eq_true, if_false, iff_false, gt_iff_lt, Nat.not_lt]
    exact Nat.le_of_lt_succ (Nat.mod_lt _ (Nat.succ_pos _))

theorem measure_measured (s : State) (overs : List Nat) (p : Nat) : Measured overs p (s.part p) ((Machine.measure s overs p).part p) := by
  obtain ⟨n, k, h⟩ := measure_eq s overs p
  rw [h, State.part_updPart_same _ p (metered overs p n) (fun _ => rfl)]
  exact measured_metered overs p n (s.part p)

theorem measure_other (s : State) (overs : List Nat) {p q : Nat} (hq : q ≠ p) : (Machine.measure s overs p).part q = s.part q := by
  obtain ⟨n, k, h⟩ := measure_eq s overs p
  rw [h, State.part_updPart_other _ p q (metered overs p n) (fun _ => rfl) hq]
  rfl

/-- Only partitions and the number of free values differ. -/
def SameButParts (s t : State) : Prop := t = { s with fe := { s.fe with parts := t.fe.parts }, pkg := { s.pkg with fresh := t.pkg.fresh } }

theorem SameButParts.trans {s t u : State} (h : SameButParts s t) (h' : SameButParts t u) : SameButParts s u := by
  unfold SameButParts at *
  rw [h] at h'
  exact h'

theorem measure_same (s : State) (overs : List Nat) (p : Nat) : SameButParts s (Machine.measure s overs p) := by
  obtain ⟨n, k, h⟩ := measure_eq s overs p
  unfold SameButParts
  rw [h]
  rfl

theorem foldl_measure (overs l : List Nat) (hl : l.Nodup) : ∀ s : State,
    SameButParts s (l.foldl (fun s p => Machine.measure s overs p) s) ∧
    (∀ p ∈ l, Measured overs p (s.part p) ((l.foldl (fun s p => Machine.measure s overs p) s).part p)) ∧
    ∀ p, p ∉ l → (l.foldl (fun s p => Machine.measure s overs p) s).part p = s.part p := by
  induction l with
  | nil => exact fun s => ⟨rfl, fun _ h => absurd h List.not_mem_nil, fun _ _ => rfl⟩
  | cons q l ih =>
    intro s
    obtain ⟨hql, hnd⟩ := List.nodup_cons.mp hl
    obtain ⟨hsame, hin, hout⟩ := ih hnd (Machine.measure s overs q)
    rw [List.foldl_cons]
    refine ⟨(measure_same s overs q).trans hsame, fun p hp => ?_, fun p hp => ?_⟩
    · rcases List.mem_cons.mp hp with rfl | hp
      · rw [hout p hql]
        exact measure_measured s overs p
      · have hne : p ≠ q := fun h => hql (h ▸ hp)
        rw [← measure_other s overs hne]
        exact hin p hp
    · rw [List.mem_cons, not_or] at hp
      rw [hout p hp.2, measure_other s overs hp.1]

theorem carved_lt {s : State} {p : Nat} (h : s.carved p = true) : p < 64 := by
  by_contra hp
  have : s.pkg.cmap.toList.getD (p / 16) 0 = 0 := by
    rw [List.getD_eq_getElem?_getD, List.getElem?_eq_none (by simp; omega)]
    rfl
  rw [State.carved, show Config.partsPerDie = 16 from rfl, this] at h
  simp at h

theorem powerWindow_happens (watts amps : Nat) (overs : List Nat) {e : Event} (h : telemetryEvents (.powerWindow watts amps overs) = some e) :
    Happens (.powerWindow watts amps overs) e := by
  obtain rfl := Option.some.inj h
  rintro s _ _
  cases hfix : s.pkg.fixedClk with
  | false =>
    refine ⟨_, powerWindow_free watts amps overs hfix, fun _ => rfl, fun hc => by rw [hfix] at hc; cases hc⟩
  | true =>
    obtain ⟨hsame, hin, hout⟩ := foldl_measure overs ((List.range 64).filter (s.carved ·)) (List.nodup_range.filter _) s
    refine ⟨((List.range 64).filter (s.carved ·)).foldl (fun s p => Machine.measure s overs p) s, congrArg (fun t => (.next t : Out)) (if_pos hfix), ?_⟩
    refine ⟨fun hc => absurd (hfix.symm.trans hc) (by decide), fun _ => ⟨hsame, fun p hp => ?_, fun p hp => ?_⟩⟩
    · exact hin p (List.mem_filter.mpr ⟨List.mem_range.mpr (carved_lt hp), hp⟩)
    · exact hout p (fun hm => absurd (hp.symm.trans (List.mem_filter.mp hm).2) (by decide))


/-! ## Writes of registers -/

theorem registerWrite_telemetry {s : State} {reg index : Nat} (hr : reg < 32) (ht : takes s reg index) (value : W64) :
    execRegisterWrite reg index value s = .next (telemetryWrite s reg index value) := by
  rw [takes, if_pos (.inl hr)] at ht
  obtain ⟨hphase, hindex⟩ := ht
  unfold execRegisterWrite
  rw [hphase, if_neg (by decide), if_pos hr, decide_eq_true hindex]
  rfl

theorem takes_phase {s : State} {reg index : Nat} (ht : takes s reg index) : s.pkg.phase ≠ 0 := by
  unfold takes at ht
  split at ht
  · omega
  · split at ht
    · omega
    · split at ht
      · omega
      · split at ht
        · omega
        · exact ht

theorem registerWrite_policy {s : State} {reg index : Nat} (hr : 32 ≤ reg) (h36 : reg ≠ 36) (h37 : reg ≠ 37) (h41 : reg ≠ 41) (ht : takes s reg index) (value : W64) :
    execRegisterWrite reg index value s = .next (policyRegs s reg index value) := by
  have hphase := takes_phase ht
  unfold execRegisterWrite
  simp only [beq_iff_eq, hphase, if_false, Nat.not_lt.mpr hr, h36, h37, h41]

theorem tctl_written {s : State} {index : Nat} (ht : takes s 0 index) (value : W64) :
    (intervalOk value → telemetryWrite s 0 index value = moved (tctlSet s index value)) ∧ (¬intervalOk value → telemetryWrite s 0 index value = s) := by
  rw [takes, if_pos (.inl (by decide))] at ht
  refine ⟨fun hok => ?_, fun hbad => ?_⟩
  · show (if sintOk value then logMoved (tctlWrite s index value) else s) = _
    rw [if_pos ((sintOk_iff value).mpr hok), tctlWrite_eq ht.1 hok]
    rfl
  · show (if sintOk value then logMoved (tctlWrite s index value) else s) = _
    exact if_neg (fun h => hbad ((sintOk_iff value).mp h))

/-- The byte of a word at a place. -/
theorem leBytes_getD (n : Nat) : ∀ x i, i < n → (leBytes n x).getD i 0 = BitVec.ofNat 8 (x / 256 ^ i) := by
  induction n with
  | zero => exact fun x i h => absurd h (Nat.not_lt_zero i)
  | succ n ih =>
    intro x i h
    cases i with
    | zero => rw [leBytes, List.getD_cons_zero, Nat.pow_zero, Nat.div_one]
    | succ i => rw [leBytes, List.getD_cons_succ, ih _ _ (by omega), Nat.div_div_eq_div_mul, Nat.pow_succ']

theorem word_byte (value : W64) (i : Nat) : (leBytes 8 value.toNat).getD (i % 8) 0 = value.extractLsb' (8 * (i % 8)) 8 := by
  rw [leBytes_getD 8 _ _ (Nat.mod_lt _ (by decide))]
  apply BitVec.eq_of_toNat_eq
  rw [BitVec.extractLsb'_toNat, BitVec.toNat_ofNat, Nat.shiftRight_eq_div_pow, show (256 : Nat) = 2 ^ 8 from rfl, ← Nat.pow_mul]

theorem bureq_written (s : State) (index : Nat) (value : W64) :
    (s.pkg.budb = 1 ∨ 8 ≤ index → policyRegs s 34 index value = s) ∧
    (s.pkg.budb ≠ 1 → index < 8 → policyRegs s 34 index value = { s with pkg := { s.pkg with bureq := (policyRegs s 34 index value).pkg.bureq } } ∧
      ∀ i, i < 64 → (policyRegs s 34 index value).pkg.bureq.toList.getD i 0 =
        if i / 8 = index then value.extractLsb' (8 * (i % 8)) 8 else s.pkg.bureq.toList.getD i 0) := by
  have heq : policyRegs s 34 index value = if s.pkg.budb == 1 || decide (index ≥ 8) then s
      else s.updPkg (fun k => { k with bureq := k.bureq.mapIdx (fun i b => if i / 8 == index then (leBytes 8 value.toNat).getD (i % 8) 0 else b) }) := rfl
  refine ⟨fun h => ?_, fun hdb hi => ?_⟩
  · rw [heq, if_pos (by simpa using h)]
  · rw [heq, if_neg (fun hc => ((Bool.or_eq_true _ _).mp hc).elim (fun h => hdb (beq_iff_eq.mp h)) (fun h => absurd (of_decide_eq_true h) (by omega)))]
    refine ⟨rfl, fun i h64 => ?_⟩
    show (s.pkg.bureq.mapIdx _).toList.getD i 0 = _
    rw [List.getD_eq_getElem?_getD, List.getD_eq_getElem?_getD, List.getElem?_eq_getElem (by simpa using h64), List.getElem?_eq_getElem (by simpa using h64)]
    simp only [Vector.getElem_toList, Vector.getElem_mapIdx, Option.getD_some, beq_iff_eq, word_byte]

theorem leBytes_length (n : Nat) : ∀ x, (leBytes n x).length = n := by
  induction n with
  | zero => exact fun _ => rfl
  | succ n ih => exact fun x => congrArg (· + 1) (ih _)

theorem toList_mapIdx_getD {n : Nat} (l : List Byte) (hl : l.length = n) : ((Vector.replicate n (0 : Byte)).mapIdx (fun i _ => l.getD i 0)).toList = l := by
  refine List.ext_getElem (by rw [hl, Vector.length_toList]) (fun i hi h => ?_)
  rw [Vector.getElem_toList, Vector.getElem_mapIdx, List.getD_eq_getElem?_getD, List.getElem?_eq_getElem h, Option.getD_some]

theorem respond_toList (s : State) (status result : Nat) :
    (respond s status result).pkg.bursp.toList = leBytes 4 status ++ leBytes 4 result ++ leBytes 8 0 :=
  toList_mapIdx_getD _ rfl

theorem budbWrite_eq {s : State} {index : Nat} (ht : takes s 35 index) (value : W64) :
    budbWrite s value = if s.pkg.budb = 1 ∨ value.extractLsb 31 0 ≠ 1 then s
      else if 1 ≤ req s 0 1 ∧ req s 0 1 ≤ 14 then { s with pkg := { s.pkg with budb := 1 } }
      else respond { s with pkg := { s.pkg with budb := 1 } } 16 0 := by
  have hphase : 3 ≤ s.pkg.phase ∧ s.pkg.phase ≤ 9 := ht
  unfold budbWrite
  rw [decide_eq_false (Nat.not_lt.mpr hphase.1), decide_eq_false (Nat.not_lt.mpr hphase.2)]
  simp only [Bool.or_false, Bool.or_eq_true, beq_iff_eq, bne_iff_ne, decide_eq_true_eq]
  rfl

theorem budb_written {s : State} {index : Nat} (ht : takes s 35 index) (value : W64) :
    if s.pkg.budb = 1 ∨ value.extractLsb 31 0 ≠ 1 then budbWrite s value = s
    else if 1 ≤ req s 0 1 ∧ req s 0 1 ≤ 14 then budbWrite s value = { s with pkg := { s.pkg with budb := 1 } }
    else budbWrite s value = { s with pkg := { s.pkg with bursp := (budbWrite s value).pkg.bursp, budb := 0 } } ∧
      (budbWrite s value).pkg.bursp.toList = leBytes 4 16 ++ leBytes 4 0 ++ leBytes 8 0 := by
  rw [budbWrite_eq ht]
  by_cases hno : s.pkg.budb = 1 ∨ value.extractLsb 31 0 ≠ 1
  · rw [if_pos hno, if_pos hno]
  · rw [if_neg hno, if_neg hno]
    by_cases hop : 1 ≤ req s 0 1 ∧ req s 0 1 ≤ 14
    · rw [if_pos hop, if_pos hop]
    · rw [if_neg hop, if_neg hop]
      exact ⟨rfl, respond_toList _ 16 0⟩

/-! ## The mailboxes of the functions -/

theorem box_setBox (s : State) (fn : Nat) (x : List Byte × List Byte × W64) : (s.setBox fn x).box fn = x := by
  unfold State.box
  rw [show (s.setBox fn x).pkg.vfBox = updOr (fun y => y.1 == fn) (fn, x) (fun _ => (fn, x)) s.pkg.vfBox from rfl,
    updOr_find_same (fun y : Nat × List Byte × List Byte × W64 => y.1 == fn) (fn, x) (fun _ => (fn, x)) _ (fun _ _ => beq_self_eq_true fn) (beq_self_eq_true fn)]
  rfl

/-- A mailbox's request with one word changed. -/
def boxPut (b : List Byte) (word : Nat) (value : W64) : List Byte :=
  (List.range 64).map (fun i => if i / 8 = word then (leBytes 8 value.toNat).getD (i % 8) 0 else b.getD i 0)

theorem boxPut_getD (b : List Byte) (word : Nat) (value : W64) {i : Nat} (hi : i < 64) :
    (boxPut b word value).getD i 0 = if i / 8 = word then value.extractLsb' (8 * (i % 8)) 8 else b.getD i 0 := by
  unfold boxPut
  rw [List.getD_eq_getElem?_getD, List.getElem?_map, List.getElem?_range hi]
  simp only [Option.map_some, Option.getD_some, word_byte]

/-- A word of a function's mailbox is written, unless the doorbell is set. -/
def boxWritten (s : State) (index : Nat) (value : W64) : State :=
  if (s.box (index / 8)).2.2 = 1 then s else s.setBox (index / 8) (boxPut (s.box (index / 8)).1 (index % 8) value, (s.box (index / 8)).2)

theorem registerWrite_box {s : State} {index : Nat} (ht : takes s 36 index) (value : W64) :
    execRegisterWrite 36 index value s = .next (boxWritten s index value) := by
  have ⟨hphase, hindex⟩ : s.pkg.phase = 9 ∧ index < 512 := ht
  have hfn : ¬ index / 8 ≥ 64 := by omega
  unfold execRegisterWrite
  rw [hphase, if_neg (by decide), if_neg (by decide), if_pos (by decide)]
  simp only [hfn, decide_false, Bool.or_false, bne_self_eq_false, Bool.false_or, beq_iff_eq]
  rfl

theorem boxWord_written (s : State) (index : Nat) (value : W64) :
    if (s.box (index / 8)).2.2 = 1 then boxWritten s index value = s
    else boxWritten s index value = s.setBox (index / 8) (((boxWritten s index value).box (index / 8)).1, (s.box (index / 8)).2) ∧
      ∀ i, i < 64 → ((boxWritten s index value).box (index / 8)).1.getD i 0 =
        if i / 8 = index % 8 then value.extractLsb' (8 * (i % 8)) 8 else (s.box (index / 8)).1.getD i 0 := by
  unfold boxWritten
  by_cases hdb : (s.box (index / 8)).2.2 = 1
  · rw [if_pos hdb, if_pos hdb]
  · rw [if_neg hdb, if_neg hdb, box_setBox]
    exact ⟨rfl, fun i hi => boxPut_getD _ _ value hi⟩

theorem doorbell_written {s : State} (fn : Nat) (value : W64) :
    if (s.box fn).2.2 = 1 ∨ value ≠ 1 then boxDoorbell s fn value = s
    else if fld (s.box fn).1 0 1 = 1 ∨ fld (s.box fn).1 0 1 = 2 then boxDoorbell s fn value = s.setBox fn ((s.box fn).1, (s.box fn).2.1, 1)
    else boxDoorbell s fn value = boxAnswer (s.setBox fn ((s.box fn).1, (s.box fn).2.1, 1)) fn 16 [] := by
  unfold boxDoorbell
  simp only [Bool.or_eq_true, beq_iff_eq, bne_iff_ne]
  by_cases hno : (s.box fn).2.2 = 1 ∨ value ≠ 1
  · rw [if_pos hno, if_pos hno]
  · rw [if_neg hno, if_neg hno]
    by_cases hop : fld (s.box fn).1 0 1 = 1 ∨ fld (s.box fn).1 0 1 = 2
    · rw [if_pos hop, if_pos hop]
    · rw [if_neg hop, if_neg hop]
      rfl

/-! ## What the policy core sets -/

/-- A queue is made where its number is free, its fields are in order, its owner is carved, and it is privileged or a function is bound
to its owner. -/
theorem makeQueue_eq (u : State) (qid : Nat) (qcb : W64) (asid : Nat) (b : List Byte) :
    (match makeQueue u qid qcb asid b with
      | .ok s => s
      | .error _ => u) =
    let n := queueFrom qid qcb asid b
    if u.queue? qid = none ∧ n.fieldsOk = true ∧ zeros b 32 127 = true ∧ u.carved n.owner = true ∧ (n.qflg.getLsbD 0 = true ∨ vfHas u n.owner = true)
    then { u with fe := { u.fe with queues := u.fe.queues ++ [{ n with fn := fnOf u n }] } } else u := by
  dsimp only
  unfold makeQueue
  by_cases hform : ((u.queue? qid).isSome || !(queueFrom qid qcb asid b).fieldsOk || !(zeros b 32 127)) = true
  · rw [if_pos hform, if_neg (fun ⟨hq, hf, hz, _⟩ => by simp [hq, hf, hz] at hform)]
  rw [if_neg hform]
  by_cases hbound : (!(queueFrom qid qcb asid b).qflg.getLsbD 0 && !(vfHas u (queueFrom qid qcb asid b).owner)) = true
  · rw [if_pos hbound]
    rw [Bool.and_eq_true, Bool.not_eq_true', Bool.not_eq_true'] at hbound
    refine (if_neg (fun ⟨_, _, _, _, hv⟩ => ?_)).symm
    rcases hv with hv | hv
    · exact absurd (hv.symm.trans hbound.1) (by decide)
    · exact absurd (hv.symm.trans hbound.2) (by decide)
  rw [if_neg hbound]
  by_cases hcarved : (!u.carved (queueFrom qid qcb asid b).owner) = true
  · rw [if_pos hcarved, if_neg (fun ⟨_, _, _, hc, _⟩ => by simp [hc] at hcarved)]
  rw [if_neg hcarved, if_pos]
  · rfl
  · simp only [Bool.or_eq_true, Bool.and_eq_true, Bool.not_eq_true', not_or, not_and, Bool.not_eq_false, Option.isSome_iff_ne_none, ne_eq, not_not] at hform hbound hcarved
    refine ⟨hform.1.1, hform.1.2, hform.2, hcarved, ?_⟩
    cases hbit : (queueFrom qid qcb asid b).qflg.getLsbD 0 with
    | true => exact .inl rfl
    | false => exact .inr (hbound hbit)

theorem queue_made {s : State} {index : Nat} (ht : takes s 39 index) (value : W64) :
    match feRead s (feWho s (index / 1024) 0 none) none value.toNat 128 with
    | .error _ => policyRegs s 39 index value = s
    | .ok (b, u) =>
      let n := queueFrom (index % 1024) value (index / 1024) b
      policyRegs s 39 index value =
        if u.queue? (index % 1024) = none ∧ n.fieldsOk = true ∧ zeros b 32 127 = true ∧ u.carved n.owner = true ∧ (n.qflg.getLsbD 0 = true ∨ vfHas u n.owner = true)
        then { u with fe := { u.fe with queues := u.fe.queues ++ [{ n with fn := fnOf u n }] } } else u := by
  have hphase : s.pkg.phase = 9 := ht
  have heq : policyRegs s 39 index value = match feRead s (feWho s (index / 1024) 0 none) none value.toNat 128 with
      | .error _ => s
      | .ok (b, s) => match makeQueue s (index % 1024) value (index / 1024) b with
        | .ok s => s
        | .error _ => s := if_neg (by rw [hphase]; decide)
  rw [heq]
  cases feRead s (feWho s (index / 1024) 0 none) none value.toNat 128 with
  | error e => rfl
  | ok x =>
    obtain ⟨b, u⟩ := x
    exact makeQueue_eq u (index % 1024) value (index / 1024) b

theorem imports_written {s : State} {index : Nat} (ht : takes s 38 index) (value : W64) :
    policyRegs s 38 index value = { s with fe := { s.fe with imports := (policyRegs s 38 index value).fe.imports } } ∧
    ∀ x, x ∈ (policyRegs s 38 index value).fe.imports ↔ if x = (index / 512, index % 512) then value.getLsbD 0 = true else x ∈ s.fe.imports := by
  have hphase : 3 ≤ s.pkg.phase ∧ s.pkg.phase ≤ 9 := ht
  have heq : policyRegs s 38 index value = s.updFe (fun y => { y with
      imports := (y.imports.filter (fun m => m != (index / 512, index % 512))) ++ (if value.getLsbD 0 then [(index / 512, index % 512)] else []) }) :=
    if_neg (by simp; omega)
  rw [heq]
  refine ⟨rfl, fun x => ?_⟩
  show x ∈ s.fe.imports.filter _ ++ _ ↔ _
  rw [List.mem_append, List.mem_filter, bne_iff_ne]
  by_cases hx : x = (index / 512, index % 512)
  · rw [if_pos hx, hx]
    cases value.getLsbD 0 <;> simp
  · rw [if_neg hx]
    cases value.getLsbD 0 <;> simp [hx]

theorem assoc_assocSet_ne {β : Type} (l : List (Nat × β)) {k i : Nat} (v : β) (h : i ≠ k) : assoc (assocSet l k v) i = assoc l i := by
  unfold assoc assocSet
  rw [updOr_find_other]
  · intro x hx
    rw [beq_iff_eq] at hx
    rw [hx]
    exact beq_false_of_ne h.symm
  · exact fun _ _ => beq_false_of_ne h.symm
  · exact beq_false_of_ne h.symm

theorem ide_written (s : State) (index : Nat) (value : W64) :
    (8 ≤ index → policyRegs s 42 index value = s) ∧
    (index < 8 → policyRegs s 42 index value = { s with pkg := { s.pkg with ide := (policyRegs s 42 index value).pkg.ide } } ∧
      ∀ i, assoc (policyRegs s 42 index value).pkg.ide i = if i = index then some value else assoc s.pkg.ide i) := by
  have heq : policyRegs s 42 index value = if index < 8 then s.updPkg (fun k => { k with ide := assocSet k.ide index value }) else s := rfl
  refine ⟨fun h => by rw [heq, if_neg (Nat.not_lt.mpr h)], fun h => ?_⟩
  rw [heq, if_pos h]
  refine ⟨rfl, fun i => ?_⟩
  by_cases hi : i = index
  · rw [if_pos hi, hi]
    exact assoc_assocSet _ _ _
  · rw [if_neg hi]
    exact assoc_assocSet_ne _ _ hi

theorem minSvn_written {s : State} {index : Nat} (ht : takes s 40 index) (value : W64) :
    policyRegs s 40 index value = { s with pkg := { s.pkg with minSvn := if s.pkg.minSvn.toNat ≤ s.pkg.svn.toNat then s.pkg.svn else s.pkg.minSvn } } := by
  have hphase : 3 ≤ s.pkg.phase ∧ s.pkg.phase ≤ 9 := ht
  have heq : policyRegs s 40 index value = s.updPkg (fun k =>
      { k with minSvn := if decide (3 ≤ k.phase ∧ k.phase ≤ 9) && decide (k.minSvn.toNat ≤ k.svn.toNat) then k.svn else k.minSvn }) := rfl
  rw [heq, State.updPkg]
  simp only [decide_eq_true hphase, Bool.true_and, decide_eq_true_eq]

theorem pageRead_eq (s : State) (p : Nat) : pageRead s p = match (s.part p).preq with
    | [] => s
    | q :: l =>
      let rec_ := leBytes 8 q.va ++ leBytes 2 q.asid ++ leBytes 1 q.die ++ leBytes 1 q.part ++ leBytes 4 q.count.toNat
      s.updPart p (fun y => { y with preq := l, preqRead := rec_ }) := by
  unfold pageRead
  cases (s.part p).preq <;> rfl

/-! ## Every register -/

/-- What a register's write leaves, where the register takes it. -/
def registerWritten (s : State) (reg index : Nat) (value : W64) : State :=
  if reg < 32 then telemetryWrite s reg index value
  else if reg = 36 then boxWritten s index value
  else if reg = 37 then boxDoorbell s index value
  else if reg = 41 then pageRead s index
  else policyRegs s reg index value

theorem registerWrite_eq {s : State} {reg index : Nat} (ht : takes s reg index) (value : W64) :
    execRegisterWrite reg index value s = .next (registerWritten s reg index value) := by
  unfold registerWritten
  by_cases h32 : reg < 32
  · rw [if_pos h32, registerWrite_telemetry h32 ht]
  rw [if_neg h32]
  by_cases h36 : reg = 36
  · subst h36
    rw [registerWrite_box ht]
    rfl
  rw [if_neg h36]
  by_cases h37 : reg = 37
  · subst h37
    have ⟨hphase, hindex⟩ : s.pkg.phase = 9 ∧ index < 64 := ht
    unfold execRegisterWrite
    rw [hphase, decide_eq_true hindex]
    rfl
  rw [if_neg h37]
  by_cases h41 : reg = 41
  · subst h41
    have hphase : s.pkg.phase = 9 := ht
    unfold execRegisterWrite
    rw [hphase]
    rfl
  rw [if_neg h41, registerWrite_policy (Nat.not_lt.mp h32) h36 h37 h41 ht]

theorem other_written {reg : Nat} (h : 10 ≤ reg ∧ reg < 32 ∨ 43 ≤ reg) (s : State) (index : Nat) (value : W64) :
    registerWritten s reg index value = if 16 ≤ reg ∧ reg < 32 then s.updPart index (fun y => { y with cnt := y.cnt.setIfInBounds (reg - 16) value }) else s := by
  unfold registerWritten
  rcases h with h | h
  · rw [if_pos h.2]
    unfold telemetryWrite
    split
    all_goals first | omega | simp only [decide_eq_true_eq]
  · rw [if_neg (by omega), if_neg (by omega), if_neg (by omega), if_neg (by omega), if_neg (by omega)]
    unfold policyRegs
    split
    all_goals first | omega | rfl

theorem registerWrite_happens (reg index : Nat) (value : W64) {e : Event} (h : telemetryEvents (.registerWrite reg index value) = some e) :
    Happens (.registerWrite reg index value) e := by
  obtain rfl := Option.some.inj h
  intro s _ ht
  refine ⟨_, registerWrite_eq ht value, ?_⟩
  dsimp only
  split
  · exact tctl_written ht value
  iterate 9 exact rfl
  · exact rfl
  · exact rfl
  · exact bureq_written s index value
  · exact budb_written (index := index) ht value
  · exact boxWord_written s index value
  · exact doorbell_written index value
  · exact queue_made ht value
  · exact imports_written ht value
  · exact ide_written s index value
  · exact minSvn_written (index := index) ht value
  · exact pageRead_eq s index
  · exact other_written (by grind) s index value


/-! ## A core that fails its self-test -/

/-- A group of this identifier is there, stopped. -/
def Halts (s : State) (i : Nat) : Prop := ∃ g, s.group? i = some g ∧ g.stop.isSome = true

theorem stopGroup_idle {s : State} {gid : Nat} {g : Group} (hg : s.group? gid = some g) (hstop : g.stop.isSome = true) (f : FRec) (bid : Option Nat) (pc : Option W64) :
    (stopGroup s gid f bid pc).groups = s.groups := by
  unfold stopGroup
  rw [hg]
  dsimp only
  rw [hstop]
  rfl

theorem stopGroup_other (s : State) (gid : Nat) (f : FRec) (bid : Option Nat) (pc : Option W64) {i : Nat} (hi : i ≠ gid) :
    (stopGroup s gid f bid pc).group? i = s.group? i := by
  cases hg : s.group? gid with
  | none =>
    unfold stopGroup
    rw [hg]
  | some g =>
    cases hrun : g.stop.isSome with
    | true => rw [State.group?, stopGroup_idle hg hrun, State.group?]
    | false =>
      obtain ⟨bs, st, hgroups⟩ := stopGroup_groups f bid pc hg hrun
      rw [State.group?, hgroups]
      exact group?_updGroup_ne s gid i _ (fun _ _ => g.quieted_id.trans (State.group_id hg)) hi

theorem stopGroup_halts {s : State} {gid : Nat} (h : (s.group? gid).isSome = true) (f : FRec) (bid : Option Nat) (pc : Option W64) :
    Halts (stopGroup s gid f bid pc) gid := by
  obtain ⟨g, hg⟩ := Option.isSome_iff_exists.mp h
  cases hrun : g.stop.isSome with
  | true => exact ⟨g, by rw [State.group?, stopGroup_idle hg hrun]; exact hg, hrun⟩
  | false =>
    obtain ⟨bs, st, hgroups⟩ := stopGroup_groups f bid pc hg hrun
    refine ⟨{ g.quieted with bundles := bs, stop := some st }, ?_, rfl⟩
    rw [State.group?, hgroups]
    have := group?_updGroup_of_id s gid (fun _ => { g.quieted with bundles := bs, stop := some st }) (fun _ _ => g.quieted_id.trans (State.group_id hg))
    rwa [hg] at this

theorem Halts.stopGroup {s : State} {i : Nat} (h : Halts s i) (gid : Nat) (f : FRec) (bid : Option Nat) (pc : Option W64) : Halts (stopGroup s gid f bid pc) i := by
  obtain ⟨g, hg, hstop⟩ := h
  by_cases hi : i = gid
  · subst hi
    exact stopGroup_halts (by rw [hg]; rfl) f bid pc
  · exact ⟨g, (stopGroup_other s gid f bid pc hi).trans hg, hstop⟩

theorem stopGroup_isSome {s : State} {i : Nat} (h : (s.group? i).isSome = true) (gid : Nat) (f : FRec) (bid : Option Nat) (pc : Option W64) :
    ((Machine.stopGroup s gid f bid pc).group? i).isSome = true := by
  by_cases hi : i = gid
  · subst hi
    obtain ⟨g, hg, _⟩ := stopGroup_halts h f bid pc
    rw [hg]
    rfl
  · rw [stopGroup_other s gid f bid pc hi]
    exact h

/-- A fold whose steps keep a part of the state keeps it. -/
theorem foldl_keeps {α β : Type} (π : State → β) (f : State → α → State) (hf : ∀ s a, π (f s a) = π s) (l : List α) (s : State) : π (l.foldl f s) = π s := by
  induction l generalizing s with
  | nil => rfl
  | cons a l ih => exact (ih _).trans (hf _ _)

/-- The package of a state that may have told a debug range. -/
theorem told_pkg (s : State) (rid part : Nat) (ev : List Byte) :
    (match s.range? rid with | some r => if s.attachedTo r then s.postEvent part ev else s | none => s).pkg = s.pkg := by
  split
  · split <;> rfl
  · rfl

@[simp] theorem stopGroup_pkg (s : State) (gid : Nat) (f : FRec) (bid : Option Nat) (pc : Option W64) : (stopGroup s gid f bid pc).pkg = s.pkg := by
  unfold stopGroup
  split
  · rfl
  · dsimp only
    split
    · rfl
    · exact (told_pkg _ _ _ _).trans (foldl_keeps State.pkg (fun s (r : FRec) => s.queueRec _ r) (fun _ _ => rfl) _ _)

/-- Each of the groups listed is stopped, as its record says. -/
def stopAll (f : State → Group → FRec) (l : List Group) (s : State) : State := l.foldl (fun s g => Machine.stopGroup s g.id (f s g) none none) s

theorem Halts.stopAll {i : Nat} (f : State → Group → FRec) (l : List Group) {s : State} (h : Halts s i) : Halts (stopAll f l s) i := by
  induction l generalizing s with
  | nil => exact h
  | cons g l ih => exact ih (h.stopGroup g.id _ none none)

theorem stopAll_halts (f : State → Group → FRec) (l : List Group) {s : State} (hl : ∀ g ∈ l, (s.group? g.id).isSome = true) : ∀ g ∈ l, Halts (stopAll f l s) g.id := by
  induction l generalizing s with
  | nil => exact fun _ h => absurd h List.not_mem_nil
  | cons x l ih =>
    intro g hg
    rcases List.mem_cons.mp hg with rfl | hg
    · exact Halts.stopAll f l (stopGroup_halts (hl g List.mem_cons_self) _ none none)
    · exact ih (fun y hy => stopGroup_isSome (hl y (List.mem_cons_of_mem _ hy)) _ _ none none) g hg

theorem stopAll_mem (f : State → Group → FRec) (l : List Group) (s : State) : (stopAll f l s).mem = s.mem :=
  foldl_mem (fun s (g : Group) => Machine.stopGroup s g.id (f s g) none none) (fun s g => stopGroup_mem s g.id _ none none) l s

theorem stopAll_pkg (f : State → Group → FRec) (l : List Group) (s : State) : (stopAll f l s).pkg = s.pkg :=
  foldl_keeps State.pkg (fun s (g : Group) => Machine.stopGroup s g.id (f s g) none none) (fun s g => stopGroup_pkg s g.id _ none none) l s

theorem core_failed_congr {s t : State} (h : t.mem = s.mem) (d n : Nat) : (t.core d n).failed = (s.core d n).failed := by
  unfold State.core
  rw [h]
  cases s.mem.cores.find? _ <;> rfl

theorem core_updCore_other (s : State) {d n d' n' : Nat} (f : CoreSt → CoreSt) (hf : ∀ k, (f k).die = k.die ∧ (f k).num = k.num) (h : (d', n') ≠ (d, n)) :
    (s.updCore d n f).core d' n' = s.core d' n' := by
  have hne : ∀ k : CoreSt, (k.die == d && k.num == n) = true → (k.die == d' && k.num == n') = false := by
    intro k hk
    rw [Bool.and_eq_true, beq_iff_eq, beq_iff_eq] at hk
    rw [Bool.and_eq_false_iff, beq_eq_false_iff_ne, beq_eq_false_iff_ne, hk.1, hk.2]
    by_contra hc
    rw [not_or, not_not, not_not] at hc
    exact h (by rw [hc.1, hc.2])
  have hfk : ∀ k : CoreSt, (k.die == d && k.num == n) = true → ((f k).die == d' && (f k).num == n') = false := by
    intro k hk
    rw [(hf k).1, (hf k).2]
    exact hne k hk
  unfold State.core
  rw [show (s.updCore d n f).mem.cores = updOr (fun x => x.die == d && x.num == n) (s.dfltCore d n) f s.mem.cores from rfl,
    updOr_find_other (fun x : CoreSt => x.die == d && x.num == n) (fun x => x.die == d' && x.num == n') _ f _ hne hfk (hfk _ (by simp [State.dfltCore]))]
  rfl

theorem grade_cores_le (g : Grade) : g.cores ≤ 128 := by cases g <;> decide

/-- The bit of a core in the fuse register. -/
theorem fused_bit (x : BitVec 128) {core : Nat} (h : core < 128) : (x ||| (1#128 <<< core)).getLsbD core = true := by
  simp [h]

theorem fcore_set (v : Vector (BitVec 128) 4) {die : Nat} (h : die < 4) (x : BitVec 128) : (v.setIfInBounds die x).toList.getD die 0 = x := by
  rw [List.getD_eq_getElem?_getD, Vector.toList_setIfInBounds, List.getElem?_set_self (by simpa using h), Option.getD_some]

/-- The core is fused off. -/
def fused (die core : Nat) (s : State) : State :=
  s.updPkg (fun k => { k with fcore := k.fcore.setIfInBounds die (k.fcore.toList.getD die 0 ||| (1#128 <<< core)) })

/-- A core that takes no group any more. -/
def CoreSt.gated (c : CoreSt) : CoreSt := { c with failed := true }

/-- The record of a group on the core. -/
def selftestRec (s : State) (g : Group) : FRec :=
  { cls := .runPrecise, code := .pgfault, cause := 13, time := s.ticks, pc := ((g.bundles.head?).map (·.pc)).getD 0 }

theorem coreSelftestFail_happens (die core : Nat) {e : Event} (h : telemetryEvents (.coreSelftestFail die core) = some e) :
    Happens (.coreSelftestFail die core) e := by
  obtain rfl := Option.some.inj h
  rintro s _ ⟨hdie, hcore⟩
  have hmem := stopAll_mem selftestRec (s.groups.filter (fun g => g.die == die && g.core == core))
  have hpkg := stopAll_pkg selftestRec (s.groups.filter (fun g => g.die == die && g.core == core))
  have h128 : core < 128 := Nat.lt_of_lt_of_le hcore (grade_cores_le _)
  refine ⟨stopAll selftestRec (s.groups.filter (fun g => g.die == die && g.core == core))
    ((fused die core s).updCore die core CoreSt.gated), ?_, ?_, ?_, ?_, ?_⟩
  · show execCoreSelftestFail die core s = _
    unfold execCoreSelftestFail
    rw [if_neg (by simp only [Bool.or_eq_true, decide_eq_true_eq]; omega)]
    rfl
  · rw [core_failed_congr (hmem _), State.core_updCore _ _ _ CoreSt.gated (fun _ => ⟨rfl, rfl⟩)]
    rfl
  · rw [hpkg]
    exact (congrArg (fun x : BitVec 128 => x.getLsbD core) (fcore_set s.pkg.fcore hdie _)).trans (fused_bit _ h128)
  · intro d n hne
    rw [core_failed_congr (hmem _), core_updCore_other _ CoreSt.gated (fun _ => ⟨rfl, rfl⟩) hne]
    rfl
  · intro g hg hgd hgc
    have hin : g ∈ s.groups.filter (fun g => g.die == die && g.core == core) := List.mem_filter.mpr ⟨hg, by simp [hgd, hgc]⟩
    refine stopAll_halts selftestRec _ (fun y hy => ?_) g hin
    exact List.find?_isSome.mpr ⟨y, (List.mem_filter.mp hy).1, beq_self_eq_true _⟩

/-- Settles O31, event by event; a register takes what its write leaves, `registerWritten`. -/
theorem telemetryEventsComplete : Obligations.TelemetryEventsComplete := by
  intro i e h
  show Happens i e
  unfold telemetryEvents at h
  split at h
  · exact traceEnable_happens _ h
  · exact traceDisable_happens _ h
  · exact logEnable_happens _ h
  · exact registerWrite_happens _ _ _ h
  · exact sampleRecord_happens _ h
  · exact traceSync_happens _ h
  · exact traceLostRecovery_happens _ h
  · exact powerWindow_happens _ _ _ h
  · exact thermalThrottle_happens _ h
  · exact temperatureBelow95c_happens _ h
  · exact thermalTrip_happens h
  · exact coreSelftestFail_happens _ _ h
  · cases h

end Sys2Proof.Rules
end

section
/-! PROOF. Reset, bring-up, keys and mailboxes. -/

namespace Sys2Proof.Rules
open Sys2Proof.Safety Sys2Proof.Machine

/-! ## The boot ROM -/

theorem packageReset_happens {e : Event} (h : bootEvents .packageReset = some e) : Happens .packageReset e := by
  obtain rfl := Option.some.inj h
  rintro s _ _
  exact ⟨_, rfl, rfl, rfl, rfl, rfl, rfl, rfl, rfl, rfl, rfl, rfl, rfl, rfl, rfl, rfl, rfl, rfl, rfl, rfl⟩

theorem firmwareVerify_happens (image : List Byte) (svn : W32) (sig key : BitVec 768) {e : Event} (h : bootEvents (.firmwareVerify image svn sig key) = some e) :
    Happens (.firmwareVerify image svn sig key) e := by
  obtain rfl := Option.some.inj h
  rintro s _ ⟨hphase, hsvn⟩
  have heq : exec (.firmwareVerify image svn sig key) s = .next (
      if Config.sha384 (leBytes 96 key.toNat) = Config.fusedKeyHash ∧ Config.ecdsaOk key (Config.sha384 image) sig = true ∧ s.pkg.minSvn.toNat ≤ svn.toNat
      then { s with pkg := { s.pkg with phase := 3, svn := svn, m1 := extendM s.pkg.m1 (leBytes 48 (Config.sha384 image).toNat ++ leBytes 4 svn.toNat) } }
      else { s with pkg := { s.pkg with phase := 15 } }) := by
    show execFirmwareVerify image svn sig key s = _
    unfold execFirmwareVerify
    rw [hphase, hsvn]
    simp only [bne_self_eq_false, Bool.or_false, Bool.false_eq_true, if_false, Bool.and_eq_true, beq_iff_eq, decide_eq_true_eq, and_assoc]
    rfl
  exact ⟨_, heq, fun hgood => if_pos hgood, fun hbad => if_neg hbad⟩

theorem read1_below (m : Memory) {n a : Nat} (hm : ∀ c ∈ m, n ≤ c.1) (ha : a < n) : m.read1 a = 0 := by
  cases m with
  | nil => rfl
  | cons c m =>
    have hc := hm c List.mem_cons_self
    rw [Memory.read1, if_neg (by simp; omega), if_pos (by omega)]
    rfl

theorem assoc_map_const {β : Type} (l : List Nat) (x : β) (k : Nat) : assoc (l.map (fun i => (i, x))) k = if k ∈ l then some x else none := by
  induction l with
  | nil => rfl
  | cons a l ih =>
    unfold assoc at ih ⊢
    rw [List.map_cons, List.find?_cons]
    by_cases ha : a = k
    · rw [ha, beq_self_eq_true, if_pos List.mem_cons_self]
      rfl
    · rw [beq_false_of_ne ha]
      dsimp only
      rw [ih]
      simp only [List.mem_cons, Ne.symm ha, false_or]

/-- Memory with its tables placed and nothing in it. -/
def Mem.blank (fotAt asidAt : W64) (m : Mem) : Mem :=
  { m with phys := m.phys.filter (fun c => decide (2 ^ 47 ≤ c.1)), poison := [], fotAt := fotAt, asidAt := asidAt, fot := [] }

/-- The memory is trained: the entries of the tables' own frames are the policy core's. -/
def hbmReady (fotAt asidAt : W64) (s : State) : State :=
  { s with
    mem := { Mem.blank fotAt asidAt s.mem with fot := ({ s with mem := Mem.blank fotAt asidAt s.mem } : State).ownFrames.map (fun i => (i, (0xFD000001 : W32))) }
    pkg := { s.pkg with phase := 4 } }

theorem hbmTrained_happens (fotAt asidAt : W64) {e : Event} (h : bootEvents (.hbmTrained fotAt asidAt) = some e) : Happens (.hbmTrained fotAt asidAt) e := by
  obtain rfl := Option.some.inj h
  intro s _ hphase
  have heq : exec (.hbmTrained fotAt asidAt) s = .next (hbmReady fotAt asidAt s) := by
    show execHbmTrained fotAt asidAt s = _
    unfold execHbmTrained
    rw [if_neg (by rw [show s.pkg.phase = 3 from hphase]; decide)]
    rfl
  refine ⟨_, heq, rfl, rfl, rfl, rfl, fun a ha => ?_, fun d o => ?_⟩
  · exact read1_below _ (fun c hc => of_decide_eq_true (List.mem_filter.mp hc).2) ha
  · show (assoc (List.map _ _) _).getD 0xFD000000 = _
    rw [assoc_map_const]
    split
    · next hin => exact (if_pos hin).symm
    · next hout => exact (if_neg hout).symm

/-! ## The bring-up mailbox -/

theorem answered_respond (u : State) (result : Nat) : answered u (respond u 0 result) result := ⟨rfl, respond_toList u 0 result⟩

/-- A request that is asked for as it must be and is done is answered. -/
theorem request_done {s u : State} {op lo hi : Nat} {l : List (Nat × Nat)} {f : State → List Byte → Option (Nat × Nat × State)} {res : Nat}
    (ha : asked s op lo hi l) (hlo : 3 ≤ lo) (hhi : hi ≤ 9) (hf : f s s.pkg.bureq.toList = some (0, res, u)) :
    request s op lo hi l f = .next (respond u 0 res) := by
  obtain ⟨hdb, hop, hl, hh, hbytes⟩ := ha
  unfold request
  dsimp only
  rw [hdb, hop, decide_eq_false (show ¬s.pkg.phase < 3 by omega), decide_eq_false (show ¬s.pkg.phase > 9 by omega), decide_eq_true (show lo ≤ s.pkg.phase ∧ s.pkg.phase ≤ hi from ⟨hl, hh⟩), hbytes, hf, bne_self_eq_false, bne_self_eq_false]
  rfl

theorem frameRequest_done {s u : State} {op lo hi : Nat} {l : List (Nat × Nat)} {f : State → List Byte → Option (Nat × Nat × State)} {res : Nat}
    (ha : asked s op lo hi l) (hlo : 3 ≤ lo) (hhi : hi ≤ 9) (hf : f s s.pkg.bureq.toList = some (0, res, u)) :
    frameRequest s op lo hi l f = .next (respond u 0 res) := by
  rw [← request_done ha hlo hhi hf]
  obtain ⟨hdb, hop, hl, hh, hbytes⟩ := ha
  have hopen : (s.pkg.budb == 1 && fld s.pkg.bureq.toList 0 1 == op && decide (max lo 3 ≤ s.pkg.phase ∧ s.pkg.phase ≤ min hi 9) && onlyBytes s.pkg.bureq.toList l) = true := by
    rw [hdb, hop, hbytes, decide_eq_true (show max lo 3 ≤ s.pkg.phase ∧ s.pkg.phase ≤ min hi 9 by omega), beq_self_eq_true, beq_self_eq_true]
    rfl
  unfold frameRequest
  dsimp only
  rw [hopen, if_pos rfl, hf]
  rfl

theorem fotOf_eq (owner key : Nat) (pl ro g : Bool) : fotOf owner key pl ro g = entry owner key pl ro g := rfl

theorem any_own_eq_false {s : State} {fs : List Nat} (h : ∀ i ∈ fs, i ∉ s.ownFrames) : fs.any (fun i => s.ownFrames.contains i) = false := by
  rw [List.any_eq_false]
  exact fun i hi => by simpa using h i hi

/-- Frames that are free are given at once. -/
theorem writeFrames_free {s : State} {die off n : Nat} {e : W32} (h : free s (framesOf die off n) e) :
    writeFrames s die off n e true = some (0, 0, given s (framesOf die off n) e) := by
  obtain ⟨hown, hreach, hseal⟩ := h
  unfold writeFrames
  dsimp only
  rw [any_own_eq_false hown, hreach, hseal]
  rfl

theorem grant_happens {e : Event} (h : mailboxEvents .grant = some e) : Happens .grant e := by
  obtain rfl := Option.some.inj h
  rintro s _ ⟨ha, howner, hflags, hkey, hrange, hown, hfree⟩
  refine ⟨_, ?_, answered_respond _ 0⟩
  show execGrant s = _
  unfold execGrant
  refine frameRequest_done ha (by decide) (by decide) ?_
  dsimp only
  refine (if_neg ?_).trans ?_
  · simp only [Bool.or_eq_true, Bool.not_eq_true', decide_eq_true_eq, decide_eq_false_iff_not, not_or, Bool.not_eq_false, Nat.not_le]
    exact ⟨⟨⟨not_and_or.mpr (howner.imp not_not.mpr not_not.mpr), hflags⟩, hkey⟩, hrange⟩
  by_cases hphase : 5 ≤ s.pkg.phase
  · rw [if_pos hphase, decide_eq_true hphase]
    exact writeFrames_free (hfree hphase)
  · rw [if_neg hphase, decide_eq_false hphase]
    exact if_neg (Bool.not_eq_true _ ▸ any_own_eq_false hown)

theorem assign_happens {e : Event} (h : mailboxEvents .assign = some e) : Happens .assign e := by
  obtain rfl := Option.some.inj h
  rintro s _ ⟨ha, hp, hpl, hk0, hk, hfill, hrange, hoff, hend, hcarved, hfree⟩
  refine ⟨_, ?_, answered_respond _ 0⟩
  show execAssign s = _
  unfold execAssign
  refine frameRequest_done ha (by decide) (by decide) ?_
  dsimp only
  refine (if_neg ?_).trans (writeFrames_free hfree)
  simp only [Bool.or_eq_true, Bool.and_eq_true, Bool.not_eq_true', decide_eq_true_eq, not_or, not_and, Bool.not_eq_false, Nat.not_le, beq_iff_eq, bne_iff_ne, ne_eq, not_not]
  exact ⟨⟨⟨⟨⟨⟨⟨⟨hp, hpl⟩, hk⟩, Nat.pos_iff_ne_zero.mp hk0⟩, hfill⟩, hrange⟩, hoff⟩, hend⟩, hcarved⟩

theorem revoke_happens {e : Event} (h : mailboxEvents .revoke = some e) : Happens .revoke e := by
  obtain rfl := Option.some.inj h
  rintro s _ ⟨ha, hrange, hfree⟩
  refine ⟨_, ?_, answered_respond _ 0⟩
  show execRevoke s = _
  unfold execRevoke
  refine frameRequest_done ha (by decide) (by decide) ((if_neg ?_).trans (writeFrames_free hfree))
  rw [Bool.not_eq_true', Bool.not_eq_false]
  exact hrange

theorem fqtable_happens {e : Event} (h : mailboxEvents .fqtable = some e) : Happens .fqtable e := by
  obtain rfl := Option.some.inj h
  rintro s _ ⟨ha, hpages⟩
  refine ⟨_, ?_, answered_respond _ 0⟩
  show execFqtable s = _
  unfold execFqtable
  refine request_done ha (by decide) (by decide) ?_
  have hown : (pages4k (req s 8 8) (65 * 64)).any (fun a => match locOf a with
      | .hbm d o => s.ownFrames.contains (d * 2 ^ 22 + o / frameBytes)
      | _ => false) = false := by
    rw [List.any_eq_false]
    intro a hin
    obtain ⟨d, o, hloc, hout, _⟩ := hpages a hin
    rw [hloc]
    exact fun hc => hout (List.contains_iff_mem.mp hc)
  have hhost : (pages4k (req s 8 8) (65 * 64)).all (fun a => match locOf a with
      | .hbm d o => fotOwner (s.fotEnt d o) == 0xFF && fotG (s.fotEnt d o)
      | _ => false) = true := by
    rw [List.all_eq_true]
    intro a hin
    obtain ⟨d, o, hloc, _, howner, hg⟩ := hpages a hin
    rw [hloc]
    simp only [howner, hg, beq_self_eq_true, Bool.and_self]
  refine (if_neg (Bool.not_eq_true _ ▸ hown)).trans ((if_pos hhost).trans ?_)
  rfl

theorem clock_happens {e : Event} (h : mailboxEvents .clock = some e) : Happens .clock e := by
  obtain rfl := Option.some.inj h
  rintro s _ ⟨ha, hsel⟩
  refine ⟨_, ?_, answered_respond _ 0⟩
  show execClock s = _
  unfold execClock
  refine request_done ha (by decide) (by decide) ?_
  dsimp only
  refine (if_neg (by rw [decide_eq_true_eq]; exact Nat.not_le.mpr hsel)).trans ?_
  have hbit : bit (fld s.pkg.bureq.toList 1 1) 0 = (req s 1 1 == 1) := by
    unfold bit req at *
    rw [Nat.pow_zero, Nat.div_one, Nat.mod_eq_of_lt hsel]
  unfold State.updPkg
  simp only [hbit, beq_iff_eq]
  rfl

theorem budget_happens {e : Event} (h : mailboxEvents .budget = some e) : Happens .budget e := by
  obtain rfl := Option.some.inj h
  rintro s _ ⟨ha, hp, hpos, hsum⟩
  refine ⟨_, ?_, answered_respond _ 0⟩
  show execBudget s = _
  unfold execBudget
  refine request_done ha (by decide) (by decide) ((if_neg ?_).trans rfl)
  unfold req at *
  rw [sumOf_eq, Bool.or_eq_true, Bool.or_eq_true, decide_eq_true_eq, decide_eq_true_eq, decide_eq_true_eq]
  omega

/-! ## ASID entries -/

theorem fld_sub (l : List Byte) (a k n m : Nat) (h : k + n ≤ m) : fld ((l.drop a).take m) k n = fld l (a + k) n := by
  unfold fld
  rw [List.drop_take, List.take_take, List.drop_drop, Nat.min_eq_left (by omega)]

theorem asidEntFrom_eq (s : State) : asidEntFrom (req s 2 2) ((s.pkg.bureq.toList.drop 8).take 37) =
    { asid := req s 2 2, roots := Vector.ofFn (fun (d : Fin 4) => BitVec.ofNat 64 (req s (8 + 8 * d.val) 8)),
      parts := Vector.ofFn (fun (d : Fin 4) => BitVec.ofNat 8 (req s (40 + d.val) 1)), ctl := BitVec.ofNat 8 (req s 44 1) } := by
  unfold asidEntFrom
  congr 1
  · refine Vector.ext (fun i hi => ?_)
    rw [Vector.getElem_mapIdx, Vector.getElem_ofFn, fld_sub _ _ _ _ _ (by omega)]
    rfl
  · refine Vector.ext (fun i hi => ?_)
    rw [Vector.getElem_mapIdx, Vector.getElem_ofFn, fld_sub _ _ _ _ _ (by omega), ← Nat.add_assoc]
    rfl
  · rw [fld_sub _ _ _ _ _ (by omega)]
    rfl

/-- The entry of an address space is set. -/
def withAsid (e : AsidEnt) (s : State) : State :=
  { s with mem := { s.mem with asids := updOr (fun x => x.asid == e.asid) { asid := e.asid } (fun _ => e) s.mem.asids } }

theorem asidEnt_withAsid_same (e : AsidEnt) (s : State) : (withAsid e s).asidEnt e.asid = e := by
  unfold State.asidEnt
  rw [show (withAsid e s).mem.asids = updOr (fun x => x.asid == e.asid) { asid := e.asid } (fun _ => e) s.mem.asids from rfl,
    updOr_find_same (fun x : AsidEnt => x.asid == e.asid) _ (fun _ => e) _ (fun _ _ => beq_self_eq_true _) (beq_self_eq_true _)]
  rfl

theorem asidEnt_withAsid_other (e : AsidEnt) (s : State) {a : Nat} (h : a ≠ e.asid) : (withAsid e s).asidEnt a = s.asidEnt a := by
  unfold State.asidEnt
  rw [show (withAsid e s).mem.asids = updOr (fun x => x.asid == e.asid) { asid := e.asid } (fun _ => e) s.mem.asids from rfl,
    updOr_find_other (fun x : AsidEnt => x.asid == e.asid) (fun x => x.asid == a) _ (fun _ => e) _ (fun x hx => ?_) (fun _ _ => beq_false_of_ne h.symm) (beq_false_of_ne h.symm)]
  rw [beq_iff_eq] at hx
  rw [hx]
  exact beq_false_of_ne h.symm

theorem asidset_happens {e : Event} (h : mailboxEvents .asidset = some e) : Happens .asidset e := by
  obtain rfl := Option.some.inj h
  rintro s _ ⟨ha, hlt, hok, hfree⟩
  refine ⟨_, ?_, withAsid (asidEntFrom (req s 2 2) ((s.pkg.bureq.toList.drop 8).take 37)) s, answered_respond _ 0, rfl, ?_, ?_⟩
  · show execAsidset s = _
    unfold execAsidset
    refine request_done ha (by decide) (by decide) ((if_neg ?_).trans rfl)
    rw [Bool.or_eq_true, Bool.or_eq_true, decide_eq_true_eq, Bool.not_eq_true', not_or, not_or, Bool.not_eq_false, List.any_eq_true]
    exact ⟨⟨Nat.not_le.mpr hlt, hok⟩, fun ⟨q, hq, heq⟩ => hfree q hq (beq_iff_eq.mp heq)⟩
  · exact (asidEnt_withAsid_same _ s).trans (asidEntFrom_eq s)
  · exact fun a hne => asidEnt_withAsid_other _ s hne

/-! ## Partitions -/

theorem policy_happens {e : Event} (h : mailboxEvents .policy = some e) : Happens .policy e := by
  obtain rfl := Option.some.inj h
  rintro s _ ⟨ha, hp, hok⟩
  refine ⟨_, ?_, answered_respond _ 0⟩
  show execPolicy s = _
  unfold execPolicy
  refine request_done ha (by decide) (by decide) ((if_neg ?_).trans rfl)
  rw [Bool.or_eq_true, decide_eq_true_eq, Bool.not_eq_true', not_or, Bool.not_eq_false]
  exact ⟨Nat.not_le.mpr hp, hok⟩

theorem carve_happens {e : Event} (h : mailboxEvents .carve = some e) : Happens .carve e := by
  obtain rfl := Option.some.inj h
  rintro s u ⟨ha, hp, hcarve⟩
  refine ⟨_, ?_, answered_respond _ 0⟩
  show execCarve s = _
  unfold execCarve
  refine request_done ha (by decide) (by decide) ((if_neg ?_).trans ?_)
  · rw [decide_eq_true_eq]
    exact Nat.not_le.mpr hp
  · rw [show carveWrite s (fld s.pkg.bureq.toList 1 1) (BitVec.ofNat 32 (fld s.pkg.bureq.toList 4 4)) = .ok u from hcarve]
    rfl

theorem upper_half_zero {n : Nat} (h : n < 2 ^ 16) : (BitVec.ofNat 32 n).extractLsb 31 16 = 0 := by
  apply BitVec.eq_of_toNat_eq
  rw [BitVec.extractLsb_toNat, BitVec.toNat_ofNat, Nat.mod_eq_of_lt (show n < 2 ^ 32 by omega), Nat.shiftRight_eq_div_pow, Nat.div_eq_of_lt h]
  rfl

theorem cmap_happens {e : Event} (h : mailboxEvents .cmap = some e) : Happens .cmap e := by
  obtain rfl := Option.some.inj h
  rintro s _ ⟨ha, hd, hv, hheld⟩
  have hform : ¬ (decide (req s 1 1 ≥ 4) || (BitVec.ofNat 32 (req s 4 4)).extractLsb 31 16 != 0) = true := by
    rw [Bool.or_eq_true, decide_eq_true_eq, bne_iff_ne, not_or, not_not]
    exact ⟨Nat.not_le.mpr hd, upper_half_zero hv⟩
  have hkeep : ¬ (((List.range 16).filter (fun i => (s.pkg.cmap.toList.getD (req s 1 1) 0).getLsbD i && !(BitVec.ofNat 32 (req s 4 4)).getLsbD i)).any
      (fun i => carveHolds s (16 * req s 1 1 + i))) = true := by
    rw [List.any_eq_true]
    rintro ⟨i, hi, hholds⟩
    obtain ⟨hr, hbits⟩ := List.mem_filter.mp hi
    rw [Bool.and_eq_true, Bool.not_eq_true'] at hbits
    exact absurd ((hheld i (List.mem_range.mp hr) hbits.1 hbits.2).symm.trans hholds) (by decide)
  have hgrade : (((List.range 16).filter (fun i => (BitVec.ofNat 32 (req s 4 4)).getLsbD i)).any (fun i => decide (i ≥ s.pkg.grade.parts))) = true ↔
      ¬ ∀ i ∈ List.range 16, (BitVec.ofNat 32 (req s 4 4)).getLsbD i = true → i < s.pkg.grade.parts := by
    rw [List.any_eq_true]
    simp only [List.mem_filter, decide_eq_true_eq, not_forall, Nat.not_lt, exists_prop, and_assoc]
  by_cases hall : ∀ i ∈ List.range 16, (BitVec.ofNat 32 (req s 4 4)).getLsbD i = true → i < s.pkg.grade.parts
  · refine ⟨_, ?_, (if_pos hall).mpr (answered_respond _ 0)⟩
    show execCmap s = _
    unfold execCmap
    refine request_done ha (by decide) (by decide) ((if_neg hform).trans ((if_neg (fun hc => hgrade.mp hc hall)).trans ((if_neg hkeep).trans ?_)))
    rfl
  · refine ⟨_, ?_, (if_neg hall).mpr (answered_respond _ 0)⟩
    show execCmap s = _
    unfold execCmap
    exact request_done ha (by decide) (by decide) ((if_neg hform).trans (if_pos (hgrade.mpr hall)))

/-! ## Keys and functions -/

theorem keyload_happens {e : Event} (h : mailboxEvents .keyload = some e) : Happens .keyload e := by
  obtain rfl := Option.some.inj h
  rintro s _ ⟨ha, hk0, hk, hnamed, hkind⟩
  refine ⟨_, ?_, answered_respond _ 0⟩
  show execKeyload s = _
  unfold execKeyload
  refine request_done ha (by decide) (by decide) ((if_neg ?_).trans ?_)
  · rw [Bool.or_eq_true, Bool.or_eq_true, Bool.or_eq_true, decide_eq_true_eq, beq_iff_eq, decide_eq_true_eq, not_or, not_or, not_or, Nat.not_le, Nat.not_le, Bool.not_eq_true]
    have hlt : req s 1 1 < 2 := by rcases hkind with ⟨h0, _⟩ | ⟨h1, _⟩ <;> omega
    exact ⟨⟨⟨hlt, Nat.pos_iff_ne_zero.mp hk0⟩, hk⟩, hnamed⟩
  · rcases hkind with ⟨h0, hzero⟩ | ⟨h1, hwrap⟩
    · have hz : ((s.pkg.bureq.toList.drop 8).take 40).all (· == 0) = true := List.all_eq_true.mpr (fun x hx => beq_iff_eq.mpr (hzero x hx))
      rw [if_pos h0, if_pos h0]
      rw [if_pos (show (fld s.pkg.bureq.toList 1 1 == 0) = true from beq_iff_eq.mpr h0), if_pos hz]
      rfl
    · have hne : req s 1 1 ≠ 0 := by omega
      obtain ⟨x, hx⟩ := Option.isSome_iff_exists.mp hwrap
      rw [if_neg hne, if_neg hne]
      rw [if_neg (show ¬(fld s.pkg.bureq.toList 1 1 == 0) = true from fun hc => hne (beq_iff_eq.mp hc)), hx]
      rfl

theorem keydrop_happens {e : Event} (h : mailboxEvents .keydrop = some e) : Happens .keydrop e := by
  obtain rfl := Option.some.inj h
  rintro s _ ⟨ha, hk0, hk, hnamed⟩
  refine ⟨_, ?_, answered_respond _ 0⟩
  show execKeydrop s = _
  unfold execKeydrop
  refine request_done ha (by decide) (by decide) ((if_neg ?_).trans ?_)
  · rw [Bool.or_eq_true, Bool.or_eq_true, decide_eq_true_eq, beq_iff_eq, not_or, not_or, Nat.not_le, Bool.not_eq_true]
    exact ⟨⟨Nat.pos_iff_ne_zero.mp hk0, hk⟩, hnamed⟩
  · unfold fillSlot State.updPkg
    dsimp only
    rw [List.append_nil]
    rfl

theorem vfbind_happens {e : Event} (h : mailboxEvents .vfbind = some e) : Happens .vfbind e := by
  obtain rfl := Option.some.inj h
  rintro s _ ⟨ha, hlo, hhi, hcarved⟩
  refine ⟨_, ?_, answered_respond _ 0⟩
  show execVfbind s = _
  unfold execVfbind
  refine request_done ha (by decide) (by decide) ((if_neg ?_).trans rfl)
  rw [Bool.or_eq_true, decide_eq_true_eq, List.any_eq_true]
  rintro (hv | ⟨p, hp, hbad⟩)
  · unfold req at *
    omega
  · rw [Bool.and_eq_true, Bool.not_eq_true'] at hbad
    exact absurd ((hcarved p (List.mem_range.mp hp) hbad.1).symm.trans hbad.2) (by decide)

/-! ## The next phase -/

/-- The package in its next phase. -/
def Pkg.next (k : Pkg) : Pkg :=
  { k with phase := k.phase + 1, fotOn := k.fotOn || decide (k.phase + 1 ≥ 5), portsDown := if k.phase + 1 == 7 then [] else k.portsDown }

/-- The machine in its next phase: the socket is trained on entry to phase 8. -/
def advanced (ident : Option (List Byte)) (s : State) : State :=
  if s.pkg.phase + 1 == 8 then trainSocket { s with pkg := Pkg.next s.pkg } ident true else { s with pkg := Pkg.next s.pkg }

theorem advance_happens (stepDone : Bool) (ident : Option (List Byte)) {e : Event} (h : mailboxEvents (.advance stepDone ident) = some e) :
    Happens (.advance stepDone ident) e := by
  obtain rfl := Option.some.inj h
  rintro s _ ⟨rfl, ha⟩
  have ⟨hlo, hhi⟩ : 4 ≤ s.pkg.phase ∧ s.pkg.phase ≤ 8 := ⟨ha.2.2.1, ha.2.2.2.1⟩
  refine ⟨_, ?_, advanced ident s, answered_respond _ _, ?_⟩
  · show execAdvance true ident s = _
    unfold execAdvance
    exact request_done ha (by decide) (by decide) rfl
  have hon : (s.pkg.fotOn || decide (s.pkg.phase + 1 ≥ 5)) = true := by
    rw [decide_eq_true (by omega : s.pkg.phase + 1 ≥ 5), Bool.or_true]
  have hports : (Pkg.next s.pkg).portsDown = if s.pkg.phase = 6 then [] else s.pkg.portsDown := by
    unfold Pkg.next
    simp only [beq_iff_eq, Nat.reduceEqDiff]
  by_cases h7 : s.pkg.phase = 7
  · have heq : advanced ident s = trainSocket { s with pkg := Pkg.next s.pkg } ident true := if_pos (by rw [h7]; rfl)
    rw [heq]
    cases ident with
    | none => exact ⟨rfl, hon, hports, fun _ => ⟨rfl, rfl, rfl, rfl⟩, fun hc => absurd h7 hc, rfl⟩
    | some x => exact ⟨rfl, hon, hports, fun _ => ⟨rfl, rfl, rfl, rfl⟩, fun hc => absurd h7 hc, rfl⟩
  · have heq : advanced ident s = { s with pkg := Pkg.next s.pkg } := if_neg (by rw [beq_iff_eq]; omega)
    rw [heq]
    exact ⟨rfl, hon, hports, fun hc => absurd hc h7, fun _ => ⟨rfl, rfl⟩, rfl⟩

/-! ## The mailboxes of the functions -/

theorem count_happens (fn : Nat) {e : Event} (h : mailboxEvents (.count fn) = some e) : Happens (.count fn) e := by
  obtain rfl := Option.some.inj h
  rintro s _ ⟨hdb, hop, hacc, hzero⟩
  refine ⟨_, ?_, rfl⟩
  show execCount fn s = _
  unfold execCount
  dsimp only
  rw [hdb, hop, hzero, decide_eq_false (Nat.not_le.mpr hacc), sumOf_eq]
  rfl

theorem attest_happens (fn : Nat) {e : Event} (h : mailboxEvents (.attest fn) = some e) : Happens (.attest fn) e := by
  obtain rfl := Option.some.inj h
  rintro s _ ⟨hdb, hop, hzero, hp, hmay⟩
  refine ⟨_, ?_, rfl⟩
  show execAttest fn s = _
  unfold execAttest
  dsimp only
  have hown : (fn != 0 && !((assoc s.pkg.vfs fn).any (fun m => m.getLsbD (fld (s.box fn).1 1 1)))) = false := by
    rcases hmay with rfl | ⟨m, hm, hbit⟩
    · rfl
    · rw [hm]
      dsimp only [Option.any]
      rw [hbit, Bool.not_true, Bool.and_false]
  rw [hdb, hop, hzero, decide_eq_false (Nat.not_le.mpr hp), hown]
  rfl

/-- Settles O30, event by event: a request that is asked for as it must be is done and answered. -/
theorem bringUpEventsComplete : Obligations.BringUpEventsComplete := by
  intro i e h
  show Happens i e
  rcases Option.or_eq_some_iff.mp h with h | ⟨_, h⟩
  · unfold bootEvents at h
    split at h
    · exact packageReset_happens h
    · exact firmwareVerify_happens _ _ _ _ h
    · exact hbmTrained_happens _ _ h
    · cases h
  · unfold mailboxEvents at h
    split at h
    · exact grant_happens h
    · exact assign_happens h
    · exact revoke_happens h
    · exact fqtable_happens h
    · exact clock_happens h
    · exact budget_happens h
    · exact asidset_happens h
    · exact cmap_happens h
    · exact carve_happens h
    · exact policy_happens h
    · exact keyload_happens h
    · exact keydrop_happens h
    · exact vfbind_happens h
    · exact advance_happens _ _ h
    · exact count_happens _ h
    · exact attest_happens _ h
    · cases h

end Sys2Proof.Rules
end

section
/-! PROOF. The links, the host and the guest (O29): what the memory side keeps, then the events of linkEvents. -/

namespace Sys2Proof.Rules
open Sys2Proof.Safety Sys2Proof.Machine

/-- A property that no access to memory touches: it looks at no more than the clk, the next group's number, a partition's CARVE and the ways it drains, and at memory's
bytes only so that a write keeps it. -/
structure Steady (Q : State → Prop) : Prop where
  rest : ∀ s t : State, t.clk = s.clk → t.fe.parts = s.fe.parts → t.mem.phys = s.mem.phys → t.nextGid = s.nextGid → Q s → Q t
  part : ∀ s n f, (∀ p : Part, (f p).num = p.num ∧ (f p).carve = p.carve ∧ (f p).resDrain = p.resDrain) → Q s → Q (s.updPart n f)
  phys : ∀ s a bs, Q s → Q (s.physWrite a bs)

namespace Steady
variable {Q : State → Prop} (hQ : Steady Q)
include hQ

/-! ## Counters, records, stops -/

theorem count {s : State} (part e n : Nat) (q : Option Nat) (h : Q s) : Q (s.count part e n q) := by
  have hp : Q (s.updPart part (Part.bump e n)) := hQ.part s part _ (fun _ => ⟨rfl, rfl, rfl⟩) h
  cases q with
  | none => exact hp
  | some q => exact hQ.rest (s.updPart part (Part.bump e n)) _ rfl rfl rfl rfl hp

theorem walks : OfWalks Q where
  tables := fun s _ _ h => hQ.rest s _ rfl rfl rfl rfl h
  phys := hQ.phys
  count := fun _ part e n q h => hQ.count part e n q h

theorem queueRec {s : State} (q : Nat) (f : FRec) (h : Q s) : Q (s.queueRec q f) := hQ.rest s _ rfl rfl rfl rfl h

theorem deviceRec {s : State} (f : FRec) (h : Q s) : Q (s.deviceRec f) := hQ.queueRec _ _ h

theorem postEvent {s : State} (p : Nat) (ev : List Byte) (h : Q s) : Q (s.postEvent p ev) := hQ.part s p _ (fun _ => ⟨rfl, rfl, rfl⟩) h

theorem updGroup {s : State} (gid : Nat) (f : Group → Group) (h : Q s) : Q (s.updGroup gid f) := hQ.rest s _ rfl rfl rfl rfl h

theorem updBundle {s : State} (gid bid : Nat) (f : Bundle → Bundle) (h : Q s) : Q (s.updBundle gid bid f) := hQ.updGroup _ _ h

theorem updCore {s : State} (d c : Nat) (f : CoreSt → CoreSt) (h : Q s) : Q (s.updCore d c f) := hQ.rest s _ rfl rfl rfl rfl h

theorem updMem {s : State} (f : Mem → Mem) (hf : ∀ m, (f m).phys = m.phys) (h : Q s) : Q (s.updMem f) := hQ.rest s _ rfl rfl (hf _) rfl h

theorem updPkg {s : State} (f : Pkg → Pkg) (h : Q s) : Q (s.updPkg f) := hQ.rest s _ rfl rfl rfl rfl h

theorem updSock {s : State} (f : Socket → Socket) (h : Q s) : Q (s.updSock f) := hQ.rest s _ rfl rfl rfl rfl h

theorem updRange {s : State} (rid : Nat) (f : RangeSt → RangeSt) (h : Q s) : Q (s.updRange rid f) := hQ.rest s _ rfl rfl rfl rfl h

theorem updSector {s : State} (asid va : Nat) (f : Sector → Sector) (h : Q s) : Q (s.updSector asid va f) := hQ.rest s _ rfl rfl rfl rfl h

theorem updQueue {s : State} (q : Nat) (f : Queue → Queue) (h : Q s) : Q (s.updQueue q f) := hQ.rest s _ rfl rfl rfl rfl h

theorem told {s : State} (rid part : Nat) (ev : List Byte) (h : Q s) :
    Q (match s.range? rid with | some r => if s.attachedTo r then s.postEvent part ev else s | none => s) := by
  split
  · split
    · exact hQ.postEvent _ _ h
    · exact h
  · exact h

theorem stopGroup {s : State} (gid : Nat) (f : FRec) (bid : Option Nat) (pc : Option W64) (h : Q s) : Q (stopGroup s gid f bid pc) := by
  unfold Machine.stopGroup
  split
  · exact h
  next g _ =>
    dsimp only
    split
    · exact hQ.queueRec _ _ h
    · exact hQ.told _ _ _ (holds_foldl (f := fun s (r : FRec) => s.queueRec g.part r) (fun s r hs => hQ.queueRec _ r hs) _ (hQ.queueRec _ _ (hQ.updGroup gid _ h)))

theorem endRun {s : State} (gid bid : Nat) (pc : W64) (h : Q s) : Q (endRun s gid bid pc) := by
  unfold Machine.endRun
  split
  · exact h
  · split
    · dsimp only
      split
      · exact hQ.stopGroup _ _ _ _ (hQ.updGroup _ _ h)
      · exact hQ.updGroup _ _ h
    · exact hQ.updBundle _ _ _ h

theorem finishWait {s : State} (gid bid : Nat) (h : Q s) : Q (finishWait s gid bid) := by
  unfold Machine.finishWait
  split
  · exact h
  · dsimp only
    split
    · exact hQ.endRun _ _ _ (hQ.updBundle _ _ _ h)
    · exact hQ.updBundle _ _ _ h

theorem poisonRec {s : State} (f : AFault) (h : Q s) : Q (s.poisonRec f) := by
  unfold State.poisonRec
  have hwalk := hQ.walks.walked f.wqid f.walk h
  have hdrawn : Q (if f.drawn == 0 then s.walked f.wqid f.walk else (s.walked f.wqid f.walk).updPkg (fun p => { p with fresh := p.fresh + f.drawn })) := by
    split
    · exact hwalk
    · exact hQ.updPkg _ hwalk
  dsimp only
  have hflow : ∀ u, Q u → Q (match f.flow with
      | some (p, k) => u.updPart p (fun x => { x with winSeq := assocSet x.winSeq k ((assoc x.winSeq k).getD 0 + 1) })
      | none => u) := by
    intro u hu
    split
    · exact hQ.part _ _ _ (fun _ => ⟨rfl, rfl, rfl⟩) hu
    · exact hu
  split
  · exact hflow _ hdrawn
  · exact hQ.deviceRec _ (hflow _ hdrawn)

/-! ## The home slices -/

theorem retest {s : State} (sel : Group → Bool) (f : Group → PollAt → Option Nat) (t : Nat) (stale : L1Line → Bool) (h : Q s) : Q (retest s sel f t stale) := by
  unfold Machine.retest
  split
  · refine holds_foldl (fun s g hs => ?_) _ h
    split
    · refine holds_foldl (fun s b hs => ?_) _ hs
      split
      · dsimp only
        split
        · refine hQ.finishWait _ _ (hQ.updBundle _ _ _ ?_)
          split
          · exact hQ.updCore _ _ _ hs
          · exact hs
        · refine hQ.updBundle _ _ _ ?_
          split
          · exact hQ.updCore _ _ _ hs
          · exact hs
      · exact hs
    · exact hs
  · exact h

theorem wakeSector {s : State} (asid va : Nat) (h : Q s) : Q (s.wakeSector asid va) := by
  unfold State.wakeSector
  split
  · exact h
  · exact hQ.retest _ _ _ _ h

theorem slicePut {s : State} (asid va : Nat) (bs : List (Nat × Byte)) (pts : Nat) (h : Q s) : Q (s.slicePut asid va bs pts).1 := by
  unfold State.slicePut
  split
  · exact h
  · exact hQ.wakeSector _ _ (hQ.updSector _ _ _ h)

theorem guestOut {s : State} (asid va : Nat) (write : Bool) (h : Q s) : Q (s.guestOut asid va write) := by
  unfold State.guestOut
  split
  · exact h
  · split
    · exact h
    · dsimp only
      split
      · exact hQ.updSock _ h
      · exact hQ.updSock _ (hQ.slicePut _ _ _ _ (hQ.updSock _ h))

theorem translated {s u : State} {asid va k : Nat} {q : Option Nat} {t : Tlb} (ht : translate s asid va k q = .ok t u) (h : Q s) : Q u := by
  have hw := hQ.walks.translate asid va k q h
  rw [ht] at hw
  exact hw

theorem writable {s u : State} {x : Sector} {q : Option Nat} (hu : s.writable x q = .ok u) (h : Q s) : Q u := by
  unfold State.writable at hu
  split at hu
  · rw [← Except.ok.inj hu]
    exact h
  · split at hu
    · cases hu
    next ht =>
      rw [← Except.ok.inj hu]
      exact hQ.updSector _ _ _ (hQ.translated ht h)

theorem writeBack {s : State} (x : Sector) (h : Q s) : Q (s.writeBack x) := by
  unfold State.writeBack
  split
  · refine hQ.updMem _ (fun _ => rfl) ?_
    split
    · refine hQ.phys _ _ _ ?_
      split
      · exact hQ.count _ _ _ _ h
      · exact h
    · exact h
  · exact h

theorem leaveLlc {s : State} (p : Sector → Bool) (h : Q s) : Q (s.leaveLlc p) :=
  hQ.rest (List.foldl (fun s x => s.writeBack x) s (s.mem.llc.filter p)) _ rfl rfl rfl rfl (holds_foldl (fun _ x hs => hQ.writeBack x hs) _ h)

theorem makeRoom {s : State} (asid va : Nat) (h : Q s) : Q (s.makeRoom asid va) := by
  unfold State.makeRoom
  dsimp only
  split
  · exact h
  · split
    · exact hQ.leaveLlc _ h
    · exact h

theorem llcHit {s : State} (w : Who) (va : Nat) (h : Q s) : Q (s.llcHit w va) := by
  unfold State.llcHit
  split
  · exact h
  · exact hQ.updGroup _ _ (hQ.count _ _ _ _ h)

theorem llcMiss {s : State} (w : Who) (va pa : Nat) (h : Q s) : Q (s.llcMiss w va pa) := by
  unfold State.llcMiss
  dsimp only
  split
  · exact hQ.updGroup _ _ (hQ.count _ _ _ _ (hQ.count _ _ _ _ h))
  · exact hQ.count _ _ _ _ h

theorem writer {s : State} (w : Who) (va : Nat) (write : Bool) (h : Q s) : Q (s.writer w va write) := by
  unfold State.writer
  split
  · exact hQ.updSector _ _ _ h
  · exact h

theorem llcGet {s u : State} {w : Who} {va : Nat} {write : Bool} (hu : llcGet s w va write = .ok u) (h : Q s) : Q u := by
  unfold Machine.llcGet at hu
  dsimp only at hu
  split at hu
  · split at hu
    · cases hu
    · split at hu
      · cases hu
      next y hy =>
        rw [← Except.ok.inj hu]
        refine hQ.writer _ _ _ (hQ.llcHit _ _ ?_)
        split at hy
        · exact hQ.writable hy h
        · rw [← Except.ok.inj hy]
          exact h
  · split at hu
    · cases hu
    · split at hu
      · cases hu
      next ht =>
        split at hu
        · cases hu
        · split at hu
          · cases hu
          · split at hu
            · cases hu
            · rw [← Except.ok.inj hu]
              exact hQ.updMem _ (fun _ => rfl) (hQ.llcMiss _ _ _ (hQ.makeRoom _ _ (hQ.translated ht h)))

theorem llcFill {s u : State} {w : Who} {va : Nat} {write : Bool} (hu : llcFill s w va write = .ok u) (h : Q s) : Q u := by
  unfold Machine.llcFill at hu
  split at hu
  · cases hu
  next hg =>
    rw [← Except.ok.inj hu]
    exact hQ.guestOut _ _ _ (hQ.llcGet hg h)

theorem ack {s : State} (die core wts : Nat) (h : Q s) : Q (s.ack die core wts) := hQ.updCore _ _ _ h

theorem dropReqs {s : State} (l : List SliceReq) (h : Q s) : Q (dropReqs s l) := hQ.rest s _ rfl rfl rfl rfl h

theorem sliceDo {s : State} (asid sv : Nat) (r : SliceReq) (h : Q s) : Q (sliceDo s asid sv r) := by
  unfold Machine.sliceDo
  split
  · exact hQ.ack _ _ _ (hQ.dropReqs _ (hQ.slicePut _ _ _ _ h))
  next q _ =>
    dsimp only
    split
    · exact holds_foldl (fun s (y : SliceReq) hs => hQ.ack y.die y.core _ hs) _ (hQ.dropReqs _ (hQ.slicePut _ _ _ _ h))
    · refine hQ.ack _ _ _ (hQ.dropReqs _ ?_)
      have hput := hQ.slicePut asid sv (wordBytesAt q.off (applyOp q.code 0 (s.sliceWord asid (sv + q.off)) q.y)) r.pts h
      split
      · refine hQ.updCore _ _ _ ?_
        split
        · exact hQ.updRange _ _ hput
        · exact hput
      · split
        · exact hQ.updRange _ _ hput
        · exact hput

theorem reqLost {s : State} (r : SliceReq) (f : AFault) (h : Q s) : Q (reqLost s r f) := hQ.deviceRec _ (hQ.poisonRec _ (hQ.dropReqs _ h))

/-! ## Peers -/

theorem freshByte {s : State} (h : Q s) : Q s.freshByte.2 := hQ.rest s _ rfl rfl rfl rfl h

theorem freshBytes (n : Nat) {s : State} (h : Q s) : Q (s.freshBytes n).2 := by
  obtain ⟨bs, k, heq⟩ := freshBytes_eq n s
  rw [heq]
  exact hQ.rest s _ rfl rfl rfl rfl h

theorem refusedStore {s : State} (x : Nat × Nat × W32 × W64 × List Byte) (h : Q s) : Q (refusedStore s x) := hQ.queueRec _ _ h

theorem peerSend {s : State} (w : Who) (pa : Nat) (bs : List Byte) (h : Q s) : Q (peerSend s w pa bs) := by
  unfold Machine.peerSend
  exact hQ.updPkg _ (hQ.part _ _ _ (fun _ => ⟨rfl, rfl, rfl⟩) h)

theorem peerRefuse {s : State} (h : Q s) : Q (peerRefuse s) := by
  unfold Machine.peerRefuse
  split
  · exact hQ.refusedStore _ (hQ.updPkg _ h)
  · exact h

theorem peerStore {s : State} (w : Who) (pa : Nat) (bs : List Byte) (h : Q s) : Q (peerStore s w pa bs) := by
  unfold Machine.peerStore
  dsimp only
  split
  · exact hQ.peerSend _ _ _ (hQ.freshByte h)
  · exact hQ.peerRefuse (hQ.peerSend _ _ _ (hQ.freshByte h))

theorem peerReq {s : State} (w : Who) (pa : Nat) (r : SliceReq) (h : Q s) : Q (peerReq s w pa r) := by
  unfold Machine.peerReq
  split
  · exact holds_foldl (fun s b hs => hQ.peerStore _ _ _ hs) _ h
  · dsimp only
    split
    · exact hQ.peerStore _ _ _ (hQ.freshBytes _ (hQ.updRange _ _ h))
    · exact hQ.peerRefuse (hQ.peerSend _ _ _ (hQ.freshBytes _ (hQ.updRange _ _ h)))

theorem peerAnswer {s : State} (h : Q s) : Q (peerAnswer s).2 := hQ.freshByte (hQ.freshByte h)

theorem peerPa {s u : State} {w : Who} {va : Nat} {write : Bool} {o : Option Nat} (hu : peerPa s w va write = .ok (o, u)) (h : Q s) : Q u := by
  unfold Machine.peerPa at hu
  split at hu
  · cases hu
    exact h
  · split at hu
    · cases hu
    next ht =>
      split at hu
      all_goals
        cases hu
        exact hQ.translated ht h

theorem sliceNext {s : State} (asid sv : Nat) (h : Q s) : Q (sliceNext s asid sv) := by
  unfold Machine.sliceNext
  split
  · exact h
  · split
    · split
      next hw => exact hQ.sliceDo _ _ _ (hQ.guestOut _ _ _ (hQ.writable hw h))
      next => exact hQ.reqLost _ _ h
    · split
      next => exact hQ.reqLost _ _ h
      next hp => exact hQ.ack _ _ _ (hQ.peerReq _ _ _ (hQ.dropReqs _ (hQ.peerPa hp h)))
      next hp =>
        split
        next hf => exact hQ.sliceDo _ _ _ (hQ.llcFill hf (hQ.peerPa hp h))
        next => exact hQ.reqLost _ _ (hQ.peerPa hp h)

theorem performSectorN (asid sv n : Nat) {s : State} (h : Q s) : Q (performSectorN s asid sv n) := by
  induction n generalizing s with
  | zero => exact h
  | succ n ih =>
    rw [Machine.performSectorN]
    split
    · exact h
    · exact ih (hQ.sliceNext _ _ h)

theorem performSector {s : State} (asid sv : Nat) (h : Q s) : Q (performSector s asid sv) := hQ.performSectorN _ _ _ h

/-! ## The cores' buffers -/

theorem drainOne {s : State} (die core : Nat) (h : Q s) : Q (drainOne s die core) := by
  unfold Machine.drainOne
  dsimp only
  split
  · exact h
  · exact hQ.rest s _ rfl rfl rfl rfl h

theorem drainN (die core n : Nat) {s : State} (h : Q s) : Q (drainN s die core n) := by
  induction n generalizing s with
  | zero => exact h
  | succ n ih => exact ih (hQ.drainOne _ _ h)

theorem drainAll {s : State} (die core : Nat) (h : Q s) : Q (drainAll s die core) := hQ.drainN _ _ _ h

theorem takeAcks {s : State} (die core : Nat) (h : Q s) : Q (takeAcks s die core) := hQ.updCore _ _ _ h

theorem releaseCore {s : State} (die core : Nat) (h : Q s) : Q (releaseCore s die core) :=
  hQ.takeAcks _ _ (holds_foldl (f := fun s (x : Nat × Nat) => Machine.performSector s x.1 x.2) (fun _ _ hs => hQ.performSector _ _ hs) _ (hQ.drainAll _ _ h))

theorem drainThrough {s : State} (die core asid sv : Nat) (h : Q s) : Q (drainThrough s die core asid sv) := by
  unfold Machine.drainThrough
  dsimp only
  split
  · exact h
  · exact hQ.drainN _ _ _ h

theorem seen {s : State} (w : Who) (va wts : Nat) (h : Q s) : Q (s.seen w va wts) := by
  unfold State.seen
  split
  · exact hQ.updCore _ _ _ h
  · exact h

theorem settleAll {s : State} (w : Who) (va : Nat) (h : Q s) : Q (settleAll s w va) := hQ.performSector _ _ (hQ.drainThrough _ _ _ _ h)

/-! ## Accesses of engines and agents -/

theorem heal {s : State} (sec : Nat) (h : Q s) : Q (s.heal sec) := hQ.rest s _ rfl rfl rfl rfl h

theorem fillFor {s u : State} {w : Who} {va n : Nat} (hu : fillFor s w va n = .ok u) (h : Q s) : Q u := by
  unfold Machine.fillFor at hu
  split at hu
  · split at hu
    · split at hu
      · exact hQ.llcFill hu (hQ.heal _ h)
      · cases hu
    · cases hu
  · exact hQ.llcFill hu h

theorem soRelease {s : State} (w : Who) (va : Nat) (h : Q s) : Q (soRelease s w va) := by
  unfold Machine.soRelease
  split
  · exact hQ.releaseCore _ _ h
  · exact h

theorem agentWrite {s u : State} {w : Who} {va : Nat} {bs : List Byte} (hu : agentWrite s w va bs = .ok u) (h : Q s) : Q u := by
  unfold Machine.agentWrite at hu
  split at hu
  · cases hu
  next hp =>
    split at hu
    · cases hu
    · rw [← Except.ok.inj hu]
      exact hQ.peerStore _ _ _ (hQ.settleAll _ _ (hQ.soRelease _ _ (hQ.peerPa hp h)))
  next hp =>
    split at hu
    · cases hu
    next hf =>
      dsimp only at hu
      rw [← Except.ok.inj hu]
      have hput := fun pts => hQ.slicePut w.asid va (offs (va % 128) bs) pts (hQ.settleAll w va (hQ.soRelease w va (hQ.fillFor hf (hQ.peerPa hp h))))
      split
      · exact hQ.updCore _ _ _ (hput _)
      · exact hput _

theorem agentRead {s u : State} {w : Who} {va n : Nat} {bs : List Byte} (hu : agentRead s w va n = .ok (bs, u)) (h : Q s) : Q u := by
  unfold Machine.agentRead at hu
  split at hu
  · cases hu
  next hp =>
    split at hu
    · cases hu
    · split at hu
      · cases hu
      next ha =>
        have hans := hQ.peerAnswer (hQ.peerPa hp h)
        rw [ha] at hans
        have hfresh := hQ.freshBytes n (hQ.settleAll w va (hQ.soRelease w va hans))
        rw [Except.ok.inj hu] at hfresh
        exact hfresh
  next hp =>
    split at hu
    · cases hu
    next hf =>
      dsimp only at hu
      have hset := hQ.settleAll w va (hQ.soRelease w va (hQ.llcFill hf (hQ.peerPa hp h)))
      split at hu
      · cases hu
        exact hQ.seen _ _ _ hset
      · cases hu
        exact hset

/-! ## The front end -/

omit hQ in

theorem foldE_ok {α σ ε : Type} {P : σ → Prop} {f : σ → α → Except ε σ} (hf : ∀ x a y, f x a = .ok y → P x → P y) (l : List α) {x y : σ}
    (hy : foldE f l x = .ok y) (h : P x) : P y := by
  induction l generalizing x with
  | nil =>
    cases hy
    exact h
  | cons a l ih =>
    rw [foldE] at hy
    split at hy
    next z hz => exact ih hy (hf x a z hz h)
    next => cases hy

theorem feRead {s u : State} {w : Who} {key : Option Nat} {va n : Nat} {bs : List Byte} (hu : feRead s w key va n = .ok (bs, u)) (h : Q s) : Q u := by
  refine foldE_ok (P := fun x : List Byte × State => Q x.2) (fun x p y hy hx => ?_) _ hu h
  split at hy
  · cases hy
  · split at hy
    · cases hy
    next hr =>
      split at hy
      · cases hy
        exact hQ.agentRead hr hx
      · cases hy

theorem feWrite {s u : State} {w : Who} {va : Nat} {bs : List Byte} (hu : feWrite s w va bs = .ok u) (h : Q s) : Q u := by
  refine foldE_ok (P := Q) (fun x p y hy hx => ?_) _ hu h
  split at hy
  · cases hy
  · split at hy
    · cases hy
    next hr =>
      cases hy
      exact hQ.agentWrite hr hx

theorem dirtyBit {s : State} (q : Queue) (i : Nat) (h : Q s) : Q (dirtyBit s q i) := by
  unfold Machine.dirtyBit
  dsimp only
  split
  · exact h
  next hr =>
    split
    next hw => exact hQ.feWrite hw (hQ.feRead hr h)
    next => exact hQ.feRead hr h

theorem dirtyRing {s : State} (qid va n : Nat) (h : Q s) : Q (dirtyRing s qid va n) := by
  unfold Machine.dirtyRing
  split
  · exact h
  · split
    · exact holds_foldl (fun s i hs => hQ.dirtyBit _ _ hs) _ h
    · exact h

theorem feStore {s u : State} {w : Who} {va : Nat} {bs : List Byte} (hu : feStore s w va bs = .ok u) (h : Q s) : Q u := by
  unfold Machine.feStore at hu
  split at hu
  · cases hu
  next hw =>
    rw [← Except.ok.inj hu]
    exact holds_foldl (fun s q hs => hQ.dirtyRing _ _ _ hs) _ (hQ.feWrite hw h)

theorem feWord {s u : State} {w : Who} {va : W64} {add : Bool} {x : W64} (hu : feWord s w va add x = .ok u) (h : Q s) : Q u := by
  unfold Machine.feWord at hu
  split at hu
  · cases hu
  · cases hu
    exact h
  next hr => exact hQ.feStore hu (hQ.feRead hr h)

theorem unwritten {s : State} (f : AFault) (addr qid rid : Nat) (h : Q s) : Q (unwritten s f addr qid rid) := hQ.deviceRec _ (hQ.poisonRec _ h)

theorem complete {s : State} (qid : Nat) (crec : W64) (status rid : Nat) (h : Q s) : Q (complete s qid crec status rid) := by
  unfold Machine.complete
  split
  · exact h
  · split
    · exact h
    · split
      · exact hQ.unwritten _ _ _ _ h
      next hs => exact hQ.feStore hs h

theorem indSettle {s : State} (qid : Nat) (h : Q s) : Q (indSettle s qid) := by
  unfold Machine.indSettle
  split
  · exact h
  · exact holds_foldl (fun s i hs => hQ.complete _ _ _ _ hs) _ (hQ.updQueue _ _ h)

theorem pendDone {s : State} (qid : Nat) (x : W64 × Nat) (h : Q s) : Q (pendDone s qid x) := hQ.indSettle _ (hQ.updQueue _ _ (hQ.complete _ _ _ _ h))

/-! ## The guest's packets -/

theorem lockFree {s : State} (gid : Nat) (op : LockOp) (h : Q s) : Q (lockFree s gid op) := hQ.rest s _ rfl rfl rfl rfl h

/-- A packet's signal, taken in the name of a core that may have to release. -/
theorem signalled {s : State} (w : Who) (release : Bool) (asid : Nat) (sig x : W64) (h : Q s) :
    Q (let s := if release && decide (w.die < 4) then Machine.releaseCore s w.die w.core else s
      let s := if w.die < 4 then s.updCore w.die w.core (fun c => c.setPts s.sock.pts) else s
      match Machine.feWord s w sig true x with
      | .ok s => s
      | .error e => (s.poisonRec e.1).deviceRec { src := some socketSrc, code := e.1.code, cause := e.1.cause, level := e.1.level, addr := BitVec.ofNat 64 (s.paAt asid e.2) }) := by
  have hrel : Q (if release && decide (w.die < 4) then Machine.releaseCore s w.die w.core else s) := by
    split
    · exact hQ.releaseCore _ _ h
    · exact h
  have hseen : ∀ u, Q u → Q (if w.die < 4 then u.updCore w.die w.core (fun c => c.setPts u.sock.pts) else u) := by
    intro u hu
    split
    · exact hQ.updCore _ _ _ hu
    · exact hu
  dsimp only
  split
  next hw => exact hQ.feWord hw (hseen _ hrel)
  next => exact hQ.deviceRec _ (hQ.poisonRec _ (hseen _ hrel))

theorem completePkt {s : State} (chan : Nat) (p : GPkt) (failed : Bool) (h : Q s) : Q (completePkt s chan p failed) := by
  unfold Machine.completePkt
  dsimp only
  have hfree := hQ.lockFree p.gid (.guest chan p.seq) (hQ.updSock (fun k => { k with chans := upd (fun x => x.num == chan) (fun c => { c with pkts := c.pkts.filter (fun x => x.seq != p.seq) }) k.chans }) h)
  split
  · exact hfree
  · exact hQ.signalled _ _ _ _ _ hfree

end Steady

/-! ## Canal -/

theorem atomBytes_eq (code : Nat) (old operands : List Byte) : atomBytes code old operands =
    leBytes 4 (if code ≤ 11 then applyOp code 0 (BitVec.ofNat 32 (leNat (old.take 4))) (BitVec.ofNat 32 (fld operands 0 4))
      else if BitVec.ofNat 32 (leNat (old.take 4)) = BitVec.ofNat 32 (fld operands 0 4) then BitVec.ofNat 32 (fld operands 4 4)
      else BitVec.ofNat 32 (leNat (old.take 4))).toNat := by
  unfold atomBytes
  simp only [beq_iff_eq]

theorem peerAccess_write {s t : State} {asid va : Nat} {d : PeerData} (size : Nat) (h : peerWrite s asid va d t) : peerAccess s asid va (some d) size = t := by
  obtain ⟨b, atom⟩ := d
  cases atom with
  | none =>
    have hw : feWrite s (feWho s asid (s.partOn asid (homeDie va)) none) va b = .ok t := h
    unfold peerAccess
    dsimp only
    rw [hw]
  | some code =>
    obtain ⟨old, u, hr, hw⟩ := h
    rw [← atomBytes_eq] at hw
    unfold peerAccess
    dsimp only
    rw [hr]
    dsimp only
    rw [hw]

theorem canalRemoteAccess_happens (package part window asid : Nat) (va : W64) (data : Option PeerData) (size : Nat) (ordered : Option W32) {e : Event}
    (h : linkEvents (.canalRemoteAccess package part window asid va data size ordered) = some e) :
    Happens (.canalRemoteAccess package part window asid va data size ordered) e := by
  obtain rfl := Option.some.inj h
  intro s a ha
  have himport : (asid, package) ∈ s.fe.imports → s.fe.imports.contains (asid, package) = true := List.contains_iff_mem.mpr
  cases data with
  | none =>
    have ⟨hin, hread⟩ : (asid, package) ∈ s.fe.imports ∧ feRead s (feWho s asid (s.partOn asid (homeDie va.toNat)) none) none va.toNat size = .ok (a.2, a.1) := by
      cases ordered <;> exact ha
    refine ⟨a.1, ?_, by cases ordered <;> rfl⟩
    show execCanalRemoteAccess package part window asid va none size ordered s = _
    unfold execCanalRemoteAccess peerAccess
    dsimp only
    rw [himport hin, hread]
    cases ordered <;> rfl
  | some d =>
    cases ordered with
    | none =>
      obtain ⟨hin, hwrite⟩ := ha
      refine ⟨a.1, ?_, rfl⟩
      show execCanalRemoteAccess package part window asid va (some d) size none s = _
      unfold execCanalRemoteAccess
      dsimp only
      rw [himport hin, peerAccess_write size hwrite]
      rfl
    | some n =>
      refine ⟨_, rfl, ?_⟩
      dsimp only
      rw [State.updPkg, ← List.contains_eq_mem]

theorem canalOrderedPass_happens (package part window : Nat) {e : Event} (h : linkEvents (.canalOrderedPass package part window) = some e) :
    Happens (.canalOrderedPass package part window) e := by
  obtain rfl := Option.some.inj h
  rintro s ⟨x, u⟩ ⟨hfind, hu⟩
  have hseq : x.seq = s.flowNext package part window := by
    have := List.find?_some hfind
    simp only [Bool.and_eq_true, beq_iff_eq] at this
    exact this.2
  have hstate : (if x.taken then peerAccess s x.asid x.va (some x.data) 0 else s) = u := by
    dsimp only at hu
    split at hu
    next ht => rw [if_pos ht, peerAccess_write 0 hu]
    next ht => rw [if_neg ht, hu]
  refine ⟨_, ?_, rfl⟩
  show execCanalOrderedPass package part window s = _
  unfold execCanalOrderedPass
  dsimp only
  rw [hfind]
  dsimp only
  rw [hstate, ← hseq]
  rfl

theorem canalPortDown_happens (port : Nat) {e : Event} (h : linkEvents (.canalPortDown port) = some e) : Happens (.canalPortDown port) e := by
  obtain rfl := Option.some.inj h
  rintro s _ ⟨hport, hup⟩
  refine ⟨_, ?_, rfl⟩
  show execCanalPortDown port s = _
  unfold execCanalPortDown
  rw [hport, List.contains_eq_mem, decide_eq_false hup]
  rfl

/-! ## The host -/

/-- Frames that the host reaches are HBM's, and their entries let it. -/
theorem hostReaches_all {s : State} {pa n : Nat} {write : Bool} (h : hostReaches s pa n write) :
    (pages4k pa (max n 1)).all (fun a => match locOf a with | .hbm _ _ => true | _ => false) = true ∧
    (pages4k pa (max n 1)).all (fun a => s.fotAllows [0xFF] a write) = true := by
  refine ⟨List.all_eq_true.mpr (fun a ha => ?_), List.all_eq_true.mpr (fun a ha => (h a ha).2)⟩
  obtain ⟨⟨d, o, hloc⟩, _⟩ := h a ha
  rw [hloc]

theorem hostMemAccess_happens (pa : W64) (data : Option (List Byte)) (size : Nat) {e : Event} (h : linkEvents (.hostMemAccess pa data size) = some e) :
    Happens (.hostMemAccess pa data size) e := by
  obtain rfl := Option.some.inj h
  rintro s _ ⟨hlo, hhi, hreach⟩
  refine ⟨_, ?_, rfl⟩
  show execHostMemAccess pa data size s = _
  have hphase : ¬ (decide (s.pkg.phase < 4) || decide (s.pkg.phase > 9)) = true := by
    rw [Bool.or_eq_true, decide_eq_true_eq, decide_eq_true_eq]
    omega
  cases data with
  | none =>
    by_cases hhost : ∀ a ∈ pages4k pa.toNat (max size 1), isHostMem a = true
    · refine congrArg (fun t => (.next t : Out)) ((if_neg hphase).trans ((if_pos (List.all_eq_true.mpr hhost)).trans ?_))
      exact (if_pos hhost).symm
    · obtain ⟨hhbm, hfot⟩ := hostReaches_all (hreach.resolve_right hhost)
      refine congrArg (fun t => (.next t : Out)) ((if_neg hphase).trans ((if_neg (fun hc => hhost (List.all_eq_true.mp hc))).trans
        ((if_neg (by rw [Bool.not_eq_true', Bool.not_eq_false]; exact hhbm)).trans ((if_neg (by rw [Bool.not_eq_true', Bool.not_eq_false]; exact hfot)).trans ?_))))
      exact (if_neg hhost).symm
  | some b =>
    by_cases hhost : ∀ a ∈ pages4k pa.toNat (max b.length 1), isHostMem a = true
    · refine congrArg (fun t => (.next t : Out)) ((if_neg hphase).trans ((if_pos (List.all_eq_true.mpr hhost)).trans ?_))
      exact congrArg (fun u : State => u.paWrite pa.toNat b) (if_pos hhost).symm
    · obtain ⟨hhbm, hfot⟩ := hostReaches_all (hreach.resolve_right hhost)
      refine congrArg (fun t => (.next t : Out)) ((if_neg hphase).trans ((if_neg (fun hc => hhost (List.all_eq_true.mp hc))).trans
        ((if_neg (by rw [Bool.not_eq_true', Bool.not_eq_false]; exact hhbm)).trans ((if_neg (by rw [Bool.not_eq_true', Bool.not_eq_false]; exact hfot)).trans ?_))))
      exact congrArg (fun u : State => u.paWrite pa.toNat b) (if_neg hhost).symm

theorem containerRegistration_happens (part asid : Nat) (code : W64) (codeSize : Nat) (safe : W64) (safeSize : Nat) (config : W64) {e : Event}
    (h : linkEvents (.containerRegistration part asid code codeSize safe safeSize config) = some e) :
    Happens (.containerRegistration part asid code codeSize safe safeSize config) e := by
  obtain rfl := Option.some.inj h
  rintro s ⟨cb, u, sb, v⟩ ⟨hphase, hcode, hsafe, hmod, hok⟩
  refine ⟨_, ?_, rfl⟩
  show execContainerRegistration part asid code codeSize safe safeSize config s = _
  unfold execContainerRegistration
  dsimp only
  rw [hphase, hcode]
  dsimp only
  rw [hsafe]
  dsimp only
  rw [hmod, hok]
  rfl

theorem hostDebugMessage_happens (part : Nat) (msg : List Byte) {e : Event} (h : linkEvents (.hostDebugMessage part msg) = some e) :
    Happens (.hostDebugMessage part msg) e := by
  obtain rfl := Option.some.inj h
  rintro s _ ⟨hlen, htype⟩
  refine ⟨_, ?_, rfl⟩
  show execHostDebugMessage part msg s = _
  unfold execHostDebugMessage
  rw [hlen, decide_eq_true (show fld msg 0 1 ≥ 0x80 from htype)]
  rfl

theorem debugMailboxRead_happens (part : Nat) {e : Event} (h : linkEvents (.debugMailboxRead part) = some e) : Happens (.debugMailboxRead part) e := by
  obtain rfl := Option.some.inj h
  exact fun s _ _ => ⟨_, rfl, rfl⟩

/-! ## The guest's packets -/

theorem sockLive_of {s : State} (ht : s.sock.trained = true) (hf : s.sock.fenced = false) : s.sockLive = true := by
  unfold State.sockLive
  rw [ht, hf]
  rfl

theorem sendMsg_eq (s : State) (row : Nat) (nums : List Nat) (bytes : List Byte) : sendMsg s row nums bytes = told s row nums bytes := rfl

theorem gpkt_happens (chan : Nat) {e : Event} (h : linkEvents (.gpkt chan) = some e) : Happens (.gpkt chan) e := by
  obtain rfl := Option.some.inj h
  rintro s ⟨c, p⟩ ⟨htr, hfe, hc, hp⟩
  refine ⟨_, ?_, rfl⟩
  show execGpkt chan s = _
  unfold execGpkt
  rw [hc, Option.bind_some, hp]
  dsimp only
  rw [sockLive_of htr hfe]
  rfl

theorem outPkt_of {s : State} {chan : Nat} {seq : W32} {c : Chan} {p : GPkt} (h : outstanding s chan seq c p) : outPkt s chan seq = some p ∧ s.sockLive = true := by
  obtain ⟨htr, hfe, hc, hp⟩ := h
  refine ⟨?_, sockLive_of htr hfe⟩
  unfold outPkt
  rw [hc]
  exact hp

/-- The record of a guest's fault. -/
def gfltRec (chan : Nat) (seq : W32) (cause : Byte) (addr : W64) (code : W16) (p : GPkt) : FRec :=
  { cls := .guest, code := .guestf, cause := cause.toNat, team := p.team, lane := p.lane, lanes := p.lanes, pc := p.pc, addr := addr
    detail := BitVec.ofNat 64 (code.toNat + chan % 256 * 2 ^ 16 + seq.toNat * 2 ^ 32) }

theorem gflt_happens (chan : Nat) (seq : W32) (cause : Byte) (addr : W64) (code : W16) {e : Event} (h : linkEvents (.gflt chan seq cause addr code) = some e) :
    Happens (.gflt chan seq cause addr code) e := by
  obtain rfl := Option.some.inj h
  rintro s ⟨c, p⟩ hout
  obtain ⟨hp, hlive⟩ := outPkt_of hout
  have heq : exec (.gflt chan seq cause addr code) s = .next (if (s.group? p.gid).isSome = true then
      stopGroup s p.gid (gfltRec chan seq cause addr code p) none none
      else s.queueRec p.part { gfltRec chan seq cause addr code p with rid := p.rid, gseq := p.gseq, time := s.ticks }) := by
    show execGflt chan seq cause addr code s = _
    unfold execGflt
    rw [hlive, hp]
    rfl
  refine ⟨_, heq, fun hsome => if_pos hsome, fun hnone => if_neg (fun hsome => ?_)⟩
  have hg : s.group? p.gid = none := hnone
  rw [hg] at hsome
  cases hsome

theorem gcpl_happens (chan : Nat) (seq : W32) (failed : Bool) {e : Event} (h : linkEvents (.gcpl chan seq failed) = some e) : Happens (.gcpl chan seq failed) e := by
  obtain rfl := Option.some.inj h
  rintro s ⟨c, p⟩ ⟨hout, hbound⟩
  obtain ⟨hp, hlive⟩ := outPkt_of hout
  have hclk : (completePkt s chan p failed).clk = s.clk :=
    Steady.completePkt (Q := fun t => t.clk = s.clk) ⟨fun _ _ h _ _ _ hq => h.trans hq, fun _ _ _ _ hq => hq, fun _ _ _ hq => hq⟩ chan p failed rfl
  have hintime : p.abortBy.any (fun t => decide (t < s.ticks)) = false := by
    cases habort : p.abortBy with
    | none => rfl
    | some d => exact decide_eq_false (Nat.not_lt.mpr (hbound d habort))
  refine ⟨_, ?_, rfl⟩
  show execGcpl chan seq failed s = _
  unfold execGcpl
  rw [hlive, hp]
  dsimp only
  rw [hintime, ← hclk]
  rfl

/-! ## Grants -/

theorem walks_sock (k : Socket) : OfWalks (fun t => t.sock = k) where
  tables := fun _ _ _ h => h
  phys := fun _ _ _ h => h
  count := fun s part e n q h => by
    cases q <;> exact h

theorem translate_sock {s u : State} {asid va k : Nat} {q : Option Nat} {t : Tlb} (h : translate s asid va k q = .ok t u) : u.sock = s.sock := by
  have hw := (walks_sock s.sock).translate asid va k q (s := s) rfl
  rw [h] at hw
  exact hw

theorem makeGrant_waitTcpl (s : State) (chan : Nat) (seq : W32) (page : Nat) (write : Bool) (tag : W32) (asid : Nat) :
    (makeGrant s chan seq page write tag asid).sock.waitTcpl = s.sock.waitTcpl := by
  unfold makeGrant
  split
  · rfl
  next h =>
    have hsock := translate_sock h
    show _ = s.sock.waitTcpl
    rw [← hsock]
    rfl

theorem treqGo_idle {s : State} (h : s.sock.waitTcpl = []) (n : Nat) : treqGo s n = s := by
  cases n with
  | zero => rfl
  | succ n =>
    rw [treqGo, h]

/-- A TREQ that waits. -/
abbrev Waiting := Nat × W32 × Nat × Bool × Nat × Nat

/-- The requests that wait for a grant. -/
def withWaiting (l : List Waiting) (s : State) : State := { s with sock := { s.sock with waitTcpl := l } }

/-- A grant of a packet that does not go on. -/
def lapsed (s : State) (g : Grant) : Bool := !(s.pktOpen g.chan g.seq)

theorem treqSettle_room {s : State} {x : Waiting} (hw : s.sock.waitTcpl = [x]) (hroom : s.sock.grants.length < 4096) :
    treqSettle s = makeGrant (withWaiting [] s) x.1 x.2.1 x.2.2.1 x.2.2.2.1 (BitVec.ofNat 32 x.2.2.2.2.1) x.2.2.2.2.2 := by
  unfold treqSettle
  rw [hw]
  show treqGo s 3 = _
  rw [treqGo, hw]
  dsimp only
  rw [if_pos hroom]
  exact treqGo_idle (makeGrant_waitTcpl _ _ _ _ _ _ _) 2

theorem treqSettle_busy {s : State} {x : Waiting} (hw : s.sock.waitTcpl = [x]) (hfull : 4096 ≤ s.sock.grants.length)
    (hopen : ∀ g ∈ s.sock.grants, lapsed s g = false) : treqSettle s = tcpl (withWaiting [] s) (BitVec.ofNat 32 x.2.2.2.2.1) 2 [] := by
  have hout : s.sock.grants.filter (fun g => g.tinv.isSome && lapsed s g) = [] := by
    rw [List.filter_eq_nil_iff]
    intro g hg
    rw [hopen g hg, Bool.and_false]
    decide
  have hnone : s.sock.grants.find? (fun g => g.tinv.isNone && lapsed s g) = none := by
    rw [List.find?_eq_none]
    intro g hg
    rw [hopen g hg, Bool.and_false]
    decide
  unfold treqSettle
  rw [hw]
  show treqGo s 3 = _
  rw [treqGo, hw]
  unfold lapsed at hout hnone
  dsimp only
  rw [if_neg (Nat.not_lt.mpr hfull), hout, if_neg (by simp), hnone]
  show treqGo (tcpl (withWaiting [] s) _ 2 []) 2 = _
  exact treqGo_idle rfl 2

/-- The grant has been asked back. -/
def recalled (s : State) (g : Grant) : Grant := { g with tinv := some (s.sock.tags, s.ticks + us20, [0]) }

/-- A TINV is out for the grant. -/
def recalling (s : State) (g : Grant) : State :=
  told { s with sock := { s.sock with tags := s.sock.tags + 1, grants := upd (fun x => x == g) (fun x => { x with tinv := some (s.sock.tags, s.ticks + us20, [0]) }) s.sock.grants } }
    4 [g.chan / 4, g.asid, g.va, g.size / 4096, s.sock.tags] []

theorem sendTinv_recalling {s : State} {g : Grant} (h : g.tinv = none) : sendTinv s g 0 = recalling s g := by
  unfold sendTinv
  rw [h]
  rfl

theorem lapsed_recalling (s : State) (g : Grant) : lapsed (recalling s g) = lapsed s := rfl

theorem recalled_mem {s : State} {g : Grant} (h : g ∈ s.sock.grants) : recalled s g ∈ (recalling s g).sock.grants :=
  List.mem_map.mpr ⟨g, h, if_pos (beq_self_eq_true g)⟩

/-- While a TINV is out for the one request that waits, it goes on waiting. -/
theorem treqGo_recalling {s : State} {x : Waiting} (hw : s.sock.waitTcpl = [x]) (hfull : 4096 ≤ s.sock.grants.length) {g : Grant} (hg : g ∈ s.sock.grants)
    (hl : lapsed s g = true) (n : Nat) : treqGo (recalling s g) (n + 1) = recalling s g := by
  have hwait : (recalling s g).sock.waitTcpl = [x] := hw
  have hlen : ¬ (recalling s g).sock.grants.length < 4096 := by
    rw [show (recalling s g).sock.grants.length = s.sock.grants.length from List.length_map _]
    exact Nat.not_lt.mpr hfull
  have hout : 0 < ((recalling s g).sock.grants.filter (fun y => y.tinv.isSome && lapsed (recalling s g) y)).length :=
    List.length_pos_of_mem (List.mem_filter.mpr ⟨recalled_mem hg, hl⟩)
  rw [treqGo, hwait]
  dsimp only
  rw [if_neg hlen]
  exact if_pos (decide_eq_true hout)

theorem treqSettle_recall {s : State} {x : Waiting} (hw : s.sock.waitTcpl = [x]) (hfull : 4096 ≤ s.sock.grants.length)
    (hfresh : ∀ g ∈ s.sock.grants, g.tinv = none) {g : Grant} (hg : s.sock.grants.find? (lapsed s) = some g) : treqSettle s = recalling s g := by
  have hmem := List.mem_of_find?_eq_some hg
  have hout : s.sock.grants.filter (fun g => g.tinv.isSome && lapsed s g) = [] := by
    rw [List.filter_eq_nil_iff]
    intro y hy
    rw [hfresh y hy]
    exact Bool.false_ne_true
  have hnext : s.sock.grants.find? (fun g => g.tinv.isNone && lapsed s g) = some g := by
    rw [← hg]
    refine List.find?_congr (fun y hy => ?_)
    rw [hfresh y hy]
    rfl
  unfold treqSettle
  rw [hw]
  show treqGo s 3 = _
  rw [treqGo, hw]
  unfold lapsed at hout hnext
  dsimp only
  rw [if_neg (Nat.not_lt.mpr hfull), hout, if_neg (by simp), hnext]
  dsimp only
  rw [sendTinv_recalling (hfresh g hmem)]
  exact treqGo_recalling hw hfull hmem (List.find?_some hg) 1

theorem treq_happens (chan : Nat) (seq : W32) (va : W64) (write : Bool) (tag : W32) {e : Event} (h : linkEvents (.treq chan seq va write tag) = some e) :
    Happens (.treq chan seq va write tag) e := by
  obtain rfl := Option.some.inj h
  rintro s ⟨c, p, tl, u⟩ ⟨hout, hover, hcheck, htr, hwait⟩
  obtain ⟨hp, hlive⟩ := outPkt_of hout
  have heq : exec (.treq chan seq va write tag) s = .next (treqSettle (withWaiting [(chan, seq, va.toNat / 4096 * 4096, write, tag.toNat, p.asid)] s)) := by
    show execTreq chan seq va write tag s = _
    unfold execTreq
    rw [hlive, hp]
    dsimp only at hover hcheck htr ⊢
    rw [hover, hcheck]
    dsimp only
    rw [htr]
    dsimp only [State.updSock]
    rw [hwait]
    rfl
  have hdone : withWaiting [] s = s := by
    unfold withWaiting
    rw [← hwait]
  have htag : BitVec.ofNat 32 tag.toNat = tag := BitVec.eq_of_toNat_eq ((BitVec.toNat_ofNat _ _).trans (Nat.mod_eq_of_lt tag.isLt))
  refine ⟨_, heq, fun hroom => ?_, fun hfull hopen => ?_, fun hfull g hg hfresh => ?_⟩
  · rw [treqSettle_room (s := withWaiting [_] s) rfl hroom]
    show makeGrant (withWaiting [] s) chan seq (va.toNat / 4096 * 4096) write (BitVec.ofNat 32 tag.toNat) p.asid = _
    rw [hdone, htag]
    unfold makeGrant
    dsimp only at htr ⊢
    rw [htr]
    rfl
  · rw [treqSettle_busy (s := withWaiting [_] s) rfl hfull hopen]
    show tcpl (withWaiting [] s) (BitVec.ofNat 32 tag.toNat) 2 [] = _
    rw [hdone, htag]
    rfl
  · rw [treqSettle_recall (s := withWaiting [_] s) rfl hfull hfresh hg]
    exact ⟨rfl, rfl⟩

theorem tinvack_happens (tag : Nat) {e : Event} (h : linkEvents (.tinvack tag) = some e) : Happens (.tinvack tag) e := by
  obtain rfl := Option.some.inj h
  rintro s _ ⟨htr, hfe, ⟨g, hg, d, k, htinv⟩, hbound⟩
  have hnamed : s.sock.grants.any (fun g => match g.tinv with | some t => t.1 == tag | none => false) = true := by
    refine List.any_eq_true.mpr ⟨g, hg, ?_⟩
    rw [htinv]
    exact beq_self_eq_true tag
  have hintime : s.sock.grants.any (fun g => g.tinv.any (fun t => t.1 == tag && decide (t.2.1 < s.ticks))) = false := by
    refine List.any_eq_false.mpr (fun g hg hlate => ?_)
    obtain ⟨⟨n, d, k⟩, hx, hlate⟩ := Option.any_eq_true _ _ |>.mp hlate
    simp only [Bool.and_eq_true, beq_iff_eq, decide_eq_true_eq] at hlate
    obtain ⟨rfl, hlt⟩ := hlate
    exact absurd (hbound g hg d k hx) (Nat.not_le.mpr hlt)
  refine ⟨_, ?_, rfl, fun hnone => ?_, fun x hx hroom => treqSettle_room hx hroom⟩
  · show execTinvack tag s = _
    unfold execTinvack
    rw [sockLive_of htr hfe]
    refine congrArg (fun t => (.next t : Out)) ?_
    exact (if_neg Bool.false_ne_true).trans ((if_neg (not_not_true hnamed)).trans (if_neg (Bool.eq_false_iff.mp hintime)))
  · unfold treqSettle
    exact treqGo_idle hnone _

/-! ## Saved packets -/

/-- No bound for the range is past. -/
theorem notLate {l : List (Nat × Nat)} {rid now : Nat} (h : ∀ d, (rid, d) ∈ l → now ≤ d) : l.any (fun x => x.1 == rid && decide (x.2 < now)) = false := by
  refine List.any_eq_false.mpr ?_
  rintro ⟨r, d⟩ hx hlate
  simp only [Bool.and_eq_true, beq_iff_eq, decide_eq_true_eq] at hlate
  obtain ⟨rfl, hlt⟩ := hlate
  exact absurd (h d hx) (Nat.not_le.mpr hlt)

theorem any_key {l : List (Nat × Nat)} {rid : Nat} (h : ∃ d, (rid, d) ∈ l) : l.any (fun x => x.1 == rid) = true := by
  obtain ⟨d, hd⟩ := h
  exact List.any_eq_true.mpr ⟨_, hd, beq_self_eq_true rid⟩

theorem gpack_happens (chan rid : Nat) (bytes : List Byte) (seqs : List W32) {e : Event} (h : linkEvents (.gpack chan rid bytes seqs) = some e) :
    Happens (.gpack chan rid bytes seqs) e := by
  obtain rfl := Option.some.inj h
  rintro s c ⟨htr, hfe, hc, hasked, hbound, hsize, hseqs⟩
  have hmine : seqs.any (fun q => match outPkt s chan q with | some p => p.rid != rid | none => true) = false := by
    refine List.any_eq_false.mpr (fun q hq hbad => ?_)
    obtain ⟨p, hp, hrid⟩ := hseqs q hq
    rw [(outPkt_of (c := c) ⟨htr, hfe, hc, hp⟩).1] at hbad
    dsimp only at hbad
    rw [hrid, bne_self_eq_false] at hbad
    cases hbad
  refine ⟨_, ?_, rfl⟩
  show execGpack chan rid bytes seqs s = _
  unfold execGpack
  rw [sockLive_of htr hfe, hc]
  dsimp only
  rw [any_key hasked, decide_eq_false (Nat.not_lt.mpr hsize)]
  refine congrArg (fun t => (.next t : Out)) ?_
  refine (if_neg Bool.false_ne_true).trans ((if_neg ?_).trans ((if_neg (Bool.eq_false_iff.mp (notLate hbound))).trans ?_))
  · exact Bool.eq_false_iff.mp hmine
  · refine if_congr ?_ rfl rfl
    refine Iff.of_eq (congrArg (fun r => Option.all RangeSt.killed r = true) (foldl_keeps (fun t : State => t.range? rid) _ ?_ _ _))
    exact fun _ _ => rfl

/-- The channel awaits no GRACK of the range any more. -/
def gresDone (s : State) (chan rid : Nat) : State := s.updChan chan (fun c => { c with gres := c.gres.filter (fun x => x.1 != rid) })

/-- The saved packets of the range that are on channels. -/
def savedOn (s : State) (rid : Nat) : List (Nat × GPkt) :=
  (s.sock.chans.map (fun c => (c.pkts.filter (fun p => p.rid == rid && p.saved)).map (fun p => (c.num, p)))).flatten

theorem grack_happens (chan rid : Nat) (refused : Bool) {e : Event} (h : linkEvents (.grack chan rid refused) = some e) : Happens (.grack chan rid refused) e := by
  obtain rfl := Option.some.inj h
  rintro s c ⟨htr, hfe, hc, hasked, hbound⟩
  have heq : exec (.grack chan rid refused) s = .next (if refused then
      settle ((savedOn (gresDone s chan rid) rid).foldl (fun s x => completePkt s x.1 x.2 true) (failParked (gresDone s chan rid) rid (fun x => x.2.saved))) rid
      else gresDone s chan rid) := by
    show execGrack chan rid refused s = _
    unfold execGrack
    rw [sockLive_of htr hfe, hc]
    dsimp only
    rw [any_key hasked, notLate hbound]
    rfl
  refine ⟨_, heq, ?_, ?_⟩
  · rintro rfl
    rfl
  · intro onChans parked hrefused
    subst hrefused
    refine congrArg (fun t => settle t rid) ?_
    exact List.foldl_append.symm

/-! ## The guest and the socket -/

theorem guestAccess_happens (pa : W64) (data : Option (List Byte)) (size : Nat) {e : Event} (h : linkEvents (.guestAccess pa data size) = some e) :
    Happens (.guestAccess pa data size) e := by
  obtain rfl := Option.some.inj h
  rintro s _ ⟨htr, hfe, hmay⟩
  have hok := List.all_eq_true.mpr hmay
  refine ⟨_, ?_, rfl⟩
  show execGuestAccess pa data size s = _
  unfold execGuestAccess
  cases data with
  | some b =>
    dsimp only at hok ⊢
    rw [sockLive_of htr hfe, hok]
    rfl
  | none =>
    dsimp only at hok ⊢
    rw [sockLive_of htr hfe, hok]
    rfl

theorem fence_live {s : State} (h : s.sockLive = true) (cause : Nat) : fence s cause = fencedOff s cause := by
  unfold fence
  rw [h]
  rfl

theorem portFence_happens (why : Byte) {e : Event} (h : linkEvents (.portFence why) = some e) : Happens (.portFence why) e := by
  obtain rfl := Option.some.inj h
  rintro s _ ⟨htr, hfe, hwhy⟩
  have hlive := sockLive_of htr hfe
  refine ⟨_, ?_, rfl⟩
  show execPortFence why s = _
  rw [← fence_live hlive]
  unfold execPortFence
  refine congrArg (fun t => (.next t : Out)) ?_
  obtain ⟨hrow, hmissed⟩ | hside := hwhy
  · exact (if_pos hrow).trans (if_pos hmissed)
  · have hlow : ¬ 0xF0 ≤ why.toNat := by omega
    refine (if_neg hlow).trans (if_pos ?_)
    obtain hw | hw | hw := hside
    · rw [hw]; rfl
    · rw [hw]; rfl
    · have hcases : why.toNat = 0xE4 ∨ why.toNat = 0xE5 ∨ why.toNat = 0xE6 ∨ why.toNat = 0xE7 ∨ why.toNat = 0xE8 := by omega
      obtain hw | hw | hw | hw | hw := hcases <;> rw [hw] <;> rfl

theorem socketReset_happens (ident : List Byte) (trained : Bool) {e : Event} (h : linkEvents (.socketReset ident trained) = some e) :
    Happens (.socketReset ident trained) e := by
  obtain rfl := Option.some.inj h
  rintro s _ hphase
  have hopen : (decide (s.pkg.phase < 8) || decide (s.pkg.phase > 9)) = false := by
    rw [Bool.or_eq_false_iff, decide_eq_false_iff_not, decide_eq_false_iff_not]
    omega
  refine ⟨trainSocket (endGuest s) (some ident) trained, ?_, rfl, rfl, rfl⟩
  show execSocketReset ident trained s = _
  unfold execSocketReset
  rw [hopen]
  rfl

/-- A depth or a save size the guest may ask for. -/
theorem log2_two_pow_self {depth : Nat} (h : ∃ k, 6 ≤ k ∧ k ≤ 12 ∧ depth = 2 ^ k) : 64 ≤ depth ∧ depth ≤ 4096 ∧ 2 ^ Nat.log2 depth = depth := by
  obtain ⟨k, hlow, hhigh, rfl⟩ := h
  refine ⟨?_, ?_, ?_⟩
  · exact Nat.pow_le_pow_right (n := 2) (by decide) hlow
  · exact Nat.pow_le_pow_right (n := 2) (by decide) hhigh
  · rw [Nat.log2_two_pow]

def withDepth (depth gsave : Nat) (c : Chan) : Chan := { c with depth := depth, gsave := gsave }

/-- The channel with its depth and save size. -/
def configured (s : State) (chan depth gsave : Nat) : State :=
  { s with sock := { s.sock with chans := updOr (fun c => c.num == chan) { num := chan, depth := depth, gsave := gsave } (withDepth depth gsave) s.sock.chans } }

theorem guestChannelConfigure_happens (chan depth gsave : Nat) {e : Event} (h : linkEvents (.guestChannelConfigure chan depth gsave) = some e) :
    Happens (.guestChannelConfigure chan depth gsave) e := by
  obtain rfl := Option.some.inj h
  rintro s _ ⟨hchan, hdepth, k, hk1, hk2, rfl⟩
  obtain ⟨hlow, hhigh, hpow⟩ := log2_two_pow_self hdepth
  have hok : (decide (chan < 256) && decide (64 ≤ depth ∧ depth ≤ 4096) && 2 ^ Nat.log2 depth == depth && 65536 * k % 65536 == 0 &&
      decide (65536 ≤ 65536 * k ∧ 65536 * k ≤ 2 ^ 24)) = true := by
    rw [hpow, Nat.mul_mod_right, decide_eq_true hchan, decide_eq_true (And.intro hlow hhigh), beq_self_eq_true,
      decide_eq_true (show 65536 ≤ 65536 * k ∧ 65536 * k ≤ 2 ^ 24 by omega)]
    rfl
  have heq : exec (.guestChannelConfigure chan depth (65536 * k)) s = .next (configured s chan depth (65536 * k)) := by
    show execGuestChannelConfigure chan depth (65536 * k) s = _
    unfold execGuestChannelConfigure
    rw [hok]
    rfl
  refine ⟨_, heq, rfl, ⟨_, updOr_find_same (fun c : Chan => c.num == chan) { num := chan, depth := depth, gsave := 65536 * k } (withDepth depth (65536 * k)) s.sock.chans (fun c hc => hc) (beq_self_eq_true chan), rfl, rfl⟩, fun i hi => ?_⟩
  have hother : ∀ c : Chan, (c.num == chan) = true → (c.num == i) = false := fun c hc => by
    rw [beq_iff_eq] at hc
    rw [hc]
    exact beq_false_of_ne (Ne.symm hi)
  exact updOr_find_other (fun c : Chan => c.num == chan) (fun c => c.num == i) _ (withDepth depth (65536 * k)) s.sock.chans hother (fun c hc => hother c hc) (hother _ (beq_self_eq_true chan))

/-- Settles O29: event by event; what the guest may do rests on the port being live, and a request that finds the grant table full on the oldest
grant of a packet that no longer goes on. -/
theorem linkEventsComplete : Obligations.LinkEventsComplete := by
  intro i e h
  show Happens i e
  unfold linkEvents at h
  split at h
  · exact canalRemoteAccess_happens _ _ _ _ _ _ _ _ h
  · exact canalOrderedPass_happens _ _ _ h
  · exact canalPortDown_happens _ h
  · exact hostMemAccess_happens _ _ _ h
  · exact containerRegistration_happens _ _ _ _ _ _ _ h
  · exact hostDebugMessage_happens _ _ h
  · exact debugMailboxRead_happens _ h
  · exact gpkt_happens _ h
  · exact treq_happens _ _ _ _ _ h
  · exact tinvack_happens _ h
  · exact gcpl_happens _ _ _ h
  · exact gflt_happens _ _ _ _ _ h
  · exact gpack_happens _ _ _ _ h
  · exact grack_happens _ _ _ h
  · exact guestAccess_happens _ _ _ h
  · exact portFence_happens _ h
  · exact socketReset_happens _ _ h
  · exact guestChannelConfigure_happens _ _ _ h
  · cases h

end Sys2Proof.Rules
end

section
/-! PROOF. The memory side's own events (O23): acknowledgements, ticks, drains, slice operations, fills, streams and the Reservoir's ways. -/

namespace Sys2Proof.Rules
open Sys2Proof.Safety Sys2Proof.Machine

/-! ## One core changes -/

theorem updCore_only (s : State) (core : Nat) (f : CoreSt → CoreSt) (hf : ∀ k, (f k).die = k.die ∧ (f k).num = k.num) :
    coreOnly s (s.updCore (coreDie core) (coreNum core) f) core (f (coreAt s core)) :=
  ⟨rfl, State.core_updCore s _ _ f hf, fun _ _ h => core_updCore_other s f hf h⟩

def acknowledged (t : Nat) (rest : List Nat) (c : CoreSt) : CoreSt := { c with pts := max c.pts t, acks := rest }

theorem storeAcknowledge_happens (core : Nat) {e : Event} (h : memoryEvents (.storeAcknowledge core) = some e) : Happens (.storeAcknowledge core) e := by
  obtain rfl := Option.some.inj h
  rintro s ⟨t, rest⟩ hacks
  refine ⟨s.updCore (coreDie core) (coreNum core) (acknowledged t rest), ?_, updCore_only s core (acknowledged t rest) (fun _ => ⟨rfl, rfl⟩)⟩
  show execStoreAcknowledge core s = _
  unfold execStoreAcknowledge
  rw [show (s.core (coreDie core) (coreNum core)).acks = t :: rest from hacks]
  rfl

def ticked (c : CoreSt) : CoreSt := { c with pts := c.pts + 1, ptsTicks := c.ptsTicks + 1 }

theorem ptsTick_happens (core : Nat) {e : Event} (h : memoryEvents (.ptsTick core) = some e) : Happens (.ptsTick core) e := by
  obtain rfl := Option.some.inj h
  rintro s _ hbehind
  refine ⟨s.updCore (coreDie core) (coreNum core) ticked, ?_, updCore_only s core ticked (fun _ => ⟨rfl, rfl⟩)⟩
  exact congrArg (fun t => (.next t : Out)) (if_pos hbehind)

def withWcb (l : List WcbEnt) (c : CoreSt) : CoreSt := { c with wcb := l }

theorem wcbTimeoutDrain_happens (core : Nat) {e : Event} (h : memoryEvents (.wcbTimeoutDrain core) = some e) : Happens (.wcbTimeoutDrain core) e := by
  obtain rfl := Option.some.inj h
  rintro s ⟨x, rest⟩ ⟨hwcb, hold⟩
  have heq : exec (.wcbTimeoutDrain core) s = .next ((s.updCore (coreDie core) (coreNum core) (withWcb rest)).updMem
      (fun m => { m with slice := m.slice ++ x.reqs (coreDie core) (coreNum core) (coreAt s core).pts })) := by
    show execWcbTimeoutDrain core s = _
    unfold execWcbTimeoutDrain drainOne
    have hcore : (s.core (coreDie core) (coreNum core)).wcb = x :: rest := hwcb
    rw [hcore]
    dsimp only at hold ⊢
    rw [if_pos hold, hcore]
    rfl
  refine ⟨_, heq, updCore_only { s with mem := { s.mem with slice := _ } } core (withWcb rest) (fun _ => ⟨rfl, rfl⟩), ?_⟩
  refine congrArg (s.mem.slice ++ ·) ?_
  unfold WcbEnt.reqs
  rw [List.map_append, List.map_map]
  cases x.bytes with
  | nil => rfl
  | cons b l => rfl

/-! ## A core changed twice -/

theorem upd_upd {α : Type} (p : α → Bool) (f g : α → α) (l : List α) (hf : ∀ x, p x = true → p (f x) = true) :
    upd p g (upd p f l) = upd p (g ∘ f) l := by
  unfold upd
  rw [List.map_map]
  refine List.map_congr_left (fun x _ => ?_)
  simp only [Function.comp]
  by_cases hx : p x = true
  · rw [if_pos hx, if_pos (hf x hx), if_pos hx]
  · rw [if_neg hx, if_neg hx, if_neg hx]

theorem any_upd {α : Type} (p : α → Bool) (f : α → α) (l : List α) (hf : ∀ x, p x = true → p (f x) = true) (h : l.any p = true) : (upd p f l).any p = true := by
  obtain ⟨x, hx, hp⟩ := List.any_eq_true.mp h
  exact List.any_eq_true.mpr ⟨f x, List.mem_map.mpr ⟨x, hx, if_pos hp⟩, hf x hp⟩

theorem updOr_updOr {α : Type} (p : α → Bool) (d d' : α) (f g : α → α) (l : List α) (hf : ∀ x, p x = true → p (f x) = true) (hd : p d = true) :
    updOr p d' g (updOr p d f l) = updOr p d (g ∘ f) l := by
  unfold updOr
  by_cases hl : l.any p = true
  · rw [if_pos hl, if_pos hl, if_pos (any_upd p f l hf hl), upd_upd p f g l hf]
  · have hnone : ∀ x ∈ l, ¬ p x = true := fun x hx hp => hl (List.any_eq_true.mpr ⟨x, hx, hp⟩)
    rw [if_neg hl, if_neg hl, if_pos (List.any_eq_true.mpr ⟨f d, by simp, hf d hd⟩), upd, List.map_append]
    refine congr (congrArg _ ?_) ?_
    · exact (List.map_congr_left (fun x hx => if_neg (hnone x hx))).trans (List.map_id l)
    · rw [List.map_singleton, if_pos (hf d hd)]
      rfl

theorem updCore_updCore (s : State) (d n : Nat) (f g : CoreSt → CoreSt) (hf : ∀ k, (f k).die = k.die ∧ (f k).num = k.num) :
    (s.updCore d n f).updCore d n g = s.updCore d n (g ∘ f) := by
  have h := updOr_updOr (fun x : CoreSt => x.die == d && x.num == n) (s.dfltCore d n) (s.dfltCore d n) f g s.mem.cores
    (fun k hk => by rw [(hf k).1, (hf k).2]; exact hk) (by simp [State.dfltCore])
  exact congrArg (fun l => { s with mem := { s.mem with cores := l } }) h

/-! ## Requests performed at their slice -/

theorem slicePut_time {s : State} {asid sv : Nat} {x : Sector} (hx : s.sector? asid sv = some x) (bs : List (Nat × Byte)) (pts : Nat) :
    (s.slicePut asid sv bs pts).2 = max pts (x.rts + 1) := by
  unfold State.slicePut
  rw [hx]

theorem performed_eq {s : State} {asid sv : Nat} {x : Sector} (hx : s.sector? asid sv = some x) (l : List SliceReq) (bs : List (Nat × Byte)) :
    performed s l asid sv bs x =
      l.foldl (fun u y => u.ack y.die y.core (s.slicePut asid sv bs (l.foldl (fun n y => max n y.pts) 0)).2)
        (dropReqs (s.slicePut asid sv bs (l.foldl (fun n y => max n y.pts) 0)).1 l) := by
  unfold performed
  rw [List.foldl_map]
  dsimp only
  rw [slicePut_time hx]
  rfl

/-- One request is performed at its own core's time. -/
theorem performed_one {s : State} {asid sv : Nat} {x : Sector} (hx : s.sector? asid sv = some x) (r : SliceReq) (bs : List (Nat × Byte)) :
    performed s [r] asid sv bs x = (dropReqs (s.slicePut asid sv bs r.pts).1 [r]).ack r.die r.core (s.slicePut asid sv bs r.pts).2 := by
  rw [performed_eq hx, List.foldl_cons, List.foldl_nil, List.foldl_cons, List.foldl_nil, Nat.zero_max]

/-- The line leaves its core before or after the core has its acknowledgement. -/
theorem ack_dropLine (s : State) (d n wts asid va : Nat) :
    (s.updCore d n (fun c => c.dropLine asid va)).ack d n wts =
      (s.ack d n wts).updCore d n (fun k => { k with l1 := k.l1.filter (fun l => !(l.asid == asid && l.va == sectorOf va)) }) := by
  unfold State.ack
  rw [updCore_updCore s d n (fun c => c.dropLine asid va) _ (fun _ => ⟨rfl, rfl⟩), updCore_updCore s d n (fun c => { c with acks := c.acks ++ [wts] }) _ (fun _ => ⟨rfl, rfl⟩)]
  rfl

/-- The sector may be written as it stands. -/
theorem writable_of {s u : State} {y : Sector} {q : Option Nat} (h : if y.w = true ∧ y.d = true then u = s else s.writable y q = .ok u) : s.writable y q = .ok u := by
  by_cases hw : y.w = true ∧ y.d = true
  · rw [if_pos hw] at h
    unfold State.writable
    rw [hw.1, hw.2, h]
    rfl
  · rwa [if_neg hw] at h

theorem sliceDo_write {s : State} {asid sv : Nat} {x : Sector} (hx : s.sector? asid sv = some x) {r : SliceReq} {bs : List (Nat × Byte)} (hop : r.op = .write bs) :
    sliceDo s asid sv r = performed s [r] asid sv bs x := by
  rw [performed_one hx]
  unfold sliceDo
  rw [hop]

theorem sliceDo_hot {s : State} {asid sv : Nat} {x : Sector} (hx : s.sector? asid sv = some x) {r : SliceReq} {q : RedReq} (hop : r.op = .red q) {k : Nat} {l : List SliceReq}
    (hhot : hotAt s asid sv q.off = some (k, l)) :
    sliceDo s asid sv r = performed s l asid sv (wordBytesAt q.off (applyOp k 0 (s.sliceWord asid (sv + q.off)) (hotSum k l))) x := by
  rw [performed_eq hx]
  unfold hotAt at hhot
  unfold sliceDo
  rw [hop]
  dsimp only
  rw [hhot]

theorem sliceDo_red {s : State} {asid sv : Nat} {x : Sector} (hx : s.sector? asid sv = some x) {r : SliceReq} {q : RedReq} (hop : r.op = .red q)
    (hcold : hotAt s asid sv q.off = none) :
    sliceDo s asid sv r =
      let one := performed s [r] asid sv (wordBytesAt q.off (applyOp q.code 0 (s.sliceWord asid (sv + q.off)) q.y)) x
      let two := if q.code = 1 then one.updRange q.rid (fun r => orderTake r (sv + q.off)) else one
      if q.plain then two.updCore r.die r.core (fun k => { k with l1 := k.l1.filter (fun l => !(l.asid == asid && l.va == sectorOf sv)) }) else two := by
  rw [performed_one hx]
  unfold hotAt at hcold
  unfold sliceDo
  rw [hop]
  dsimp only
  rw [hcold]
  dsimp only
  by_cases hcode : q.code = 1
  · rw [if_pos hcode, if_pos (beq_iff_eq.mpr hcode)]
    cases q.plain with
    | false => rfl
    | true => exact ack_dropLine (dropReqs (State.updRange _ q.rid (fun rg => orderTake rg (sv + q.off))) [r]) r.die r.core _ asid sv
  · rw [if_neg hcode, if_neg (fun h => hcode (beq_iff_eq.mp h))]
    cases q.plain with
    | false => rfl
    | true => exact ack_dropLine (dropReqs _ [r]) r.die r.core _ asid sv

theorem sliceOperation_happens (asid : Nat) (va : W64) {e : Event} (h : memoryEvents (.sliceOperation asid va) = some e) : Happens (.sliceOperation asid va) e := by
  obtain rfl := Option.some.inj h
  rintro s ⟨r, u, x⟩ ⟨hnext, ⟨y, hy, hwrite⟩, hx⟩
  have heq : exec (.sliceOperation asid va) s = .next (sliceDo (u.guestOut asid (sectorOf va.toNat) true) asid (sectorOf va.toNat) r) := by
    show execSliceOperation asid va s = _
    unfold execSliceOperation sliceNext
    dsimp only at hnext hwrite
    rw [hnext]
    dsimp only
    rw [hy]
    dsimp only
    rw [writable_of hwrite]
  refine ⟨_, heq, ?_⟩
  dsimp only at hx ⊢
  cases hop : r.op with
  | write bs => exact sliceDo_write hx hop
  | red q =>
    dsimp only
    cases hhot : hotAt (u.guestOut asid (sectorOf va.toNat) true) asid (sectorOf va.toNat) q.off with
    | some kl => exact sliceDo_hot hx hop hhot
    | none => exact sliceDo_red hx hop hhot

/-! ## Fills -/

/-- The line a fill makes in a core, of a leased or an unleased page. -/
def filledLine (w : Who) (va : Nat) (uo : Bool) (x : Sector) (e : Nat) (c : CoreSt) : L1Line :=
  { asid := w.asid, va := sectorOf va, pa := x.pa, data := Sec.put x.data (c.waiting w.asid va), wts := x.wts, e := e, uo := uo }

def filledCore (w : Who) (va : Nat) (uo : Bool) (x : Sector) (e sets : Nat) (c : CoreSt) : CoreSt :=
  if uo then c.addLine (filledLine w va uo x e c) sets else (c.addLine (filledLine w va uo x e c) sets).setPts x.wts

theorem filledCore_names (w : Who) (va : Nat) (uo : Bool) (x : Sector) (e sets : Nat) (c : CoreSt) :
    (filledCore w va uo x e sets c).die = c.die ∧ (filledCore w va uo x e sets c).num = c.num := by
  cases uo <;> exact ⟨rfl, rfl⟩

theorem filledCore_line (w : Who) (va : Nat) (uo : Bool) (x : Sector) (e sets : Nat) (c : CoreSt) :
    (filledCore w va uo x e sets c).line? w.asid va = some (filledLine w va uo x e c) := by
  cases uo <;> exact line?_addLine _ (filledLine w va _ x e c) sets va rfl

/-- The sector as the fill leaves it. -/
def leasedTo (uo : Bool) (e : Nat) (s : State) (asid va : Nat) : State := if uo then s else s.updSector asid va (Sector.leased e)

/-- A state behind a fill. -/
def behindFill (z : State) (w : Who) (va : Nat) (uo : Bool) (x : Sector) (e sets : Nat) : State :=
  (leasedTo uo e z w.asid va).updCore w.die w.core (filledCore w va uo x e sets)

theorem behindFill_core (z : State) (w : Who) (va : Nat) (uo : Bool) (x : Sector) (e sets : Nat) :
    (behindFill z w va uo x e sets).core w.die w.core = filledCore w va uo x e sets (z.core w.die w.core) := by
  unfold behindFill
  rw [State.core_updCore _ _ _ (filledCore w va uo x e sets) (filledCore_names _ _ _ _ _ _)]
  cases uo <;> rfl

theorem behindFill_core_other (z : State) (w : Who) (va : Nat) (uo : Bool) (x : Sector) (e sets : Nat) {d n : Nat} (h : (d, n) ≠ (w.die, w.core)) :
    (behindFill z w va uo x e sets).core d n = z.core d n := by
  unfold behindFill
  rw [core_updCore_other _ (filledCore w va uo x e sets) (filledCore_names _ _ _ _ _ _) h]
  cases uo <;> rfl

theorem behindFill_rest (z : State) (w : Who) (va : Nat) (uo : Bool) (x : Sector) (e sets : Nat) :
    behindFill z w va uo x e sets =
      { z with mem := { z.mem with cores := (behindFill z w va uo x e sets).mem.cores, llc := (behindFill z w va uo x e sets).mem.llc } } := by
  cases uo <;> rfl

theorem behindFill_sector {z : State} {w : Who} {va : Nat} {x : Sector} (hx : z.sector? w.asid va = some x) (e sets : Nat) :
    (behindFill z w va false x e sets).sector? w.asid va = some { x with rts := e } := by
  refine (sector?_congr (u := behindFill z w va false x e sets) (s := z.updSector w.asid va (Sector.leased e)) rfl rfl _ _).trans ?_
  rw [sector?_updSector _ _ _ (Sector.leased e) (fun _ => ⟨rfl, rfl, rfl⟩), hx, Option.map_some]
  rfl

theorem filledCore_pts (w : Who) (va : Nat) (x : Sector) (e sets : Nat) (c : CoreSt) : x.wts ≤ (filledCore w va false x e sets c).pts := Nat.le_max_right _ _

theorem l1Fill_eq {s : State} {w : Who} {va : Nat} {x : Sector} (uo : Bool) (hx : (settleOwn s w va).sector? w.asid va = some x) :
    ∃ sets, l1Fill s w va uo =
      let z := settleOwn s w va
      let e := max x.rts (max (z.core w.die w.core).pts x.wts + z.lease w.part)
      behindFill z w va uo x e sets := by
  unfold l1Fill
  dsimp only
  rw [hx]
  cases uo <;> exact ⟨_, rfl⟩

theorem behindFill_pts (z : State) (w : Who) (va : Nat) (x : Sector) (e sets : Nat) : x.wts ≤ ((behindFill z w va false x e sets).core w.die w.core).pts := by
  rw [behindFill_core]
  exact filledCore_pts w va x e sets _

theorem steady_nextGid (k : Nat) : Steady (fun t => t.nextGid = k) where
  rest := fun _ _ _ _ _ h hq => h.trans hq
  part := fun _ _ _ _ hq => hq
  phys := fun _ _ _ hq => hq

theorem peerPa_nextGid {s u : State} {w : Who} {va : Nat} {write : Bool} {p : Option Nat} (h : peerPa s w va write = .ok (p, u)) : u.nextGid = s.nextGid :=
  (steady_nextGid s.nextGid).peerPa h rfl

theorem llcFill_nextGid {s u : State} {w : Who} {va : Nat} {write : Bool} (h : llcFill s w va write = .ok u) : u.nextGid = s.nextGid :=
  (steady_nextGid s.nextGid).llcFill h rfl

theorem coreWho_of {s u : State} (h : u.nextGid = s.nextGid) (core asid : Nat) : coreWho u core asid = fillWho s core asid := by
  unfold coreWho fillWho
  rw [h]

theorem l1Fill_happens (core asid : Nat) (va : W64) {e : Event} (h : memoryEvents (.l1Fill core asid va) = some e) : Happens (.l1Fill core asid va) e := by
  obtain rfl := Option.some.inj h
  rintro s ⟨u, v, x⟩ ⟨hlive, hcheck, hap, hkind, hpeer, hfill, hx⟩
  have hlive' : (match (s.core (coreDie core) (coreNum core)).line? asid va.toNat with
      | some l => l.uo || decide ((s.core (coreDie core) (coreNum core)).pts ≤ l.e)
      | none => false) = false := by
    cases hl : (s.core (coreDie core) (coreNum core)).line? asid va.toNat with
    | none => rfl
    | some l =>
      obtain ⟨huo, hpast⟩ := hlive l hl
      dsimp only
      rw [huo, Bool.false_or]
      exact decide_eq_false (Nat.not_le.mpr hpast)
  obtain ⟨sets, hl1⟩ := l1Fill_eq (kindOf va.toNat == 2) hx
  have heq : exec (.l1Fill core asid va) s = .next (l1Fill v (fillWho s core asid) va.toNat (kindOf va.toNat == 2)) := by
    show execL1Fill core asid va s = _
    unfold execL1Fill
    refine congrArg (fun t => (.next t : Out)) ?_
    have hgo : ¬ ((match (s.core (coreDie core) (coreNum core)).line? asid va.toNat with
      | some l => l.uo || decide ((s.core (coreDie core) (coreNum core)).pts ≤ l.e)
      | none => false) || (addrCheck s asid va.toNat).isSome || isAperture va.toNat || kindOf va.toNat == 1) = true := by
      rw [hlive', hcheck, hap, beq_eq_false_iff_ne.mpr hkind]
      decide
    refine (if_neg hgo).trans ?_
    dsimp only at hpeer hfill
    rw [coreWho_of rfl, hpeer]
    dsimp only
    rw [coreWho_of (peerPa_nextGid hpeer), hfill]
    dsimp only
    rw [coreWho_of ((llcFill_nextGid hfill).trans (peerPa_nextGid hpeer))]
  refine ⟨_, heq.trans (congrArg (fun t => (.next t : Out)) hl1), ?_, fun hleased => ?_, behindFill_rest _ _ _ _ _ _ _, fun d n hdn => behindFill_core_other _ _ _ _ _ _ _ hdn⟩
  · refine (congrArg (fun k => CoreSt.line? k asid va.toNat) (behindFill_core _ _ _ _ _ _ _)).trans ?_
    exact filledCore_line (fillWho s core asid) va.toNat _ x _ sets _
  · dsimp only at hx ⊢
    rw [beq_eq_false_iff_ne.mpr hleased]
    exact ⟨behindFill_sector hx _ sets, behindFill_pts _ (fillWho s core asid) _ x _ sets⟩

/-! ## A sector filled -/

/-- The sectors behind a writeback. -/
def cleaned (x : Sector) (l : List Sector) : List Sector :=
  if x.dirty then upd (fun y => y.asid == x.asid && y.va == x.va && y.part == x.part) (fun y => { y with dirty := false }) l else l

theorem writeBack_llc (s : State) (x : Sector) : (s.writeBack x).mem.llc = cleaned x s.mem.llc := by
  unfold State.writeBack cleaned
  split
  · dsimp only
    split
    · cases chanPart x.pa with
      | none => rfl
      | some p =>
        show upd _ _ (s.count p 8 128 x.qid).mem.llc = _
        rw [State.count_mem]
    · rfl
  · rfl

theorem leaveLlc_llc (s : State) (p : Sector → Bool) :
    (s.leaveLlc p).mem.llc = ((s.mem.llc.filter p).foldl (fun l x => cleaned x l) s.mem.llc).filter (fun x => !p x) :=
  congrArg (List.filter _) (List.foldl_hom (fun t : State => t.mem.llc) (fun t x => (writeBack_llc t x).symm)).symm

theorem leaveLlc_llc_congr {s u : State} (h : u.mem.llc = s.mem.llc) (p : Sector → Bool) : (u.leaveLlc p).mem.llc = (s.leaveLlc p).mem.llc := by
  rw [leaveLlc_llc, leaveLlc_llc, h]

/-- Room is made by what stands in the LLC, the address space's partitions and CARVE. -/
theorem makeRoom_llc_congr {s u : State} {asid va : Nat} (h : u.mem.llc = s.mem.llc) (ha : u.mem.asids = s.mem.asids)
    (hc : u.carve (s.homePart asid va) = s.carve (s.homePart asid va)) : (u.makeRoom asid va).mem.llc = (s.makeRoom asid va).mem.llc := by
  have hp : u.homePart asid va = s.homePart asid va := partOn_congr ha _ _
  unfold State.makeRoom
  dsimp only
  rw [hp, hc, h]
  split
  · exact h
  · split
    · exact leaveLlc_llc_congr h _
    · exact h

/-- A walk leaves the sectors, the address spaces and a partition's CARVE. -/
structure SameHome (s u : State) (p : Nat) : Prop where
  llc : u.mem.llc = s.mem.llc
  asids : u.mem.asids = s.mem.asids
  carve : u.carve p = s.carve p

theorem carve_updPart {s : State} {n p : Nat} {f : Part → Part} (hf : ∀ x, (f x).num = x.num ∧ (f x).carve = x.carve) : (s.updPart n f).carve p = s.carve p := by
  unfold State.carve
  by_cases h : p = n
  · subst h
    rw [State.part_updPart_same s p f (fun x => (hf x).1), (hf _).2]
  · rw [State.part_updPart_other s n p f (fun x => (hf x).1) h]

theorem SameHome.walks (s : State) (p : Nat) : OfWalks (fun u => SameHome s u p) where
  tables := fun _ _ _ ⟨a, b, c⟩ => ⟨a, b, c⟩
  phys := fun _ _ _ ⟨a, b, c⟩ => ⟨a, b, c⟩
  count := fun u part e n q ⟨a, b, c⟩ => by
    have hc : (u.updPart part (Part.bump e n)).carve p = s.carve p := (carve_updPart (f := Part.bump e n) (fun _ => ⟨rfl, rfl⟩)).trans c
    cases q <;> exact ⟨a, b, hc⟩

/-- What a fill on a miss adds to the LLC. -/
theorem llcGet_adds {s u : State} {w : Who} {va : Nat} {write : Bool} (hs : s.sector? w.asid (sectorOf va) = none) (h : llcGet s w va write = .ok u) :
    ∃ x, u.mem.llc = (s.makeRoom w.asid (sectorOf va)).mem.llc ++ [x] ∧ x.asid = w.asid ∧ x.va = sectorOf va ∧ x.dirty = false ∧
      x.data = secOf (u.mem.phys.read (keyOf x.pa) 128) := by
  unfold llcGet at h
  dsimp only at h
  rw [hs] at h
  dsimp only at h
  split at h
  · cases h
  · split at h
    · cases h
    next t y ht =>
      have hsame : SameHome s y (s.homePart w.asid (sectorOf va)) := by
        have hw := (SameHome.walks s (s.homePart w.asid (sectorOf va))).translate w.asid (sectorOf va) (if write then 1 else 0) w.qid ⟨rfl, rfl, rfl⟩
        rw [ht] at hw
        exact hw
      split at h
      · cases h
      · split at h
        · cases h
        · split at h
          · cases h
          · cases h
            have hroom : ((y.makeRoom w.asid (sectorOf va)).llcMiss w (sectorOf va) (t.pa + (sectorOf va - t.va))).mem.llc =
                (s.makeRoom w.asid (sectorOf va)).mem.llc :=
              (congrArg Mem.llc (State.llcMiss_mem _ _ _ _)).trans (makeRoom_llc_congr hsame.llc hsame.asids hsame.carve)
            exact ⟨_, congrArg (fun l => l ++ [_]) hroom, rfl, rfl, rfl, rfl⟩

/-- What a walk keeps, the look at a page that may be a peer's keeps. -/
theorem walks_peerPa {Q : State → Prop} (hQ : OfWalks Q) {s u : State} {w : Who} {va : Nat} {write : Bool} {p : Option Nat} (h : peerPa s w va write = .ok (p, u))
    (hq : Q s) : Q u := by
  unfold peerPa at h
  split at h
  · cases h
    exact hq
  · have hw := hQ.translate w.asid va (if write then 1 else 0) none (s := s) hq
    split at h
    · cases h
    next t y ht =>
      rw [ht] at hw
      split at h <;> cases h <;> exact hw

/-- Who fills a sector of its own accord. -/
def llcWho (s : State) (asid va : Nat) : Who := { die := 4, core := 0, gid := s.nextGid, rid := 0, asid := asid, part := s.partOn asid (homeDie va) }

theorem execLlcFill_of {s u v : State} {asid : Nat} {va : W64} {write : Bool} (hnone : s.sector? asid va.toNat = none) (hcheck : addrCheck s asid va.toNat = none)
    (hap : isAperture va.toNat = false) (hpeer : peerPa s (llcWho s asid va.toNat) va.toNat write = .ok (none, u))
    (hget : llcGet u (llcWho s asid va.toNat) va.toNat write = .ok v) :
    execLlcFill asid va write s = .next (v.guestOut asid (sectorOf va.toNat) write) := by
  unfold execLlcFill
  refine congrArg (fun t => (.next t : Out)) ((if_neg ?_).trans ?_)
  · rw [hnone, hcheck, hap]
    decide
  · rw [show feWho s asid (s.partOn asid (homeDie va.toNat)) none = llcWho s asid va.toNat from rfl, hpeer]
    dsimp only
    unfold llcFill
    rw [hget]
    rfl

theorem llcFill_happens (asid : Nat) (va : W64) (write : Bool) {e : Event} (h : memoryEvents (.llcFill asid va write) = some e) : Happens (.llcFill asid va write) e := by
  obtain rfl := Option.some.inj h
  rintro s ⟨u, v⟩ ⟨hnone, hcheck, hap, hpeer, hget⟩
  have hsame := walks_peerPa (SameHome.walks s 0) hpeer ⟨rfl, rfl, rfl⟩
  have hmiss : u.sector? (llcWho s asid va.toNat).asid (sectorOf va.toNat) = none :=
    (sector?_sectorOf _ _ _).trans ((sector?_congr hsame.llc hsame.asids _ _).trans hnone)
  obtain ⟨x, hllc, hasid, hva, hclean, hdata⟩ := llcGet_adds hmiss hget
  exact ⟨_, execLlcFill_of hnone hcheck hap hpeer hget, rfl, x, hllc, hasid, hva, hclean, hdata⟩

/-! ## Streams -/

theorem streamReadahead_happens (gid team q : Nat) {e : Event} (h : memoryEvents (.streamReadahead gid team q) = some e) : Happens (.streamReadahead gid team q) e := by
  obtain rfl := Option.some.inj h
  rintro s ⟨c, i, v, u⟩ ⟨hctx, hi, hfree, hin, hbefore, hread⟩
  have hfind : (List.range 128).find? (fun j => (assoc ((c.g.team team).getQ q).ahead (((c.g.team team).getQ q).pos.toNat + j)).isNone &&
      decide (((c.g.team team).getQ q).pos.toNat + j < ((c.g.team team).getQ q).size)) = some i := by
    refine List.find?_range_eq_some.mpr ⟨?_, List.mem_range.mpr hi, fun j hj => ?_⟩
    · dsimp only at hfree hin
      rw [hfree, decide_eq_true hin]
      rfl
    · rw [Option.isNone_eq_false_iff.mpr (Option.isSome_iff_ne_none.mpr (hbefore j hj))]
      rfl
  refine ⟨_, ?_, rfl⟩
  show execStreamReadahead gid team q s = _
  unfold execStreamReadahead
  dsimp only at hctx hread
  rw [hctx]
  dsimp only
  rw [hfind]
  dsimp only
  rw [hread]

/-! ## The Reservoir's ways -/

theorem steady_part (n : Nat) (k : W32 × Nat) : Steady (fun t => ((t.part n).carve, (t.part n).resDrain) = k) where
  rest := fun s t _ hparts _ _ hq => by
    rwa [show t.part n = s.part n from congrArg (fun l => (List.find? (fun p : Part => p.num == n) l).getD (dfltPart n)) hparts]
  part := fun s m f hf hq => by
    by_cases h : n = m
    · subst h
      rw [State.part_updPart_same s n f (fun x => (hf x).1), (hf _).2.1, (hf _).2.2]
      exact hq
    · rw [State.part_updPart_other s m n f (fun x => (hf x).1) h]
      exact hq
  phys := fun _ _ _ hq => hq

theorem drainWay_part {s : State} {p : Nat} (h : 0 < (s.part p).resDrain) :
    ((s.drainWay p).part p).resDrain = (s.part p).resDrain - 1 ∧ ((s.drainWay p).part p).carve = (s.part p).carve := by
  unfold State.drainWay
  dsimp only
  rw [if_neg (show ¬ ((s.part p).resDrain == 0) = true by rw [beq_iff_eq]; omega)]
  rw [State.part_updPart_same _ p (fun x => { x with resDrain := x.resDrain - 1 }) (fun _ => rfl)]
  obtain ⟨hcarve, hdrain⟩ := Prod.mk.injEq .. ▸ (steady_part p ((s.part p).carve, (s.part p).resDrain)).leaveLlc
    (fun y => (s.overLines p (16 - resways (s.part p).carve + ((s.part p).resDrain - 1))).contains y.line) (s := s) rfl
  exact ⟨congrArg (· - 1) hdrain, hcarve⟩

/-- What a state holds that no writeback touches. -/
theorem leaveLlc_keeps {β : Type} (π : State → β) (hcount : ∀ s part e n q, π (s.count part e n q) = π s)
    (hmem : ∀ s (f : Mem → Mem), (∀ m, (f m).asids = m.asids) → π (s.updMem f) = π s) (s : State) (p : Sector → Bool) : π (s.leaveLlc p) = π s := by
  have hback : ∀ s x, π (s.writeBack x) = π s := by
    intro s x
    unfold State.writeBack
    split
    · dsimp only
      refine (hmem _ _ ?_).trans ?_
      · exact fun _ => rfl
      · split
        · refine (hmem _ _ ?_).trans ?_
          · exact fun _ => rfl
          · cases chanPart x.pa with
            | none => rfl
            | some c => exact hcount s c 8 128 x.qid
        · rfl
    · rfl
  unfold State.leaveLlc
  dsimp only
  refine (hmem _ _ ?_).trans (foldl_keeps π _ hback (s.mem.llc.filter p) s)
  exact fun _ => rfl

theorem carveHeld_updPart (s : State) (n p : Nat) {f : Part → Part} (hf : ∀ x, (f x).num = x.num ∧ (f x).carve = x.carve ∧ (f x).carveOld = x.carveOld) :
    carveHeld (s.updPart n f) p = carveHeld s p := by
  have hmoved : ((s.updPart n f).part p).moved = (s.part p).moved := by
    by_cases h : p = n
    · subst h
      rw [State.part_updPart_same s p f (fun x => (hf x).1)]
      unfold Part.moved
      rw [(hf _).2.1, (hf _).2.2]
    · rw [State.part_updPart_other s n p f (fun x => (hf x).1) h]
  unfold carveHeld
  rw [hmoved]
  rfl

theorem carveHeld_updMem (s : State) (p : Nat) {f : Mem → Mem} (hf : ∀ m, (f m).asids = m.asids) : carveHeld (s.updMem f) p = carveHeld s p := by
  unfold carveHeld
  simp only [partOn_congr (s := s) (u := s.updMem f) (hf s.mem)]
  rfl

theorem carveHeld_drainWay (s : State) (p q : Nat) : carveHeld (s.drainWay p) q = carveHeld s q := by
  unfold State.drainWay
  dsimp only
  split
  · rfl
  · refine (carveHeld_updPart _ p q (f := fun x => { x with resDrain := x.resDrain - 1 }) (fun _ => ⟨rfl, rfl, rfl⟩)).trans ?_
    refine leaveLlc_keeps (fun t => carveHeld t q) (fun s part e n k => ?_) (fun s f hf => carveHeld_updMem s q hf) s _
    have hpart : carveHeld (s.updPart part (Part.bump e n)) q = carveHeld s q := carveHeld_updPart s part q (f := Part.bump e n) (fun _ => ⟨rfl, rfl, rfl⟩)
    cases k <;> exact hpart

/-- PEND cleared. -/
def settledPart (x : Part) : Part := { x with carve := x.carve &&& 0xF7FFFFFF, carveOld := x.carve &&& 0xF7FFFFFF, carvePend := none }

theorem carveSettle_part (s : State) (p : Nat) :
    ((carveSettle s p).part p).resDrain = (s.part p).resDrain ∧
      ((s.part p).carve.getLsbD 27 = true → carveHeld s p = false → (s.part p).resDrain = 0 → ((carveSettle s p).part p).carve.getLsbD 27 = false) := by
  have hbit : ∀ x : W32, (x &&& 0xF7FFFFFF).getLsbD 27 = false := fun x => by simp
  unfold carveSettle
  dsimp only
  split
  next hgo =>
    have hset : (s.updPart p (fun x => { x with carve := (s.part p).carve &&& 0xF7FFFFFF, carveOld := (s.part p).carve &&& 0xF7FFFFFF, carvePend := none })).part p =
        settledPart (s.part p) :=
      State.part_updPart_same s p (fun x => { x with carve := (s.part p).carve &&& 0xF7FFFFFF, carveOld := (s.part p).carve &&& 0xF7FFFFFF, carvePend := none }) (fun _ => rfl)
    split
    next k hk =>
      have hdone := (steady_part p ((settledPart (s.part p)).carve, (settledPart (s.part p)).resDrain)).pendDone k.1 (k.2, p) (by rw [hset])
      obtain ⟨hcarve, hdrain⟩ := Prod.mk.inj hdone
      rw [hcarve, hdrain]
      exact ⟨rfl, fun _ _ _ => hbit _⟩
    · rw [hset]
      exact ⟨rfl, fun _ _ _ => hbit _⟩
  next hstay =>
    refine ⟨rfl, fun h27 hheld hdrain => absurd ?_ hstay⟩
    rw [h27, hheld, hdrain]
    rfl

theorem reservoirWayDrained_happens (part : Nat) {e : Event} (h : memoryEvents (.reservoirWayDrained part) = some e) : Happens (.reservoirWayDrained part) e := by
  obtain rfl := Option.some.inj h
  rintro s _ hdrain
  obtain ⟨hless, hcarve⟩ := drainWay_part hdrain
  obtain ⟨hkept, hclears⟩ := carveSettle_part (s.drainWay part) part
  refine ⟨carveSettle (s.drainWay part) part, rfl, rfl, ?_, fun hlast h27 hheld _ => hclears ?_ ?_ ?_⟩
  · rw [hkept, hless]
    exact Nat.sub_lt hdrain Nat.one_pos
  · rw [hcarve]; exact h27
  · rw [carveHeld_drainWay]; exact hheld
  · rw [hless, hlast]

/-- Settles O23: event by event; what is queued at a slice is performed at its requests' times, and what a walk or a writeback leaves alone
is what the other events speak of. -/
theorem memoryEventsComplete : Obligations.MemoryEventsComplete := by
  intro i e h
  show Happens i e
  unfold memoryEvents at h
  split at h
  · exact storeAcknowledge_happens _ h
  · exact ptsTick_happens _ h
  · exact wcbTimeoutDrain_happens _ h
  · exact sliceOperation_happens _ _ h
  · exact l1Fill_happens _ _ _ h
  · exact llcFill_happens _ _ _ h
  · exact streamReadahead_happens _ _ _ h
  · exact reservoirWayDrained_happens _ h
  · cases h

end Sys2Proof.Rules
end

section
/-! PROOF. Atomics and reductions whose lanes act in several tries (O13, O14). -/

namespace Sys2Proof.Rules
open Sys2Proof.Safety Sys2Proof.Machine

/-! ## Two groups of one identifier

An atomic whose first lane acted in an earlier try ends a wait of its group as its second lane acts. With two groups of one identifier the end of
that wait makes a copy of the first of the second, so that nothing holds the granule of the first lane's word any more, and the lane's address is
checked afresh for the sampler behind that: the sample names one sector where the rule names two. -/

/-- A range in which a debugger may reach the core store, with no queue, no graph and no placed group. -/
def debugRange : RangeSt := { rid := 1, asid := 1, part := 0, h := 64, img := {}, started := false, debug := true }

/-- A core-store address by offset of core 0 is the scalar's value and the offset. -/
def storeBase : W64 := BitVec.ofNat 64 (coreVa 0 0 0)

def offsetThread (lane off : Nat) : Thread := { team := 0, lane := lane, v := (Vector.replicate 64 (0 : W32)).set 1 (BitVec.ofNat 32 off) |>.set 2 1 }

/-- The bundle whose lane 0 has acted in an earlier try. -/
def halfBundle : Bundle := { id := 0, pc := 0x1000, ts := [0, 1], acted := [(0, none)] }

def waitBundle : Bundle := { id := 1, pc := 0x2000, ts := [], st := .poll [{ team := 0, at_ := .phase 0, ne := false, cmp := 1 }], npc := 0x2004, nm := true }

def firstGroup : Group :=
  { id := 0, rid := 1, die := 0, core := 0, part := 0, gseq := 0, shp := (1, 1, 1), base := (0, 0, 0), ext := (1, 1, 1)
    threads := [offsetThread 0 65536, offsetThread 1 32772], teams := [{ idx := 0, s := (Vector.replicate 32 (0 : W64)).set 0 storeBase }], bundles := [halfBundle, waitBundle],
    nextB := 2, scrBase := 32768, scrSize := 64 }

def secondGroup : Group :=
  { id := 0, rid := 1, die := 0, core := 0, part := 0, gseq := 0, shp := (1, 1, 1), base := (0, 0, 0), ext := (1, 1, 1)
    threads := [], teams := [], bundles := [], nextB := 0, scrBase := 65536, scrSize := 4 }

def twinState : State :=
  { cur := some { gid := 0, bid := 0, pc := 0x1000, len := 8, words := 0 }, groups := [firstGroup, secondGroup], ranges := [debugRange], nextGid := 1
    fe := { parts := [{ num := 0, tctl := 0x80000, carve := 0x081E0101, carveOld := 0x001D0201 }] }, mem := { cores := [{ die := 0, num := 0, memOps := 256 }] } }

def twinCtx : Ctx :=
  { g := firstGroup, b := halfBundle, r := debugRange, c := { gid := 0, bid := 0, pc := 0x1000, len := 8, words := 0 }
    act := [0, 1], clk := 0 }

def twinPayload : PfC := { scope := 0, ord := 0, res := 0, lo := 1 }

/-- The word at s0 and v1, with the datum v2: addition, into v3 for ATOM. -/
def twinOp : OpCm := { i := true, s := 0, v := 2, d := 3, g := 7, m := false, p := some twinPayload }

/-- What ATOM and RED of the word name. -/
def twinSpec (late : Bool) : Spec := { g := 7, rd := [.s 0, .v 2, .v 1], wr := if late then [.v 3] else [], late := late }

theorem twin_ready (late : Bool) : Ready (twinSpec late) twinState twinCtx twinState (twinCtx.at_ 7) where
  issues := by cases late <;> rfl
  window := fun r hr n hn => by
    have hall : ∀ late, ∀ r ∈ named (twinSpec late), ∀ n ∈ r.vs, n.toNat < 64 := by decide
    exact hall late r hr n hn
  mode := fun h => by cases late <;> nomatch h
  ended := fun h => by cases late <;> nomatch h
  acts := by cases late <;> rfl
  ctx := by cases late <;> rfl
  poison := by cases late <;> rfl
  whole := fun h => by cases late <;> nomatch h
  arm := fun _ h => by cases late <;> nomatch h
  tokens := fun t ht _ n _ hn => by
    have hp : (twinCtx.g.team t).pend = [] := by
      cases t with
      | zero => rfl
      | succ t => rfl
    simp [Ctx.at_, hp] at hn
  hazards := fun _ _ h hh => nomatch hh
  room := fun _ => by decide
  free := by cases late <;> rfl

/-- How many sectors the samples of a memory name. -/
def sampledSectors (m : Mem) : List (List Nat) := m.cores.map (fun c => c.sampleDue.map (fun x => x.secs.length))

/-- What ATOM does, lane by lane. -/
def twinAtom : Acc := exchanged twinOp 0 (fun c l w => some (word 0 w (c.v l twinOp.v))) twinState (twinCtx.at_ 7)

theorem twinAtom_wait : twinAtom.wait = [] := by rfl

theorem twinAtom_passes : (twinCtx.at_ 7).heldBack twinState true [0, 1] (fun l => releases false (lanesAt twinOp (twinCtx.at_ 7) l)) (lanesAt twinOp (twinCtx.at_ 7)) 4 = false := by
  rfl

theorem twinAtom_rule : sampledSectors (memIssued (twinAtom.done (twinCtx.at_ 7)) (twinCtx.at_ 7) [0, 1]
    (earlier twinOp 0 false twinState (twinCtx.at_ 7) ++ twinAtom.hits) true).mem = [[2]] := by
  decide

theorem twinAtom_run : sampledSectors (memIssued (twinAtom.done (twinCtx.at_ 7)) (twinCtx.at_ 7) [0, 1]
    (earlier twinOp 0 false (twinAtom.done (twinCtx.at_ 7)) (twinCtx.at_ 7) ++ twinAtom.hits) true).mem = [[1]] := by
  decide

theorem fixed_mem {x u : State} {c : Ctx} {byp : List BypVal} {th : Nat → Thread → Thread} {tm : Nat → Team → Team} (h : Fixed x u c byp th tm) : u.mem = x.mem := by
  rw [h.kept.rest]

theorem late_mem {x u : State} {c : Ctx} {ts : List Nat} {o : Outst} (h : Late x u c ts o) : u.mem = x.mem := by
  rw [h.kept.rest]

/-- ATOM.ADD where nothing is held back: the accesses of earlier tries are checked behind those of this one. -/
theorem exec_atomAdd {o : OpCm} {s x : State} {c0 c : Ctx} (h : Ready (atomOf o 0).spec s c0 x c) (hok : (atomOf o 0).ok x c) {a : Acc}
    (ha : exchanged o 0 (fun c l w => some (word 0 w (c.v l o.v))) x c = a) :
    ∃ u, exec (.atomAdd o) s = .next (marked o.m u c) ∧ u.mem = (memIssued (a.done c) c (c.active o.g) (earlier o 0 false (a.done c) c ++ a.hits) true).mem := by
  obtain ⟨hpass, hwait⟩ := hok
  obtain ⟨u, hu, hlate⟩ := lateResult_late (memIssued (a.done c) c (c.active o.g) (earlier o 0 false (a.done c) c ++ a.hits) true) c o.m (c.active o.g)
    { regs := [.v o.d], v := (received c a).map (fun y => (y.1, o.d, BitVec.ofNat 32 y.2)) }
  refine ⟨u, ?_, late_mem hlate⟩
  show atomLanes s o (.v o.v) 0 _ = _
  rw [atomLanes]
  refine (issue_ready h _).trans (congrArg (fun t => (.next t : Out)) ?_)
  refine (if_neg (Bool.eq_false_iff.mp hpass)).trans (Eq.trans ?_ hu)
  subst ha
  unfold Acc.orStall
  exact if_pos (List.isEmpty_iff.mpr hwait)

/-- Refutes O13: the rule says of the sampler that the accesses of an earlier try are those of the state in which the instruction issues; the
machine checks them afresh behind what its own lanes have done, which matters where two groups have one identifier. -/
theorem not_atomicCompletes : ¬ Obligations.AtomicCompletes := by
  intro h
  have hready : Ready (atomOf twinOp 0).spec twinState twinCtx twinState (twinCtx.at_ 7) := twin_ready true
  have hok : (atomOf twinOp 0).ok twinState (twinCtx.at_ 7) := ⟨twinAtom_passes, twinAtom_wait⟩
  obtain ⟨u, hrule, hlate⟩ := h (.atomAdd twinOp) _ rfl _ _ _ _ hready hok
  obtain ⟨v, hrun, hmem⟩ := exec_atomAdd hready hok rfl
  have hsame : u = v := by injection hrule.symm.trans hrun
  have htwo : sampledSectors v.mem = [[2]] := by
    rw [← hsame, late_mem hlate]
    exact twinAtom_rule
  rw [hmem] at htwo
  exact absurd (htwo.symm.trans twinAtom_run) (by decide)

/-- RED adding at the same word. -/
def twinRedOp : OpCm := { twinOp with d := 0 }

/-- What RED does, lane by lane. -/
def twinRed : Acc := reduced twinRedOp twinState (twinCtx.at_ 7)

theorem twinRed_wait : twinRed.wait = [] := by rfl

theorem twinRed_passes : passes twinRedOp true twinState (twinCtx.at_ 7) := by
  rfl

theorem twinRed_rule : sampledSectors (memIssued (twinRed.done (twinCtx.at_ 7)) (twinCtx.at_ 7) [0, 1]
    (earlier twinRedOp 0 true twinState (twinCtx.at_ 7) ++ twinRed.hits)).mem = [[2]] := by
  decide

theorem twinRed_run : sampledSectors (memIssued (twinRed.done (twinCtx.at_ 7)) (twinCtx.at_ 7) [0, 1]
    (earlier twinRedOp 0 true (twinRed.done (twinCtx.at_ 7)) (twinCtx.at_ 7) ++ twinRed.hits)).mem = [[1]] := by
  decide

/-- RED adding where nothing is held back: the accesses of earlier tries are checked behind those of this one. -/
theorem exec_red {o : OpCm} {r : Act} (hr : reductions (.red { o with d := 0 }) = some r) {s x : State} {c0 c : Ctx} (h : Ready r.spec s c0 x c) (hok : r.ok x c) {a : Acc}
    (ha : reduced { o with d := 0 } x c = a) :
    ∃ u, exec (.red { o with d := 0 }) s = .next (marked o.m u c) ∧
      u.mem = (memIssued (a.done c) c (c.active o.g) (earlier { o with d := 0 } 0 true (a.done c) c ++ a.hits)).mem := by
  obtain rfl := Option.some.inj hr
  obtain ⟨hpass, hwait⟩ := hok
  obtain ⟨u, hu, hfix⟩ := noResult_fixed (memIssued (a.done c) c (c.active o.g) (earlier { o with d := 0 } 0 true (a.done c) c ++ a.hits)) c o.m
  refine ⟨u, ?_, fixed_mem hfix⟩
  show execRed { o with d := 0 } s = _
  rw [execRed]
  refine (issue_ready h _).trans (congrArg (fun t => (.next t : Out)) ?_)
  refine (if_neg (Bool.eq_false_iff.mp hpass)).trans (Eq.trans ?_ hu)
  subst ha
  unfold Acc.orStall
  exact if_pos (List.isEmpty_iff.mpr hwait)

/-- Refutes O14, at the state that refutes O13: RED checks the accesses of an earlier try afresh too. -/
theorem not_reductionCompletes : ¬ Obligations.ReductionCompletes := by
  intro h
  obtain ⟨r, hr⟩ : ∃ r, reductions (.red twinRedOp) = some r := ⟨_, rfl⟩
  have hready : Ready r.spec twinState twinCtx twinState (twinCtx.at_ 7) := by
    obtain rfl := Option.some.inj hr
    exact twin_ready false
  have hok : r.ok twinState (twinCtx.at_ 7) := by
    obtain rfl := Option.some.inj hr
    exact ⟨twinRed_passes, twinRed_wait⟩
  obtain ⟨u, hrule, hfix⟩ := h (.red twinRedOp) r hr _ _ _ _ hready hok
  obtain ⟨v, hrun, hmem⟩ := exec_red (o := twinRedOp) hr hready hok rfl
  obtain rfl := Option.some.inj hr
  have hsame : u = v := by injection hrule.symm.trans hrun
  have htwo : sampledSectors v.mem = [[2]] := by
    rw [← hsame, fixed_mem hfix]
    exact twinRed_rule
  rw [hmem] at htwo
  exact absurd (htwo.symm.trans twinRed_run) (by decide)

end Sys2Proof.Rules
end

section
/-! PROOF. Memory stays in its canonical form (O58): the state, the cache hierarchy, the accesses and telemetry.

Each function of the model that answers a state has one lemma, in the order of the model's files: it keeps the memory canonical where it began
canonical. Nearly all of them leave the physical bytes alone or pass them to `State.physWrite`; so a proof is the function's equation and the
lemmas of the functions it calls, which are named in it. A recursion is an induction on its fuel or its list, a fold is `canonical_foldl`. -/

namespace Sys2Proof.Rules
open Sys2Proof.Safety Sys2Proof.Machine

/-- What leaves the physical memory alone, or writes it by `State.physWrite`, keeps it canonical: the rules of `Steady` apply. -/
theorem canonical_steady : Steady Canonical where
  rest := fun s t _ _ h _ hq => by unfold Canonical at *; rw [h]; exact hq
  part := fun _ _ _ _ hq => hq
  phys := fun s a bs hq => Memory.write_wf hq ..

theorem canonical_updGroup (s : State) (gid : Nat) (f : Group → Group) : Canonical (s.updGroup gid f) ↔ Canonical s := Iff.rfl

theorem canonical_updBundle (s : State) (gid bid : Nat) (f : Bundle → Bundle) : Canonical (s.updBundle gid bid f) ↔ Canonical s := Iff.rfl

theorem canonical_updRange (s : State) (rid : Nat) (f : RangeSt → RangeSt) : Canonical (s.updRange rid f) ↔ Canonical s := Iff.rfl

theorem canonical_updCore (s : State) (d c : Nat) (f : CoreSt → CoreSt) : Canonical (s.updCore d c f) ↔ Canonical s := Iff.rfl

theorem canonical_updPkg (s : State) (f : Pkg → Pkg) : Canonical (s.updPkg f) ↔ Canonical s := Iff.rfl

theorem canonical_updSock (s : State) (f : Socket → Socket) : Canonical (s.updSock f) ↔ Canonical s := Iff.rfl

theorem canonical_updEng (s : State) (f : Eng → Eng) : Canonical (s.updEng f) ↔ Canonical s := Iff.rfl

theorem canonical_updFe (s : State) (f : Fe → Fe) : Canonical (s.updFe f) ↔ Canonical s := Iff.rfl

theorem canonical_updFq (s : State) (f : Fq → Fq) : Canonical (s.updFq f) ↔ Canonical s := Iff.rfl

theorem canonical_updPart (s : State) (n : Nat) (f : Part → Part) : Canonical (s.updPart n f) ↔ Canonical s := Iff.rfl

theorem canonical_updQueue (s : State) (n : Nat) (f : Queue → Queue) : Canonical (s.updQueue n f) ↔ Canonical s := Iff.rfl

theorem canonical_updSector (s : State) (a v : Nat) (f : Sector → Sector) : Canonical (s.updSector a v f) ↔ Canonical s := Iff.rfl

theorem canonical_queueRec (s : State) (q : Nat) (f : FRec) : Canonical (s.queueRec q f) ↔ Canonical s := Iff.rfl

theorem canonical_foldl {α : Type} {f : State → α → State} {l : List α} {s : State} (hf : ∀ s a, Canonical s → Canonical (f s a)) (h : Canonical s) :
    Canonical (l.foldl f s) := holds_foldl (fun _ x hs => hf _ x hs) _ h

theorem canonical_foldl_by {α β : Type} (π : β → State) {f : β → α → β} {l : List α} {b : β} (hf : ∀ b a, Canonical (π b) → Canonical (π (f b a)))
    (h : Canonical (π b)) :
    Canonical (π (l.foldl f b)) := by
  induction l generalizing b with
  | nil => exact h
  | cons a l ih => exact ih (hf b a h)

theorem canonical_foldE {α ε : Type} {f : State → α → Except ε State} {l : List α} {s u : State} (hf : ∀ s a u, Canonical s → f s a = .ok u → Canonical u) (h : Canonical s)
    (hu : foldE f l s = .ok u) : Canonical u := Steady.foldE_ok (P := Canonical) (fun x a y hy hx => hf x a y hx hy) l hu h

/-- A team's outcome that keeps memory canonical. -/
def TeamKeeps : TeamRes → Prop
  | .ok s => Canonical s
  | .fault _ _ s => Canonical s
  | .stop k => ∀ s, Canonical s → Canonical (k s)
  | .stall => True

/-- A launch's outcome that keeps memory canonical. -/
def LaunchKeeps : Launched → Prop
  | .ok s _ => Canonical s
  | .refused _ s => Canonical s
  | .waits => True

theorem teamKeeps_fault {a : AFault} {b : W64} {s : State} : TeamKeeps (.fault a b s) ↔ Canonical s := Iff.rfl

theorem teamKeeps_stop {k : State → State} : TeamKeeps (.stop k) ↔ ∀ s, Canonical s → Canonical (k s) := Iff.rfl

theorem canonical_fst_ite {α : Type} {p : Prop} [Decidable p] {a b : State × α} (ha : Canonical a.1) (hb : Canonical b.1) :
    Canonical (if p then a else b).1 := by
  split
  · exact ha
  · exact hb

theorem teamKeeps_ite {p : Prop} [Decidable p] {a b : TeamRes} (ha : TeamKeeps a) (hb : TeamKeeps b) : TeamKeeps (if p then a else b) := by
  split
  · exact ha
  · exact hb

/-! ## The reset state -/

theorem canonical_reset : Canonical State.reset := rfl

/-! ## Faults, counters and the state -/

theorem canonical_updMem {s : State} (f : Mem → Mem) (hf : ∀ m, (f m).phys = m.phys) (h : Canonical s) : Canonical (s.updMem f) :=
  canonical_steady.updMem f hf h

theorem canonical_freshByte {s : State} (h : Canonical s) : Canonical (State.freshByte s).2 :=
  canonical_steady.freshByte (h := h) ..

theorem canonical_freshBytes {s : State} (x1 : ℕ) (h : Canonical s) : Canonical (State.freshBytes s x1).2 :=
  canonical_steady.freshBytes (h := h) ..

theorem canonical_count {s : State} (part e n : ℕ) (qid : Option ℕ) (h : Canonical s) : Canonical (State.count s part e n qid) :=
  canonical_steady.count (h := h) ..

theorem canonical_postEvent {s : State} (part : ℕ) (ev : List Byte) (h : Canonical s) : Canonical (State.postEvent s part ev) :=
  canonical_steady.postEvent (h := h) ..

theorem canonical_deviceRec {s : State} (f : FRec) (h : Canonical s) : Canonical (State.deviceRec s f) :=
  canonical_steady.deviceRec (h := h) ..

theorem canonical_stopGroup {s : State} (gid : ℕ) (f : FRec) (bid : Option ℕ) (skipPc : Option W64) (h : Canonical s) :
    Canonical (stopGroup s gid f bid skipPc) :=
  canonical_steady.stopGroup (h := h) ..

theorem canonical_precise {s : State} (c : Ctx) (code : Code) (cause level : ℕ) (addr detail : W64) (ts : List ℕ) (h : Canonical s) :
    Canonical (precise s c code cause level addr detail ts) := by
  grind [precise, canonical_stopGroup]

theorem canonical_illop {s : State} (c : Ctx) (h : Canonical s) : Canonical (illop s c) :=
  canonical_precise _ _ _ _ _ _ _ h

theorem canonical_qfault {s : State} (c : Ctx) (ts : List ℕ) (h : Canonical s) : Canonical (qfault s c ts) :=
  canonical_precise _ _ _ _ _ _ _ h

theorem canonical_dataFaults {s : State} (c : Ctx) (fs : List DFault) (h : Canonical s) : Canonical (State.dataFaults s c fs) := by
  grind [State.dataFaults, canonical_updBundle]

theorem canonical_endRun {s : State} (gid bid : ℕ) (pc2 : W64) (h : Canonical s) : Canonical (endRun s gid bid pc2) :=
  canonical_steady.endRun (h := h) ..

theorem canonical_finishWait {s : State} (gid bid : ℕ) (h : Canonical s) : Canonical (finishWait s gid bid) :=
  canonical_steady.finishWait (h := h) ..

theorem canonical_stallAt {s : State} (c : Ctx) (h : Canonical s) : Canonical (stallAt s c) :=
  (canonical_updBundle ..).mpr h

theorem canonical_counted {s : State} (c : Ctx) (h : Canonical s) : Canonical (State.counted s c) := by
  grind [State.counted, canonical_count]

theorem canonical_markEnd {s : State} (c : Ctx) (h : Canonical s) : Canonical (markEnd s c) := by
  grind [markEnd, canonical_endRun, canonical_foldl]

theorem canonical_retire {s : State} (c : Ctx) (m done : Bool) (byp : List BypVal) (next : ℕ → W64) (h : Canonical s) :
    Canonical (retire s c m done byp next) := by
  grind [retire, canonical_counted, canonical_updGroup, canonical_markEnd]

theorem canonical_retireNext {s : State} (c : Ctx) (m : Bool) (byp : List BypVal) (h : Canonical s) : Canonical (retireNext s c m byp) :=
  canonical_retire _ _ _ _ _ h

theorem canonical_fixedV {s : State} (c : Ctx) (m t : Bool) (d : BitVec 6) (vals : List (ℕ × W32)) (h : Canonical s) :
    Canonical (fixedV s c m t d vals) := by
  grind [fixedV, canonical_updGroup, canonical_retireNext]

theorem canonical_fixedPair {s : State} (c : Ctx) (m t : Bool) (d : BitVec 6) (vals : List (ℕ × W64)) (h : Canonical s) :
    Canonical (fixedPair s c m t d vals) := by
  grind [fixedPair, canonical_updGroup, canonical_retireNext]

theorem canonical_fixedP {s : State} (c : Ctx) (m : Bool) (d : BitVec 3) (vals : List (ℕ × Bool)) (h : Canonical s) :
    Canonical (fixedP s c m d vals) :=
  canonical_retireNext _ _ _ ((canonical_updGroup ..).mpr h)

theorem canonical_fixedS {s : State} (c : Ctx) (m : Bool) (d : BitVec 6) (vals : List (ℕ × W64)) (h : Canonical s) :
    Canonical (fixedS s c m d vals) :=
  canonical_retireNext _ _ _ ((canonical_updGroup ..).mpr h)

theorem canonical_noResult {s : State} (c : Ctx) (m : Bool) (h : Canonical s) : Canonical (noResult s c m) :=
  canonical_retireNext _ _ _ h

theorem canonical_lateResult {s : State} (c : Ctx) (m : Bool) (ts : List ℕ) (o : Outst) (h : Canonical s) : Canonical (lateResult s c m ts o) := by
  grind [lateResult, canonical_updGroup, canonical_retireNext]

theorem canonical_resumeGroup {s : State} (gid : ℕ) (skip : Bool) (h : Canonical s) : Canonical (resumeGroup s gid skip) := by
  grind [resumeGroup, canonical_updEng, canonical_updGroup]

/-! ## The cache hierarchy -/

theorem canonical_physWrite {s : State} (a : ℕ) (bs : List Byte) (h : Canonical s) : Canonical (s.physWrite a bs) :=
  canonical_steady.phys s a bs h

theorem canonical_translate {s : State} (asid va k : ℕ) (q : Option ℕ) (h : Canonical s) {t : Tlb} {u : State} (hu : translate s asid va k q = .ok t u) : Canonical u := by
  have hw := canonical_steady.walks.translate asid va k q h
  rw [hu] at hw
  exact hw

theorem canonical_writeBack {s : State} (x1 : Sector) (h : Canonical s) : Canonical (State.writeBack s x1) :=
  canonical_steady.writeBack (h := h) ..

theorem canonical_leaveLlc {s : State} (p : Sector → Bool) (h : Canonical s) : Canonical (State.leaveLlc s p) :=
  canonical_steady.leaveLlc (h := h) ..

theorem canonical_drainWay {s : State} (p : ℕ) (h : Canonical s) : Canonical (State.drainWay s p) := by
  grind [State.drainWay, canonical_leaveLlc, canonical_updPart]

theorem canonical_drainWays {s : State} (p x1 : ℕ) (h : Canonical s) : Canonical (State.drainWays s p x1) := by
  induction x1 generalizing s <;> grind [State.drainWays, canonical_drainWay]

theorem canonical_poisonRec {s : State} (f : AFault) (h : Canonical s) : Canonical (State.poisonRec s f) :=
  canonical_steady.poisonRec (h := h) ..

theorem canonical_retest {s : State} (sel : Group → Bool) (f : Group → PollAt → Option ℕ) (t : ℕ) (stale : L1Line → Bool) (h : Canonical s) :
    Canonical (retest s sel f t stale) :=
  canonical_steady.retest (h := h) ..

theorem canonical_slicePut {s : State} (asid va : ℕ) (bs : List (ℕ × Byte)) (pts : ℕ) (h : Canonical s) :
    Canonical (State.slicePut s asid va bs pts).1 :=
  canonical_steady.slicePut (h := h) ..

theorem canonical_llcFill {s : State} (w : Who) (va : ℕ) (write : Bool) (h : Canonical s) {u : State} (hu : llcFill s w va write = .ok u) :
    Canonical u :=
  canonical_steady.llcFill (hu := hu) (h := h) ..

theorem canonical_peerPa {s : State} (w : Who) (va : ℕ) (write : Bool) (h : Canonical s) {u : Option ℕ × State} (hu : peerPa s w va write = .ok u)
    :
    Canonical u.2 :=
  canonical_steady.peerPa (hu := hu) (h := h) ..

theorem canonical_refusedStore {s : State} (x1 : ℕ × ℕ × W32 × W64 × List Byte) (h : Canonical s) : Canonical (refusedStore s x1) :=
  canonical_steady.refusedStore (h := h) ..

theorem canonical_peerSend {s : State} (w : Who) (pa : ℕ) (bs : List Byte) (h : Canonical s) : Canonical (peerSend s w pa bs) :=
  canonical_steady.peerSend (h := h) ..

theorem canonical_peerStore {s : State} (w : Who) (pa : ℕ) (bs : List Byte) (h : Canonical s) : Canonical (peerStore s w pa bs) :=
  canonical_steady.peerStore (h := h) ..

theorem canonical_peerAnswer {s : State} (h : Canonical s) : Canonical (peerAnswer s).2 :=
  canonical_steady.peerAnswer (h := h) ..

theorem canonical_sliceNext {s : State} (asid sv : ℕ) (h : Canonical s) : Canonical (sliceNext s asid sv) :=
  canonical_steady.sliceNext (h := h) ..

theorem canonical_performSector {s : State} (asid sv : ℕ) (h : Canonical s) : Canonical (performSector s asid sv) :=
  canonical_steady.performSector (h := h) ..

theorem canonical_countAdd {s : State} (rid addr : ℕ) (h : Canonical s) : Canonical (State.countAdd s rid addr) :=
  (canonical_updRange ..).mpr h

theorem canonical_drainOne {s : State} (die core : ℕ) (h : Canonical s) : Canonical (drainOne s die core) :=
  canonical_steady.drainOne (h := h) ..

theorem canonical_drainAll {s : State} (die core : ℕ) (h : Canonical s) : Canonical (drainAll s die core) :=
  canonical_steady.drainAll (h := h) ..

theorem canonical_takeAcks {s : State} (die core : ℕ) (h : Canonical s) : Canonical (takeAcks s die core) :=
  canonical_steady.takeAcks (h := h) ..

theorem canonical_releaseCore {s : State} (die core : ℕ) (h : Canonical s) : Canonical (releaseCore s die core) :=
  canonical_steady.releaseCore (h := h) ..

theorem canonical_fenceSy {s : State} (die core : ℕ) (h : Canonical s) : Canonical (fenceSy s die core) :=
  (canonical_updCore ..).mpr (canonical_releaseCore _ _ h)

theorem canonical_drainThrough {s : State} (die core : ℕ) (asid sv : ℕ) (h : Canonical s) : Canonical (drainThrough s die core asid sv) :=
  canonical_steady.drainThrough (h := h) ..

theorem canonical_wcbStore {s : State} (die core : ℕ) (asid sv : ℕ) (bs : List (ℕ × Byte)) (h : Canonical s) :
    Canonical (wcbStore s die core asid sv bs) := by
  grind [wcbStore, canonical_updCore, canonical_drainOne, canonical_drainThrough]

theorem canonical_wcbRed {s : State} (die core : ℕ) (asid sv : ℕ) (r : RedReq) (h : Canonical s) : Canonical (wcbRed s die core asid sv r) := by
  grind [wcbRed, canonical_updCore, canonical_drainOne, canonical_drainThrough]

theorem canonical_settleOwn {s : State} (w : Who) (va : ℕ) (h : Canonical s) : Canonical (settleOwn s w va) := by
  grind [settleOwn, canonical_drainThrough, canonical_performSector]

theorem canonical_l1Fill {s : State} (w : Who) (va : ℕ) (uo : Bool) (h : Canonical s) : Canonical (l1Fill s w va uo) := by
  grind [l1Fill, canonical_updCore, canonical_updSector, canonical_settleOwn]

theorem canonical_seen {s : State} (w : Who) (va wts : ℕ) (h : Canonical s) : Canonical (State.seen s w va wts) :=
  canonical_steady.seen (h := h) ..

theorem canonical_settleAll {s : State} (w : Who) (va : ℕ) (h : Canonical s) : Canonical (settleAll s w va) :=
  canonical_steady.settleAll (h := h) ..

theorem canonical_sliceRead {s : State} (w : Who) (va n : ℕ) (h : Canonical s) : Canonical (sliceRead s w va n).2 := by
  grind [sliceRead, canonical_seen, canonical_settleAll]

theorem canonical_acqPeer {s : State} (w : Who) (h : Canonical s) : Canonical (State.acqPeer s w) :=
  (canonical_updCore ..).mpr h

theorem canonical_loadGlobal {s : State} (w : Who) (va n : ℕ) (acq : Bool) (h : Canonical s) {u : List Byte × State}
    (hu : loadGlobal s w va n acq = .ok u) :
    Canonical u.2 := by
  grind [loadGlobal, canonical_acqPeer, canonical_count, canonical_freshBytes, canonical_updCore, canonical_l1Fill, → canonical_llcFill,
      canonical_peerAnswer, → canonical_peerPa, canonical_releaseCore, canonical_settleAll, canonical_sliceRead]

theorem canonical_storeGlobal {s : State} (w : Who) (va : ℕ) (bs : List Byte) (rel : Bool) (h : Canonical s) {u : State}
    (hu : storeGlobal s w va bs rel = .ok u) :
    Canonical u := by
  grind [storeGlobal, canonical_slicePut, canonical_updCore, → canonical_llcFill, → canonical_peerPa, canonical_peerStore, canonical_performSector,
      canonical_releaseCore, canonical_settleAll, canonical_wcbStore]

theorem canonical_rmwSlice {s : State} (w : Who) (va n : ℕ) (f : ℕ → Option ℕ) (h : Canonical s) {u : ℕ × State}
    (hu : rmwSlice s w va n f = .ok u) :
    Canonical u.2 := by
  unfold rmwSlice at hu
  (repeat' split at hu) <;> grind [canonical_acqPeer, canonical_freshBytes, canonical_seen, canonical_slicePut, canonical_updCore,
      → canonical_llcFill, canonical_peerAnswer, → canonical_peerPa, canonical_peerSend, canonical_settleAll, canonical_takeAcks]

theorem canonical_heal {s : State} (sec : ℕ) (h : Canonical s) : Canonical (State.heal s sec) :=
  canonical_steady.heal (h := h) ..

theorem canonical_soRelease {s : State} (w : Who) (va : ℕ) (h : Canonical s) : Canonical (soRelease s w va) :=
  canonical_steady.soRelease (h := h) ..

theorem canonical_agentWrite {s : State} (w : Who) (va : ℕ) (bs : List Byte) (h : Canonical s) {u : State} (hu : agentWrite s w va bs = .ok u) :
    Canonical u :=
  canonical_steady.agentWrite (hu := hu) (h := h) ..

theorem canonical_agentRead {s : State} (w : Who) (va n : ℕ) (h : Canonical s) {u : List Byte × State} (hu : agentRead s w va n = .ok u) :
    Canonical u.2 :=
  canonical_steady.agentRead (hu := hu) (h := h) ..

theorem canonical_wakePhys {s : State} (pa : ℕ) (h : Canonical s) : Canonical (State.wakePhys s pa) := by
  grind [State.wakePhys, canonical_retest, → canonical_translate]

theorem canonical_paPut {s : State} (pts : ℕ) (x1 : ℕ × List Byte) (h : Canonical s) : Canonical (State.paPut s pts x1) := by
  grind [State.paPut, canonical_heal, canonical_physWrite, canonical_slicePut, canonical_updMem, canonical_wakePhys, canonical_performSector,
      canonical_foldl]

theorem canonical_guestFlush {s : State} (p : ℕ → Bool) (h : Canonical s) : Canonical (State.guestFlush s p) := by
  grind [State.guestFlush, canonical_paPut, canonical_updSock, canonical_foldl]

theorem canonical_paWrite {s : State} (pa : ℕ) (bs : List Byte) (h : Canonical s) : Canonical (State.paWrite s pa bs) := by
  grind [State.paWrite, canonical_guestFlush, canonical_paPut, canonical_foldl]

/-! ## Accesses of the lanes -/

theorem canonical_storeWrite1 {s : State} (die core off : ℕ) (b : Byte) (h : Canonical s) : Canonical (State.storeWrite1 s die core off b) := by
  grind [State.storeWrite1, canonical_updGroup]

theorem canonical_wakeScr {s : State} (gid : ℕ) (h : Canonical s) : Canonical (State.wakeScr s gid) :=
  canonical_retest _ _ _ _ h

theorem canonical_storeWrite {s : State} (die core off : ℕ) (bs : List Byte) (h : Canonical s) : Canonical (State.storeWrite s die core off bs) :=
    by
  grind [State.storeWrite, canonical_storeWrite1, canonical_wakeScr, canonical_foldl]

theorem canonical_coreHeal {s : State} (die num : ℕ) (off n : ℕ) (h : Canonical s) : Canonical (State.coreHeal s die num off n) := by
  grind [State.coreHeal, canonical_updGroup, canonical_updMem, canonical_foldl]

theorem canonical_scrWrite {s : State} (gid off : ℕ) (bs : List Byte) (h : Canonical s) : Canonical (State.scrWrite s gid off bs) := by
  grind [State.scrWrite, canonical_coreHeal, canonical_updGroup, canonical_wakeScr]

theorem canonical_cellPut {s : State} (rid die c : ℕ) (x1 : Cell) (h : Canonical s) : Canonical (State.cellPut s rid die c x1) :=
  (canonical_updRange ..).mpr h

theorem canonical_resvReady {s : State} (rid die off : ℕ) (h : Canonical s) : Canonical (State.resvReady s rid die off) := by
  grind [State.resvReady, canonical_drainWays]

theorem canonical_resvWrite {s : State} (rid die off : ℕ) (bs : List Byte) (h : Canonical s) : Canonical (State.resvWrite s rid die off bs) :=
  (canonical_updRange ..).mpr h

theorem canonical_resvSeen {s : State} (w : Who) (die : ℕ) (cell : Bool) (k : ℕ) (write : Bool) (h : Canonical s) :
    Canonical (State.resvSeen s w die cell k write) := by
  grind [State.resvSeen, canonical_updCore, canonical_updRange]

theorem canonical_resHeal {s : State} (w : Who) (die off n : ℕ) (h : Canonical s) : Canonical (State.resHeal s w die off n) := by
  grind [State.resHeal, canonical_updMem]

theorem canonical_cellHeal {s : State} (w : Who) (die c : ℕ) (h : Canonical s) : Canonical (State.cellHeal s w die c) := by
  grind [State.cellHeal, canonical_updMem]

theorem canonical_relAt {s : State} (w : Who) (t : Tgt) (rel : Bool) (h : Canonical s) : Canonical (relAt s w t rel) := by
  unfold relAt
  grind [canonical_resvReady, canonical_updCore, canonical_releaseCore]

theorem canonical_acqAt {s : State} (w : Who) (t : Tgt) (acq : Bool) (h : Canonical s) : Canonical (acqAt s w t acq) := by
  unfold acqAt
  grind [canonical_updCore]

theorem canonical_tgtLoad {s : State} (w : Who) (t : Tgt) (n : ℕ) (acq : Bool) (h : Canonical s) {u : List Byte × State}
    (hu : tgtLoad s w t n acq = .ok u) :
    Canonical u.2 := by
  unfold tgtLoad at hu
  grind [canonical_resvReady, canonical_resvSeen, canonical_acqAt, → canonical_loadGlobal]

theorem canonical_tgtStore {s : State} (w : Who) (t : Tgt) (bs : List Byte) (rel : Bool) (h : Canonical s) {u : State}
    (hu : tgtStore s w t bs rel = .ok u) :
    Canonical u := by
  unfold tgtStore at hu
  grind [canonical_cellHeal, canonical_cellPut, canonical_coreHeal, canonical_resHeal, canonical_resvSeen, canonical_resvWrite, canonical_scrWrite,
      canonical_storeWrite, canonical_relAt, → canonical_storeGlobal]

theorem canonical_noteWatch {s : State} (c : Ctx) (hs : List Hit) (h : Canonical s) : Canonical (noteWatch s c hs) := by
  grind [noteWatch, canonical_updBundle]

theorem canonical_acc_lane {a : Acc} (c : Ctx) (t : ℕ) (addr : W64) (n : ℕ) (k : AKind) (res : Bool) (chk : State → Except AFault Tgt)
    (run : Who → State → Tgt → Except AFault (ℕ × State)) (hr : ∀ w x tg y, Canonical x → run w x tg = .ok y → Canonical y.2) (ha : Canonical a.s)
    :
    Canonical (a.lane c t addr n k res chk run).s := by
  grind [Acc.lane, canonical_poisonRec, canonical_releaseCore]

theorem canonical_acc_done {a : Acc} (c : Ctx) (ha : Canonical a.s) : Canonical (Acc.done a c) :=
  canonical_noteWatch _ _ (canonical_dataFaults _ _ ha)

theorem canonical_loads {s : State} (c : Ctx) (n : ℕ) (acq res : Bool) (ts : List (ℕ × W64)) (chk : State → ℕ → W64 → Except AFault Tgt)
    (h : Canonical s) :
    Canonical (loads s c n acq res ts chk).s := by
  refine canonical_foldl_by Acc.s (fun a t ha => canonical_acc_lane _ _ _ _ _ _ _ _ ?_ ha) h
  grind [→ canonical_tgtLoad]

theorem canonical_stores {s : State} (c : Ctx) (n : ℕ) (rel : Bool) (ts : List (ℕ × W64 × ℕ)) (chk : State → ℕ → W64 → Except AFault Tgt)
    (h : Canonical s) :
    Canonical (stores s c n rel ts chk).s := by
  refine canonical_foldl_by Acc.s (fun a t ha => canonical_acc_lane _ _ _ _ _ _ _ _ ?_ ha) h
  grind [→ canonical_tgtStore]

/-! ## Trace and log -/

theorem canonical_ringPut {s : State} (r : ℕ × ℕ) (prod : W64) (bs : List Byte) (h : Canonical s) : Canonical (ringPut s r prod bs) := by
  grind [ringPut, canonical_paWrite, canonical_foldl]

theorem canonical_ringAdd {s : State} (r : ℕ × ℕ) (prod : W64) (tl : Tail) (key : ℕ) (bs : List Byte) (h : Canonical s) :
    Canonical (ringAdd s r prod tl key bs).1 :=
  canonical_ringPut _ _ _ h

theorem canonical_tracePut {s : State} (pn : ℕ) (bs : List Byte) (key : Option ℕ) (h : Canonical s) : Canonical (tracePut s pn bs key) := by
  grind [tracePut, canonical_updPart, canonical_ringAdd, canonical_ringPut]

theorem canonical_traceSyncNow {s : State} (pn : ℕ) (h : Canonical s) : Canonical (traceSyncNow s pn) :=
  (canonical_updPart ..).mpr (canonical_tracePut _ _ _ h)

theorem canonical_traceLostNow {s : State} (pn : ℕ) (h : Canonical s) : Canonical (traceLostNow s pn) := by
  grind [traceLostNow, canonical_updPart, canonical_tracePut, canonical_traceSyncNow]

theorem canonical_traceWrite {s : State} (pn key : ℕ) (ps : List (List Byte)) (h : Canonical s) : Canonical (traceWrite s pn key ps) := by
  grind [traceWrite, canonical_updPart, canonical_traceLostNow, canonical_tracePut, canonical_traceSyncNow, canonical_foldl]

theorem canonical_logPut {s : State} (pn key : ℕ) (bs : List Byte) (h : Canonical s) : Canonical (logPut s pn key bs).1 := by
  grind [logPut, Canonical, State.updMem, canonical_updPart, canonical_ringAdd, canonical_ringPut]

theorem canonical_logRange {s : State} (pn key : ℕ) (r : RangeSt) (bs : List Byte) (h : Canonical s) : Canonical (logRange s pn key r bs) := by
  grind [logRange, canonical_logPut]

theorem canonical_orderEntry {s : State} (pn key : ℕ) (rid addr : ℕ) (gseq pc : W64) (h : Canonical s) :
    Canonical (orderEntry s pn key rid addr gseq pc) := by
  grind [orderEntry, canonical_countAdd, canonical_logRange]

theorem canonical_popEntry {s : State} (pn key : ℕ) (r : RangeSt) (gseq ticket : W64) (h : Canonical s) :
    Canonical (popEntry s pn key r gseq ticket) :=
  canonical_logRange _ _ _ _ h

theorem canonical_samplesOver {s : State} (h : Canonical s) : Canonical (samplesOver s) := by
  grind [samplesOver, canonical_updMem]

theorem canonical_memIssued {s : State} (c : Ctx) (ts : List ℕ) (hits : List Hit) (late : Bool) (h : Canonical s) :
    Canonical (memIssued s c ts hits late) := by
  grind [memIssued, canonical_count, canonical_updCore, canonical_updPkg]

theorem canonical_samplePut {s : State} (pn : ℕ) (b : List Byte) (h : Canonical s) : Canonical (samplePut s pn b) := by
  grind [samplePut, canonical_updPart, canonical_ringPut]

end Sys2Proof.Rules
end

section
/-! PROOF. Memory stays canonical (O58): waits, operands, engines, copies and rings. -/

namespace Sys2Proof.Rules
open Sys2Proof.Safety Sys2Proof.Machine

/-! ## Sluices -/

theorem canonical_updGraph {s : State} (rid : ℕ) (f : Graph → Graph) (h : Canonical s) : Canonical (State.updGraph s rid f) :=
  (canonical_updRange ..).mpr h

theorem canonical_sluRead {s : State} (w : Who) (va n : ℕ) (h : Canonical s) {u : ℕ × State} (hu : sluRead s w va n = .ok u) : Canonical u.2 := by
  grind [sluRead, → canonical_agentRead]

theorem canonical_sluWrite {s : State} (w : Who) (va : ℕ) (bs : List Byte) (h : Canonical s) {u : State} (hu : sluWrite s w va bs = .ok u) :
    Canonical u := by
  grind [sluWrite, → canonical_agentWrite]

theorem canonical_sluWord {s : State} (w : Who) (base : W64) (i : ℕ) (h : Canonical s) {u : ℕ × State} (hu : sluWord s w base i = .ok u) :
    Canonical u.2 :=
  canonical_sluRead _ _ _ h hu

theorem canonical_mapBit {s : State} (w : Who) (g : Graph) (i v : ℕ) (h : Canonical s) {u : Bool × State} (hu : mapBit s w g i v = .ok u) :
    Canonical u.2 := by
  grind [mapBit, → canonical_sluRead]

theorem canonical_mapSet {s : State} (w : Who) (g : Graph) (i v : ℕ) (h : Canonical s) {u : State} (hu : mapSet s w g i v = .ok u) : Canonical u :=
    by
  grind [mapSet, → canonical_sluRead, → canonical_sluWrite]

theorem canonical_mapWrite {s : State} (w : Who) (g : Graph) (i : ℕ) (bs : List Byte) (h : Canonical s) {u : State}
    (hu : mapWrite s w g i bs = .ok u) :
    Canonical u := by
  grind [mapWrite, → canonical_agentWrite, → canonical_foldE]

theorem canonical_mapRead {s : State} (w : Who) (g : Graph) (i : ℕ) (h : Canonical s) {u : List Byte × State} (hu : mapRead s w g i = .ok u) : Canonical u.2 := by
  refine Steady.foldE_ok (P := fun x : List Byte × State => Canonical x.2) (fun x a y hy hx => ?_) _ hu h
  split at hy
  next b t hb =>
    have ht := canonical_agentRead _ _ _ hx hb
    cases hy
    exact ht
  · cases hy

theorem canonical_graphStart {s : State} (rid gid : ℕ) (h : Canonical s) {u : State} (hu : graphStart s rid gid = .ok u) : Canonical u := by
  unfold graphStart at hu
  (repeat' split at hu) <;> grind [canonical_updGraph, → canonical_mapSet, → canonical_mapWrite, → canonical_sluRead, → canonical_foldE]

theorem canonical_rowOf {s : State} (w : Who) (base : W64) (g : Graph) (i : ℕ) (h : Canonical s) {u : ℕ × ℕ × State}
    (hu : rowOf s w base g i = .ok u) :
    Canonical u.2.2 := by
  grind [rowOf, → canonical_sluWord]

theorem canonical_activate {s : State} (rid gid t : ℕ) (h : Canonical s) {u : State} (hu : activate s rid gid t = .ok u) : Canonical u := by
  unfold activate at hu
  dsimp only at hu
  (repeat' split at hu) <;> grind [canonical_updGraph, → canonical_mapBit, → canonical_mapSet, → canonical_rowOf, → canonical_sluWrite]

theorem canonical_doActsN {s : State} (rid x1 : ℕ) (h : Canonical s) : Canonical (doActsN s rid x1).1 := by
  induction x1 generalizing s <;> grind [doActsN, canonical_updGraph, → canonical_activate]

theorem canonical_doActs {s : State} (rid : ℕ) (h : Canonical s) : Canonical (doActs s rid).1 :=
  canonical_doActsN _ _ h

theorem canonical_askAct {s : State} (rid gid t : ℕ) (pc : W64) (h : Canonical s) : Canonical (askAct s rid gid t pc) :=
  canonical_doActs _ (canonical_updGraph _ _ h)

theorem canonical_sluRmw {s : State} (w : Who) (va : ℕ) (f : W32 → W32) (h : Canonical s) {u : W32 × State} (hu : sluRmw s w va f = .ok u) :
    Canonical u.2 := by
  grind [sluRmw, → canonical_rmwSlice, → canonical_sluRead, → canonical_sluWrite, canonical_soRelease]

theorem canonical_stateComb {s : State} (rid : ℕ) (h0 : Comb) (h : Canonical s) {u : State} (hu : stateComb s rid h0 = .ok u) : Canonical u := by
  grind [stateComb, canonical_askAct, → canonical_sluRmw]

theorem canonical_flushN {s : State} (rid die x1 : ℕ) (h : Canonical s) : Canonical (flushN s rid die x1).1 := by
  induction x1 generalizing s <;> grind [flushN, canonical_updGraph, → canonical_stateComb]

theorem canonical_flush {s : State} (rid die : ℕ) (h : Canonical s) : Canonical (flush s rid die).1 :=
  canonical_flushN _ _ _ h

theorem canonical_endWalks {s : State} (rid die : ℕ) (p : DrawWalk → Bool) (h : Canonical s) : Canonical (endWalks s rid die p) :=
  canonical_flush _ _ (canonical_updGraph _ _ h)

theorem canonical_midSwitch {s : State} (rid die : ℕ) (h : Canonical s) : Canonical (midSwitch s rid die) := by
  grind [midSwitch, canonical_updGraph, canonical_endWalks]

theorem canonical_edgeWord {s : State} (w : Who) (base : W64) (e : ℕ) (h : Canonical s) {u : ℕ × State} (hu : edgeWord s w base e = .ok u) :
    Canonical u.2 := by
  grind [edgeWord, → canonical_sluWord]

theorem canonical_spillGo (w : Who) (g : Graph) (no n : ℕ) {s : State} (x : Sluice) (h : Canonical s) {u : Option Triple × Sluice × State}
    (hu : spillGo w g no n s x = .ok u) :
    Canonical u.2.2 := by
  induction n generalizing s x with
  | zero => grind [spillGo]
  | succ n ih =>
    unfold spillGo at hu
    dsimp only at hu
    (repeat' split at hu) <;> grind [→ canonical_edgeWord, → canonical_rowOf, → canonical_sluRead, → canonical_sluWord]

theorem canonical_inScan (w : Who) (g : Graph) (x1 : ℕ) {x2 : State} (x3 : ℕ) (hx2 : Canonical x2) {u : Option (ℕ × ℕ) × State}
    (hu : inScan w g x1 x2 x3 = .ok u) :
    Canonical u.2 := by
  induction x1 generalizing x2 x3 <;> grind [inScan, → canonical_mapBit, → canonical_sluWord]

theorem canonical_drawTriple {s : State} (w : Who) (g : Graph) (t : ℕ) (f : ℕ × ℕ) (h : Canonical s) {u : Triple × State}
    (hu : drawTriple s w g t f = .ok u) :
    Canonical u.2 := by
  grind [drawTriple, → canonical_edgeWord]

theorem canonical_drawGo (w : Who) (g : Graph) (no gid tid : ℕ) (pc : W64) (n : ℕ) {s : State} (x : Sluice) (h : Canonical s)
    {u : Option Triple × Sluice × State} (hu : drawGo w g no gid tid pc n s x = .ok u) :
    Canonical u.2.2 := by
  induction n generalizing s x with
  | zero => grind [drawGo]
  | succ n ih =>
    unfold drawGo at hu
    dsimp only at hu
    (repeat' split at hu) <;> grind [→ canonical_mapBit, → canonical_rowOf, → canonical_inScan, → canonical_drawTriple]

theorem canonical_drawOn {s : State} (w : Who) (g : Graph) (d : DrawWalk) (h : Canonical s) {u : Option (Triple × ℕ) × State}
    (hu : drawOn s w g d = .ok u) :
    Canonical u.2 := by
  grind [drawOn, → canonical_drawTriple, → canonical_inScan, → canonical_rowOf]

theorem canonical_newTriple {s : State} (rid die : ℕ) (gid tid : ℕ) (pc : W64) (h : Canonical s) {u : Option Triple × State}
    (hu : newTriple s rid die gid tid pc = .ok u) :
    Canonical u.2 := by
  grind [newTriple, canonical_count, canonical_updGraph, → canonical_drawGo, → canonical_spillGo]

theorem canonical_sluTake {s : State} (rid die : ℕ) (gid tid : ℕ) (pc : W64) (h : Canonical s) {u : Option Triple × State}
    (hu : sluTake s rid die gid tid pc = .ok u) :
    Canonical u.2 := by
  unfold sluTake at hu
  dsimp only at hu
  (repeat' split at hu) <;> grind [canonical_count, canonical_updGraph, → canonical_drawOn, canonical_endWalks, → canonical_graphStart,
      canonical_midSwitch, → canonical_newTriple]

theorem canonical_combsGoN {s : State} (rid x1 : ℕ) (h : Canonical s) : Canonical (combsGoN s rid x1).1 := by
  induction x1 generalizing s <;> grind [combsGoN, canonical_updGraph, → canonical_stateComb]

theorem canonical_combsGo {s : State} (rid : ℕ) (h : Canonical s) : Canonical (combsGo s rid).1 :=
  canonical_combsGoN _ _ h

theorem canonical_logqRunN {s : State} (rid x1 : ℕ) (h : Canonical s) : Canonical (logqRunN s rid x1).1 := by
  induction x1 generalizing s <;> grind [logqRunN, canonical_updGraph, → canonical_stateComb]

theorem canonical_logqRun {s : State} (rid : ℕ) (h : Canonical s) : Canonical (logqRun s rid).1 :=
  canonical_logqRunN _ _ h

theorem canonical_graphLaunch {s : State} (rid : ℕ) (h : Canonical s) : Canonical (graphLaunch s rid) := by
  grind [graphLaunch, canonical_updGraph, → canonical_graphStart]

/-! ## Waits and what satisfies them -/

theorem canonical_park {s : State} (c : Ctx) (m done : Bool) (ts : List ℕ) (st : BStatus) (h : Canonical s) : Canonical (park s c m done ts st) :=
    by
  grind [park, canonical_count, canonical_updGroup, canonical_endRun]

theorem canonical_rearrive {s : State} (gid : ℕ) (b : Bundle) (m : BitVec 4) (h : Canonical s) : Canonical (rearrive s gid b m) := by
  grind [rearrive, canonical_updBundle, canonical_updGroup, canonical_finishWait, canonical_stopGroup]

theorem canonical_barDone {s : State} (gid : ℕ) (h : Canonical s) : Canonical (barDone s gid) := by
  grind [barDone, canonical_updGroup, canonical_finishWait, canonical_foldl]

theorem canonical_gbarDone {s : State} (rid : ℕ) (h : Canonical s) : Canonical (gbarDone s rid) := by
  grind [gbarDone, canonical_updCore, canonical_updRange, canonical_finishWait, canonical_logqRun, canonical_releaseCore, canonical_foldl]

theorem canonical_drawDue {s : State} (die core : ℕ) (h : Canonical s) : Canonical (drawDue s die core) := by
  grind [drawDue, canonical_updGroup, canonical_foldl]

theorem canonical_servePop {s : State} (gid bid : ℕ) (p : PendRes) (uid : ℕ) (h : Canonical s) : Canonical (servePop s gid bid p uid) := by
  unfold servePop
  split
  · exact h
  · exact h
  next =>
    split
    · exact h
    split
    · exact h
    extract_lets finish
    have hf : ∀ s x, Canonical s → Canonical (finish s x) := fun s x hs => (canonical_updBundle ..).mpr hs
    clear_value finish
    split
    next r _ d i e _ =>
      dsimp only
      split
      · exact h
      · refine hf _ _ (canonical_popEntry _ _ _ _ _ ((canonical_updGroup ..).mpr (canonical_scrWrite _ _ _ ?_)))
        split
        · exact (canonical_updCore ..).mpr (canonical_releaseCore _ _ ((canonical_updRange ..).mpr h))
        · exact (canonical_updRange ..).mpr h
    next =>
      split
      · exact hf _ _ h
      · exact h

theorem canonical_closeQueues {s : State} (rid : ℕ) (h : Canonical s) : Canonical (closeQueues s rid) := by
  grind [closeQueues, canonical_updRange]

theorem canonical_serveClaim {s : State} (gid bid : ℕ) (p : PendRes) (uid : ℕ) (h : Canonical s) : Canonical (serveClaim s gid bid p uid) := by
  unfold serveClaim
  grind [canonical_updBundle, canonical_updGroup]

theorem canonical_serveEnextN (gid bid uid : ℕ) (pk : BitVec 3) (pc : W64) {s : State} (x1 : List ℕ) (h : Canonical s) :
    Canonical (serveEnextN gid bid uid pk pc s x1).1 := by
  induction x1 generalizing s <;> grind [serveEnextN, canonical_updBundle, → canonical_sluTake]

theorem canonical_serveEnext {s : State} (gid bid : ℕ) (p : PendRes) (uid : ℕ) (h : Canonical s) : Canonical (serveEnext s gid bid p uid) := by
  unfold serveEnext
  grind [canonical_updBundle, canonical_serveEnextN]

theorem canonical_servePending {s : State} (gid : ℕ) (h : Canonical s) : Canonical (servePending s gid) := by
  grind [servePending, canonical_serveClaim, canonical_serveEnext, canonical_servePop, canonical_foldl]

theorem canonical_parkPops {s : State} (gid : ℕ) (h : Canonical s) : Canonical (parkPops s gid) :=
  (canonical_updGroup ..).mpr h

theorem canonical_drainDone {s : State} (gid : ℕ) (h : Canonical s) : Canonical (drainDone s gid) := by
  grind [drainDone, canonical_endRun, canonical_foldl]

theorem canonical_behindDone {s : State} (gid : ℕ) (h : Canonical s) : Canonical (behindDone s gid) := by
  grind [behindDone, canonical_rearrive, canonical_foldl]

theorem canonical_wakeStalled {s : State} (gid : ℕ) (h : Canonical s) : Canonical (wakeStalled s gid) :=
  (canonical_updGroup ..).mpr h

theorem canonical_settleGroup {s : State} (gid : ℕ) (h : Canonical s) : Canonical (settleGroup s gid) := by
  grind [settleGroup, canonical_updGroup, canonical_barDone, canonical_behindDone, canonical_drainDone, canonical_drawDue, canonical_parkPops,
      canonical_servePending]

theorem canonical_settlePass {s : State} (rid : ℕ) (h : Canonical s) : Canonical (settlePass s rid) := by
  grind [settlePass, canonical_closeQueues, canonical_combsGo, canonical_gbarDone, canonical_servePending, canonical_settleGroup, canonical_foldl]

theorem canonical_settleN {s : State} (rid x1 : ℕ) (h : Canonical s) : Canonical (settleN s rid x1) := by
  induction x1 generalizing s <;> grind [settleN, canonical_settlePass]

theorem canonical_settle {s : State} (rid : ℕ) (h : Canonical s) : Canonical (settle s rid) :=
  canonical_settleN _ _ h

theorem canonical_collGate {s : State} (c : Ctx) (h : Canonical s) {u : State} (hu : collGate s c = some u) : Canonical u := by
  grind [collGate, canonical_updBundle, canonical_updGroup, canonical_settle]

theorem canonical_ballotMet {s : State} (p : Spec) (c : Ctx) (h : Canonical s) {u : State} (hu : ballotMet s p c = some u) : Canonical u := by
  unfold ballotMet at hu
  obtain ⟨x, -, hx⟩ := Option.bind_eq_some_iff.mp hu
  obtain ⟨a, -, rfl⟩ := Option.map_eq_some_iff.mp hx
  exact canonical_precise _ _ _ _ _ _ _ h

theorem canonical_poisonedRead {s : State} (c : Ctx) (l : List (ℕ × BitVec 6)) (h : Canonical s) : Canonical (poisonedRead s c l) := by
  grind [poisonedRead, canonical_dataFaults, canonical_poisonRec, canonical_foldl]

/-- What the checks before an instruction leave, where they keep memory canonical. -/
def GateKeeps : Gate → Prop
  | .go _ s => Canonical s
  | .stop (.next s) => Canonical s
  | .stop _ => True

theorem gateKeeps_ite {p : Prop} [Decidable p] {a b : Gate} (ha : GateKeeps a) (hb : GateKeeps b) : GateKeeps (if p then a else b) := by
  split
  · exact ha
  · exact hb

theorem gateKeeps_gate {s : State} (p : Spec) (h : Canonical s) : GateKeeps (gate s p) := by
  unfold gate
  split
  · trivial
  next c _ =>
    dsimp only
    refine gateKeeps_ite (canonical_illop _ h) (gateKeeps_ite (canonical_precise _ _ _ _ _ _ _ h)
      (gateKeeps_ite (canonical_settle _ (canonical_stallAt _ h)) (gateKeeps_ite (canonical_endRun _ _ _ h) ?_)))
    have hx : Canonical (if p.ends || p.coll then endRun s (c.at_ p.g).g.id (c.at_ p.g).b.id (c.at_ p.g).c.pc else s) := by
      split
      · exact canonical_endRun _ _ _ h
      · exact h
    generalize (if p.ends || p.coll then endRun s (c.at_ p.g).g.id (c.at_ p.g).b.id (c.at_ p.g).c.pc else s) = x at hx ⊢
    split
    · trivial
    next d _ =>
      split
      next y hy =>
        have hb : ∀ u, ballotMet x p (d.at_ p.g) = some u → Canonical u := fun u hu => canonical_ballotMet _ _ hx hu
        have hg : ∀ u, collGate x (d.at_ p.g) = some u → Canonical u := fun u hu => canonical_collGate _ hx hu
        show Canonical y
        grind
      next =>
        refine gateKeeps_ite (canonical_stallAt _ hx) ?_
        split
        · exact canonical_precise _ _ _ _ _ _ _ hx
        split
        · exact canonical_precise _ _ _ _ _ _ _ hx
        · exact gateKeeps_ite (canonical_stallAt _ hx) (gateKeeps_ite hx (canonical_poisonedRead _ _ hx))

theorem canonical_gate_go {s : State} (p : Spec) (h : Canonical s) {c : Ctx} {u : State} (hu : gate s p = .go c u) : Canonical u := by
  have hg := gateKeeps_gate p h
  rw [hu] at hg
  exact hg

theorem canonical_gate_stop {s : State} (p : Spec) (h : Canonical s) {u : State} (hu : gate s p = .stop (.next u)) : Canonical u := by
  have hg := gateKeeps_gate p h
  rw [hu] at hg
  exact hg

theorem canonical_issue {s : State} (p : Spec) (body : Ctx → State → State) (hb : ∀ c x, Canonical x → Canonical (body c x)) (h : Canonical s)
    {u : State} (hu : issue s p body = .next u) :
    Canonical u := by
  grind [issue, → canonical_gate_go, → canonical_gate_stop]

/-! ## Operands and results -/

theorem canonical_readElem {s : State} (c : Ctx) (q : Stream) (k : ℕ) (h : Canonical s) {u : Option W32 × State} (hu : readElem s c q k = .ok u) :
    Canonical u.2 := by
  grind [readElem, → canonical_tgtLoad]

theorem canonical_readElems {s : State} (c : Ctx) (q : Stream) (ts : List ℕ) (h : Canonical s) : Canonical (readElems s c q ts).s := by
  unfold readElems
  refine canonical_foldl_by Elems.s (fun e t he => ?_) h
  split <;> grind [canonical_poisonRec, → canonical_readElem]

theorem canonical_streamOf {s : State} (c : Ctx) (q : Option ℕ) (ts : List ℕ) (h : Canonical s) : Canonical (streamOf s c q ts).s := by
  unfold streamOf
  grind [canonical_readElems]

theorem canonical_advanceOf {s : State} (c : Ctx) (q : Option ℕ) (nrs : Bool) (h : Canonical s) : Canonical (advanceOf s c q nrs) := by
  unfold advanceOf
  grind [canonical_updGroup]

theorem canonical_srcs {s : State} (c : Ctx) (o : OpA) (ts : List ℕ) (h : Canonical s) : Canonical (srcs s c o ts).s := by
  grind [srcs, canonical_dataFaults, canonical_advanceOf, canonical_streamOf]

/-! ## Scalars -/

theorem canonical_scalarOp {s : State} (g : BitVec 3) (m : Bool) (rd : List RegRef) (d : BitVec 6) (f : Ctx → ℕ → W64) (h : Canonical s)
    {u : State} (hu : scalarOp s g m rd d f = .next u) :
    Canonical u :=
  canonical_issue _ _ (fun _ _ hx => canonical_fixedS _ _ _ _ hx) h hu

theorem canonical_execSaddA (o : OpA) {s : State} (h : Canonical s) {u : State} (hu : execSaddA o s = .next u) : Canonical u :=
  canonical_scalarOp _ _ _ _ _ h hu

theorem canonical_execSaddB (o : OpB) {s : State} (h : Canonical s) {u : State} (hu : execSaddB o s = .next u) : Canonical u :=
  canonical_scalarOp _ _ _ _ _ h hu

theorem canonical_execSmulA (o : OpA) {s : State} (h : Canonical s) {u : State} (hu : execSmulA o s = .next u) : Canonical u :=
  canonical_scalarOp _ _ _ _ _ h hu

theorem canonical_execSmulB (o : OpB) {s : State} (h : Canonical s) {u : State} (hu : execSmulB o s = .next u) : Canonical u :=
  canonical_scalarOp _ _ _ _ _ h hu

theorem canonical_execSlea (o : OpBW) {s : State} (h : Canonical s) {u : State} (hu : execSlea o s = .next u) : Canonical u :=
  canonical_scalarOp _ _ _ _ _ h hu

theorem canonical_execSmovBw (o : OpBW) {s : State} (h : Canonical s) {u : State} (hu : execSmovBw o s = .next u) : Canonical u :=
  canonical_scalarOp _ _ _ _ _ h hu

theorem canonical_execSmovA (o : OpA) {s : State} (h : Canonical s) {u : State} (hu : execSmovA o s = .next u) : Canonical u := by
  grind [execSmovA, → canonical_scalarOp]

theorem canonical_scmp {s : State} (g : BitVec 3) (m : Bool) (rd : List RegRef) (a d : BitVec 6) (b : Ctx → ℕ → W64) (h : Canonical s) {u : State}
    (hu : Machine.scmp s g m rd a d b = .next u) :
    Canonical u :=
  canonical_issue _ _ (fun _ _ hx => canonical_fixedP _ _ _ _ hx) h hu

theorem canonical_execScmpA (o : OpA) {s : State} (h : Canonical s) {u : State} (hu : execScmpA o s = .next u) : Canonical u :=
  canonical_scmp _ _ _ _ _ _ h hu

theorem canonical_execScmpB (o : OpB) {s : State} (h : Canonical s) {u : State} (hu : execScmpB o s = .next u) : Canonical u :=
  canonical_scmp _ _ _ _ _ _ h hu

theorem canonical_readTo {s : State} (o : OpF) (rd : List RegRef) (f : Ctx → State → ℕ → W64) (h : Canonical s) {u : State}
    (hu : readTo s o rd f = .next u) :
    Canonical u := by
  grind [readTo, canonical_fixedPair, canonical_fixedS, canonical_fixedV, → canonical_issue]

theorem canonical_execRdsys (o : OpF) {s : State} (h : Canonical s) {u : State} (hu : execRdsys o s = .next u) : Canonical u :=
  canonical_readTo _ _ _ h hu

theorem canonical_execRdts (o : OpF) {s : State} (h : Canonical s) {u : State} (hu : execRdts o s = .next u) : Canonical u :=
  canonical_readTo _ _ _ h hu

theorem canonical_execRdclk (o : OpF) {s : State} (h : Canonical s) {u : State} (hu : execRdclk o s = .next u) : Canonical u :=
  canonical_readTo _ _ _ h hu

/-! ## Loads and stores -/

theorem canonical_loadLanes {s : State} (g : BitVec 3) (m glob : Bool) (rd : List RegRef) (w : BitVec 2) (x1 : Bool) (d : BitVec 6)
    (p : Option PfC) (addr : Ctx → ℕ → W64) (chk : State → Ctx → ℕ → W64 → Except AFault Tgt) (h : Canonical s) {u : State}
    (hu : loadLanes s g m glob rd w x1 d p addr chk = .next u) :
    Canonical u := by
  grind [loadLanes, canonical_acc_done, → canonical_issue, canonical_lateResult, canonical_loads, canonical_memIssued, canonical_stallAt]

theorem canonical_storeLanes {s : State} (g : BitVec 3) (m glob : Bool) (rd : List RegRef) (w : BitVec 2) (d : BitVec 6) (p : Option PfC)
    (addr : Ctx → ℕ → W64) (chk : State → Ctx → ℕ → W64 → Except AFault Tgt) (h : Canonical s) {u : State}
    (hu : storeLanes s g m glob rd w d p addr chk = .next u) :
    Canonical u := by
  grind [storeLanes, canonical_acc_done, → canonical_issue, canonical_memIssued, canonical_noResult, canonical_stallAt, canonical_stores]

theorem canonical_execLdCx (w : BitVec 2) (o : OpCx) {s : State} (h : Canonical s) {u : State} (hu : execLdCx w o s = .next u) : Canonical u :=
  canonical_loadLanes _ _ _ _ _ _ _ _ _ _ h hu

theorem canonical_execLdCdS (o : OpCd) {s : State} (h : Canonical s) {u : State} (hu : execLdCdS o s = .next u) : Canonical u :=
  canonical_loadLanes _ _ _ _ _ _ _ _ _ _ h hu

theorem canonical_execLdCdPair (o : OpCd) {s : State} (h : Canonical s) {u : State} (hu : execLdCdPair o s = .next u) : Canonical u :=
  canonical_loadLanes _ _ _ _ _ _ _ _ _ _ h hu

theorem canonical_execStCx (w : BitVec 2) (o : OpCx) {s : State} (h : Canonical s) {u : State} (hu : execStCx w o s = .next u) : Canonical u :=
  canonical_storeLanes _ _ _ _ _ _ _ _ _ h hu

theorem canonical_execStCdS (o : OpCd) {s : State} (h : Canonical s) {u : State} (hu : execStCdS o s = .next u) : Canonical u :=
  canonical_storeLanes _ _ _ _ _ _ _ _ _ h hu

theorem canonical_execStCdPair (o : OpCd) {s : State} (h : Canonical s) {u : State} (hu : execStCdPair o s = .next u) : Canonical u :=
  canonical_storeLanes _ _ _ _ _ _ _ _ _ h hu

theorem canonical_execLds (o : OpCd) {s : State} (h : Canonical s) {u : State} (hu : execLds o s = .next u) : Canonical u :=
  canonical_loadLanes _ _ _ _ _ _ _ _ _ _ h hu

theorem canonical_execSts (o : OpCd) {s : State} (h : Canonical s) {u : State} (hu : execSts o s = .next u) : Canonical u :=
  canonical_storeLanes _ _ _ _ _ _ _ _ _ h hu

theorem canonical_execLdw (o : OpCd) {s : State} (h : Canonical s) {u : State} (hu : execLdw o s = .next u) : Canonical u :=
  canonical_loadLanes _ _ _ _ _ _ _ _ _ _ h hu

theorem canonical_execStw (o : OpCd) {s : State} (h : Canonical s) {u : State} (hu : execStw o s = .next u) : Canonical u :=
  canonical_storeLanes _ _ _ _ _ _ _ _ _ h hu

theorem canonical_execLdx (o : OpCd) {s : State} (h : Canonical s) {u : State} (hu : execLdx o s = .next u) : Canonical u := by
  grind [execLdx, canonical_acc_done, → canonical_issue, canonical_lateResult, canonical_loads, canonical_memIssued, canonical_stallAt]

theorem canonical_execStx (o : OpCd) {s : State} (h : Canonical s) {u : State} (hu : execStx o s = .next u) : Canonical u := by
  grind [execStx, canonical_acc_done, → canonical_issue, canonical_memIssued, canonical_noResult, canonical_stallAt, canonical_stores]

theorem canonical_execQset (o : OpCd) {s : State} (h : Canonical s) {u : State} (hu : execQset o s = .next u) : Canonical u := by
  refine canonical_issue _ _ (fun c x hx => ?_) h hu
  extract_lets read y z
  have hread : Canonical read.1 := by
    refine canonical_foldl_by Prod.fst (fun y t hy => ?_) hx
    dsimp only
    grind [canonical_poisonRec, → canonical_tgtLoad]
  split
  · exact canonical_stallAt _ hx
  split
  · exact canonical_illop _ hx
  · exact canonical_noResult _ _ (canonical_memIssued _ _ _ _ ((canonical_updGroup ..).mpr (canonical_dataFaults _ _ hread)))

theorem canonical_execQsave (o : OpCd) {s : State} (h : Canonical s) {u : State} (hu : execQsave o s = .next u) : Canonical u := by
  refine canonical_issue _ _ (fun c x hx => ?_) h hu
  dsimp only
  split
  · exact canonical_stallAt _ hx
  · refine canonical_noResult _ _ (canonical_memIssued _ _ _ _ (canonical_dataFaults _ _ (canonical_foldl_by Prod.fst (fun y t hy => ?_) hx)))
    split
    · exact hy
    · exact canonical_noteWatch _ _ (canonical_stores _ _ _ _ _ hy)

theorem canonical_prefOne {s : State} (c : Ctx) (va : W64) (h : Canonical s) : Canonical (prefOne s c va) := by
  grind [prefOne, canonical_l1Fill, → canonical_llcFill, → canonical_peerPa]

theorem canonical_execPref (o : OpCx) {s : State} (h : Canonical s) {u : State} (hu : execPref o s = .next u) : Canonical u := by
  grind [execPref, → canonical_issue, canonical_memIssued, canonical_noResult, canonical_prefOne, canonical_foldl]

theorem canonical_pgreqOne {s : State} (c : Ctx) (va : W64) (h : Canonical s) : Canonical (pgreqOne s c va) := by
  grind [pgreqOne, canonical_poisonRec, canonical_updPart, → canonical_translate]

theorem canonical_execPgreq (o : OpCx) {s : State} (h : Canonical s) {u : State} (hu : execPgreq o s = .next u) : Canonical u := by
  grind [execPgreq, → canonical_issue, canonical_memIssued, canonical_noResult, canonical_pgreqOne, canonical_foldl]

theorem canonical_execFence (o : OpF) {s : State} (h : Canonical s) {u : State} (hu : execFence o s = .next u) : Canonical u := by
  grind [execFence, canonical_updGroup, canonical_fenceSy, → canonical_issue, canonical_memIssued, canonical_noResult, canonical_releaseCore,
      canonical_stallAt]

/-! ## Engines, locks and teams -/

theorem canonical_teamFold {s0 : State} (c : Ctx) (g : BitVec 3) {f : State → ℕ → TeamRes} (hf : ∀ s t, Canonical s → TeamKeeps (f s t))
    (ts : List ℕ) {s : State} (fs : List DFault) (done : List ℕ) (h0 : Canonical s0) (h : Canonical s) :
    (∀ u, teamFold s0 c g f ts s fs done = .ok u → Canonical u.1) ∧ ∀ u, teamFold s0 c g f ts s fs done = .error u → Canonical u := by
  induction ts generalizing s fs done with
  | nil => grind [teamFold]
  | cons t ts ih =>
    have ht := hf s t h
    cases hx : f s t <;> rw [hx] at ht <;> simp only [teamFold, hx]
    case ok x => exact ih _ _ ht
    case fault a b x => exact ih _ _ (canonical_poisonRec a (teamKeeps_fault.mp ht))
    case stop k =>
      have hk := teamKeeps_stop.mp ht s0 h0
      refine ⟨fun u hu => (by cases hu), fun u hu => ?_⟩
      rw [← Except.error.inj hu]
      exact hk
    case stall =>
      have hd := canonical_dataFaults c fs h
      refine ⟨fun u hu => (by cases hu), fun u hu => ?_⟩
      rw [← Except.error.inj hu]
      exact (canonical_updBundle ..).mpr hd

theorem canonical_teamRes_bar {s : State} (c : Ctx) {r : TeamRes} (hr : TeamKeeps r) (h : Canonical s) {u : State} (hu : r.bar s c = some u) : Canonical u := by
  cases r <;> grind [TeamRes.bar, TeamKeeps, canonical_stallAt]

theorem canonical_eachTeam {s : State} (c : Ctx) (g : BitVec 3) (f : State → ℕ → TeamRes) (fin : State → State) (keep : ℕ → List Byte)
    (hf : ∀ s t, Canonical s → TeamKeeps (f s t)) (hfin : ∀ s, Canonical s → Canonical (fin s)) (h : Canonical s) :
    Canonical (eachTeam s c g f fin keep) := by
  unfold eachTeam
  dsimp only
  split
  next x hx =>
    obtain ⟨t, -, ht⟩ := List.exists_of_findSome?_eq_some hx
    exact canonical_teamRes_bar c (hf _ _ h) h ht
  next =>
    split
    next x hx => exact (canonical_updBundle ..).mpr ((canonical_teamFold c g hf _ _ _ h h).2 _ hx)
    next x fs hx => exact hfin _ (canonical_dataFaults _ _ ((canonical_teamFold c g hf _ _ _ h h).1 _ hx))

theorem canonical_teamQfault (c : Ctx) (g : BitVec 3) (team : ℕ) : TeamKeeps (teamQfault c g team) := teamKeeps_stop.mpr fun _ hs => canonical_qfault _ _ hs

theorem canonical_lockAdd {s : State} (g : Group) (op : LockOp) (srcs dsts : List Rng) (h : Canonical s) : Canonical (lockAdd s g op srcs dsts) :=
  (canonical_updEng ..).mpr h

theorem canonical_lockFree {s : State} (gid : ℕ) (op : LockOp) (h : Canonical s) : Canonical (lockFree s gid op) :=
  canonical_steady.lockFree (h := h) ..

theorem canonical_updOp {s : State} (id : ℕ) (f : EngOp → EngOp) (h : Canonical s) : Canonical (State.updOp s id f) :=
  (canonical_updEng ..).mpr h

theorem canonical_startOp {s : State} (c : Ctx) (team lane : ℕ) (tok : Option (BitVec 5)) (k : EngKind) (srcs dsts : List Rng) (h : Canonical s) :
    Canonical (startOp s c team lane tok k srcs dsts) := by
  unfold startOp
  grind [canonical_updEng, canonical_updGroup, canonical_drainAll, canonical_lockAdd]

theorem canonical_writeToken {s : State} (o : EngOp) (x1 : W64) (h : Canonical s) : Canonical (writeToken s o x1) := by
  grind [writeToken, canonical_updGroup]

theorem canonical_finishOp {s : State} (o : EngOp) (x1 : W64) (h : Canonical s) : Canonical (finishOp s o x1) :=
  canonical_lockFree _ _ ((canonical_updEng ..).mpr (canonical_writeToken _ _ h))

theorem canonical_engRead1 {s : State} (c : Ctx) (scr : Bool) (a n : ℕ) (h : Canonical s) {u : List Byte × State}
    (hu : engRead1 s c scr a n = .ok u) :
    Canonical u.2 := by
  grind [engRead1, → canonical_agentRead, → canonical_tgtLoad]

theorem canonical_engWrite1 {s : State} (c : Ctx) (scr : Bool) (a : ℕ) (bs : List Byte) (h : Canonical s) {u : State}
    (hu : engWrite1 s c scr a bs = .ok u) :
    Canonical u := by
  grind [engWrite1, → canonical_agentWrite, → canonical_tgtStore]

theorem canonical_engIO_step {r : EngIO} (f : State → ℕ → ℕ → Except AFault (List Byte × State)) (a n : ℕ)
    (hf : ∀ s a n u, Canonical s → f s a n = .ok u → Canonical u.2) (hr : Canonical r.s) :
    Canonical (r.step f a n).s := by
  grind [EngIO.step, canonical_poisonRec]

theorem canonical_engMove {s : State} (f : State → ℕ → ℕ → Except AFault (List Byte × State)) (a n : ℕ)
    (hf : ∀ s a n u, Canonical s → f s a n = .ok u → Canonical u.2) (h : Canonical s) :
    Canonical (engMove s f a n).s := by
  unfold engMove
  refine canonical_foldl_by EngIO.s (fun r p hr => ?_) h
  split
  · exact canonical_engIO_step _ _ _ hf hr
  · exact canonical_foldl_by EngIO.s (fun r i hr => canonical_engIO_step _ _ _ hf hr) hr

theorem canonical_engRead {s : State} (c : Ctx) (scr : Bool) (a n : ℕ) (h : Canonical s) : Canonical (engRead s c scr a n).s := by
  grind [engRead, canonical_engMove, → canonical_engRead1]

theorem canonical_engWrite {s : State} (c : Ctx) (scr : Bool) (a : ℕ) (bs : List Byte) (h : Canonical s) : Canonical (engWrite s c scr a bs).s := by
  grind [engWrite, canonical_engMove, → canonical_engWrite1]

theorem canonical_engCopy {s : State} (c : Ctx) (dscr sscr : Bool) (dst src : ℕ) (len done : ℕ) (h : Canonical s) :
    Canonical (engCopy s c dscr sscr dst src len done).s :=
  canonical_engWrite _ _ _ _ (canonical_engRead _ _ _ _ h)

theorem canonical_engFault {s : State} (o : EngOp) (f : AFault) (addr : ℕ) (detail : W64) (h : Canonical s) :
    Canonical (engFault s o f addr detail) :=
  canonical_stopGroup _ _ _ _ (canonical_updOp _ _ h)

theorem canonical_boTake {s : State} (gid off amount : ℕ) (h : Canonical s) : Canonical (boTake s gid off amount) := by
  grind [boTake, canonical_scrWrite]

/-! ## Copies and copy lists -/

theorem teamKeeps_illop (c : Ctx) : TeamKeeps (.stop (fun s => illop s c)) := fun _ hs => canonical_illop c hs

theorem canonical_execCpy (o : OpE) {s : State} (h : Canonical s) {u : State} (hu : execCpy o s = .next u) : Canonical u := by
  refine canonical_issue _ _ (fun c x hx => ?_) h hu
  extract_lets one
  split
  · exact canonical_illop _ hx
  · refine canonical_eachTeam _ _ _ _ _ (fun y t hy => ?_) (fun y hy => canonical_noResult _ _ (canonical_memIssued _ _ _ _ hy)) hx
    exact teamKeeps_ite (teamKeeps_illop c) (teamKeeps_ite ((canonical_updGroup ..).mpr hy) (teamKeeps_ite hy (teamKeeps_ite hy (teamKeeps_ite hy
      (teamKeeps_ite hy (teamKeeps_ite trivial (canonical_startOp _ _ _ _ _ _ _ hy)))))))

theorem canonical_copyRun {s : State} (o : EngOp) (h : Canonical s) {u : Ctx × EngIO × ℕ} (hu : copyRun s o = some u) : Canonical u.2.1.s := by
  grind [copyRun, canonical_engCopy]

theorem canonical_listRead {s : State} (c : Ctx) (o : EngOp) (n : ℕ) (h : Canonical s) : Canonical (listRead s c o n).1 := by
  induction n generalizing s with
  | zero => exact h
  | succ n ih =>
    rw [listRead]
    split
    · exact h
    next op _ =>
      cases op.kind with
      | copyList obj list cnt next pieces =>
        exact canonical_fst_ite h (canonical_fst_ite h (canonical_fst_ite h (canonical_fst_ite h (canonical_fst_ite h (canonical_fst_ite h
          (canonical_fst_ite h (ih (canonical_updOp _ _ (canonical_lockAdd _ _ _ _ h)))))))))
      | _ => exact h

theorem canonical_execCpyl (o : OpE) {s : State} (h : Canonical s) {u : State} (hu : execCpyl o s = .next u) : Canonical u := by
  refine canonical_issue _ _ (fun c x hx => ?_) h hu
  extract_lets one
  split
  · exact canonical_illop _ hx
  · refine canonical_eachTeam _ _ _ _ _ (fun y t hy => ?_) (fun y hy => canonical_noResult _ _ (canonical_memIssued _ _ _ _ hy)) hx
    refine teamKeeps_ite hy (teamKeeps_ite hy (teamKeeps_ite hy (teamKeeps_ite hy (teamKeeps_ite hy (teamKeeps_ite trivial ?_)))))
    have hs : ∀ f l k srcs, Canonical ((startOp y c t l none k srcs []).updEng f) :=
      fun f l k srcs => (canonical_updEng ..).mpr (canonical_startOp _ _ _ _ _ _ _ hy)
    dsimp only
    split
    · exact canonical_listRead _ _ _ (hs _ _ _ _)
    · exact hs _ _ _ _

theorem canonical_pieceRun {s : State} (o : EngOp) (h : Canonical s) {u : Ctx × EngIO × Piece} (hu : pieceRun s o = some u) : Canonical u.2.1.s :=
    by
  grind [pieceRun, canonical_engCopy]

theorem canonical_execCopyComplete (op : ℕ) {s : State} (h : Canonical s) {u : State} (hu : execCopyComplete op s = .next u) : Canonical u := by
  grind [execCopyComplete, → canonical_copyRun, canonical_finishOp]

theorem canonical_execCopyFault (op : ℕ) {s : State} (h : Canonical s) {u : State} (hu : execCopyFault op s = .next u) : Canonical u := by
  unfold execCopyFault at hu
  (repeat' split at hu) <;> grind [canonical_updOp, → canonical_copyRun, canonical_engFault, canonical_listRead, → canonical_pieceRun]

theorem canonical_listDone {s : State} (op : ℕ) (h : Canonical s) : Canonical (listDone s op) := by
  grind [listDone, canonical_finishOp]

theorem canonical_execCopylistPieceComplete (op : ℕ) {s : State} (h : Canonical s) {u : State} (hu : execCopylistPieceComplete op s = .next u) :
    Canonical u := by
  grind [execCopylistPieceComplete, canonical_updOp, canonical_boTake, canonical_listDone, canonical_listRead, canonical_lockFree,
      → canonical_pieceRun, canonical_settle]

/-! ## Rings of streams -/

theorem canonical_execSubs (o : OpE) {s : State} (h : Canonical s) {u : State} (hu : execSubs o s = .next u) : Canonical u := by
  refine canonical_issue _ _ (fun c x hx => ?_) h hu
  refine canonical_eachTeam _ _ _ _ _ (fun y t hy => ?_) (fun y hy => ?_) hx <;> grind [TeamKeeps, canonical_updGroup, canonical_drainAll,
      canonical_memIssued, canonical_noResult, canonical_teamQfault]

theorem canonical_execClaim (o : OpE) {s : State} (h : Canonical s) {u : State} (hu : execClaim o s = .next u) : Canonical u := by
  grind [execClaim, → canonical_issue, canonical_lateResult, canonical_memIssued, canonical_qfault, canonical_settle]

theorem canonical_execRels (o : OpE) {s : State} (h : Canonical s) {u : State} (hu : execRels o s = .next u) : Canonical u := by
  refine canonical_issue _ _ (fun c x hx => ?_) h hu
  refine canonical_eachTeam _ _ _ _ _ (fun y t hy => ?_) (fun y hy => ?_) hx <;> grind [TeamKeeps, canonical_updGroup, canonical_drainAll,
      canonical_lockAdd, canonical_memIssued, canonical_noResult, canonical_settle, canonical_teamQfault]

theorem canonical_execTileFillStart (gid n : ℕ) {s : State} (h : Canonical s) {u : State} (hu : execTileFillStart gid n s = .next u) :
    Canonical u := by
  grind [execTileFillStart, canonical_updGroup, canonical_drainAll, canonical_lockAdd]

theorem canonical_rowsMove {s : State} (c : Ctx) (r : Ring) (i tile : ℕ) (h : Canonical s) : Canonical (rowsMove s c r i tile).s := by
  unfold rowsMove
  refine canonical_foldl_by EngIO.s (fun io p hio => ?_) h
  split
  · exact hio
  · dsimp only
    split <;> exact canonical_engCopy _ _ _ _ _ _ _ hio

theorem canonical_slotRun {s : State} (gid n i : ℕ) (st : SlotSt) (h : Canonical s) {u : Ctx × Ring × RingSlot × EngIO}
    (hu : slotRun s gid n i st = some u) :
    Canonical u.2.2.2.s := by
  grind [slotRun, canonical_rowsMove]

theorem canonical_execTileFilled (gid n i : ℕ) {s : State} (h : Canonical s) {u : State} (hu : execTileFilled gid n i s = .next u) : Canonical u :=
    by
  grind [execTileFilled, canonical_updGroup, canonical_lockFree, canonical_settle, → canonical_slotRun]

theorem canonical_execSlotDrained (gid n i : ℕ) {s : State} (h : Canonical s) {u : State} (hu : execSlotDrained gid n i s = .next u) :
    Canonical u := by
  grind [execSlotDrained, canonical_updGroup, canonical_lockFree, canonical_settle, → canonical_slotRun]

theorem canonical_execHeadgateFault (gid n i : ℕ) {s : State} (h : Canonical s) {u : State} (hu : execHeadgateFault gid n i s = .next u) :
    Canonical u := by
  grind [execHeadgateFault, canonical_updGroup, → canonical_slotRun, canonical_stopGroup]

end Sys2Proof.Rules
end

section
/-! PROOF. Memory stays canonical (O58): the instructions of the lanes, of synchronisation and control, and the matrix unit. -/

namespace Sys2Proof.Rules
open Sys2Proof.Safety Sys2Proof.Machine

/-! ## Integer lanes -/

theorem canonical_laneA {s : State} (o : OpA) (useB useD : Bool) (f : W32 → W32 → W32 → W32) (h : Canonical s) {u : State}
    (hu : laneA s o useB useD f = .next u) :
    Canonical u :=
  canonical_issue _ _ (fun _ _ hx => canonical_fixedV _ _ _ _ _ (canonical_srcs _ _ _ hx)) h hu

theorem canonical_laneB {s : State} (o : OpB) (useD : Bool) (f : W32 → W32 → W32 → W32) (h : Canonical s) {u : State}
    (hu : laneB s o useD f = .next u) :
    Canonical u :=
  canonical_issue _ _ (fun _ _ hx => canonical_fixedV _ _ _ _ _ hx) h hu

theorem canonical_cmpA {s : State} (o : OpA) (f : BitVec 3 → W32 → W32 → Bool) (h : Canonical s) {u : State} (hu : cmpA s o f = .next u) :
    Canonical u :=
  canonical_issue _ _ (fun _ _ hx => canonical_fixedP _ _ _ _ (canonical_srcs _ _ _ hx)) h hu

theorem canonical_cmpB {s : State} (o : OpB) (signed : Bool) (h : Canonical s) {u : State} (hu : cmpB s o signed = .next u) : Canonical u :=
  canonical_issue _ _ (fun _ _ hx => canonical_fixedP _ _ _ _ hx) h hu

theorem canonical_execIaddA (o : OpA) {s : State} (h : Canonical s) {u : State} (hu : execIaddA o s = .next u) : Canonical u :=
  canonical_laneA _ _ _ _ h hu

theorem canonical_execIaddB (o : OpB) {s : State} (h : Canonical s) {u : State} (hu : execIaddB o s = .next u) : Canonical u :=
  canonical_laneB _ _ _ h hu

theorem canonical_execIsubA (o : OpA) {s : State} (h : Canonical s) {u : State} (hu : execIsubA o s = .next u) : Canonical u :=
  canonical_laneA _ _ _ _ h hu

theorem canonical_execIsubB (o : OpB) {s : State} (h : Canonical s) {u : State} (hu : execIsubB o s = .next u) : Canonical u :=
  canonical_laneB _ _ _ h hu

theorem canonical_execImulA (o : OpA) {s : State} (h : Canonical s) {u : State} (hu : execImulA o s = .next u) : Canonical u :=
  canonical_laneA _ _ _ _ h hu

theorem canonical_execImulB (o : OpB) {s : State} (h : Canonical s) {u : State} (hu : execImulB o s = .next u) : Canonical u :=
  canonical_laneB _ _ _ h hu

theorem canonical_execImadA (o : OpA) {s : State} (h : Canonical s) {u : State} (hu : execImadA o s = .next u) : Canonical u :=
  canonical_laneA _ _ _ _ h hu

theorem canonical_execImadB (o : OpB) {s : State} (h : Canonical s) {u : State} (hu : execImadB o s = .next u) : Canonical u :=
  canonical_laneB _ _ _ h hu

theorem canonical_execAndA (o : OpA) {s : State} (h : Canonical s) {u : State} (hu : execAndA o s = .next u) : Canonical u :=
  canonical_laneA _ _ _ _ h hu

theorem canonical_execAndB (o : OpB) {s : State} (h : Canonical s) {u : State} (hu : execAndB o s = .next u) : Canonical u :=
  canonical_laneB _ _ _ h hu

theorem canonical_execOrA (o : OpA) {s : State} (h : Canonical s) {u : State} (hu : execOrA o s = .next u) : Canonical u :=
  canonical_laneA _ _ _ _ h hu

theorem canonical_execOrB (o : OpB) {s : State} (h : Canonical s) {u : State} (hu : execOrB o s = .next u) : Canonical u :=
  canonical_laneB _ _ _ h hu

theorem canonical_execXorA (o : OpA) {s : State} (h : Canonical s) {u : State} (hu : execXorA o s = .next u) : Canonical u :=
  canonical_laneA _ _ _ _ h hu

theorem canonical_execXorB (o : OpB) {s : State} (h : Canonical s) {u : State} (hu : execXorB o s = .next u) : Canonical u :=
  canonical_laneB _ _ _ h hu

theorem canonical_execRotA (o : OpA) {s : State} (h : Canonical s) {u : State} (hu : execRotA o s = .next u) : Canonical u :=
  canonical_laneA _ _ _ _ h hu

theorem canonical_execRotB (o : OpB) {s : State} (h : Canonical s) {u : State} (hu : execRotB o s = .next u) : Canonical u :=
  canonical_laneB _ _ _ h hu

theorem canonical_execShlA (o : OpA) {s : State} (h : Canonical s) {u : State} (hu : execShlA o s = .next u) : Canonical u :=
  canonical_laneA _ _ _ _ h hu

theorem canonical_execShlB (o : OpB) {s : State} (h : Canonical s) {u : State} (hu : execShlB o s = .next u) : Canonical u :=
  canonical_laneB _ _ _ h hu

theorem canonical_execShrA (o : OpA) {s : State} (h : Canonical s) {u : State} (hu : execShrA o s = .next u) : Canonical u :=
  canonical_laneA _ _ _ _ h hu

theorem canonical_execShrB (o : OpB) {s : State} (h : Canonical s) {u : State} (hu : execShrB o s = .next u) : Canonical u :=
  canonical_laneB _ _ _ h hu

theorem canonical_execShraA (o : OpA) {s : State} (h : Canonical s) {u : State} (hu : execShraA o s = .next u) : Canonical u :=
  canonical_laneA _ _ _ _ h hu

theorem canonical_execShraB (o : OpB) {s : State} (h : Canonical s) {u : State} (hu : execShraB o s = .next u) : Canonical u :=
  canonical_laneB _ _ _ h hu

theorem canonical_execClz (o : OpA) {s : State} (h : Canonical s) {u : State} (hu : execClz o s = .next u) : Canonical u :=
  canonical_laneA _ _ _ _ h hu

theorem canonical_execPopc (o : OpA) {s : State} (h : Canonical s) {u : State} (hu : execPopc o s = .next u) : Canonical u :=
  canonical_laneA _ _ _ _ h hu

theorem canonical_execBrev (o : OpA) {s : State} (h : Canonical s) {u : State} (hu : execBrev o s = .next u) : Canonical u :=
  canonical_laneA _ _ _ _ h hu

theorem canonical_execIminN32 (o : OpA) {s : State} (h : Canonical s) {u : State} (hu : execIminN32 o s = .next u) : Canonical u :=
  canonical_laneA _ _ _ _ h hu

theorem canonical_execIminI32 (o : OpA) {s : State} (h : Canonical s) {u : State} (hu : execIminI32 o s = .next u) : Canonical u :=
  canonical_laneA _ _ _ _ h hu

theorem canonical_execImaxN32 (o : OpA) {s : State} (h : Canonical s) {u : State} (hu : execImaxN32 o s = .next u) : Canonical u :=
  canonical_laneA _ _ _ _ h hu

theorem canonical_execImaxI32 (o : OpA) {s : State} (h : Canonical s) {u : State} (hu : execImaxI32 o s = .next u) : Canonical u :=
  canonical_laneA _ _ _ _ h hu

theorem canonical_execBfxA (o : OpA) {s : State} (h : Canonical s) {u : State} (hu : execBfxA o s = .next u) : Canonical u :=
  canonical_laneA _ _ _ _ h hu

theorem canonical_execBfxB (o : OpB) {s : State} (h : Canonical s) {u : State} (hu : execBfxB o s = .next u) : Canonical u :=
  canonical_laneB _ _ _ h hu

theorem canonical_execBfiA (o : OpA) {s : State} (h : Canonical s) {u : State} (hu : execBfiA o s = .next u) : Canonical u :=
  canonical_laneA _ _ _ _ h hu

theorem canonical_execBfiB (o : OpB) {s : State} (h : Canonical s) {u : State} (hu : execBfiB o s = .next u) : Canonical u :=
  canonical_laneB _ _ _ h hu

theorem canonical_execIcmpN32A (o : OpA) {s : State} (h : Canonical s) {u : State} (hu : execIcmpN32A o s = .next u) : Canonical u :=
  canonical_cmpA _ _ h hu

theorem canonical_execIcmpI32A (o : OpA) {s : State} (h : Canonical s) {u : State} (hu : execIcmpI32A o s = .next u) : Canonical u :=
  canonical_cmpA _ _ h hu

theorem canonical_execIcmpN32B (o : OpB) {s : State} (h : Canonical s) {u : State} (hu : execIcmpN32B o s = .next u) : Canonical u :=
  canonical_cmpB _ _ h hu

theorem canonical_execIcmpI32B (o : OpB) {s : State} (h : Canonical s) {u : State} (hu : execIcmpI32B o s = .next u) : Canonical u :=
  canonical_cmpB _ _ h hu

theorem canonical_execSxt (o : OpA) {s : State} (h : Canonical s) {u : State} (hu : execSxt o s = .next u) : Canonical u := by
  grind [execSxt, canonical_fixedPair, canonical_fixedV, → canonical_issue, canonical_srcs]

theorem canonical_execSel (o : OpA) {s : State} (h : Canonical s) {u : State} (hu : execSel o s = .next u) : Canonical u :=
  canonical_issue _ _ (fun _ _ hx => canonical_fixedV _ _ _ _ _ (canonical_srcs _ _ _ hx)) h hu

theorem canonical_execMovA (o : OpA) {s : State} (h : Canonical s) {u : State} (hu : execMovA o s = .next u) : Canonical u := by
  grind [execMovA, canonical_fixedPair, canonical_fixedV, → canonical_issue, → canonical_laneA]

theorem canonical_execMovBw (o : OpBW) {s : State} (h : Canonical s) {u : State} (hu : execMovBw o s = .next u) : Canonical u :=
  canonical_issue _ _ (fun _ _ hx => canonical_fixedV _ _ _ _ _ hx) h hu

theorem canonical_execLeaA (o : OpA) {s : State} (h : Canonical s) {u : State} (hu : execLeaA o s = .next u) : Canonical u :=
  canonical_issue _ _ (fun _ _ hx => canonical_fixedPair _ _ _ _ _ (canonical_srcs _ _ _ hx)) h hu

theorem canonical_execLeaB (o : OpB) {s : State} (h : Canonical s) {u : State} (hu : execLeaB o s = .next u) : Canonical u :=
  canonical_issue _ _ (fun _ _ hx => canonical_fixedPair _ _ _ _ _ hx) h hu

theorem canonical_execIadd64A (o : OpA) {s : State} (h : Canonical s) {u : State} (hu : execIadd64A o s = .next u) : Canonical u :=
  canonical_issue _ _ (fun _ _ hx => canonical_fixedPair _ _ _ _ _ hx) h hu

theorem canonical_execIadd64B (o : OpB) {s : State} (h : Canonical s) {u : State} (hu : execIadd64B o s = .next u) : Canonical u :=
  canonical_issue _ _ (fun _ _ hx => canonical_fixedPair _ _ _ _ _ hx) h hu

theorem canonical_laneS {s : State} (o : OpS) (imm : Bool) (f : W32 → W32 → W32) (h : Canonical s) {u : State} (hu : laneS s o imm f = .next u) :
    Canonical u :=
  canonical_issue _ _ (fun _ _ hx => canonical_fixedV _ _ _ _ _ hx) h hu

theorem canonical_execMovShort (o : OpS) {s : State} (h : Canonical s) {u : State} (hu : execMovShort o s = .next u) : Canonical u :=
  canonical_issue _ _ (fun _ _ hx => canonical_fixedV _ _ _ _ _ hx) h hu

theorem canonical_execIaddShort (o : OpS) {s : State} (h : Canonical s) {u : State} (hu : execIaddShort o s = .next u) : Canonical u :=
  canonical_laneS _ _ _ h hu

theorem canonical_execIsubShort (o : OpS) {s : State} (h : Canonical s) {u : State} (hu : execIsubShort o s = .next u) : Canonical u :=
  canonical_laneS _ _ _ h hu

theorem canonical_execImulShort (o : OpS) {s : State} (h : Canonical s) {u : State} (hu : execImulShort o s = .next u) : Canonical u :=
  canonical_laneS _ _ _ h hu

theorem canonical_execAndShort (o : OpS) {s : State} (h : Canonical s) {u : State} (hu : execAndShort o s = .next u) : Canonical u :=
  canonical_laneS _ _ _ h hu

theorem canonical_execOrShort (o : OpS) {s : State} (h : Canonical s) {u : State} (hu : execOrShort o s = .next u) : Canonical u :=
  canonical_laneS _ _ _ h hu

theorem canonical_execXorShort (o : OpS) {s : State} (h : Canonical s) {u : State} (hu : execXorShort o s = .next u) : Canonical u :=
  canonical_laneS _ _ _ h hu

theorem canonical_execShlShort (o : OpS) {s : State} (h : Canonical s) {u : State} (hu : execShlShort o s = .next u) : Canonical u :=
  canonical_laneS _ _ _ h hu

theorem canonical_execShrShort (o : OpS) {s : State} (h : Canonical s) {u : State} (hu : execShrShort o s = .next u) : Canonical u :=
  canonical_laneS _ _ _ h hu

theorem canonical_execShraShort (o : OpS) {s : State} (h : Canonical s) {u : State} (hu : execShraShort o s = .next u) : Canonical u :=
  canonical_laneS _ _ _ h hu

theorem canonical_execIaddiShort (o : OpS) {s : State} (h : Canonical s) {u : State} (hu : execIaddiShort o s = .next u) : Canonical u :=
  canonical_laneS _ _ _ h hu

/-! ## Floating point -/

theorem canonical_execFadd (y : BitVec 2) (o : OpA) {s : State} (h : Canonical s) {u : State} (hu : execFadd y o s = .next u) : Canonical u :=
  canonical_laneA _ _ _ _ h hu

theorem canonical_execFsub (y : BitVec 2) (o : OpA) {s : State} (h : Canonical s) {u : State} (hu : execFsub y o s = .next u) : Canonical u :=
  canonical_laneA _ _ _ _ h hu

theorem canonical_execFmul (y : BitVec 2) (o : OpA) {s : State} (h : Canonical s) {u : State} (hu : execFmul y o s = .next u) : Canonical u :=
  canonical_laneA _ _ _ _ h hu

theorem canonical_execFfma (y : BitVec 2) (o : OpA) {s : State} (h : Canonical s) {u : State} (hu : execFfma y o s = .next u) : Canonical u :=
  canonical_laneA _ _ _ _ h hu

theorem canonical_execFmin (y : BitVec 2) (o : OpA) {s : State} (h : Canonical s) {u : State} (hu : execFmin y o s = .next u) : Canonical u :=
  canonical_laneA _ _ _ _ h hu

theorem canonical_execFmax (y : BitVec 2) (o : OpA) {s : State} (h : Canonical s) {u : State} (hu : execFmax y o s = .next u) : Canonical u :=
  canonical_laneA _ _ _ _ h hu

theorem canonical_execFcmp (y : BitVec 2) (o : OpA) {s : State} (h : Canonical s) {u : State} (hu : execFcmp y o s = .next u) : Canonical u :=
  canonical_cmpA _ _ h hu

theorem canonical_execFrcp (o : OpA) {s : State} (h : Canonical s) {u : State} (hu : execFrcp o s = .next u) : Canonical u :=
  canonical_laneA _ _ _ _ h hu

theorem canonical_execFrsq (o : OpA) {s : State} (h : Canonical s) {u : State} (hu : execFrsq o s = .next u) : Canonical u :=
  canonical_laneA _ _ _ _ h hu

theorem canonical_execFex2 (o : OpA) {s : State} (h : Canonical s) {u : State} (hu : execFex2 o s = .next u) : Canonical u :=
  canonical_laneA _ _ _ _ h hu

theorem canonical_execFlg2 (o : OpA) {s : State} (h : Canonical s) {u : State} (hu : execFlg2 o s = .next u) : Canonical u :=
  canonical_laneA _ _ _ _ h hu

theorem canonical_execF2i (o : OpA) {s : State} (h : Canonical s) {u : State} (hu : execF2i o s = .next u) : Canonical u :=
  canonical_laneA _ _ _ _ h hu

theorem canonical_execI2f (o : OpA) {s : State} (h : Canonical s) {u : State} (hu : execI2f o s = .next u) : Canonical u :=
  canonical_laneA _ _ _ _ h hu

theorem canonical_execFcvt (o : OpA) {s : State} (h : Canonical s) {u : State} (hu : execFcvt o s = .next u) : Canonical u :=
  canonical_laneA _ _ _ _ h hu

theorem canonical_execUnpack (o : OpA) {s : State} (h : Canonical s) {u : State} (hu : execUnpack o s = .next u) : Canonical u := by
  grind [execUnpack, canonical_fixedV, canonical_illop, → canonical_issue]

theorem canonical_execPack (o : OpA) {s : State} (h : Canonical s) {u : State} (hu : execPack o s = .next u) : Canonical u := by
  grind [execPack, canonical_fixedV, canonical_illop, → canonical_issue]

theorem canonical_execDot4N8 (o : OpA) {s : State} (h : Canonical s) {u : State} (hu : execDot4N8 o s = .next u) : Canonical u :=
  canonical_laneA _ _ _ _ h hu

theorem canonical_execDot4I8 (o : OpA) {s : State} (h : Canonical s) {u : State} (hu : execDot4I8 o s = .next u) : Canonical u :=
  canonical_laneA _ _ _ _ h hu

theorem canonical_execShfl (o : OpA) {s : State} (h : Canonical s) {u : State} (hu : execShfl o s = .next u) : Canonical u :=
  canonical_issue _ _ (fun _ _ hx => canonical_lateResult _ _ _ _ hx) h hu

theorem canonical_execTred (o : OpA) {s : State} (h : Canonical s) {u : State} (hu : execTred o s = .next u) : Canonical u :=
  canonical_issue _ _ (fun _ _ hx => canonical_lateResult _ _ _ _ (canonical_srcs _ _ _ hx)) h hu

theorem canonical_execFaddShort (o : OpS) {s : State} (h : Canonical s) {u : State} (hu : execFaddShort o s = .next u) : Canonical u :=
  canonical_laneS _ _ _ h hu

theorem canonical_execFsubShort (o : OpS) {s : State} (h : Canonical s) {u : State} (hu : execFsubShort o s = .next u) : Canonical u :=
  canonical_laneS _ _ _ h hu

theorem canonical_execFmulShort (o : OpS) {s : State} (h : Canonical s) {u : State} (hu : execFmulShort o s = .next u) : Canonical u :=
  canonical_laneS _ _ _ h hu

theorem canonical_execFminShort (o : OpS) {s : State} (h : Canonical s) {u : State} (hu : execFminShort o s = .next u) : Canonical u :=
  canonical_laneS _ _ _ h hu

theorem canonical_execFmaxShort (o : OpS) {s : State} (h : Canonical s) {u : State} (hu : execFmaxShort o s = .next u) : Canonical u :=
  canonical_laneS _ _ _ h hu

/-! ## Atomics and reductions -/

theorem canonical_writeCheck {s : State} (w : Who) (va : ℕ) (h : Canonical s) {u : State} (hu : writeCheck s w va = .ok u) : Canonical u := by
  grind [writeCheck, → canonical_llcFill, → canonical_peerPa]

theorem canonical_tgtRmw {s : State} (w : Who) (t : Tgt) (narrow rel : Bool) (f : W32 → Option W32) (cf : Cell → Cell) (h : Canonical s)
    {u : W32 × State} (hu : tgtRmw s w t narrow rel f cf = .ok u) :
    Canonical u.2 := by
  unfold tgtRmw at hu
  (repeat' split at hu) <;> grind [canonical_cellPut, canonical_resvSeen, canonical_resvWrite, canonical_scrWrite, canonical_storeWrite,
      canonical_acqAt, → canonical_loadGlobal, canonical_relAt, canonical_releaseCore, → canonical_rmwSlice, → canonical_storeGlobal,
      → canonical_writeCheck]

theorem canonical_acc_orWait {a : Acc} (c : Ctx) (code va : ℕ) (chk : Except AFault Tgt) (now : Tgt → Bool) (ts : List ℕ) {go : Acc} (n : ℕ)
    (ha : Canonical a.s) (hgo : Canonical go.s) :
    Canonical (Acc.orWait a c code va chk now ts go n).s := by
  unfold Acc.orWait
  grind

theorem canonical_acc_orStall {a : Acc} (c : Ctx) (d : Option (BitVec 6)) (left : List ℕ) (fin : State → List (ℕ × ℕ) → State)
    (hf : ∀ x vs, Canonical x → Canonical (fin x vs)) (ha : Canonical a.s) :
    Canonical (a.orStall c d left fin) := by
  grind [Acc.orStall, canonical_acc_done, canonical_updBundle]

theorem canonical_noteAdd {s : State} (c : Ctx) (addr : ℕ) (tg : Tgt) (h : Canonical s) : Canonical (noteAdd s c addr tg) := by
  grind [noteAdd, canonical_updRange, canonical_orderEntry]

theorem canonical_atomLanes {s : State} (o : OpCm) (dat : RegRef) (code : ℕ) (f : Ctx → ℕ → W32 → Option W32) (h : Canonical s) {u : State}
    (hu : atomLanes s o dat code f = .next u) :
    Canonical u := by
  refine canonical_issue _ _ (fun c x hx => ?_) h hu
  dsimp only
  split
  · exact canonical_stallAt _ hx
  · refine canonical_acc_orStall _ _ _ _ (fun y vs hy => canonical_lateResult _ _ _ _ (canonical_memIssued _ _ _ _ hy)) ?_
    refine canonical_foldl_by Acc.s (fun a t ha => canonical_acc_orWait _ _ _ _ _ _ _ ha (canonical_acc_lane _ _ _ _ _ _ _ _ ?_ ha)) hx
    grind [→ canonical_tgtRmw, canonical_noteAdd]

theorem canonical_atomOp (code : ℕ) (o : OpCm) {s : State} (h : Canonical s) {u : State} (hu : atomOp code o s = .next u) : Canonical u :=
  canonical_atomLanes _ _ _ _ h hu

theorem canonical_execAtomAdd (o : OpCm) {s : State} (h : Canonical s) {u : State} (hu : execAtomAdd o s = .next u) : Canonical u :=
  canonical_atomOp _ _ h hu

theorem canonical_execAtomAddF32 (o : OpCm) {s : State} (h : Canonical s) {u : State} (hu : execAtomAddF32 o s = .next u) : Canonical u :=
  canonical_atomOp _ _ h hu

theorem canonical_execAtomMinN32 (o : OpCm) {s : State} (h : Canonical s) {u : State} (hu : execAtomMinN32 o s = .next u) : Canonical u :=
  canonical_atomOp _ _ h hu

theorem canonical_execAtomMinI32 (o : OpCm) {s : State} (h : Canonical s) {u : State} (hu : execAtomMinI32 o s = .next u) : Canonical u :=
  canonical_atomOp _ _ h hu

theorem canonical_execAtomMinF32 (o : OpCm) {s : State} (h : Canonical s) {u : State} (hu : execAtomMinF32 o s = .next u) : Canonical u :=
  canonical_atomOp _ _ h hu

theorem canonical_execAtomMaxN32 (o : OpCm) {s : State} (h : Canonical s) {u : State} (hu : execAtomMaxN32 o s = .next u) : Canonical u :=
  canonical_atomOp _ _ h hu

theorem canonical_execAtomMaxI32 (o : OpCm) {s : State} (h : Canonical s) {u : State} (hu : execAtomMaxI32 o s = .next u) : Canonical u :=
  canonical_atomOp _ _ h hu

theorem canonical_execAtomMaxF32 (o : OpCm) {s : State} (h : Canonical s) {u : State} (hu : execAtomMaxF32 o s = .next u) : Canonical u :=
  canonical_atomOp _ _ h hu

theorem canonical_execAtomAnd (o : OpCm) {s : State} (h : Canonical s) {u : State} (hu : execAtomAnd o s = .next u) : Canonical u :=
  canonical_atomOp _ _ h hu

theorem canonical_execAtomOr (o : OpCm) {s : State} (h : Canonical s) {u : State} (hu : execAtomOr o s = .next u) : Canonical u :=
  canonical_atomOp _ _ h hu

theorem canonical_execAtomXor (o : OpCm) {s : State} (h : Canonical s) {u : State} (hu : execAtomXor o s = .next u) : Canonical u :=
  canonical_atomOp _ _ h hu

theorem canonical_execAtomXchg (o : OpCm) {s : State} (h : Canonical s) {u : State} (hu : execAtomXchg o s = .next u) : Canonical u :=
  canonical_atomOp _ _ h hu

theorem canonical_execCas (o : OpCm) {s : State} (h : Canonical s) {u : State} (hu : execCas o s = .next u) : Canonical u :=
  canonical_atomLanes _ _ _ _ h hu

theorem canonical_redGlobal {s : State} (c : Ctx) (w : Who) (va code : ℕ) (rel : Bool) (y : W32) (h : Canonical s) {u : State}
    (hu : redGlobal s c w va code rel y = .ok u) :
    Canonical u := by
  grind [redGlobal, canonical_updCore, canonical_drainThrough, canonical_noteAdd, canonical_orderEntry, canonical_releaseCore, → canonical_rmwSlice,
      canonical_wcbRed, → canonical_writeCheck]

theorem canonical_execRed (o : OpCm) {s : State} (h : Canonical s) {u : State} (hu : execRed o s = .next u) : Canonical u := by
  refine canonical_issue _ _ (fun c x hx => ?_) h hu
  dsimp only
  split
  · exact canonical_stallAt _ hx
  · refine canonical_acc_orStall _ _ _ _ (fun y vs hy => canonical_noResult _ _ (canonical_memIssued _ _ _ _ hy)) ?_
    refine canonical_foldl_by Acc.s (fun a t ha => canonical_acc_orWait _ _ _ _ _ _ _ ha (canonical_acc_lane _ _ _ _ _ _ _ _ ?_ ha)) hx
    grind [→ canonical_tgtRmw, canonical_noteAdd, → canonical_redGlobal]

theorem canonical_execBop (o : OpCm) {s : State} (h : Canonical s) {u : State} (hu : execBop o s = .next u) : Canonical u := by
  refine canonical_issue _ _ (fun c x hx => ?_) h hu
  dsimp only
  split
  · exact canonical_stallAt _ hx
  · refine canonical_noResult _ _ (canonical_memIssued _ _ _ _ (canonical_acc_done _ ?_))
    refine canonical_foldl_by Acc.s (fun a t ha => canonical_acc_lane _ _ _ _ _ _ _ _ ?_ ha) hx
    grind [→ canonical_tgtRmw]

theorem canonical_bredTeam (c : Ctx) (o : OpCm) (code : ℕ) (left : List ℕ) {a : Acc} (team : ℕ) (ha : Canonical a.s) : Canonical (bredTeam c o code left a team).s := by
  unfold bredTeam
  extract_lets ts good look b addrs
  have hlook : ∀ (l : List ℕ) {a : Acc}, Canonical a.s → Canonical (l.foldl look a).s := fun l a ha =>
    canonical_foldl_by Acc.s (fun a t ha => canonical_acc_lane _ _ _ _ _ _ _ _ (by grind) ha) ha
  refine canonical_foldl_by Acc.s (fun a va ha => canonical_acc_orWait _ _ _ _ _ _ _ ha ?_) (hlook _ ha)
  split
  · exact ha
  · dsimp only
    split
    · exact canonical_poisonRec _ (hlook _ ha)
    next hx =>
      have := canonical_tgtRmw _ _ _ _ _ _ (hlook _ ha) hx
      dsimp only
      split
      · exact canonical_noteAdd _ _ _ this
      · exact this

theorem canonical_execBred (o : OpCm) {s : State} (h : Canonical s) {u : State} (hu : execBred o s = .next u) : Canonical u := by
  refine canonical_issue _ _ (fun c x hx => ?_) h hu
  dsimp only
  split
  · exact canonical_stallAt _ hx
  · exact canonical_acc_orStall _ _ _ _ (fun y vs hy => canonical_noResult _ _ (canonical_memIssued _ _ _ _ hy))
      (canonical_foldl_by Acc.s (fun a t ha => canonical_bredTeam _ _ _ _ _ ha) hx)

/-! ## Flags, queues and block objects -/

theorem canonical_wakeFlag {s : State} (gid k : ℕ) (h : Canonical s) : Canonical (wakeFlag s gid k) :=
  canonical_retest _ _ _ _ h

theorem canonical_execFlgs (o : OpE) {s : State} (h : Canonical s) {u : State} (hu : execFlgs o s = .next u) : Canonical u := by
  refine canonical_issue _ _ (fun c x hx => ?_) h hu
  dsimp only
  split
  · exact canonical_illop _ hx
  · refine canonical_eachTeam _ _ _ _ _ (fun y t hy => ?_) (fun y hy => ?_) hx <;> grind [TeamKeeps, canonical_updGroup, canonical_illop,
      → canonical_llcFill, canonical_noResult, canonical_releaseCore, → canonical_rmwSlice, canonical_wakeFlag]

theorem canonical_homeRead {s : State} (w : Who) (va n : ℕ) (h : Canonical s) {u : ℕ × State} (hu : homeRead s w va n = .ok u) : Canonical u.2 := by
  grind [homeRead, canonical_acqPeer, canonical_freshBytes, → canonical_llcFill, canonical_peerAnswer, → canonical_peerPa, canonical_releaseCore,
      canonical_settleAll, canonical_sliceRead]

theorem canonical_flgTest {r : Polled} (c : Ctx) (o : OpE) (t : ℕ) (h : Canonical r.s) : Canonical (flgTest c o r t).s := by
  grind [flgTest, canonical_poisonRec, → canonical_homeRead]

theorem canonical_execFlgw (o : OpE) {s : State} (h : Canonical s) {u : State} (hu : execFlgw o s = .next u) : Canonical u := by
  refine canonical_issue _ _ (fun c x hx => ?_) h hu
  dsimp only
  split
  · exact canonical_illop _ hx
  · split
    · exact canonical_stallAt _ hx
    · have hr := canonical_dataFaults c (((c.teams o.g).foldl (flgTest c o) { s := x }).faults)
        (canonical_foldl_by (f := flgTest c o) (l := c.teams o.g) (b := { s := x }) Polled.s (fun r t hr => canonical_flgTest c o t hr) hx)
      split
      · exact canonical_noResult _ _ hr
      · exact canonical_settle _ (canonical_park _ _ _ _ _ hr)

theorem canonical_rangePush {s : State} (c : Ctx) (h0 : ℕ) (b : List Byte) (rel : Bool) (h : Canonical s) : Canonical (rangePush s c h0 b rel).1 :=
    by
  grind [rangePush, canonical_updRange]

theorem canonical_updChan {s : State} (n : ℕ) (f : Chan → Chan) (h : Canonical s) : Canonical (State.updChan s n f) :=
  (canonical_updSock ..).mpr h

theorem canonical_guestPush {s : State} (c : Ctx) (o : OpE) (team : ℕ) (b : List Byte) (h : Canonical s) {u : State × ℕ}
    (hu : guestPush s c o team b = some u) :
    Canonical u.1 := by
  grind [guestPush, canonical_updChan, canonical_lockAdd, canonical_releaseCore]

theorem canonical_execQpush (o : OpE) {s : State} (h : Canonical s) {u : State} (hu : execQpush o s = .next u) : Canonical u := by
  refine canonical_issue _ _ (fun c x hx => ?_) h hu
  dsimp only
  split
  · exact canonical_qfault _ _ hx
  refine canonical_eachTeam _ _ _ _ _ (fun y t hy => ?_) (fun y hy => canonical_settle _ (canonical_noResult _ _ hy)) hx
  have hf : ∀ (z : State × ℕ) (off : ℕ), Canonical z.1 → TeamKeeps (.ok (z.1.scrWrite c.g.id off (leBytes 4 z.2))) :=
    fun z off hz => canonical_scrWrite _ _ _ hz
  split
  · exact hy
  split
  · exact hy
  split
  · split
    next hg => exact hf _ _ (by grind [→ canonical_guestPush])
    · trivial
  · split
    · trivial
    · refine hf _ _ (canonical_rangePush _ _ _ _ ?_)
      split
      · exact canonical_releaseCore _ _ hy
      · exact hy

theorem canonical_execQpop (o : OpE) {s : State} (h : Canonical s) {u : State} (hu : execQpop o s = .next u) : Canonical u := by
  grind [execQpop, canonical_dataFaults, → canonical_issue, canonical_lateResult, canonical_qfault, canonical_settle]

theorem canonical_signalAdd {s : State} (c : Ctx) (sig : W64) (h : Canonical s) {u : State} (hu : signalAdd s c sig = .ok u) : Canonical u := by
  grind [signalAdd, → canonical_llcFill, canonical_releaseCore, → canonical_rmwSlice]

theorem canonical_execQdone (o : OpE) {s : State} (h : Canonical s) {u : State} (hu : execQdone o s = .next u) : Canonical u := by
  refine canonical_issue _ _ (fun c x hx => ?_) h hu
  refine canonical_eachTeam _ _ _ _ _ (fun y t hy => ?_) (fun y hy => ?_) hx <;> grind [TeamKeeps, canonical_updGroup, canonical_noResult,
      → canonical_signalAdd, canonical_teamQfault]

theorem canonical_execBoini (o : OpE) {s : State} (h : Canonical s) {u : State} (hu : execBoini o s = .next u) : Canonical u := by
  refine canonical_issue _ _ (fun c x hx => ?_) h hu
  dsimp only
  split
  · exact canonical_illop _ hx
  · refine canonical_eachTeam _ _ _ _ _ (fun y t hy => ?_) (fun y hy => ?_) hx
    · grind [TeamKeeps, canonical_scrWrite]
    · exact canonical_noResult _ _ hy

theorem canonical_execBoarr (o : OpE) {s : State} (h : Canonical s) {u : State} (hu : execBoarr o s = .next u) : Canonical u := by
  refine canonical_issue _ _ (fun c x hx => ?_) h hu
  dsimp only
  split
  · exact canonical_illop _ hx
  · refine canonical_eachTeam _ _ _ _ _ (fun y t hy => ?_) (fun y hy => ?_) hx
    · grind [TeamKeeps, canonical_boTake]
    · exact canonical_noResult _ _ hy

theorem canonical_execBowt (o : OpE) {s : State} (h : Canonical s) {u : State} (hu : execBowt o s = .next u) : Canonical u := by
  grind [execBowt, canonical_dataFaults, canonical_poisonRec, → canonical_issue, canonical_noResult, canonical_park, canonical_settle,
      canonical_foldl]

theorem canonical_execQueueEntryAging (rid die : ℕ) {s : State} (h : Canonical s) {u : State} (hu : execQueueEntryAging rid die s = .next u) :
    Canonical u := by
  grind [execQueueEntryAging, canonical_updRange]

/-! ## Control flow -/

theorem canonical_execBra (o : OpD) {s : State} (h : Canonical s) {u : State} (hu : execBra o s = .next u) : Canonical u :=
  canonical_issue _ _ (fun _ _ hx => canonical_retire _ _ _ _ _ hx) h hu

theorem canonical_execCall (o : OpD) {s : State} (h : Canonical s) {u : State} (hu : execCall o s = .next u) : Canonical u :=
  canonical_issue _ _ (fun _ _ hx => canonical_retire _ _ _ _ _ ((canonical_updGroup ..).mpr hx)) h hu

theorem canonical_execBrp (o : OpDp) {s : State} (h : Canonical s) {u : State} (hu : execBrp o s = .next u) : Canonical u :=
  canonical_issue _ _ (fun _ _ hx => canonical_retire _ _ _ _ _ hx) h hu

theorem canonical_jumpPair (o : OpA) {s : State} (h : Canonical s) {u : State} (hu : jumpPair o s = .next u) : Canonical u := by
  grind [jumpPair, → canonical_issue, canonical_precise, canonical_retire]

theorem canonical_execBrx (o : OpA) {s : State} (h : Canonical s) {u : State} (hu : execBrx o s = .next u) : Canonical u :=
  canonical_jumpPair _ h hu

theorem canonical_execRet (o : OpA) {s : State} (h : Canonical s) {u : State} (hu : execRet o s = .next u) : Canonical u :=
  canonical_jumpPair _ h hu

theorem canonical_fileOne (pc : W64) (gid bid : ℕ) {s : State} (t : ℕ) (h : Canonical s) : Canonical (fileOne pc gid bid s t) := by
  grind [fileOne, canonical_updBundle, canonical_updGroup]

theorem canonical_execReform (o : OpF) {s : State} (h : Canonical s) {u : State} (hu : execReform o s = .next u) : Canonical u := by
  grind [execReform, canonical_fileOne, → canonical_issue, canonical_retire, canonical_settle, canonical_foldl]

theorem canonical_drawAt {s : State} (k gid : ℕ) (h : Canonical s) : Canonical (drawAt s k gid) := by
  grind [drawAt, canonical_updGroup, canonical_settle]

theorem canonical_drawAged {s : State} (die core x1 : ℕ) (h : Canonical s) : Canonical (drawAged s die core x1) := by
  induction x1 generalizing s <;> grind [drawAged, canonical_drawAt]

theorem canonical_execBasinAgeDraw (gid bid : ℕ) {s : State} (h : Canonical s) {u : State} (hu : execBasinAgeDraw gid bid s = .next u) :
    Canonical u := by
  grind [execBasinAgeDraw, canonical_drawAt]

theorem canonical_execExit (o : OpF) {s : State} (h : Canonical s) {u : State} (hu : execExit o s = .next u) : Canonical u :=
  canonical_issue _ _ (fun _ _ hx => canonical_settle _ ((canonical_updGroup ..).mpr (canonical_retire _ _ _ _ _ hx))) h hu

theorem canonical_execNop (o : OpF) {s : State} (h : Canonical s) {u : State} (hu : execNop o s = .next u) : Canonical u :=
  canonical_issue _ _ (fun _ _ hx => canonical_noResult _ _ hx) h hu

theorem canonical_execYield (o : OpF) {s : State} (h : Canonical s) {u : State} (hu : execYield o s = .next u) : Canonical u :=
  canonical_issue _ _ (fun _ _ hx => canonical_retire _ _ _ _ _ hx) h hu

theorem canonical_arriveAt (o : OpF) (st : BStatus) (c : Ctx) {s : State} (h : Canonical s) : Canonical (arriveAt o st c s) := by
  grind [arriveAt, canonical_park, canonical_retire, canonical_settle]

theorem canonical_execBar (o : OpF) {s : State} (h : Canonical s) {u : State} (hu : execBar o s = .next u) : Canonical u :=
  canonical_issue _ _ (fun _ _ hx => canonical_arriveAt _ _ _ hx) h hu

theorem canonical_execGbar (o : OpF) {s : State} (h : Canonical s) {u : State} (hu : execGbar o s = .next u) : Canonical u := by
  grind [execGbar, canonical_arriveAt, → canonical_issue, canonical_precise]

theorem canonical_softTrap (code : Code) (n : ℕ) (o : OpF) (c : Ctx) {s : State} (h : Canonical s) : Canonical (softTrap code n o c s) := by
  grind [softTrap, canonical_retire, canonical_stopGroup]

theorem canonical_execTrap (o : OpF) {s : State} (h : Canonical s) {u : State} (hu : execTrap o s = .next u) : Canonical u :=
  canonical_issue _ _ (fun _ _ hx => canonical_softTrap _ _ _ _ hx) h hu

theorem canonical_execImplicitJoinIssue (gid team : ℕ) {s : State} (h : Canonical s) {u : State} (hu : execImplicitJoinIssue gid team s = .next u)
    :
    Canonical u := by
  grind [execImplicitJoinIssue, canonical_updGroup]

theorem canonical_execResultReturn (gid bid : ℕ) {s : State} (h : Canonical s) {u : State} (hu : execResultReturn gid bid s = .next u) :
    Canonical u := by
  grind [execResultReturn, canonical_updBundle, canonical_updGroup, canonical_settle]

/-! ## Masks -/

theorem canonical_maskmis {s : State} (c : Ctx) (m : BitVec 4) (armed met : W32) (ts : List ℕ) (h : Canonical s) :
    Canonical (maskmis s c m armed met ts) :=
  canonical_precise _ _ _ _ _ _ _ h

theorem canonical_arriveTeams (m : BitVec 4) (pc : W64) (gid : ℕ) {s : State} (bid : ℕ) (ts : List ℕ) (h : Canonical s) : Canonical (arriveTeams m pc gid s bid ts) := by
  induction ts generalizing s bid with
  | nil => exact h
  | cons t ts ih => exact ih _ ((canonical_updGroup ..).mpr h)

theorem canonical_maskGo (join : Bool) (o : OpA) {s : State} (go : Ctx → State → State) (hg : ∀ c s, Canonical s → Canonical (go c s))
    (h : Canonical s) {u : State} (hu : maskGo join o s go = .next u) :
    Canonical u := by
  refine canonical_issue _ _ (fun c x hx => ?_) h hu
  dsimp only
  split
  · exact canonical_maskmis _ _ _ _ _ hx
  · exact hg _ _ hx

theorem canonical_joinGo (o : OpA) (c : Ctx) {s : State} (h : Canonical s) : Canonical (joinGo o c s) := by
  grind [joinGo, canonical_arriveTeams, canonical_park, canonical_retire, canonical_settle]

theorem canonical_execJoin (o : OpA) {s : State} (h : Canonical s) {u : State} (hu : execJoin o s = .next u) : Canonical u := by
  grind [execJoin, canonical_joinGo, → canonical_maskGo]

theorem canonical_arriveWaits (c : Ctx) (m : BitVec 4) (ts teams : List ℕ) {s : State} (h : Canonical s) : Canonical (arriveWaits c m ts teams s) :=
  (canonical_updGroup ..).mpr h

theorem canonical_waitGo (o : OpA) (c : Ctx) {s : State} (h : Canonical s) : Canonical (waitGo o c s) := by
  grind [waitGo, canonical_arriveWaits, canonical_park, canonical_retire, canonical_settle]

theorem canonical_execWait (o : OpA) {s : State} (h : Canonical s) {u : State} (hu : execWait o s = .next u) : Canonical u := by
  grind [execWait, → canonical_maskGo, canonical_waitGo]

theorem canonical_execLeave (o : OpA) {s : State} (h : Canonical s) {u : State} (hu : execLeave o s = .next u) : Canonical u :=
  canonical_issue _ _ (fun _ _ hx => canonical_settle _ (canonical_noResult _ _ ((canonical_updGroup ..).mpr hx))) h hu

theorem canonical_writeMask {s : State} (c : Ctx) (mark : Bool) (m : BitVec 4) (ts : List ℕ) (x1 : ℕ → W32) (h : Canonical s) :
    Canonical (writeMask s c mark m ts x1) := by
  grind [writeMask, canonical_updGroup, canonical_maskmis, canonical_noResult, canonical_foldl]

theorem canonical_execMset (o : OpBW) {s : State} (h : Canonical s) {u : State} (hu : execMset o s = .next u) : Canonical u :=
  canonical_issue _ _ (fun _ _ hx => canonical_writeMask _ _ _ _ _ hx) h hu

theorem canonical_execMlog (o : OpA) {s : State} (h : Canonical s) {u : State} (hu : execMlog o s = .next u) : Canonical u :=
  canonical_issue _ _ (fun _ _ hx => canonical_writeMask _ _ _ _ _ hx) h hu

theorem canonical_execBallot (o : OpA) {s : State} (h : Canonical s) {u : State} (hu : execBallot o s = .next u) : Canonical u := by
  grind [execBallot, canonical_fixedV, → canonical_issue, canonical_writeMask]

theorem canonical_execElect (o : OpA) {s : State} (h : Canonical s) {u : State} (hu : execElect o s = .next u) : Canonical u :=
  canonical_issue _ _ (fun _ _ hx => canonical_fixedP _ _ _ _ hx) h hu

/-! ## The matrix unit -/

theorem canonical_mtxTeam (c : Ctx) (o : OpE) (form : ℕ) {s : State} (t : ℕ) (h : Canonical s) : TeamKeeps (mtxTeam c o form s t) := by
  have hi := teamKeeps_illop c
  unfold mtxTeam
  extract_lets off
  split
  · exact h
  split
  · exact h
  extract_lets bs x die
  refine teamKeeps_ite hi ?_
  split
  · exact h
  refine teamKeeps_ite trivial ?_
  clear_value x
  refine teamKeeps_ite hi ?_
  split
  · exact h
  · exact teamKeeps_ite trivial ((canonical_updEng ..).mpr (canonical_startOp _ _ _ _ _ _ _ h))

theorem canonical_mtxIssue (form : ℕ) (o : OpE) {s : State} (h : Canonical s) {u : State} (hu : mtxIssue form o s = .next u) : Canonical u := by
  grind [mtxIssue, canonical_eachTeam, canonical_illop, → canonical_issue, canonical_mtxTeam, canonical_noResult]

theorem canonical_execMtx (o : OpE) {s : State} (h : Canonical s) {u : State} (hu : execMtx o s = .next u) : Canonical u :=
  canonical_mtxIssue _ _ h hu

theorem canonical_execMtxg (o : OpE) {s : State} (h : Canonical s) {u : State} (hu : execMtxg o s = .next u) : Canonical u :=
  canonical_mtxIssue _ _ h hu

theorem canonical_execMtxs (o : OpE) {s : State} (h : Canonical s) {u : State} (hu : execMtxs o s = .next u) : Canonical u :=
  canonical_mtxIssue _ _ h hu

theorem canonical_readParts {s : State} (c : Ctx) (scr : Bool) (base : ℕ) (ps : List (ℕ × ℕ)) (h : Canonical s) : Canonical (readParts s c scr base ps).1 := by
  unfold readParts
  refine canonical_foldl_by Prod.fst (fun r p hr => ?_) h
  split
  · exact hr
  · exact canonical_engRead _ _ _ _ hr

theorem canonical_mtxRun {s : State} (c : Ctx) (x1 : MBlk) (h : Canonical s) : Canonical (mtxRun s c x1).s := by
  grind [mtxRun, canonical_poisonRec, canonical_readParts]

theorem canonical_execXsect (o : OpE) {s : State} (h : Canonical s) {u : State} (hu : execXsect o s = .next u) : Canonical u := by
  refine canonical_issue _ _ (fun c x hx => ?_) h hu
  dsimp only
  split
  · exact canonical_illop _ hx
  · refine canonical_eachTeam _ _ _ _ _ (fun y t hy => ?_) (fun y hy => ?_) hx <;> grind [TeamKeeps, canonical_illop, canonical_noResult,
      canonical_startOp]

theorem canonical_execDist (o : OpE) {s : State} (h : Canonical s) {u : State} (hu : execDist o s = .next u) : Canonical u := by
  grind [execDist, canonical_updGroup, canonical_illop, → canonical_issue, canonical_lateResult, canonical_foldl]

theorem canonical_execFixup (o : OpE) {s : State} (h : Canonical s) {u : State} (hu : execFixup o s = .next u) : Canonical u := by
  refine canonical_issue _ _ (fun c x hx => ?_) h hu
  extract_lets one
  split
  · exact canonical_illop _ hx
  · refine canonical_eachTeam _ _ _ _ _ (fun y t hy => ?_) (fun y hy => canonical_noResult _ _ hy) hx
    exact teamKeeps_ite (teamKeeps_illop c) (teamKeeps_ite hy (teamKeeps_ite hy (teamKeeps_ite hy (teamKeeps_ite trivial
      (canonical_startOp _ _ _ _ _ _ _ ((canonical_updGroup ..).mpr hy))))))

theorem canonical_resvSeenN {s : State} (w : Who) (die off n : ℕ) (write : Bool) (h : Canonical s) :
    Canonical (State.resvSeenN s w die off n write) := by
  grind [State.resvSeenN, canonical_resvSeen, canonical_foldl]

theorem canonical_fixRun {s : State} (c : Ctx) (owner : Bool) (off : ℕ) (w : W64) (h : Canonical s) {u : MRes} (hu : fixRun s c owner off w = some u) : Canonical u.s := by
  unfold fixRun at hu
  extract_lets tile die at hu
  split at hu
  · cases hu
    exact canonical_poisonRec _ h
  next bs x hx =>
    have hxx := canonical_tgtLoad _ _ _ _ h hx
    split at hu
    · split at hu
      · cases hu
      · extract_lets hurt parts out at hu
        clear_value hurt
        split at hu
        · cases hu
          exact canonical_poisonRec _ hxx
        · cases hu
          exact canonical_foldl (fun y n hy => canonical_resvSeenN _ _ _ _ _ (canonical_resvReady _ _ _ hy)) hxx
    · cases hu
      exact hxx

theorem canonical_wakeCore {s : State} (die core : ℕ) (h : Canonical s) : Canonical (wakeCore s die core) := by
  grind [wakeCore, canonical_wakeStalled, canonical_foldl]

theorem canonical_execMatrixStart (core : ℕ) {s : State} (h : Canonical s) {u : State} (hu : execMatrixStart core s = .next u) : Canonical u := by
  grind [execMatrixStart, canonical_updEng, canonical_updOp]

theorem canonical_opRun {s : State} (o : EngOp) (h : Canonical s) {u : Ctx × MRes} (hu : opRun s o = some u) : Canonical u.2.s := by
  unfold opRun at hu
  split at hu
  · cases hu
  · split at hu
    · cases hu
    · split at hu
      · split at hu
        · cases hu
          exact canonical_mtxRun _ _ h
        · cases hu
      · dsimp only at hu
        split at hu <;> cases hu
        · exact canonical_poisonRec _ h
        · exact canonical_poisonRec _ h
        · exact h
      · obtain ⟨r, hr, rfl⟩ := Option.map_eq_some_iff.mp hu
        exact canonical_fixRun _ _ _ _ h hr
      · cases hu

theorem canonical_opDone (o : EngOp) (c : Ctx) {r : MRes} {s : State} (off : ℕ) (h : Canonical s) :
    Canonical (opDone o c r s off) := by
  grind [opDone, canonical_coreHeal, canonical_scrWrite, canonical_updEng, canonical_finishOp, canonical_settle, canonical_wakeCore]

theorem canonical_execMatrixComplete (op : ℕ) {s : State} (h : Canonical s) {u : State} (hu : execMatrixComplete op s = .next u) : Canonical u := by
  grind [execMatrixComplete, canonical_count, canonical_opDone, → canonical_opRun]

theorem canonical_execXsectComplete (op : ℕ) {s : State} (h : Canonical s) {u : State} (hu : execXsectComplete op s = .next u) : Canonical u := by
  grind [execXsectComplete, canonical_opDone, → canonical_opRun]

theorem canonical_execMatrixFault (op : ℕ) {s : State} (h : Canonical s) {u : State} (hu : execMatrixFault op s = .next u) : Canonical u := by
  grind [execMatrixFault, canonical_updEng, canonical_updOp, canonical_engFault, → canonical_opRun, canonical_wakeCore]

theorem canonical_execFixupDepositComplete (op : ℕ) {s : State} (h : Canonical s) {u : State} (hu : execFixupDepositComplete op s = .next u) :
    Canonical u := by
  grind [execFixupDepositComplete, canonical_resHeal, canonical_resvReady, canonical_resvSeenN, canonical_resvWrite, canonical_updGroup,
      canonical_finishOp, → canonical_opRun, canonical_releaseCore, canonical_settle]

theorem canonical_execFixupOwnerCombine (op : ℕ) {s : State} (h : Canonical s) {u : State} (hu : execFixupOwnerCombine op s = .next u) :
    Canonical u := by
  grind [execFixupOwnerCombine, canonical_opDone, → canonical_opRun]

end Sys2Proof.Rules
end

section
/-! PROOF. Memory stays canonical (O58): edge ranges, agents, the guest, dispatch and launch. -/

namespace Sys2Proof.Rules
open Sys2Proof.Safety Sys2Proof.Machine

/-! ## Edge ranges -/

theorem canonical_edgeIssue {s : State} (p : Spec) (body : Ctx → Graph → State → State) (hb : ∀ c g s, Canonical s → Canonical (body c g s))
    (h : Canonical s) {u : State} (hu : edgeIssue s p body = .next u) :
    Canonical u := by
  refine canonical_issue _ _ (fun c x hx => ?_) h hu
  split
  · exact hb _ _ _ hx
  · exact canonical_illop _ hx

theorem canonical_execEnext (o : OpE) {s : State} (h : Canonical s) {u : State} (hu : execEnext o s = .next u) : Canonical u := by
  grind [execEnext, → canonical_edgeIssue, canonical_lateResult, canonical_settle]

theorem canonical_spillComb (c : Ctx) (g : Graph) {s : State} (fs : List DFault) (t : ℕ) (tr : Triple) (y : W32) (h : Canonical s) :
    Canonical (spillComb c g s fs t tr y).1 := by
  grind [spillComb, canonical_poisonRec, canonical_updGraph, → canonical_llcFill, → canonical_stateComb]

theorem canonical_applyAcc {s : State} (rid die : ℕ) (p : DrawWalk → Bool) (h : Canonical s) : Canonical (applyAcc s rid die p) :=
  canonical_flush _ _ (canonical_updGraph _ _ h)

theorem canonical_drawComb (c : Ctx) (g : Graph) {s : State} (t : ℕ) (tr : Triple) (y : W32) (h : Canonical s) :
    Canonical (drawComb c g s t tr y) := by
  grind [drawComb, canonical_updGraph, canonical_applyAcc, → canonical_drawOn, canonical_flush]

theorem canonical_combLane (c : Ctx) (g : Graph) (a : BitVec 6) (x : State × List DFault) (t : ℕ) (h : Canonical x.1) : Canonical (combLane c g a x t).1 := by
  grind [combLane, canonical_drawComb, canonical_spillComb]

theorem canonical_execEcomb (o : OpE) {s : State} (h : Canonical s) {u : State} (hu : execEcomb o s = .next u) : Canonical u := by
  refine canonical_edgeIssue _ _ (fun c g x hx => ?_) h hu
  dsimp only
  split
  · exact canonical_stallAt _ hx
  · exact canonical_settle _ (canonical_noResult _ _ (canonical_dataFaults _ _
      (canonical_foldl_by Prod.fst (fun y t hy => canonical_combLane _ _ _ _ _ hy) hx)))

theorem canonical_execEact (o : OpE) {s : State} (h : Canonical s) {u : State} (hu : execEact o s = .next u) : Canonical u := by
  grind [execEact, canonical_askAct, → canonical_edgeIssue, canonical_noResult, canonical_foldl]

theorem canonical_execEdone (o : OpE) {s : State} (h : Canonical s) {u : State} (hu : execEdone o s = .next u) : Canonical u := by
  grind [execEdone, → canonical_edgeIssue, canonical_endWalks, canonical_noResult, canonical_foldl]

theorem canonical_execElevel (o : OpF) {s : State} (h : Canonical s) {u : State} (hu : execElevel o s = .next u) : Canonical u := by
  grind [execElevel, → canonical_edgeIssue, canonical_noResult, canonical_park, canonical_settle]

theorem canonical_execEmode (o : OpF) {s : State} (h : Canonical s) {u : State} (hu : execEmode o s = .next u) : Canonical u := by
  grind [execEmode, canonical_updEng, → canonical_edgeIssue, canonical_noResult]

theorem canonical_levelDrain {s : State} (rid : ℕ) (h : Canonical s) : Canonical (levelDrain s rid).1 := by
  unfold levelDrain
  split
  · exact h
  · refine canonical_doActs _ (canonical_foldl_by Prod.fst (fun r x hr => ?_) h)
    exact canonical_flush _ _ (canonical_updGraph _ _ hr)

theorem canonical_boundary {s : State} (rid : ℕ) (h : Canonical s) {u : State} (hu : boundary s rid = .ok u) : Canonical u := by
  unfold boundary at hu
  split at hu
  · cases hu
    exact h
  next r _ =>
    split at hu
    · cases hu
      exact h
    next g _ =>
      extract_lets w fv fe m em at hu
      clear_value w fv fe m em
      split at hu
      · cases hu
      next hx =>
        have h1 := canonical_mapRead _ _ _ h hx
        split at hu
        · cases hu
        next hx =>
          have h2 := canonical_mapWrite _ _ _ _ h1 hx
          split at hu
          · cases hu
          next hx =>
            have h3 := canonical_mapWrite _ _ _ _ h2 hx
            split at hu
            · cases hu
            next hx =>
              have h4 := canonical_sluWrite _ _ _ h3 hx
              cases hu
              exact canonical_updGraph _ _ h4

theorem canonical_levelWork {s : State} (rid : ℕ) (h : Canonical s) : Canonical (levelWork s rid).1 := by
  grind [levelWork, canonical_doActs, canonical_levelDrain, canonical_logqRun]

theorem canonical_levelEnd {s : State} (rid : ℕ) (h : Canonical s) : Canonical (levelEnd s rid).1 := by
  grind [levelEnd, → canonical_boundary, → canonical_graphStart, canonical_levelWork]

theorem canonical_sluiceExit {s : State} (gid : ℕ) (h : Canonical s) : Canonical (sluiceExit s gid) := by
  grind [sluiceExit, canonical_endWalks, canonical_levelWork]

theorem canonical_levelRelease {s : State} (rid : ℕ) (h : Canonical s) : Canonical (levelRelease s rid) := by
  grind [levelRelease, canonical_updCore, canonical_updGroup, canonical_finishWait, canonical_releaseCore, canonical_foldl]

theorem canonical_execLevelBoundary (rid : ℕ) {s : State} (h : Canonical s) {u : State} (hu : execLevelBoundary rid s = .next u) : Canonical u := by
  grind [execLevelBoundary, canonical_levelEnd, canonical_levelRelease, canonical_releaseCore, canonical_settle, canonical_foldl]

theorem canonical_execMidlevelSwitch (rid die : ℕ) {s : State} (h : Canonical s) {u : State} (hu : execMidlevelSwitch rid die s = .next u) :
    Canonical u := by
  grind [execMidlevelSwitch, canonical_midSwitch]

theorem canonical_sluFaultOf {s : State} (rid die : ℕ) (h : Canonical s) {u : State × SErr × W64} (hu : sluFaultOf s rid die = some u) :
    Canonical u.1 := by
  unfold sluFaultOf at hu
  extract_lets acts accs pend gs last work at hu
  have hacts : Canonical acts.1 := canonical_doActs _ h
  have haccs : Canonical accs.1 := canonical_flush _ _ h
  have hwork : Canonical work.1 := by
    refine canonical_fst_ite (canonical_levelWork _ h) (canonical_fst_ite (canonical_logqRun _ h) (canonical_combsGo _ h))
  clear_value acts accs work pend
  split at hu
  · cases hu
    exact hacts
  · cases hu
    exact haccs
  · cases hu
    exact h
  · cases hu
    exact hwork
  · split at hu
    · split at hu <;> cases hu
      exact h
    · cases hu

theorem canonical_execSluiceFault (rid die : ℕ) {s : State} (h : Canonical s) {u : State} (hu : execSluiceFault rid die s = .next u) :
    Canonical u := by
  grind [execSluiceFault, canonical_poisonRec, → canonical_sluFaultOf, canonical_stopGroup, canonical_foldl]

/-! ## Agents of the memory side -/

theorem canonical_feRead {s : State} (w : Who) (key : Option ℕ) (va n : ℕ) (h : Canonical s) {u : List Byte × State}
    (hu : feRead s w key va n = .ok u) :
    Canonical u.2 :=
  canonical_steady.feRead (hu := hu) (h := h) ..

theorem canonical_feWrite {s : State} (w : Who) (va : ℕ) (bs : List Byte) (h : Canonical s) {u : State} (hu : feWrite s w va bs = .ok u) :
    Canonical u :=
  canonical_steady.feWrite (hu := hu) (h := h) ..

theorem canonical_dirtyBit {s : State} (q : Queue) (i : ℕ) (h : Canonical s) : Canonical (dirtyBit s q i) :=
  canonical_steady.dirtyBit (h := h) ..

theorem canonical_feStore {s : State} (w : Who) (va : ℕ) (bs : List Byte) (h : Canonical s) {u : State} (hu : feStore s w va bs = .ok u) :
    Canonical u :=
  canonical_steady.feStore (hu := hu) (h := h) ..

theorem canonical_dirtySignal {s : State} (qid : ℕ) (va : W64) (h : Canonical s) : Canonical (dirtySignal s qid va) := by
  grind [dirtySignal, canonical_updQueue, canonical_dirtyBit]

theorem canonical_faultQueue {s : State} (qid byte : ℕ) (h : Canonical s) : Canonical (faultQueue s qid byte) :=
  canonical_deviceRec _ ((canonical_updQueue ..).mpr h)

theorem canonical_unwritten {s : State} (f : AFault) (addr qid rid : ℕ) (h : Canonical s) : Canonical (unwritten s f addr qid rid) :=
  canonical_steady.unwritten (h := h) ..

theorem canonical_complete {s : State} (qid : ℕ) (crec : W64) (status rid : ℕ) (h : Canonical s) : Canonical (complete s qid crec status rid) :=
  canonical_steady.complete (h := h) ..

theorem canonical_indSettle {s : State} (qid : ℕ) (h : Canonical s) : Canonical (indSettle s qid) :=
  canonical_steady.indSettle (h := h) ..

theorem canonical_pendDone {s : State} (qid : ℕ) (x1 : W64 × ℕ) (h : Canonical s) : Canonical (pendDone s qid x1) :=
  canonical_steady.pendDone (h := h) ..

theorem canonical_exportBytes {s : State} (q : Queue) (dest : W64) (h : Canonical s) : Canonical (exportBytes s q dest).2 := by
  unfold exportBytes
  refine canonical_foldl_by Prod.snd (fun r p hr => ?_) h
  split
  next hx =>
    have hy := canonical_feRead _ _ _ _ hr hx
    exact hy
  · exact canonical_faultQueue _ _ hr
  · exact hr

theorem canonical_endingSettle {s : State} (qid : ℕ) (h : Canonical s) : Canonical (endingSettle s qid) := by
  grind [endingSettle, canonical_updFe, canonical_updQueue, canonical_exportBytes, → canonical_feStore, canonical_pendDone, canonical_unwritten]

theorem canonical_extendReg {s : State} (reg index : ℕ) (value : W64) (h : Canonical s) : Canonical (extendReg s reg index value) :=
  (canonical_updPkg ..).mpr h

theorem canonical_feWord {s : State} (w : Who) (va : W64) (add : Bool) (x1 : W64) (h : Canonical s) {u : State}
    (hu : feWord s w va add x1 = .ok u) :
    Canonical u :=
  canonical_steady.feWord (hu := hu) (h := h) ..

theorem canonical_signalOne {s : State} (w : Who) (sig : W64) (top : Bool) (qid : Option ℕ) (rid : ℕ) (h : Canonical s) :
    Canonical (signalOne s w sig top qid rid) := by
  grind [signalOne, canonical_dirtySignal, → canonical_feWord, canonical_unwritten]

theorem canonical_releaseAll {s : State} (h : Canonical s) : Canonical (releaseAll s) := by
  grind [releaseAll, canonical_releaseCore, canonical_foldl]

theorem canonical_carveSettle {s : State} (p : ℕ) (h : Canonical s) : Canonical (carveSettle s p) := by
  grind [carveSettle, canonical_updPart, canonical_pendDone]

theorem canonical_settleSectors {s : State} (p : Sector → Bool) (h : Canonical s) : Canonical (settleSectors s p) := by
  grind [settleSectors, canonical_drainThrough, canonical_performSector, canonical_foldl]

theorem canonical_dropSectors {s : State} (p : Sector → Bool) (h : Canonical s) : Canonical (dropSectors s p) := by
  grind [dropSectors, canonical_leaveLlc, canonical_updMem, canonical_settleSectors]

theorem canonical_carveWrite {s : State} (p : ℕ) (x1 : W32) (h : Canonical s) {u : State} (hu : carveWrite s p x1 = .ok u) : Canonical u := by
  grind [carveWrite, canonical_leaveLlc, canonical_updCore, canonical_updPart, canonical_drainAll, canonical_foldl]

theorem canonical_execReservoirWayDrained (part : ℕ) {s : State} (h : Canonical s) {u : State} (hu : execReservoirWayDrained part s = .next u) :
    Canonical u := by
  grind [execReservoirWayDrained, canonical_drainWay, canonical_carveSettle]

/-! ## The guest and the Lateral socket -/

theorem canonical_sendMsg {s : State} (row : ℕ) (nums : List ℕ) (bytes : List Byte) (h : Canonical s) : Canonical (sendMsg s row nums bytes) :=
  (canonical_updSock ..).mpr h

theorem canonical_poolAt {s : State} (h : Canonical s) : Canonical (State.poolAt s).2 :=
  (canonical_updPkg ..).mpr h

theorem canonical_completePkt {s : State} (chan : ℕ) (p : GPkt) (failed : Bool) (h : Canonical s) : Canonical (completePkt s chan p failed) :=
  canonical_steady.completePkt (h := h) ..

theorem canonical_settlePkt {s : State} (p : GPkt) (h : Canonical s) : Canonical (settlePkt s p) :=
  canonical_settle _ h

theorem canonical_tcpl {s : State} (tag : W32) (status : ℕ) (rest : List ℕ) (h : Canonical s) : Canonical (tcpl s tag status rest) :=
  canonical_sendMsg _ _ _ h

theorem canonical_makeGrant {s : State} (chan : ℕ) (seq : W32) (page : ℕ) (write : Bool) (tag : W32) (asid : ℕ) (h : Canonical s) :
    Canonical (makeGrant s chan seq page write tag asid) := by
  grind [makeGrant, canonical_updSock, canonical_tcpl, → canonical_translate]

theorem canonical_sendTinv {s : State} (g : Grant) (grp : ℕ) (h : Canonical s) : Canonical (sendTinv s g grp) := by
  grind [sendTinv, canonical_updSock, canonical_sendMsg]

theorem canonical_invSettle {s : State} (h : Canonical s) : Canonical (invSettle s) := by
  grind [invSettle, canonical_pendDone, canonical_foldl]

theorem canonical_answerTreq {s : State} (x1 : ℕ × W32 × ℕ × Bool × ℕ × ℕ) (h : Canonical s) : Canonical (answerTreq s x1) :=
  canonical_makeGrant _ _ _ _ _ _ h

theorem canonical_treqGo {s : State} (n : ℕ) (h : Canonical s) : Canonical (treqGo s n) := by
  induction n generalizing s with
  | zero => exact h
  | succ n ih =>
    unfold treqGo
    split
    · exact h
    · dsimp only
      split
      · exact ih (canonical_answerTreq _ ((canonical_updSock ..).mpr h))
      · split
        · exact h
        · split
          · exact ih (canonical_sendTinv _ _ h)
          · split
            · exact ih (canonical_tcpl _ _ _ ((canonical_updSock ..).mpr h))
            · exact h

theorem canonical_treqSettle {s : State} (h : Canonical s) : Canonical (treqSettle s) :=
  canonical_treqGo _ h

theorem canonical_endGuest {s : State} (h : Canonical s) : Canonical (endGuest s) := by
  grind [endGuest, canonical_updSock, canonical_answerTreq, canonical_completePkt, canonical_invSettle, canonical_settle, canonical_foldl]

theorem canonical_fence {s : State} (cause : ℕ) (h : Canonical s) : Canonical (fence s cause) := by
  grind [fence, canonical_deviceRec, canonical_updSock, canonical_endGuest]

theorem canonical_malformed {s : State} (row : ℕ) (h : Canonical s) : Canonical (malformed s row) :=
  canonical_fence _ h

theorem canonical_execPortFence (why : Byte) {s : State} (h : Canonical s) {u : State} (hu : execPortFence why s = .next u) : Canonical u := by
  grind [execPortFence, canonical_fence]

theorem canonical_execGpkt (chan : ℕ) {s : State} (h : Canonical s) {u : State} (hu : execGpkt chan s = .next u) : Canonical u := by
  grind [execGpkt, canonical_updChan, canonical_completePkt, canonical_releaseCore, canonical_sendMsg, canonical_settlePkt]

theorem canonical_execGcpl (chan : ℕ) (seq : W32) (failed : Bool) {s : State} (h : Canonical s) {u : State}
    (hu : execGcpl chan seq failed s = .next u) :
    Canonical u := by
  grind [execGcpl, canonical_updSock, canonical_completePkt, canonical_fence, canonical_malformed, canonical_settlePkt, canonical_treqSettle]

theorem canonical_execGflt (chan : ℕ) (seq : W32) (cause : Byte) (addr : W64) (code : W16) {s : State} (h : Canonical s) {u : State}
    (hu : execGflt chan seq cause addr code s = .next u) :
    Canonical u := by
  grind [execGflt, canonical_queueRec, canonical_malformed, canonical_stopGroup]

theorem canonical_failParked {s : State} (rid : ℕ) (p : ℕ × GPkt → Bool) (h : Canonical s) : Canonical (failParked s rid p) := by
  grind [failParked, canonical_updRange, canonical_completePkt, canonical_foldl]

theorem canonical_killPackets {s : State} (gid : ℕ) (h : Canonical s) : Canonical (killPackets s gid) := by
  grind [killPackets, canonical_updChan, canonical_completePkt, canonical_failParked, canonical_sendMsg, canonical_foldl]

theorem canonical_execTreq (chan : ℕ) (seq : W32) (va : W64) (write : Bool) (tag : W32) {s : State} (h : Canonical s) {u : State}
    (hu : execTreq chan seq va write tag s = .next u) :
    Canonical u := by
  grind [execTreq, canonical_updSock, canonical_malformed, canonical_tcpl, → canonical_translate, canonical_treqSettle]

theorem canonical_execTinvack (tag : ℕ) {s : State} (h : Canonical s) {u : State} (hu : execTinvack tag s = .next u) : Canonical u := by
  grind [execTinvack, canonical_guestFlush, canonical_updSock, canonical_fence, canonical_invSettle, canonical_malformed, canonical_treqSettle]

theorem canonical_execGpack (chan rid : ℕ) (bytes : List Byte) (seqs : List W32) {s : State} (h : Canonical s) {u : State}
    (hu : execGpack chan rid bytes seqs s = .next u) :
    Canonical u := by
  grind [execGpack, canonical_updChan, canonical_updRange, canonical_fence, canonical_malformed, canonical_sendMsg, canonical_foldl]

theorem canonical_execGrack (chan rid : ℕ) (refused : Bool) {s : State} (h : Canonical s) {u : State}
    (hu : execGrack chan rid refused s = .next u) :
    Canonical u := by
  grind [execGrack, canonical_updChan, canonical_completePkt, canonical_failParked, canonical_fence, canonical_malformed, canonical_settle,
      canonical_foldl]

theorem canonical_unparkPkts {s : State} (r : RangeSt) (gid part : ℕ) (h : Canonical s) : Canonical (unparkPkts s r gid part) := by
  unfold unparkPkts
  dsimp only
  split
  · exact h
  · refine canonical_foldl (fun y x hy => ?_) ((canonical_updEng ..).mpr (canonical_foldl (fun y c hy => ?_) ((canonical_updRange ..).mpr h)))
    · split
      · exact canonical_updChan _ _ hy
      · exact canonical_completePkt _ _ _ hy
    · split
      · exact hy
      · split
        · exact canonical_sendMsg _ _ _ (canonical_updChan _ _ (canonical_poolAt ((canonical_updRange ..).mpr hy)))
        · exact (canonical_updRange ..).mpr hy

theorem canonical_readDone {s : State} (pa : W64) (x1 : Option (List Byte)) (h : Canonical s) : Canonical (State.readDone s pa x1) :=
  (canonical_updSock ..).mpr h

theorem canonical_guestKeep {s : State} (sec : ℕ) (bs : List (ℕ × Byte)) (h : Canonical s) : Canonical (State.guestKeep s sec bs) :=
  (canonical_updSock ..).mpr h

theorem canonical_guestPut {s : State} (x1 : ℕ × List Byte) (h : Canonical s) : Canonical (guestPut s x1) := by
  grind [guestPut, canonical_freshByte, canonical_guestKeep, canonical_paWrite, canonical_updMem, canonical_updSector, canonical_updSock,
      canonical_performSector, canonical_foldl]

theorem canonical_guestGet {s : State} (x1 : ℕ × List Byte) (h : Canonical s) : Canonical (guestGet s x1) := by
  grind [guestGet, canonical_freshByte, canonical_guestKeep, canonical_performSector, canonical_foldl]

theorem canonical_execGuestAccess (pa : W64) (data : Option (List Byte)) (size : ℕ) {s : State} (h : Canonical s) {u : State} (hu : execGuestAccess pa data size s = .next u) : Canonical u := by
  injection hu with hu
  subst hu
  cases data with
  | none =>
    dsimp only
    split
    · exact canonical_deviceRec _ (canonical_readDone _ _ h)
    · exact canonical_readDone _ _ (canonical_foldl (fun x b hx => canonical_guestGet _ hx) h)
  | some b =>
    dsimp only
    split
    · exact canonical_deviceRec _ h
    · exact canonical_foldl (fun x b hx => canonical_guestPut _ hx) h

theorem canonical_execGuestChannelConfigure (chan depth gsave : ℕ) {s : State} (h : Canonical s) {u : State}
    (hu : execGuestChannelConfigure chan depth gsave s = .next u) :
    Canonical u := by
  grind [execGuestChannelConfigure, canonical_updSock]

/-! ## Placement of groups -/

theorem canonical_updHarp {s : State} (rid share : ℕ) (f : Harp → Harp) (h : Canonical s) : Canonical (State.updHarp s rid share f) :=
  (canonical_updRange ..).mpr h

theorem canonical_putCut {s : State} (r : RangeSt) (die : ℕ) (b : List Byte) (launch : Bool) (h : Canonical s) :
    Canonical (putCut s r die b launch) :=
  canonical_logRange _ _ _ _ (canonical_traceWrite _ _ _ h)

theorem canonical_cutNow {s : State} (rid share why : ℕ) (shp : P3) (ord : ℕ) (launch : Bool) (h : Canonical s) :
    Canonical (cutNow s rid share why shp ord launch) := by
  grind [cutNow, canonical_putCut]

theorem canonical_donate {s : State} (rid share : ℕ) (h : Canonical s) : Canonical (donate s rid share) := by
  grind [donate, canonical_updHarp, canonical_cutNow]

theorem canonical_cutApply {s : State} (rid share : ℕ) (x1 : ℕ × P3 × ℕ) (h : Canonical s) : Canonical (cutApply s rid share x1) :=
  canonical_donate _ _ (canonical_cutNow _ _ _ _ _ _ (canonical_updHarp _ _ _ h))

theorem canonical_cutRetry {s : State} (rid share : ℕ) (h : Canonical s) : Canonical (cutRetry s rid share) := by
  grind [cutRetry, canonical_cutApply]

theorem canonical_finished {s : State} (g : Group) (h : Canonical s) : Canonical (finished s g) := by
  grind [finished, canonical_count, canonical_updHarp, canonical_cutRetry]

theorem canonical_placeNext {s : State} (rid : ℕ) (share : ℕ) (h : Canonical s) {u : State} (hu : placeNext s rid share = some u) : Canonical u := by
  unfold placeNext at hu
  dsimp only at hu
  repeat' split at hu
  all_goals grind [canonical_count, canonical_updHarp, canonical_updRange, canonical_foldl, Canonical]

theorem canonical_pinApply {s : State} (rid share : ℕ) (b : List Byte) (launch : Bool) (h : Canonical s) :
    Canonical (pinApply s rid share b launch) := by
  grind [pinApply, canonical_updHarp, canonical_putCut]

theorem canonical_pinDue {s : State} (rid share : ℕ) (h : Canonical s) {u : State} (hu : pinDue s rid share = some u) : Canonical u := by
  grind [pinDue, canonical_pinApply]

theorem canonical_refile {s : State} (gid : ℕ) (h : Canonical s) : Canonical (refile s gid) := by
  unfold refile
  (repeat' split) <;> grind [canonical_updBundle, canonical_foldl]

theorem canonical_rereadPolls {s : State} (gid : ℕ) (sel : Poll → Bool) (h : Canonical s) : Canonical (rereadPolls s gid sel) := by
  unfold rereadPolls
  split
  · exact h
  · refine canonical_foldl (fun s b hs => ?_) h
    split
    · refine canonical_foldl (fun s p hs => ?_) hs
      grind [→ canonical_homeRead, canonical_retest]
    · exact hs

theorem canonical_repoll {s : State} (gid : ℕ) (h : Canonical s) : Canonical (repoll s gid) :=
  canonical_wakeStalled _ (canonical_rereadPolls _ _ h)

theorem canonical_wakeLwait {s : State} (rid : ℕ) (h : Canonical s) : Canonical (wakeLwait s rid) := by
  grind [wakeLwait, canonical_updCore, canonical_finishWait, canonical_foldl]

theorem canonical_unpark {s : State} (r : RangeSt) (g : Group) (p : ℕ) (atu : ℕ × List ℕ × ℕ) (h : Canonical s) : Canonical (unpark s r g p atu) :=
    by
  grind [unpark, Canonical, State.updMem, canonical_queueRec, canonical_updCore, canonical_updEng, canonical_updFq, canonical_updGroup,
      canonical_updRange, canonical_fenceSy, canonical_refile, canonical_repoll, canonical_settle, canonical_unparkPkts, canonical_wakeLwait,
      canonical_foldl]

theorem canonical_placeParked {s : State} (rid die : ℕ) (h : Canonical s) {u : State} (hu : placeParked s rid die = some u) : Canonical u := by
  unfold placeParked at hu
  repeat' split at hu
  · cases hu
  · cases hu
  · obtain ⟨d, -, hd⟩ := List.exists_of_findSome?_eq_some hu
    obtain ⟨a, -, rfl⟩ := Option.map_eq_some_iff.mp hd
    exact canonical_unpark _ _ _ _ h

theorem canonical_getD {s : State} {o : Option State} (ho : ∀ u, o = some u → Canonical u) (h : Canonical s) : Canonical (o.getD s) := by
  cases o with
  | none => exact h
  | some u => exact ho u rfl

theorem canonical_dispatchOne {s : State} (rid : ℕ) (die : ℕ) (h : Canonical s) : Canonical (dispatchOne s rid die) := by
  unfold dispatchOne
  split
  · exact h
  next x _ =>
    have hc := canonical_cutRetry rid x.num h
    dsimp only
    repeat' split
    · exact hc
    · exact hc
    · exact canonical_getD (fun _ hu => canonical_placeParked _ _ hc hu) hc
    · exact hc
    next hp =>
      have hq := canonical_pinDue _ _ hc hp
      exact canonical_getD (fun _ hu => canonical_placeNext _ _ hq hu) hq

theorem canonical_execGroupDispatch (rid die : ℕ) {s : State} (h : Canonical s) {u : State} (hu : execGroupDispatch rid die s = .next u) :
    Canonical u := by
  grind [execGroupDispatch, canonical_dispatchOne]

theorem canonical_placeAllN (rid die n : ℕ) {s : State} (h : Canonical s) {u : State} (hu : placeAllN rid die n s = some u) : Canonical u := by
  induction n generalizing s with
  | zero => grind [placeAllN]
  | succ n ih =>
    unfold placeAllN at hu
    split at hu
    next x hx =>
      refine ih ?_ hu
      rcases Option.or_eq_some_iff.mp hx with hx | ⟨-, hx⟩
      · exact canonical_placeParked _ _ h hx
      · obtain ⟨r, -, hr⟩ := Option.bind_eq_some_iff.mp hx
        exact canonical_placeNext _ _ h hr
    next => cases hu

theorem canonical_placeCoop {s : State} (r : RangeSt) (h : Canonical s) {u : State} (hu : placeCoop s r = some u) : Canonical u := by
  have key : ∀ (l : List ℕ) (a : Option State), (∀ x, a = some x → Canonical x) → ∀ u, l.foldl (fun acc d => match acc with
      | none => none
      | some s => placeAllN r.rid d (coopLeft r d) s) a = some u → Canonical u := by
    intro l
    induction l with
    | nil => exact fun a ha => ha
    | cons d l ih =>
      refine fun a ha => ih _ (fun x hx => ?_)
      cases a with
      | none => cases hx
      | some y => exact canonical_placeAllN _ _ _ (ha y rfl) hx
  exact key _ _ (fun x hx => by cases hx; exact h) u hu

theorem canonical_execCoopPlacement (rid : ℕ) {s : State} (h : Canonical s) {u : State} (hu : execCoopPlacement rid s = .next u) : Canonical u := by
  grind [execCoopPlacement, canonical_updRange, → canonical_placeCoop, canonical_settle]

theorem canonical_retireGroup {s : State} (g : Group) (h : Canonical s) : Canonical (retireGroup s g) := by
  grind [retireGroup, Canonical, State.updMem, canonical_updRange, canonical_carveSettle, canonical_finished, canonical_settle]

theorem canonical_execGroupRetire (gid : ℕ) {s : State} (h : Canonical s) {u : State} (hu : execGroupRetire gid s = .next u) : Canonical u := by
  grind [execGroupRetire, canonical_retireGroup, canonical_sluiceExit]

/-! ## Launches -/

theorem canonical_launchReq_keyFault (q : LaunchReq) {s : State} (h : Canonical s) : Canonical (LaunchReq.keyFault q s) := by
  grind [LaunchReq.keyFault, canonical_faultQueue]

theorem canonical_adopt {s : State} (rs : List RangeSt) (h : Canonical s) {u : State} (hu : State.adopt s rs = some u) : Canonical u := by
  grind [State.adopt, Canonical, State.updMem, canonical_updEng, canonical_foldl]

theorem canonical_foreignSaved {s : State} (w : Who) (q : LaunchReq) (va : W64) (b : List Byte) (h : Canonical s) :
    Canonical (foreignSaved s w q va b).2 := by
  grind [foreignSaved, → canonical_adopt]

theorem canonical_findSaved {s : State} (w : Who) (q : LaunchReq) (h : Canonical s) : Canonical (findSaved s w q).2 := by
  grind [findSaved, canonical_launchReq_keyFault, → canonical_feRead, canonical_foreignSaved]

theorem canonical_readCuts {s : State} (q : LaunchReq) (w : Who) (img : Image) (h : Canonical s) {u : List (List Byte) × State}
    (hu : readCuts s q w img = .ok u) :
    Canonical u.2 := by
  grind [readCuts, canonical_launchReq_keyFault, → canonical_feRead]

theorem canonical_freshChecks {s : State} (q : LaunchReq) (w : Who) (img : Image) (h0 : ℕ) (fol : Option Followed) (h : Canonical s) {u : Fresh}
    (hu : freshChecks s q w img h0 fol = .ok u) :
    Canonical u.s := by
  grind [freshChecks, canonical_launchReq_keyFault, → canonical_feRead, → canonical_readCuts]

theorem canonical_checkpoint {s : State} (r : RangeSt) (image : List Byte) (key : ℕ) (h : Canonical s) : Canonical (checkpoint s r image key) := by
  grind [checkpoint, canonical_updRange, canonical_logPut]

theorem canonical_initialCuts {s : State} (rid : ℕ) (h : Canonical s) : Canonical (initialCuts s rid) := by
  grind [initialCuts, canonical_cutNow, canonical_pinApply, canonical_foldl]

theorem canonical_followed {s : State} (part : ℕ) (h : Canonical s) : Canonical (State.followed s part) :=
  (canonical_updPart ..).mpr h

theorem canonical_acceptNew {f : Fresh} (q : LaunchReq) (img : Image) (h0 : ℕ) (safe : List (ℕ × BitVec 72))
    (rooms : List (ℕ × ℕ × ℕ × Option P3)) (fol : Option Followed) (hf : Canonical f.s) :
    Canonical (acceptNew f q img h0 safe rooms fol).1 := by
  unfold acceptNew
  extract_lets s rid rr dies par r x y
  have hx : Canonical x := hf
  clear_value x
  have hy : Canonical y := by
    unfold y
    split
    · exact canonical_followed _ hx
    · exact hx
  clear_value y
  exact canonical_graphLaunch _ (canonical_initialCuts _ (canonical_checkpoint _ _ _ hy))

theorem canonical_acceptSaved {s : State} (q : LaunchReq) (img : Image) (r : RangeSt) (resv : List Resv) (area : List Byte)
    (fol : Option Followed) (h : Canonical s) :
    Canonical (acceptSaved s q img r resv area fol).1 := by
  grind [acceptSaved, Canonical, State.updMem, canonical_followed, canonical_updEng, canonical_checkpoint, canonical_settle, canonical_foldl]

theorem canonical_readCuts_error {s : State} (q : LaunchReq) (w : Who) (img : Image) (h : Canonical s) {u : State}
    (hu : readCuts s q w img = .error u) :
    Canonical u := by
  grind [readCuts, canonical_launchReq_keyFault]

theorem canonical_freshChecks_error {s : State} (q : LaunchReq) (w : Who) (img : Image) (n : ℕ) (fol : Option Followed) (h : Canonical s)
    {u : ℕ × State} (hu : freshChecks s q w img n fol = .error u) :
    Canonical u.2 := by
  unfold freshChecks at hu
  dsimp only at hu
  (repeat' split at hu) <;> grind [canonical_launchReq_keyFault, → canonical_feRead, → canonical_readCuts, → canonical_readCuts_error]

theorem launchKeeps_ite {p : Prop} [Decidable p] {a b : Launched} (ha : LaunchKeeps a) (hb : LaunchKeeps b) : LaunchKeeps (if p then a else b) := by
  split
  · exact ha
  · exact hb

theorem canonical_tryLaunch {s : State} (q : LaunchReq) (h : Canonical s) : LaunchKeeps (tryLaunch s q) := by
  unfold tryLaunch
  extract_lets w img fol n
  clear_value w img fol n
  refine launchKeeps_ite trivial (launchKeeps_ite h ?_)
  have hf : Canonical (if img.saved then findSaved s w q else (none, s)).2 := by
    split
    · exact canonical_findSaved _ _ h
    · exact h
  generalize (if img.saved then findSaved s w q else (none, s)) = y at hf
  obtain ⟨sv, x⟩ := y
  dsimp only at hf ⊢
  refine launchKeeps_ite hf (launchKeeps_ite hf (launchKeeps_ite hf (launchKeeps_ite hf ?_)))
  split
  · exact hf
  refine launchKeeps_ite hf (launchKeeps_ite hf (launchKeeps_ite hf ?_))
  split
  next z r _ =>
    have hok : ∀ u, (if fol.isSome then readCuts x q w img else .ok ([], x)) = .ok u → Canonical u.2 := by
      grind [→ canonical_readCuts]
    have herr : ∀ u, (if fol.isSome then readCuts x q w img else .ok ([], x)) = .error u → Canonical u := by
      grind [→ canonical_readCuts_error]
    split
    next e he => exact herr _ he
    next cuts y hy =>
      have hc : Canonical y := hok _ hy
      refine launchKeeps_ite hc ?_
      split
      · exact launchKeeps_ite trivial hc
      · exact launchKeeps_ite trivial (canonical_acceptSaved _ _ _ _ _ _ hc)
  next =>
    split
    next e he => exact canonical_freshChecks_error _ _ _ _ _ hf he
    next f hfc =>
      have hc := canonical_freshChecks _ _ _ _ _ hf hfc
      split
      · exact hf
      · exact launchKeeps_ite trivial (canonical_acceptNew _ _ _ _ _ _ hc)

theorem canonical_dropSluiceWork {s : State} (rid : ℕ) (h : Canonical s) : Canonical (State.dropSluiceWork s rid) :=
  canonical_updGraph _ _ h

theorem canonical_killGroupNow {s : State} (gid : ℕ) (h : Canonical s) : Canonical (killGroupNow s gid) := by
  grind [killGroupNow, canonical_dropSluiceWork, canonical_updEng, canonical_updFq, canonical_updGroup, canonical_killPackets, canonical_settle]

theorem canonical_killOne {s : State} (rid : ℕ) (h : Canonical s) : Canonical (killOne s rid) := by
  grind [killOne, canonical_updRange, canonical_failParked, canonical_killGroupNow, canonical_foldl]

theorem canonical_recallHeads {s : State} (l : List ℕ) (h : Canonical s) : Canonical (recallHeads s l) := by
  grind [recallHeads, Canonical, State.updMem, canonical_updFe]

theorem canonical_killRangeNow {s : State} (rid : ℕ) (h : Canonical s) : Canonical (killRangeNow s rid) := by
  grind [killRangeNow, canonical_killOne, canonical_recallHeads, canonical_foldl]

theorem canonical_childRetired {s : State} (r : RangeSt) (t : ℕ) (h : Canonical s) : Canonical (childRetired s r t) := by
  grind [childRetired, canonical_updFe, canonical_updRange, canonical_settle, canonical_wakeLwait]

theorem canonical_launchEnds {s : State} (r : RangeSt) (status : ℕ) (h : Canonical s) : Canonical (launchEnds s r status) := by
  grind [launchEnds, canonical_updQueue, canonical_complete, canonical_endingSettle, canonical_indSettle]

theorem canonical_execRangeRetire (rid : ℕ) {s : State} (h : Canonical s) {u : State} (hu : execRangeRetire rid s = .next u) : Canonical u := by
  grind [execRangeRetire, Canonical, State.updMem, canonical_childRetired, canonical_endingSettle, canonical_launchEnds, canonical_releaseAll,
      canonical_signalOne, canonical_foldl]

theorem launchKeeps_ok {s u : State} {q : LaunchReq} {r : ℕ} (hs : LaunchKeeps (tryLaunch s q)) (hl : tryLaunch s q = .ok u r) : Canonical u := by
  rw [hl] at hs
  exact hs

theorem launchKeeps_refused {s u : State} {q : LaunchReq} {r : ℕ} (hs : LaunchKeeps (tryLaunch s q)) (hl : tryLaunch s q = .refused r u) : Canonical u := by
  rw [hl] at hs
  exact hs

theorem canonical_launchOne {s : State} (c : Ctx) (b : List Byte) (h : Canonical s) {u : State × ℕ} (hu : launchOne s c b = some u) : Canonical u.1 := by
  unfold launchOne at hu
  dsimp only at hu
  split at hu
  · cases hu
    exact h
  split at hu
  · cases hu
    exact h
  split at hu
  · cases hu
    exact h
  split at hu
  · split at hu <;> cases hu
    · exact canonical_faultQueue _ _ h
    · exact h
  · cases hu
    exact h
  next x hx =>
    have hr := canonical_feRead _ _ _ _ h hx
    split at hu
    next hl =>
      cases hu
      exact launchKeeps_refused (canonical_tryLaunch _ hr) hl
    next hl => cases hu
    next hl =>
      cases hu
      exact (canonical_updGroup ..).mpr ((canonical_updRange ..).mpr (launchKeeps_ok (canonical_tryLaunch _ hr) hl))

theorem canonical_execLaunch (o : OpE) {s : State} (h : Canonical s) {u : State} (hu : execLaunch o s = .next u) : Canonical u := by
  refine canonical_issue _ _ (fun c x hx => ?_) h hu
  dsimp only
  split
  · exact canonical_illop _ hx
  split
  · exact canonical_precise _ _ _ _ _ _ _ hx
  · refine canonical_eachTeam _ _ _ _ _ (fun y t hy => ?_) (fun y hy => canonical_noResult _ _ hy) hx
    repeat' split
    · exact hy
    · exact hy
    · trivial
    next hl => exact canonical_scrWrite _ _ _ (canonical_launchOne _ _ hy hl)

theorem canonical_execLwait (o : OpE) {s : State} (h : Canonical s) {u : State} (hu : execLwait o s = .next u) : Canonical u := by
  grind [execLwait, canonical_updCore, canonical_illop, → canonical_issue, canonical_noResult, canonical_park, canonical_settle]

end Sys2Proof.Rules
end

section
/-! PROOF. Memory stays canonical (O58): pre-emption, the front end, links, debugging, bring-up and registers. -/

namespace Sys2Proof.Rules
open Sys2Proof.Safety Sys2Proof.Machine

/-! ## Pre-emption -/

theorem canonical_wantPre {s : State} (rid why : ℕ) (dest : W64) (h : Canonical s) : Canonical (wantPre s rid why dest) :=
  (canonical_updRange ..).mpr h

theorem canonical_preGuest {s : State} (rid : ℕ) (h : Canonical s) : Canonical (preGuest s rid) := by
  grind [preGuest, canonical_poolAt, canonical_updChan, canonical_updRange, canonical_sendMsg, canonical_foldl]

theorem canonical_execPreemptRequest (rid : ℕ) {s : State} (h : Canonical s) {u : State} (hu : execPreemptRequest rid s = .next u) : Canonical u :=
    by
  grind [execPreemptRequest, canonical_updRange, canonical_preGuest]

theorem canonical_execSafePointStop (gid bid : ℕ) {s : State} (h : Canonical s) {u : State} (hu : execSafePointStop gid bid s = .next u) :
    Canonical u := by
  grind [execSafePointStop, canonical_updBundle]

theorem canonical_logHolds {s : State} (ticks : ℕ) (h : Canonical s) : Canonical (logHolds s ticks) := by
  grind [logHolds, Canonical, State.updMem]

theorem canonical_hardStop {s : State} (rid : ℕ) (h : Canonical s) : Canonical (hardStop s rid) := by
  grind [hardStop, canonical_queueRec, canonical_updGroup, canonical_updRange, canonical_foldl]

theorem canonical_execHardStop (rid : ℕ) {s : State} (h : Canonical s) {u : State} (hu : execHardStop rid s = .next u) : Canonical u := by
  grind [execHardStop, canonical_hardStop]

theorem canonical_unplace {s : State} (rid : ℕ) (h : Canonical s) : Canonical (unplace s rid) := by
  grind [unplace, Canonical, State.updMem, canonical_updEng, canonical_updFq, canonical_carveSettle, canonical_foldl]

theorem canonical_reenter {s : State} (q : ℕ) (x1 : Saved) (h : Canonical s) : Canonical (reenter s q x1) :=
  (canonical_updQueue ..).mpr ((canonical_updFe ..).mpr h)

theorem canonical_placeImage {s : State} (x1 : Saved) (p : Preempt) (h : Canonical s) : Canonical (placeImage s x1 p) := by
  grind [placeImage, canonical_updFe, canonical_updQueue, canonical_endingSettle, → canonical_feStore, canonical_launchEnds, canonical_reenter,
      canonical_unwritten]

theorem canonical_execPreemptImageWrite (rid : ℕ) {s : State} (h : Canonical s) {u : State} (hu : execPreemptImageWrite rid s = .next u) :
    Canonical u := by
  grind [execPreemptImageWrite, canonical_freshBytes, canonical_updGroup, canonical_updPkg, canonical_checkpoint, canonical_fenceSy,
      canonical_placeImage, canonical_preGuest, canonical_unplace, canonical_foldl]

theorem canonical_execPriorityPreempt (part : ℕ) {s : State} (h : Canonical s) {u : State} (hu : execPriorityPreempt part s = .next u) :
    Canonical u := by
  grind [execPriorityPreempt, canonical_updPkg, canonical_wantPre]

/-! ## The front end and its packets -/

theorem canonical_doorbell {s : State} (reg : ℕ) (value : W64) (h : Canonical s) : Canonical (doorbell s reg value) := by
  grind [doorbell, canonical_updFe, canonical_updQueue, canonical_faultQueue, → canonical_feRead, → canonical_feStore]

theorem canonical_execDoorbellWrite (reg : ℕ) (value : W64) {s : State} (h : Canonical s) {u : State}
    (hu : execDoorbellWrite reg value s = .next u) :
    Canonical u := by
  grind [execDoorbellWrite, canonical_doorbell]

theorem canonical_execDoorbellResync (reg : ℕ) (value : W64) {s : State} (h : Canonical s) {u : State}
    (hu : execDoorbellResync reg value s = .next u) :
    Canonical u := by
  grind [execDoorbellResync, canonical_doorbell]

theorem canonical_lineOf {s : State} (q : Queue) (k : ℕ) (h : Canonical s) {u : List Byte × State} (hu : lineOf s q k = .ok u) : Canonical u.2 := by
  grind [lineOf, canonical_updQueue, → canonical_feRead]

theorem canonical_readUnit {s : State} (q : Queue) (i : ℕ) (h : Canonical s) {u : List Byte × State} (hu : readUnit s q i = .ok u) :
    Canonical u.2 := by
  grind [readUnit, → canonical_feRead, → canonical_lineOf]

theorem canonical_readUnits {s : State} (q : Queue) (l : List ℕ) (h : Canonical s) {u : List Byte × State} (hu : readUnits s q l = .ok u) : Canonical u.2 := by
  refine Steady.foldE_ok (P := fun x : List Byte × State => Canonical x.2) (fun x a y hy hx => ?_) l hu h
  split at hy
  next b t hb =>
    have ht := canonical_readUnit _ _ hx hb
    cases hy
    exact ht
  · cases hy

theorem canonical_enterNow {s : State} (qid : ℕ) (h : Canonical s) : Canonical (enterNow s qid) := by
  grind [enterNow, canonical_updFe, canonical_updQueue]

theorem canonical_headOf {s : State} (q : Queue) (h : Canonical s) : Canonical (headOf s q).2 := by
  grind [headOf, canonical_updQueue, canonical_enterNow, canonical_faultQueue, → canonical_readUnits]

theorem canonical_consumeEnd {s : State} (qid : ℕ) (h : Canonical s) : Canonical (consumeEnd s qid) := by
  grind [consumeEnd, canonical_endingSettle, canonical_killRangeNow, canonical_wantPre, canonical_foldl]

theorem canonical_moveOn {s : State} (p : Packet) (live : List ℕ) (last : Option (W64 × ℕ)) (h : Canonical s) : Canonical (moveOn s p live last) :=
    by
  grind [moveOn, canonical_updPart, canonical_updQueue, → canonical_feStore, canonical_indSettle]

theorem canonical_consume {s : State} (p : Packet) (live : List ℕ) (last : Option (W64 × ℕ)) (h : Canonical s) :
    Canonical (consume s p live last) :=
  canonical_consumeEnd _ (canonical_moveOn _ _ _ h)

theorem canonical_finish {s : State} (p : Packet) (status : ℕ) (h : Canonical s) : Canonical (finish s p status) :=
  canonical_complete _ _ _ _ (canonical_consume _ _ _ h)

theorem canonical_finishLater {s : State} (p : Packet) (what : ℕ) (h : Canonical s) : Canonical (finishLater s p what) :=
  canonical_consume _ _ _ ((canonical_updQueue ..).mpr h)

theorem canonical_packetEntry {s : State} (q : Queue) (p : Packet) (h : Canonical s) : Canonical (packetEntry s q p) :=
  canonical_logPut _ _ _ h

theorem canonical_decideHead {s : State} (part : ℕ) (h : Canonical s) : Canonical (decideHead s part).2 := by
  unfold decideHead
  refine canonical_foldl_by Prod.snd (fun x q hx => ?_) h
  have hy := canonical_headOf q hx
  dsimp only
  split <;> exact hy

theorem canonical_resumeNow {s : State} (q : Queue) (x1 : Saved) (h : Canonical s) : Canonical (resumeNow s q x1) := by
  grind [resumeNow, canonical_updQueue, canonical_acceptSaved]

theorem canonical_execFrontEndDispatch (part : ℕ) {s : State} (h : Canonical s) {u : State} (hu : execFrontEndDispatch part s = .next u) :
    Canonical u := by
  grind [execFrontEndDispatch, canonical_updPart, canonical_consume, canonical_decideHead, canonical_finish, canonical_packetEntry,
      canonical_resumeNow]

theorem canonical_execNopPacket (part : ℕ) {s : State} (h : Canonical s) {u : State} (hu : execNopPacket part s = .next u) : Canonical u := by
  grind [execNopPacket, canonical_finish]

theorem canonical_execLaunchPacket (part : ℕ) {s : State} (h : Canonical s) {u : State} (hu : execLaunchPacket part s = .next u) : Canonical u := by
  injection hu with hu
  subst hu
  split
  · exact h
  dsimp only
  split
  · exact canonical_finish _ _ h
  split
  · exact canonical_finish _ _ (canonical_faultQueue _ _ h)
  · exact canonical_finish _ _ h
  next x hx =>
    have hr := canonical_feRead _ _ _ _ h hx
    split
    next hl => exact canonical_finish _ _ (launchKeeps_refused (canonical_tryLaunch _ hr) hl)
    next hl => exact hr
    next hl => exact canonical_consume _ _ _ ((canonical_updQueue ..).mpr (launchKeeps_ok (canonical_tryLaunch _ hr) hl))

theorem canonical_execIndirect (part : ℕ) {s : State} (h : Canonical s) {u : State} (hu : execIndirect part s = .next u) : Canonical u := by
  grind [execIndirect, canonical_updQueue, canonical_consumeEnd, canonical_finish, canonical_moveOn]

theorem canonical_waitTest {s : State} (q : Queue) (b : List Byte) (h : Canonical s) : Canonical (waitTest s q b).2 := by
  grind [waitTest, canonical_faultQueue, → canonical_feRead]

theorem canonical_execWaitPacket (part : ℕ) {s : State} (h : Canonical s) {u : State} (hu : execWaitPacket part s = .next u) : Canonical u := by
  grind [execWaitPacket, canonical_updQueue, canonical_enterNow, canonical_finish, canonical_finishLater, canonical_waitTest]

theorem canonical_execWaitPacketSatisfied (qid : ℕ) {s : State} (h : Canonical s) {u : State} (hu : execWaitPacketSatisfied qid s = .next u) :
    Canonical u := by
  grind [execWaitPacketSatisfied, canonical_updQueue, canonical_enterNow, canonical_pendDone, canonical_waitTest]

theorem canonical_execWrite (part : ℕ) {s : State} (h : Canonical s) {u : State} (hu : execWrite part s = .next u) : Canonical u := by
  grind [execWrite, canonical_dirtySignal, canonical_faultQueue, → canonical_feRead, → canonical_feWord, canonical_finish, canonical_unwritten]

theorem canonical_invalidate {s : State} (r : InvalRange) (t c b : Bool) (h : Canonical s) : Canonical (invalidate s r t c b) := by
  grind [invalidate, canonical_updMem, canonical_writeBack, canonical_dropSectors, canonical_settleSectors, canonical_foldl]

theorem canonical_execInval (part : ℕ) {s : State} (h : Canonical s) {u : State} (hu : execInval part s = .next u) : Canonical u := by
  grind [execInval, canonical_updFe, canonical_finish, canonical_finishLater, canonical_invalidate, canonical_sendTinv, canonical_foldl]

theorem canonical_execPartcfg (part : ℕ) {s : State} (h : Canonical s) {u : State} (hu : execPartcfg part s = .next u) : Canonical u := by
  grind [execPartcfg, canonical_updPart, canonical_carveSettle, → canonical_carveWrite, canonical_extendReg, canonical_finish,
      canonical_finishLater]

theorem canonical_policyWrite {s : State} (p : ℕ) (w : W64) (h : Canonical s) : Canonical (policyWrite s p w) :=
  canonical_extendReg _ _ _ ((canonical_updPart ..).mpr h)

theorem canonical_execPolicyPacket (part : ℕ) {s : State} (h : Canonical s) {u : State} (hu : execPolicyPacket part s = .next u) : Canonical u := by
  grind [execPolicyPacket, canonical_finish, canonical_policyWrite]

theorem canonical_execCwin (part : ℕ) {s : State} (h : Canonical s) {u : State} (hu : execCwin part s = .next u) : Canonical u := by
  grind [execCwin, canonical_updPart, canonical_finish]

theorem canonical_makeQueue {s : State} (qid : ℕ) (qcb : W64) (asid : ℕ) (b : List Byte) (h : Canonical s) {u : State}
    (hu : makeQueue s qid qcb asid b = .ok u) :
    Canonical u := by
  grind [makeQueue, canonical_updFe]

theorem canonical_execQcreate (part : ℕ) {s : State} (h : Canonical s) {u : State} (hu : execQcreate part s = .next u) : Canonical u := by
  grind [execQcreate, canonical_faultQueue, → canonical_feRead, canonical_finish, → canonical_makeQueue]

theorem canonical_beginEnding {s : State} (p : Packet) (q : Queue) (qid mode : ℕ) (h : Canonical s) : Canonical (beginEnding s p q qid mode) := by
  grind [beginEnding, Canonical, State.updMem, canonical_updQueue, canonical_endingSettle, canonical_finish, canonical_finishLater,
      canonical_killRangeNow, canonical_wantPre, canonical_foldl]

theorem canonical_execQdestroy (part : ℕ) {s : State} (h : Canonical s) {u : State} (hu : execQdestroy part s = .next u) : Canonical u := by
  grind [execQdestroy, canonical_beginEnding]

theorem canonical_execExportPacket (part : ℕ) {s : State} (h : Canonical s) {u : State} (hu : execExportPacket part s = .next u) : Canonical u := by
  grind [execExportPacket, canonical_beginEnding]

theorem canonical_exportAt {s : State} (p : Packet) (q : Queue) (h : Canonical s) {u : List Byte × Queue × State} (hu : exportAt s p q = some u) : Canonical u.2.2 := by
  unfold exportAt at hu
  dsimp only at hu
  split at hu
  · cases hu
    exact h
  · split at hu
    · cases hu
    · obtain ⟨o, -, ho⟩ := Option.bind_eq_some_iff.mp hu
      obtain ⟨t, ht, rfl⟩ := Option.map_eq_some_iff.mp ho
      exact canonical_adopt _ h ht

theorem canonical_execImportPacket (part : ℕ) {s : State} (h : Canonical s) {u : State} (hu : execImportPacket part s = .next u) : Canonical u := by
  grind [execImportPacket, canonical_updFe, canonical_updQueue, → canonical_exportAt, canonical_faultQueue, → canonical_feStore, canonical_finish,
      canonical_reenter, canonical_foldl]

/-! ## The Canal and the links -/

theorem canonical_peerAccess {s : State} (asid va : ℕ) (data : Option PeerData) (size : ℕ) (h : Canonical s) :
    Canonical (peerAccess s asid va data size) := by
  unfold peerAccess
  grind [canonical_poisonRec, → canonical_feRead, → canonical_feWrite]

theorem canonical_execCanalRemoteAccess (package part : ℕ) (window asid : ℕ) (va : W64) (data : Option PeerData) (size : ℕ) (ordered : Option W32)
    {s : State} (h : Canonical s) {u : State} (hu : execCanalRemoteAccess package part window asid va data size ordered s = .next u) :
    Canonical u := by
  unfold execCanalRemoteAccess at hu
  grind [canonical_updPkg, canonical_peerAccess]

theorem canonical_execCanalOrderedPass (package part window : ℕ) {s : State} (h : Canonical s) {u : State}
    (hu : execCanalOrderedPass package part window s = .next u) :
    Canonical u := by
  grind [execCanalOrderedPass, canonical_updPkg, canonical_peerAccess]

theorem canonical_execCanalPortDown (port : ℕ) {s : State} (h : Canonical s) {u : State} (hu : execCanalPortDown port s = .next u) : Canonical u :=
    by
  grind [execCanalPortDown, canonical_freshByte, canonical_updPkg, canonical_refusedStore, canonical_foldl]

theorem canonical_snoop {s : State} (pa n : ℕ) (write : Bool) (h : Canonical s) : Canonical (State.snoop s pa n write) := by
  grind [State.snoop, canonical_leaveLlc, canonical_writeBack, canonical_performSector, canonical_foldl]

theorem canonical_execHostMemAccess (pa : W64) (data : Option (List Byte)) (size : ℕ) {s : State} (h : Canonical s) {u : State}
    (hu : execHostMemAccess pa data size s = .next u) :
    Canonical u := by
  unfold execHostMemAccess at hu
  grind [canonical_deviceRec, canonical_paWrite, canonical_snoop]

theorem canonical_execContainerRegistration (part asid : ℕ) (code : W64) (codeSize : ℕ) (safe : W64) (safeSize : ℕ) (config : W64) {s : State}
    (h : Canonical s) {u : State} (hu : execContainerRegistration part asid code codeSize safe safeSize config s = .next u) :
    Canonical u := by
  grind [execContainerRegistration, canonical_updFe, canonical_updPart, → canonical_feRead]

/-! ## Debug instructions -/

theorem canonical_execMark (o : OpF) {s : State} (h : Canonical s) {u : State} (hu : execMark o s = .next u) : Canonical u := by
  grind [execMark, → canonical_issue, canonical_noResult, canonical_traceWrite, canonical_foldl]

theorem canonical_haltGroup {s : State} (gid : ℕ) (h : Canonical s) : Canonical (haltGroup s gid) := by
  grind [haltGroup, canonical_updGroup, canonical_stopGroup]

theorem canonical_setParkedHalt {s : State} (rid gid : ℕ) (h0 : Bool) (h : Canonical s) : Canonical (setParkedHalt s rid gid h0) :=
  (canonical_updRange ..).mpr h

theorem canonical_execBrk (o : OpF) {s : State} (h : Canonical s) {u : State} (hu : execBrk o s = .next u) : Canonical u := by
  grind [execBrk, canonical_postEvent, canonical_haltGroup, → canonical_issue, canonical_retire, canonical_softTrap]

theorem canonical_putStatus {s : State} (gid blk st : ℕ) (state : Option ℕ) (h : Canonical s) : Canonical (putStatus s gid blk st state) := by
  unfold putStatus
  grind [canonical_scrWrite]

theorem canonical_debugTeam {s : State} (c : Ctx) (o : OpF) (bufBytes : ℕ) (wr : Bool) (act : State → DBlock → State × ℕ × Option ℕ) (team : ℕ)
    (ha : ∀ s b, Canonical s → Canonical (act s b).1) (h : Canonical s) :
    TeamKeeps (debugTeam s c o bufBytes wr act team) := by
  unfold debugTeam
  extract_lets off b x
  split
  · exact h
  · exact h
  · split
    · exact fun s hs => canonical_illop c hs
    · split
      · exact h
      · exact canonical_putStatus _ _ _ _ (ha _ _ h)

theorem canonical_onTargets (c : Ctx) (act : State → RangeSt → List Group → DBlock → State × ℕ × Option ℕ) {s : State} (b : DBlock)
    (ha : ∀ s r gs b, Canonical s → Canonical (act s r gs b).1) (h : Canonical s) :
    Canonical (onTargets c act s b).1 := by
  unfold onTargets
  split
  · exact h
  · exact canonical_fst_ite h (ha _ _ _ _ h)

theorem canonical_onNamed (c : Ctx) (act : State → RangeSt → DBlock → State × ℕ × Option ℕ) {s : State} (b : DBlock)
    (ha : ∀ s r b, Canonical s → Canonical (act s r b).1) (h : Canonical s) :
    Canonical (onNamed c act s b).1 := by
  unfold onNamed
  split
  · exact h
  · exact canonical_fst_ite (ha _ _ _ h) h

theorem canonical_onHalted (c : Ctx) (act : State → Group → DBlock → State × ℕ × Option ℕ) {s : State} (b : DBlock)
    (ha : ∀ s g b, Canonical s → Canonical (act s g b).1) (h : Canonical s) :
    Canonical (onHalted c act s b).1 := by
  refine canonical_onTargets _ _ _ (fun s r gs b hs => ?_) h
  grind

theorem canonical_debugInstr (o : OpF) (bufBytes : ℕ) (wr : Bool) {s : State} (act : Ctx → State → DBlock → State × ℕ × Option ℕ)
    (fin : Ctx → State → State) (ha : ∀ c s b, Canonical s → Canonical (act c s b).1) (hf : ∀ c s, Canonical s → Canonical (fin c s))
    (h : Canonical s) {u : State} (hu : debugInstr o bufBytes wr s act fin = .next u) :
    Canonical u :=
  canonical_issue _ _ (fun c _ hx => canonical_eachTeam _ _ _ _ _ (fun _ _ hy => canonical_debugTeam _ _ _ _ _ _ (ha c) hy) (hf c) hx) h hu

theorem canonical_plainFin (o : OpF) (c : Ctx) {s : State} (h : Canonical s) : Canonical (plainFin o c s) :=
  canonical_settle _ (canonical_noResult _ _ h)

theorem canonical_execDhalt (o : OpF) {s : State} (h : Canonical s) {u : State} (hu : execDhalt o s = .next u) : Canonical u := by
  grind [execDhalt, canonical_postEvent, canonical_updRange, → canonical_debugInstr, canonical_haltGroup, canonical_onTargets, canonical_plainFin,
      canonical_setParkedHalt, canonical_foldl]

theorem canonical_execDresume (o : OpF) {s : State} (h : Canonical s) {u : State} (hu : execDresume o s = .next u) : Canonical u := by
  grind [execDresume, canonical_updGroup, canonical_updRange, → canonical_debugInstr, canonical_onTargets, canonical_plainFin,
      canonical_setParkedHalt, canonical_settle, canonical_foldl]

theorem canonical_dstepTeam {s : State} (c : Ctx) (o : OpF) (team : ℕ) (h : Canonical s) : TeamKeeps (dstepTeam s c o team) := by
  rw [dstepTeam_eq]
  have hk := canonical_debugTeam c o 0 true (stepAct o team c) team (fun y b hy => canonical_onHalted _ _ _ (fun s g b hs => ?_) hy) h
  · split
    next y hy =>
      split
      · exact (hy ▸ hk : TeamKeeps (.ok y))
      · exact h
    next => exact hk
  · dsimp only
    repeat' split
    all_goals exact hs

theorem canonical_execDstep (o : OpF) {s : State} (h : Canonical s) {u : State} (hu : execDstep o s = .next u) : Canonical u := by
  grind [execDstep, canonical_dstepTeam, canonical_eachTeam, → canonical_issue, canonical_noResult, canonical_park, canonical_settle]

theorem canonical_dstepEnd {s : State} (d : DStep) (st : ℕ) (mask : Option ℕ) (h : Canonical s) : Canonical (dstepEnd s d st mask) := by
  grind [dstepEnd, Canonical, State.updMem, canonical_finishWait, canonical_putStatus]

theorem canonical_breakHalt {s : State} (gid bid : ℕ) (h : Canonical s) : Canonical (breakHalt s gid bid) := by
  grind [breakHalt, canonical_postEvent, canonical_updBundle, canonical_haltGroup]

theorem canonical_watchHalt {s : State} (gid bid : ℕ) (h : Canonical s) : Canonical (watchHalt s gid bid) := by
  grind [watchHalt, canonical_postEvent, canonical_updBundle, canonical_haltGroup, canonical_foldl]

theorem canonical_dstepDone {s : State} (d : DStep) (mask : W32) (h : Canonical s) : Canonical (dstepDone s d mask) := by
  grind [dstepDone, canonical_updGroup, canonical_dstepEnd, canonical_watchHalt]

theorem canonical_execBreakpointHalt (gid bid : ℕ) {s : State} (h : Canonical s) {u : State} (hu : execBreakpointHalt gid bid s = .next u) :
    Canonical u := by
  grind [execBreakpointHalt, canonical_breakHalt]

theorem canonical_execWatchpointHalt (gid bid : ℕ) {s : State} (h : Canonical s) {u : State} (hu : execWatchpointHalt gid bid s = .next u) :
    Canonical u := by
  grind [execWatchpointHalt, canonical_watchHalt]

theorem canonical_setSlot {s : State} (c : Ctx) (r : RangeSt) (b : DBlock) (n : ℕ) (sel : Part → List (ℕ × BkSlot))
    (put : Part → List (ℕ × BkSlot) → Part) (h : Canonical s) :
    Canonical (setSlot s c r b n sel put).1 := by
  grind [setSlot, canonical_updPart]

theorem canonical_execDbkpt (o : OpF) {s : State} (h : Canonical s) {u : State} (hu : execDbkpt o s = .next u) : Canonical u := by
  grind [execDbkpt, → canonical_debugInstr, canonical_onNamed, canonical_plainFin, canonical_setSlot]

theorem canonical_execDwatch (o : OpF) {s : State} (h : Canonical s) {u : State} (hu : execDwatch o s = .next u) : Canonical u := by
  grind [execDwatch, → canonical_debugInstr, canonical_onNamed, canonical_plainFin, canonical_setSlot]

theorem canonical_execDrds (o : OpF) {s : State} (h : Canonical s) {u : State} (hu : execDrds o s = .next u) : Canonical u := by
  grind [execDrds, canonical_scrWrite, → canonical_debugInstr, canonical_onHalted, canonical_plainFin]

theorem canonical_execDmboxSend (o : OpF) {s : State} (h : Canonical s) {u : State} (hu : execDmboxSend o s = .next u) : Canonical u := by
  grind [execDmboxSend, canonical_updPart, → canonical_debugInstr, canonical_plainFin]

theorem canonical_takeEvent {s : State} (gid part : ℕ) (x1 : ℕ × ℕ) (h : Canonical s) {u : State} (hu : takeEvent s gid part x1 = some u) :
    Canonical u := by
  grind [takeEvent, canonical_scrWrite, canonical_updPart, canonical_putStatus]

theorem canonical_serveRecv {s : State} (gid bid part : ℕ) (x1 : List (ℕ × ℕ)) (h : Canonical s) : Canonical (serveRecv s gid bid part x1) := by
  induction x1 generalizing s <;> grind [serveRecv, canonical_updBundle, canonical_finishWait, → canonical_takeEvent]

theorem canonical_serveRecvs {s : State} (h : Canonical s) : Canonical (serveRecvs s) := by
  grind [serveRecvs, canonical_serveRecv, canonical_foldl]

theorem canonical_recvTeam {s : State} (c : Ctx) (o : OpF) (team : ℕ) (h : Canonical s) : TeamKeeps (recvTeam s c o team) := by
  have hk := canonical_debugTeam c o 64 true (fun s b => (s, 256 + b.buf, none)) team (fun _ _ hs => hs) h
  unfold recvTeam
  dsimp only
  split
  next y hy => exact (canonical_updBundle ..).mpr h
  next => exact hk

theorem canonical_execDmboxRecv (o : OpF) {s : State} (h : Canonical s) {u : State} (hu : execDmboxRecv o s = .next u) : Canonical u := by
  unfold execDmboxRecv at hu
  grind [canonical_eachTeam, → canonical_issue, canonical_noResult, canonical_park, canonical_recvTeam, canonical_serveRecvs]

theorem canonical_execHostDebugMessage (part : ℕ) (msg : List Byte) {s : State} (h : Canonical s) {u : State}
    (hu : execHostDebugMessage part msg s = .next u) :
    Canonical u := by
  grind [execHostDebugMessage, canonical_postEvent, canonical_serveRecvs]

theorem canonical_execDebugMailboxRead (part : ℕ) {s : State} (h : Canonical s) {u : State} (hu : execDebugMailboxRead part s = .next u) :
    Canonical u := by
  grind [execDebugMailboxRead, canonical_updPart]

/-! ## Events of the memory side -/

theorem canonical_execL1Fill (core asid : ℕ) (va : W64) {s : State} (h : Canonical s) {u : State} (hu : execL1Fill core asid va s = .next u) :
    Canonical u := by
  grind [execL1Fill, canonical_l1Fill, → canonical_llcFill, → canonical_peerPa]

theorem canonical_execLlcFill (asid : ℕ) (va : W64) (write : Bool) {s : State} (h : Canonical s) {u : State}
    (hu : execLlcFill asid va write s = .next u) :
    Canonical u := by
  grind [execLlcFill, → canonical_llcFill, → canonical_peerPa]

theorem canonical_execStoreAcknowledge (core : ℕ) {s : State} (h : Canonical s) {u : State} (hu : execStoreAcknowledge core s = .next u) :
    Canonical u := by
  grind [execStoreAcknowledge, canonical_updCore]

theorem canonical_execWcbTimeoutDrain (core : ℕ) {s : State} (h : Canonical s) {u : State} (hu : execWcbTimeoutDrain core s = .next u) :
    Canonical u := by
  grind [execWcbTimeoutDrain, canonical_drainOne]

theorem canonical_execPtsTick (core : ℕ) {s : State} (h : Canonical s) {u : State} (hu : execPtsTick core s = .next u) : Canonical u := by
  grind [execPtsTick, canonical_updCore]

theorem canonical_execSliceOperation (asid : ℕ) (va : W64) {s : State} (h : Canonical s) {u : State} (hu : execSliceOperation asid va s = .next u)
    :
    Canonical u := by
  grind [execSliceOperation, canonical_sliceNext]

theorem canonical_execStreamReadahead (gid team q : ℕ) {s : State} (h : Canonical s) {u : State} (hu : execStreamReadahead gid team q s = .next u)
    :
    Canonical u := by
  grind [execStreamReadahead, canonical_updGroup, → canonical_readElem]

/-! ## Faults and dispositions -/

theorem canonical_dropRec {s : State} (x1 : ℕ × FRec) (h : Canonical s) : Canonical (dropRec s x1) :=
  (canonical_updFq ..).mpr h

theorem canonical_execFaultRecordPost (queue : ℕ) {s : State} (h : Canonical s) {u : State} (hu : execFaultRecordPost queue s = .next u) :
    Canonical u := by
  grind [execFaultRecordPost, canonical_count, canonical_paWrite, canonical_updFq, canonical_updGroup, canonical_dropRec]

theorem canonical_act {s : State} (queue slot action : ℕ) (f : State → ℕ → FRec → ℕ → State) (hf : ∀ s g r n, Canonical s → Canonical (f s g r n))
    (h : Canonical s) {u : State} (hu : act s queue slot action f = .next u) :
    Canonical u := by
  injection hu with hu
  subst hu
  split
  · exact h
  · dsimp only
    split
    · exact h
    · split
      · exact hf _ _ _ _ ((canonical_updFq ..).mpr h)
      · exact (canonical_updFq ..).mpr h

theorem canonical_runOn {s : State} (gid : ℕ) (skip : Bool) (h : Canonical s) : Canonical (runOn s gid skip) := by
  grind [runOn, canonical_resumeGroup, canonical_settle, canonical_wakeStalled]

theorem canonical_execResume (queue slot : ℕ) {s : State} (h : Canonical s) {u : State} (hu : execResume queue slot s = .next u) : Canonical u := by
  grind [execResume, → canonical_act, canonical_runOn]

theorem canonical_execSkip (queue slot : ℕ) {s : State} (h : Canonical s) {u : State} (hu : execSkip queue slot s = .next u) : Canonical u := by
  grind [execSkip, → canonical_act, canonical_runOn]

theorem canonical_execKillGroup (queue slot : ℕ) {s : State} (h : Canonical s) {u : State} (hu : execKillGroup queue slot s = .next u) :
    Canonical u := by
  grind [execKillGroup, → canonical_act, canonical_killGroupNow]

theorem canonical_execKillRange (queue slot : ℕ) {s : State} (h : Canonical s) {u : State} (hu : execKillRange queue slot s = .next u) :
    Canonical u := by
  grind [execKillRange, → canonical_act, canonical_killRangeNow]

theorem canonical_execSaveRange (queue slot : ℕ) {s : State} (h : Canonical s) {u : State} (hu : execSaveRange queue slot s = .next u) :
    Canonical u := by
  grind [execSaveRange, → canonical_act, canonical_wantPre]

/-! ## Bring-up, keys and mailboxes -/

theorem canonical_execPackageReset {s : State} (h : Canonical s) {u : State} (hu : execPackageReset s = .next u) : Canonical u := by
  grind [execPackageReset, Canonical, State.updMem, canonical_reset]

theorem canonical_execFirmwareVerify (image : List Byte) (svn : W32) (sig key : BitVec 768) {s : State} (h : Canonical s) {u : State}
    (hu : execFirmwareVerify image svn sig key s = .next u) :
    Canonical u := by
  grind [execFirmwareVerify, canonical_updPkg]

theorem canonical_execHbmTrained (fotAt asidAt : W64) {s : State} (h : Canonical s) {u : State} (hu : execHbmTrained fotAt asidAt s = .next u) : Canonical u := by
  injection hu with hu
  subst hu
  split
  · exact h
  · exact Memory.filter_wf h _

theorem canonical_fotWrite {s : State} (i : ℕ) (e : W32) (h : Canonical s) : Canonical (fotWrite s i e) := by
  unfold fotWrite
  extract_lets _ _ _ x
  have hx : Canonical x := canonical_dropSectors _ (canonical_guestFlush _ h)
  clear_value x
  split
  · exact hx
  · exact Memory.clear_wf hx _ _

theorem canonical_respond {s : State} (status result : ℕ) (h : Canonical s) : Canonical (respond s status result) :=
  (canonical_updPkg ..).mpr h

theorem canonical_request {s : State} (op lo hi : ℕ) (l : List (ℕ × ℕ)) (f : State → List Byte → Option (ℕ × ℕ × State))
    (hf : ∀ b x, f s b = some x → Canonical x.2.2) (h : Canonical s) {u : State} (hu : request s op lo hi l f = .next u) :
    Canonical u := by
  injection hu with hu
  subst hu
  split
  · exact h
  split
  · exact canonical_respond _ _ h
  split
  · exact h
  next hx =>
    split
    · exact canonical_respond _ _ (hf _ _ hx)
    · exact canonical_respond _ _ h

theorem canonical_done {s : State} (h : Canonical s) {u : ℕ × ℕ × State} (hu : done s = some u) : Canonical u.2.2 := by
  cases hu
  exact h

theorem canonical_refuse {s : State} (st : ℕ) (h : Canonical s) {u : ℕ × ℕ × State} (hu : refuse s st = some u) : Canonical u.2.2 := by
  cases hu
  exact h

theorem canonical_writeFrames {s : State} (die off n : ℕ) (e : W32) (sync : Bool) (h : Canonical s) {u : ℕ × ℕ × State}
    (hu : writeFrames s die off n e sync = some u) :
    Canonical u.2.2 := by
  unfold writeFrames at hu
  extract_lets fs gs grp at hu
  split at hu
  · exact canonical_refuse _ h hu
  split at hu
  · refine canonical_done ?_ hu
    exact canonical_updMem _ (fun _ => rfl) h
  split at hu
  · split at hu
    · cases hu
    · cases hu
      refine canonical_foldl (fun y g hy => ?_) h
      split
      · exact hy
      · exact canonical_sendTinv _ _ hy
  · split at hu
    · cases hu
    · exact canonical_done (canonical_foldl (fun y i hy => canonical_fotWrite _ _ hy) h) hu

theorem canonical_frameRequest {s : State} (op lo hi : ℕ) (l : List (ℕ × ℕ)) (f : State → List Byte → Option (ℕ × ℕ × State))
    (hf : ∀ b x, f s b = some x → Canonical x.2.2) (h : Canonical s) {u : State} (hu : frameRequest s op lo hi l f = .next u) :
    Canonical u := by
  unfold frameRequest at hu
  dsimp only at hu
  split at hu
  next hx =>
    cases hu
    split at hx
    · exact hf _ _ hx
    · cases hx
  · exact canonical_request _ _ _ _ _ hf h hu

theorem canonical_execGrant {s : State} (h : Canonical s) {u : State} (hu : execGrant s = .next u) : Canonical u := by
  grind [execGrant, → canonical_frameRequest, → canonical_refuse, → canonical_writeFrames]

theorem canonical_execAssign {s : State} (h : Canonical s) {u : State} (hu : execAssign s = .next u) : Canonical u := by
  grind [execAssign, → canonical_frameRequest, → canonical_refuse, → canonical_writeFrames]

theorem canonical_execRevoke {s : State} (h : Canonical s) {u : State} (hu : execRevoke s = .next u) : Canonical u := by
  grind [execRevoke, → canonical_frameRequest, → canonical_refuse, → canonical_writeFrames]

theorem canonical_execFqtable {s : State} (h : Canonical s) {u : State} (hu : execFqtable s = .next u) : Canonical u := by
  grind [execFqtable, canonical_updFq, → canonical_done, → canonical_refuse, → canonical_request]

theorem canonical_execClock {s : State} (h : Canonical s) {u : State} (hu : execClock s = .next u) : Canonical u := by
  grind [execClock, canonical_updPkg, → canonical_done, → canonical_refuse, → canonical_request]

theorem canonical_execBudget {s : State} (h : Canonical s) {u : State} (hu : execBudget s = .next u) : Canonical u := by
  grind [execBudget, canonical_updPart, → canonical_done, → canonical_refuse, → canonical_request]

theorem canonical_execAsidset {s : State} (h : Canonical s) {u : State} (hu : execAsidset s = .next u) : Canonical u := by
  grind [execAsidset, canonical_updMem, → canonical_done, → canonical_refuse, → canonical_request]

theorem canonical_carvePart {s : State} (p : ℕ) (h : Canonical s) : Canonical (carvePart s p) :=
  (canonical_updPart ..).mpr h

theorem canonical_sparePart {s : State} (p : ℕ) (h : Canonical s) : Canonical (sparePart s p) := by
  grind [sparePart, canonical_updCore, canonical_updMem, canonical_dropSectors, canonical_foldl]

theorem canonical_execCmap {s : State} (h : Canonical s) {u : State} (hu : execCmap s = .next u) : Canonical u := by
  grind [execCmap, canonical_updPkg, canonical_carvePart, → canonical_done, canonical_extendReg, → canonical_refuse, → canonical_request,
      canonical_sparePart, canonical_foldl]

theorem canonical_execCarve {s : State} (h : Canonical s) {u : State} (hu : execCarve s = .next u) : Canonical u := by
  grind [execCarve, canonical_carveSettle, → canonical_carveWrite, → canonical_done, canonical_extendReg, → canonical_refuse, → canonical_request]

theorem canonical_execPolicy {s : State} (h : Canonical s) {u : State} (hu : execPolicy s = .next u) : Canonical u := by
  grind [execPolicy, → canonical_done, canonical_policyWrite, → canonical_refuse, → canonical_request]

theorem canonical_fillSlot {s : State} (k : ℕ) (x1 : Option (BitVec 256)) (h : Canonical s) : Canonical (fillSlot s k x1) :=
  (canonical_updPkg ..).mpr h

theorem canonical_execKeyload {s : State} (h : Canonical s) {u : State} (hu : execKeyload s = .next u) : Canonical u := by
  grind [execKeyload, canonical_updPkg, → canonical_done, canonical_fillSlot, → canonical_refuse, → canonical_request]

theorem canonical_execKeydrop {s : State} (h : Canonical s) {u : State} (hu : execKeydrop s = .next u) : Canonical u := by
  grind [execKeydrop, → canonical_done, canonical_fillSlot, → canonical_refuse, → canonical_request]

theorem canonical_execVfbind {s : State} (h : Canonical s) {u : State} (hu : execVfbind s = .next u) : Canonical u := by
  grind [execVfbind, canonical_updPkg, → canonical_done, → canonical_refuse, → canonical_request]

theorem canonical_trainSocket {s : State} (ident : Option (List Byte)) (up : Bool) (h : Canonical s) : Canonical (trainSocket s ident up) := by
  unfold trainSocket
  grind [canonical_updPkg, canonical_updSock]

theorem canonical_execAdvance (stepDone : Bool) (ident : Option (List Byte)) {s : State} (h : Canonical s) {u : State}
    (hu : execAdvance stepDone ident s = .next u) :
    Canonical u := by
  grind [execAdvance, canonical_updPkg, → canonical_request, canonical_trainSocket]

theorem canonical_execSocketReset (ident : List Byte) (trained : Bool) {s : State} (h : Canonical s) {u : State}
    (hu : execSocketReset ident trained s = .next u) :
    Canonical u := by
  grind [execSocketReset, canonical_endGuest, canonical_trainSocket]

theorem canonical_setBox {s : State} (fn : ℕ) (x1 : List Byte × List Byte × W64) (h : Canonical s) : Canonical (State.setBox s fn x1) :=
  (canonical_updPkg ..).mpr h

theorem canonical_answer {s : State} (fn status : ℕ) (x1 : List Byte) (h : Canonical s) : Canonical (answer s fn status x1) :=
  canonical_setBox _ _ h

theorem canonical_execCount (fn : ℕ) {s : State} (h : Canonical s) {u : State} (hu : execCount fn s = .next u) : Canonical u := by
  grind [execCount, canonical_answer]

theorem canonical_execAttest (fn : ℕ) {s : State} (h : Canonical s) {u : State} (hu : execAttest fn s = .next u) : Canonical u := by
  grind [execAttest, canonical_paWrite, canonical_answer]

/-! ## Registers, power and telemetry -/

theorem canonical_traceStart {s : State} (p : ℕ) (h : Canonical s) : Canonical (traceStart s p) := by
  grind [traceStart, canonical_updPart, canonical_traceSyncNow, canonical_traceWrite, canonical_foldl]

theorem canonical_logStart {s : State} (p : ℕ) (h : Canonical s) : Canonical (logStart s p) := by
  grind [logStart, Canonical, State.updMem, canonical_updPart]

theorem canonical_tctlWrite {s : State} (p : ℕ) (x1 : W64) (h : Canonical s) : Canonical (tctlWrite s p x1) := by
  grind [tctlWrite, canonical_updPart, canonical_logStart, canonical_traceStart]

theorem canonical_execTraceEnable (part : ℕ) {s : State} (h : Canonical s) {u : State} (hu : execTraceEnable part s = .next u) : Canonical u := by
  grind [execTraceEnable, canonical_tctlWrite]

theorem canonical_execTraceDisable (part : ℕ) {s : State} (h : Canonical s) {u : State} (hu : execTraceDisable part s = .next u) : Canonical u := by
  grind [execTraceDisable, canonical_tctlWrite]

theorem canonical_execLogEnable (part : ℕ) {s : State} (h : Canonical s) {u : State} (hu : execLogEnable part s = .next u) : Canonical u := by
  grind [execLogEnable, canonical_tctlWrite]

theorem canonical_logMoved {s : State} (h : Canonical s) : Canonical (logMoved s) := by
  grind [logMoved, canonical_settle, canonical_foldl]

theorem canonical_telemetryWrite {s : State} (reg p : ℕ) (x1 : W64) (h : Canonical s) : Canonical (telemetryWrite s reg p x1) := by
  unfold telemetryWrite
  grind [canonical_updPart, canonical_logMoved, canonical_tctlWrite]

theorem canonical_budbWrite {s : State} (x1 : W64) (h : Canonical s) : Canonical (budbWrite s x1) := by
  grind [budbWrite, canonical_updPkg, canonical_respond]

theorem canonical_boxDoorbell {s : State} (fn : ℕ) (x1 : W64) (h : Canonical s) : Canonical (boxDoorbell s fn x1) := by
  grind [boxDoorbell, canonical_setBox, canonical_answer]

theorem canonical_policyRegs {s : State} (reg index : ℕ) (x1 : W64) (h : Canonical s) : Canonical (policyRegs s reg index x1) := by
  unfold policyRegs
  grind [canonical_updFe, canonical_updPkg, canonical_budbWrite, → canonical_feRead, → canonical_makeQueue]

theorem canonical_pageRead {s : State} (p : ℕ) (h : Canonical s) : Canonical (pageRead s p) := by
  grind [pageRead, canonical_updPart]

theorem canonical_execRegisterWrite (reg index : ℕ) (value : W64) {s : State} (h : Canonical s) {u : State}
    (hu : execRegisterWrite reg index value s = .next u) :
    Canonical u := by
  grind [execRegisterWrite, canonical_setBox, canonical_boxDoorbell, canonical_pageRead, canonical_policyRegs, canonical_telemetryWrite]

theorem canonical_execSampleRecord (core : ℕ) {s : State} (h : Canonical s) {u : State} (hu : execSampleRecord core s = .next u) : Canonical u := by
  grind [execSampleRecord, canonical_updCore, canonical_samplePut]

theorem canonical_execTraceSync (part : ℕ) {s : State} (h : Canonical s) {u : State} (hu : execTraceSync part s = .next u) : Canonical u := by
  grind [execTraceSync, canonical_traceSyncNow]

theorem canonical_execTraceLostRecovery (part : ℕ) {s : State} (h : Canonical s) {u : State} (hu : execTraceLostRecovery part s = .next u) :
    Canonical u := by
  grind [execTraceLostRecovery, canonical_traceLostNow]

theorem canonical_measure {s : State} (overs : List ℕ) (p : ℕ) (h : Canonical s) : Canonical (measure s overs p) :=
  (canonical_updPart ..).mpr (canonical_freshBytes 2 h)

theorem canonical_execPowerWindow (watts amps : ℕ) (overs : List ℕ) {s : State} (h : Canonical s) {u : State}
    (hu : execPowerWindow watts amps overs s = .next u) :
    Canonical u := by
  grind [execPowerWindow, canonical_updPkg, canonical_measure, canonical_foldl]

theorem canonical_execThermalThrottle (die : ℕ) {s : State} (h : Canonical s) {u : State} (hu : execThermalThrottle die s = .next u) :
    Canonical u := by
  grind [execThermalThrottle, canonical_updPkg]

theorem canonical_execTemperatureBelow95c (die : ℕ) {s : State} (h : Canonical s) {u : State} (hu : execTemperatureBelow95c die s = .next u) :
    Canonical u := by
  grind [execTemperatureBelow95c, canonical_updPkg]

theorem canonical_execThermalTrip {s : State} (h : Canonical s) {u : State} (hu : execThermalTrip s = .next u) : Canonical u := by
  grind [execThermalTrip, canonical_updPkg]

theorem canonical_execCoreSelftestFail (die core : ℕ) {s : State} (h : Canonical s) {u : State} (hu : execCoreSelftestFail die core s = .next u) :
    Canonical u := by
  grind [execCoreSelftestFail, canonical_updCore, canonical_updPkg, canonical_stopGroup, canonical_foldl]

end Sys2Proof.Rules
end

section
/-! PROOF. Memory stays canonical (O58): the schedule, the dispatch of an instruction to its rule, and the step. -/

namespace Sys2Proof.Rules
open Sys2Proof.Safety Sys2Proof.Machine

/-! ## The schedule -/

theorem canonical_lenAt {s : State} (x : Except (AFault × ℕ) (List Byte × State)) (hx : ∀ u, x = .ok u → Canonical u.2) (h : Canonical s) :
    Canonical (lenAt s x).2 := by
  cases x with
  | ok u => exact hx u rfl
  | error e => exact h

theorem canonical_fetchHalf {s : State} (w : Who) (a : ℕ) (h : Canonical s) {u : List Byte × State} (hu : fetchHalf s w a = .ok u) :
    Canonical u.2 := by
  grind [fetchHalf, → canonical_agentRead, → canonical_translate]

theorem canonical_fetchHalves {s : State} (w : Who) (l : List ℕ) (h : Canonical s) {u : List Byte × State} (hu : fetchHalves s w l = .ok u) : Canonical u.2 := by
  refine Steady.foldE_ok (P := fun x : List Byte × State => Canonical x.2) (fun x a y hy hx => ?_) l hu h
  split at hy
  next b hb =>
    have ht := canonical_fetchHalf _ _ hx hb
    cases hy
    exact ht
  · cases hy

theorem canonical_fetch {s : State} (w : Who) (pc : ℕ) (h : Canonical s) {u : List Byte × State} (hu : fetch s w pc = .ok u) : Canonical u.2 := by
  grind [fetch, → canonical_fetchHalf, → canonical_fetchHalves]

theorem canonical_ageAll {s : State} (h : Canonical s) : Canonical (ageAll s) := by
  grind [ageAll, Canonical, State.updMem]

theorem canonical_atBoundary {s : State} (h : Canonical s) : Canonical (atBoundary s) := by
  grind [atBoundary, canonical_settle, canonical_watchHalt]

theorem canonical_wrapUp (d : Option (DStep × W32)) {s : State} (h : Canonical s) : Canonical (wrapUp d s) := by
  unfold wrapUp
  grind [canonical_ageAll, canonical_atBoundary, canonical_dstepDone, canonical_serveRecvs]

theorem canonical_countCores {s : State} (h : Canonical s) : Canonical (countCores s) := by
  grind [countCores, canonical_count, canonical_updQueue, canonical_foldl]

theorem canonical_tickCores {s : State} (h : Canonical s) : Canonical (tickCores s) := by
  grind [tickCores, canonical_updMem]

theorem canonical_drainAgedN {s : State} (die core x1 : ℕ) (h : Canonical s) : Canonical (drainAgedN s die core x1) := by
  induction x1 generalizing s <;> grind [drainAgedN, canonical_drainOne]

theorem canonical_fallDue {s : State} (h : Canonical s) : Canonical (fallDue s) := by
  grind [fallDue, canonical_ageAll, canonical_carveSettle, canonical_drainAgedN, canonical_drawAged, canonical_hardStop, canonical_rereadPolls,
      canonical_tickCores, canonical_foldl]

theorem canonical_passClk {s : State} (ticks : ℕ) (h : Canonical s) : Canonical (passClk s ticks) := by
  grind [passClk, Canonical, State.updMem, canonical_countCores, canonical_fallDue, canonical_logHolds, canonical_samplesOver]

theorem canonical_elapse {s : State} (clk ticks : ℕ) (h : Canonical s) : Canonical (elapse s clk ticks) := by
  grind [elapse, Canonical, State.updMem, canonical_logHolds, canonical_passClk, canonical_foldl]

theorem canonical_clockWork {s : State} (h : Canonical s) : Canonical (clockWork s) := by
  grind [clockWork, canonical_updGroup, canonical_settle, canonical_sliceNext, canonical_takeAcks, canonical_foldl]

theorem canonical_idle {s : State} (h : Canonical s) : Canonical (idle s) :=
  canonical_clockWork (canonical_elapse _ _ h)

theorem canonical_mark {s : State} (m : Move) (h : Canonical s) : Canonical (State.mark s m) := by
  grind [State.mark, Canonical, State.updMem]

theorem canonical_lose {s : State} (gid bid : ℕ) (h : Canonical s) : Canonical (lose s gid bid) := by
  grind [lose, canonical_count, canonical_updBundle]

theorem canonical_arbitrated {s : State} (gid bid : ℕ) (h : Canonical s) : Canonical (arbitrated s gid bid) := by
  grind [arbitrated, canonical_updBundle, canonical_updCore, canonical_lose, canonical_foldl]

theorem canonical_spoilt {s : State} (x1 : Spoil) (h : Canonical s) : Canonical (spoilt s x1) := by
  unfold spoilt
  grind [canonical_updGroup, canonical_updMem]

/-! ## The instruction to its rule -/

theorem canonical_exec {s : State} (h : Canonical s) {u : State} : (i : Instr) → exec i s = .next u → Canonical u
  | .iaddA o, hu => canonical_execIaddA o h hu
  | .iaddB o, hu => canonical_execIaddB o h hu
  | .isubA o, hu => canonical_execIsubA o h hu
  | .isubB o, hu => canonical_execIsubB o h hu
  | .imulA o, hu => canonical_execImulA o h hu
  | .imulB o, hu => canonical_execImulB o h hu
  | .imadA o, hu => canonical_execImadA o h hu
  | .imadB o, hu => canonical_execImadB o h hu
  | .andA o, hu => canonical_execAndA o h hu
  | .andB o, hu => canonical_execAndB o h hu
  | .orA o, hu => canonical_execOrA o h hu
  | .orB o, hu => canonical_execOrB o h hu
  | .xorA o, hu => canonical_execXorA o h hu
  | .xorB o, hu => canonical_execXorB o h hu
  | .rotA o, hu => canonical_execRotA o h hu
  | .rotB o, hu => canonical_execRotB o h hu
  | .shlA o, hu => canonical_execShlA o h hu
  | .shlB o, hu => canonical_execShlB o h hu
  | .shrA o, hu => canonical_execShrA o h hu
  | .shrB o, hu => canonical_execShrB o h hu
  | .shraA o, hu => canonical_execShraA o h hu
  | .shraB o, hu => canonical_execShraB o h hu
  | .clz o, hu => canonical_execClz o h hu
  | .popc o, hu => canonical_execPopc o h hu
  | .bfxA o, hu => canonical_execBfxA o h hu
  | .bfxB o, hu => canonical_execBfxB o h hu
  | .bfiA o, hu => canonical_execBfiA o h hu
  | .bfiB o, hu => canonical_execBfiB o h hu
  | .iminN32 o, hu => canonical_execIminN32 o h hu
  | .iminI32 o, hu => canonical_execIminI32 o h hu
  | .imaxN32 o, hu => canonical_execImaxN32 o h hu
  | .imaxI32 o, hu => canonical_execImaxI32 o h hu
  | .icmpN32A o, hu => canonical_execIcmpN32A o h hu
  | .icmpI32A o, hu => canonical_execIcmpI32A o h hu
  | .icmpN32B o, hu => canonical_execIcmpN32B o h hu
  | .icmpI32B o, hu => canonical_execIcmpI32B o h hu
  | .movA o, hu => canonical_execMovA o h hu
  | .movBw o, hu => canonical_execMovBw o h hu
  | .leaA o, hu => canonical_execLeaA o h hu
  | .leaB o, hu => canonical_execLeaB o h hu
  | .iadd64A o, hu => canonical_execIadd64A o h hu
  | .iadd64B o, hu => canonical_execIadd64B o h hu
  | .brev o, hu => canonical_execBrev o h hu
  | .sxt o, hu => canonical_execSxt o h hu
  | .sel o, hu => canonical_execSel o h hu
  | .saddA o, hu => canonical_execSaddA o h hu
  | .saddB o, hu => canonical_execSaddB o h hu
  | .smulA o, hu => canonical_execSmulA o h hu
  | .smulB o, hu => canonical_execSmulB o h hu
  | .slea o, hu => canonical_execSlea o h hu
  | .smovA o, hu => canonical_execSmovA o h hu
  | .smovBw o, hu => canonical_execSmovBw o h hu
  | .scmpA o, hu => canonical_execScmpA o h hu
  | .scmpB o, hu => canonical_execScmpB o h hu
  | .rdsys o, hu => canonical_execRdsys o h hu
  | .fadd y o, hu => canonical_execFadd y o h hu
  | .fsub y o, hu => canonical_execFsub y o h hu
  | .fmul y o, hu => canonical_execFmul y o h hu
  | .ffma y o, hu => canonical_execFfma y o h hu
  | .fmin y o, hu => canonical_execFmin y o h hu
  | .fmax y o, hu => canonical_execFmax y o h hu
  | .fcmp y o, hu => canonical_execFcmp y o h hu
  | .frcp o, hu => canonical_execFrcp o h hu
  | .frsq o, hu => canonical_execFrsq o h hu
  | .fex2 o, hu => canonical_execFex2 o h hu
  | .flg2 o, hu => canonical_execFlg2 o h hu
  | .f2i o, hu => canonical_execF2i o h hu
  | .i2f o, hu => canonical_execI2f o h hu
  | .fcvt o, hu => canonical_execFcvt o h hu
  | .pack o, hu => canonical_execPack o h hu
  | .unpack o, hu => canonical_execUnpack o h hu
  | .shfl o, hu => canonical_execShfl o h hu
  | .tred o, hu => canonical_execTred o h hu
  | .dot4N8 o, hu => canonical_execDot4N8 o h hu
  | .dot4I8 o, hu => canonical_execDot4I8 o h hu
  | .ldCx w o, hu => canonical_execLdCx w o h hu
  | .ldCdS o, hu => canonical_execLdCdS o h hu
  | .ldCdPair o, hu => canonical_execLdCdPair o h hu
  | .stCx w o, hu => canonical_execStCx w o h hu
  | .stCdS o, hu => canonical_execStCdS o h hu
  | .stCdPair o, hu => canonical_execStCdPair o h hu
  | .lds o, hu => canonical_execLds o h hu
  | .sts o, hu => canonical_execSts o h hu
  | .ldw o, hu => canonical_execLdw o h hu
  | .stw o, hu => canonical_execStw o h hu
  | .ldx o, hu => canonical_execLdx o h hu
  | .stx o, hu => canonical_execStx o h hu
  | .qset o, hu => canonical_execQset o h hu
  | .qsave o, hu => canonical_execQsave o h hu
  | .cpy o, hu => canonical_execCpy o h hu
  | .cpyl o, hu => canonical_execCpyl o h hu
  | .pref o, hu => canonical_execPref o h hu
  | .pgreq o, hu => canonical_execPgreq o h hu
  | .fence o, hu => canonical_execFence o h hu
  | .subs o, hu => canonical_execSubs o h hu
  | .claim o, hu => canonical_execClaim o h hu
  | .rels o, hu => canonical_execRels o h hu
  | .atomAdd o, hu => canonical_execAtomAdd o h hu
  | .atomAddF32 o, hu => canonical_execAtomAddF32 o h hu
  | .atomMinN32 o, hu => canonical_execAtomMinN32 o h hu
  | .atomMinI32 o, hu => canonical_execAtomMinI32 o h hu
  | .atomMinF32 o, hu => canonical_execAtomMinF32 o h hu
  | .atomMaxN32 o, hu => canonical_execAtomMaxN32 o h hu
  | .atomMaxI32 o, hu => canonical_execAtomMaxI32 o h hu
  | .atomMaxF32 o, hu => canonical_execAtomMaxF32 o h hu
  | .atomAnd o, hu => canonical_execAtomAnd o h hu
  | .atomOr o, hu => canonical_execAtomOr o h hu
  | .atomXor o, hu => canonical_execAtomXor o h hu
  | .atomXchg o, hu => canonical_execAtomXchg o h hu
  | .cas o, hu => canonical_execCas o h hu
  | .red o, hu => canonical_execRed o h hu
  | .bop o, hu => canonical_execBop o h hu
  | .bred o, hu => canonical_execBred o h hu
  | .flgs o, hu => canonical_execFlgs o h hu
  | .flgw o, hu => canonical_execFlgw o h hu
  | .qpush o, hu => canonical_execQpush o h hu
  | .qpop o, hu => canonical_execQpop o h hu
  | .qdone o, hu => canonical_execQdone o h hu
  | .boini o, hu => canonical_execBoini o h hu
  | .boarr o, hu => canonical_execBoarr o h hu
  | .bowt o, hu => canonical_execBowt o h hu
  | .bra o, hu => canonical_execBra o h hu
  | .brp o, hu => canonical_execBrp o h hu
  | .call o, hu => canonical_execCall o h hu
  | .brx o, hu => canonical_execBrx o h hu
  | .ret o, hu => canonical_execRet o h hu
  | .reform o, hu => canonical_execReform o h hu
  | .exit o, hu => canonical_execExit o h hu
  | .nop o, hu => canonical_execNop o h hu
  | .join o, hu => canonical_execJoin o h hu
  | .leave o, hu => canonical_execLeave o h hu
  | .wait o, hu => canonical_execWait o h hu
  | .mset o, hu => canonical_execMset o h hu
  | .mlog o, hu => canonical_execMlog o h hu
  | .ballot o, hu => canonical_execBallot o h hu
  | .elect o, hu => canonical_execElect o h hu
  | .yield o, hu => canonical_execYield o h hu
  | .bar o, hu => canonical_execBar o h hu
  | .gbar o, hu => canonical_execGbar o h hu
  | .trap o, hu => canonical_execTrap o h hu
  | .mtx o, hu => canonical_execMtx o h hu
  | .mtxg o, hu => canonical_execMtxg o h hu
  | .mtxs o, hu => canonical_execMtxs o h hu
  | .xsect o, hu => canonical_execXsect o h hu
  | .dist o, hu => canonical_execDist o h hu
  | .fixup o, hu => canonical_execFixup o h hu
  | .enext o, hu => canonical_execEnext o h hu
  | .ecomb o, hu => canonical_execEcomb o h hu
  | .eact o, hu => canonical_execEact o h hu
  | .edone o, hu => canonical_execEdone o h hu
  | .elevel o, hu => canonical_execElevel o h hu
  | .emode o, hu => canonical_execEmode o h hu
  | .launch o, hu => canonical_execLaunch o h hu
  | .lwait o, hu => canonical_execLwait o h hu
  | .mark o, hu => canonical_execMark o h hu
  | .brk o, hu => canonical_execBrk o h hu
  | .rdts o, hu => canonical_execRdts o h hu
  | .rdclk o, hu => canonical_execRdclk o h hu
  | .dhalt o, hu => canonical_execDhalt o h hu
  | .dresume o, hu => canonical_execDresume o h hu
  | .dstep o, hu => canonical_execDstep o h hu
  | .dbkpt o, hu => canonical_execDbkpt o h hu
  | .dwatch o, hu => canonical_execDwatch o h hu
  | .drds o, hu => canonical_execDrds o h hu
  | .dmboxSend o, hu => canonical_execDmboxSend o h hu
  | .dmboxRecv o, hu => canonical_execDmboxRecv o h hu
  | .movShort o, hu => canonical_execMovShort o h hu
  | .iaddShort o, hu => canonical_execIaddShort o h hu
  | .isubShort o, hu => canonical_execIsubShort o h hu
  | .imulShort o, hu => canonical_execImulShort o h hu
  | .andShort o, hu => canonical_execAndShort o h hu
  | .orShort o, hu => canonical_execOrShort o h hu
  | .xorShort o, hu => canonical_execXorShort o h hu
  | .shlShort o, hu => canonical_execShlShort o h hu
  | .shrShort o, hu => canonical_execShrShort o h hu
  | .shraShort o, hu => canonical_execShraShort o h hu
  | .iaddiShort o, hu => canonical_execIaddiShort o h hu
  | .faddShort o, hu => canonical_execFaddShort o h hu
  | .fsubShort o, hu => canonical_execFsubShort o h hu
  | .fmulShort o, hu => canonical_execFmulShort o h hu
  | .fminShort o, hu => canonical_execFminShort o h hu
  | .fmaxShort o, hu => canonical_execFmaxShort o h hu
  | .groupDispatch rid die, hu => canonical_execGroupDispatch rid die h hu
  | .coopPlacement rid, hu => canonical_execCoopPlacement rid h hu
  | .groupRetire gid, hu => canonical_execGroupRetire gid h hu
  | .rangeRetire rid, hu => canonical_execRangeRetire rid h hu
  | .basinAgeDraw gid bid, hu => canonical_execBasinAgeDraw gid bid h hu
  | .implicitJoinIssue gid team, hu => canonical_execImplicitJoinIssue gid team h hu
  | .resultReturn gid bid, hu => canonical_execResultReturn gid bid h hu
  | .l1Fill core asid va, hu => canonical_execL1Fill core asid va h hu
  | .llcFill asid va write, hu => canonical_execLlcFill asid va write h hu
  | .storeAcknowledge core, hu => canonical_execStoreAcknowledge core h hu
  | .wcbTimeoutDrain core, hu => canonical_execWcbTimeoutDrain core h hu
  | .ptsTick core, hu => canonical_execPtsTick core h hu
  | .sliceOperation asid va, hu => canonical_execSliceOperation asid va h hu
  | .streamReadahead gid team q, hu => canonical_execStreamReadahead gid team q h hu
  | .copyComplete op, hu => canonical_execCopyComplete op h hu
  | .copyFault op, hu => canonical_execCopyFault op h hu
  | .copylistPieceComplete op, hu => canonical_execCopylistPieceComplete op h hu
  | .tileFillStart gid ring, hu => canonical_execTileFillStart gid ring h hu
  | .tileFilled gid ring slot, hu => canonical_execTileFilled gid ring slot h hu
  | .slotDrained gid ring slot, hu => canonical_execSlotDrained gid ring slot h hu
  | .reservoirWayDrained part, hu => canonical_execReservoirWayDrained part h hu
  | .matrixStart core, hu => canonical_execMatrixStart core h hu
  | .matrixComplete op, hu => canonical_execMatrixComplete op h hu
  | .xsectComplete op, hu => canonical_execXsectComplete op h hu
  | .matrixFault op, hu => canonical_execMatrixFault op h hu
  | .fixupOwnerCombine op, hu => canonical_execFixupOwnerCombine op h hu
  | .queueEntryAging rid die, hu => canonical_execQueueEntryAging rid die h hu
  | .levelBoundary rid, hu => canonical_execLevelBoundary rid h hu
  | .midlevelSwitch rid die, hu => canonical_execMidlevelSwitch rid die h hu
  | .sluiceFault rid die, hu => canonical_execSluiceFault rid die h hu
  | .breakpointHalt gid bid, hu => canonical_execBreakpointHalt gid bid h hu
  | .watchpointHalt gid bid, hu => canonical_execWatchpointHalt gid bid h hu
  | .faultRecordPost queue, hu => canonical_execFaultRecordPost queue h hu
  | .resume queue slot, hu => canonical_execResume queue slot h hu
  | .skip queue slot, hu => canonical_execSkip queue slot h hu
  | .killGroup queue slot, hu => canonical_execKillGroup queue slot h hu
  | .killRange queue slot, hu => canonical_execKillRange queue slot h hu
  | .saveRange queue slot, hu => canonical_execSaveRange queue slot h hu
  | .preemptRequest rid, hu => canonical_execPreemptRequest rid h hu
  | .safePointStop gid bid, hu => canonical_execSafePointStop gid bid h hu
  | .hardStop rid, hu => canonical_execHardStop rid h hu
  | .preemptImageWrite rid, hu => canonical_execPreemptImageWrite rid h hu
  | .priorityPreempt part, hu => canonical_execPriorityPreempt part h hu
  | .frontEndDispatch part, hu => canonical_execFrontEndDispatch part h hu
  | .doorbellWrite qid value, hu => canonical_execDoorbellWrite qid value h hu
  | .doorbellResync qid value, hu => canonical_execDoorbellResync qid value h hu
  | .nopPacket part, hu => canonical_execNopPacket part h hu
  | .launchPacket part, hu => canonical_execLaunchPacket part h hu
  | .indirect part, hu => canonical_execIndirect part h hu
  | .waitPacket part, hu => canonical_execWaitPacket part h hu
  | .waitPacketSatisfied qid, hu => canonical_execWaitPacketSatisfied qid h hu
  | .write part, hu => canonical_execWrite part h hu
  | .inval part, hu => canonical_execInval part h hu
  | .partcfg part, hu => canonical_execPartcfg part h hu
  | .qcreate part, hu => canonical_execQcreate part h hu
  | .qdestroy part, hu => canonical_execQdestroy part h hu
  | .exportPacket part, hu => canonical_execExportPacket part h hu
  | .importPacket part, hu => canonical_execImportPacket part h hu
  | .policyPacket part, hu => canonical_execPolicyPacket part h hu
  | .cwin part, hu => canonical_execCwin part h hu
  | .canalRemoteAccess package part window asid va data size ordered, hu => canonical_execCanalRemoteAccess package part window asid va data size ordered h hu
  | .canalOrderedPass package part window, hu => canonical_execCanalOrderedPass package part window h hu
  | .canalPortDown port, hu => canonical_execCanalPortDown port h hu
  | .hostMemAccess pa data size, hu => canonical_execHostMemAccess pa data size h hu
  | .gpkt chan, hu => canonical_execGpkt chan h hu
  | .treq chan seq va write tag, hu => canonical_execTreq chan seq va write tag h hu
  | .tinvack tag, hu => canonical_execTinvack tag h hu
  | .gcpl chan seq failed, hu => canonical_execGcpl chan seq failed h hu
  | .gflt chan seq cause addr code, hu => canonical_execGflt chan seq cause addr code h hu
  | .gpack chan rid bytes seqs, hu => canonical_execGpack chan rid bytes seqs h hu
  | .grack chan rid refused, hu => canonical_execGrack chan rid refused h hu
  | .guestAccess pa data size, hu => canonical_execGuestAccess pa data size h hu
  | .portFence why, hu => canonical_execPortFence why h hu
  | .socketReset ident trained, hu => canonical_execSocketReset ident trained h hu
  | .packageReset, hu => canonical_execPackageReset h hu
  | .firmwareVerify image svn sig key, hu => canonical_execFirmwareVerify image svn sig key h hu
  | .hbmTrained fotAt asidAt, hu => canonical_execHbmTrained fotAt asidAt h hu
  | .grant, hu => canonical_execGrant h hu
  | .assign, hu => canonical_execAssign h hu
  | .revoke, hu => canonical_execRevoke h hu
  | .fqtable, hu => canonical_execFqtable h hu
  | .clock, hu => canonical_execClock h hu
  | .budget, hu => canonical_execBudget h hu
  | .asidset, hu => canonical_execAsidset h hu
  | .cmap, hu => canonical_execCmap h hu
  | .carve, hu => canonical_execCarve h hu
  | .policy, hu => canonical_execPolicy h hu
  | .keyload, hu => canonical_execKeyload h hu
  | .keydrop, hu => canonical_execKeydrop h hu
  | .vfbind, hu => canonical_execVfbind h hu
  | .advance stepDone ident, hu => canonical_execAdvance stepDone ident h hu
  | .count fn, hu => canonical_execCount fn h hu
  | .attest fn, hu => canonical_execAttest fn h hu
  | .traceEnable part, hu => canonical_execTraceEnable part h hu
  | .traceDisable part, hu => canonical_execTraceDisable part h hu
  | .logEnable part, hu => canonical_execLogEnable part h hu
  | .registerWrite reg index value, hu => canonical_execRegisterWrite reg index value h hu
  | .sampleRecord core, hu => canonical_execSampleRecord core h hu
  | .traceSync part, hu => canonical_execTraceSync part h hu
  | .traceLostRecovery part, hu => canonical_execTraceLostRecovery part h hu
  | .powerWindow watts amps overs, hu => canonical_execPowerWindow watts amps overs h hu
  | .thermalThrottle die, hu => canonical_execThermalThrottle die h hu
  | .thermalTrip, hu => canonical_execThermalTrip h hu
  | .coreSelftestFail die core, hu => canonical_execCoreSelftestFail die core h hu
  | .headgateFault gid ring slot, hu => canonical_execHeadgateFault gid ring slot h hu
  | .fixupDepositComplete op, hu => canonical_execFixupDepositComplete op h hu
  | .containerRegistration part asid code codeSize safe safeSize config, hu => canonical_execContainerRegistration part asid code codeSize safe safeSize config h hu
  | .hostDebugMessage part msg, hu => canonical_execHostDebugMessage part msg h hu
  | .debugMailboxRead part, hu => canonical_execDebugMailboxRead part h hu
  | .guestChannelConfigure chan depth gsave, hu => canonical_execGuestChannelConfigure chan depth gsave h hu
  | .temperatureBelow95c die, hu => canonical_execTemperatureBelow95c die h hu

/-! ## A step -/

/-- What is to be done begins at a state with canonical memory. -/
def TodoKeeps : Todo → Prop
  | .now s => Canonical s
  | .run _ s _ => Canonical s

theorem canonical_timely {s : State} (m : Move) {f : State → Todo} (hf : ∀ s, Canonical s → TodoKeeps (f s)) (h : Canonical s) : TodoKeeps (timely s m f) := by
  unfold timely
  split
  · exact canonical_elapse _ _ h
  · exact hf _ (canonical_mark _ h)

theorem canonical_issueAt {s : State} (gid bid : ℕ) (d : Option DStep) (h : Canonical s) : TodoKeeps (issueAt s gid bid d) := by
  have hstop : ∀ (e : Option (DStep × W32)) (f : Ctx → State) (s : State), Canonical s → (∀ c, Canonical (f c)) →
      TodoKeeps (.now (wrapUp e (match s.ctx with | some c => f c | none => s))) := by
    intro e f s hs hf
    refine canonical_wrapUp _ ?_
    split
    · exact hf _
    · exact hs
  unfold issueAt
  split
  · exact h
  split
  next g _ _ _ b r _ _ =>
    extract_lets d s
    have hs : Canonical s := (canonical_updBundle ..).mpr h
    clear_value s
    split
    next f a _ =>
      have hx : Canonical (lenAt s (fetchHalf s (fetchWho s g r) b.pc.toNat)).2 :=
        canonical_lenAt _ (fun _ hu => canonical_fetchHalf _ _ hs hu) hs
      have hp := canonical_poisonRec f hx
      exact hstop _ _ _ hp (fun c => canonical_precise _ _ _ _ _ _ _ hp)
    next bs t ht =>
      have hf := canonical_fetch _ _ hs ht
      dsimp only
      split
      · exact hf
      · exact hstop _ _ _ hf (fun c => canonical_illop _ hf)
  · exact h

theorem canonical_moveIssue {s : State} (gid bid : ℕ) (h : Canonical s) : TodoKeeps (moveIssue s gid bid) := by
  unfold moveIssue
  split
  · exact h
  split
  · split
    · exact h
    split
    · exact h
    split
    · exact h
    split
    · exact h
    · exact canonical_issueAt _ _ _ h
  · exact h

theorem canonical_contend {s : State} (gid bid : ℕ) (h : Canonical s) : TodoKeeps (contend s gid bid) :=
  canonical_timely _ (fun _ hs => canonical_moveIssue _ _ (canonical_arbitrated _ _ hs)) h

theorem canonical_askIssue {s : State} (gid : ℕ) (rest : List Move) (h : Canonical s) : TodoKeeps (askIssue s gid rest) := by
  unfold askIssue
  have ha := canonical_ageAll h
  split
  · exact h
  dsimp only
  split
  · split
    · exact canonical_elapse _ _ ha
    · exact canonical_contend _ _ ha
  · split
    · exact canonical_elapse _ _ ha
    · exact ha

theorem canonical_doMove {s : State} (m : Move) (h : Canonical s) : TodoKeeps (doMove s m) := by
  cases m with
  | issue gid bid => exact canonical_moveIssue _ _ h
  | event i =>
    simp only [doMove]
    split
    · exact h
    · exact h
  | elapse clk ticks => exact canonical_elapse _ _ h
  | corrected n => exact (canonical_updPkg ..).mpr h
  | spoil p => exact canonical_spoilt _ h

theorem canonical_byItself {s : State} (h : Canonical s) : TodoKeeps (byItself s) := by
  unfold byItself
  split
  · exact h
  split
  · exact canonical_timely _ (fun _ hs => hs) h
  have ha := canonical_ageAll h
  dsimp only
  split
  · exact canonical_contend _ _ ha
  · exact canonical_idle ha

theorem canonical_todo {s : State} (h : Canonical s) : TodoKeeps (todo s) := by
  unfold todo
  split
  next d _ =>
    split
    · exact canonical_timely _ (fun _ hs => canonical_issueAt _ _ _ hs) h
    · exact canonical_dstepEnd _ _ _ h
    · exact h
  next =>
    split
    · exact canonical_askIssue _ _ h
    · exact canonical_timely _ (fun _ hs => canonical_doMove _ hs) h
    · exact canonical_byItself h
/-- Settles O58: a step is what `todo` says, then the instruction and what ends with it; each of these keeps memory canonical. -/
theorem stepKeepsCanonical : Obligations.StepKeepsCanonical := by
  intro s t h hu
  have hk := canonical_todo h
  unfold step at hu
  split at hu
  next x hx =>
    rw [hx] at hk
    injection hu with hu
    exact hu ▸ hk
  next i x d hx =>
    rw [hx] at hk
    split at hu
    next v hv =>
      injection hu with hu
      exact hu ▸ canonical_wrapUp _ (canonical_exec hk _ hv)
    · cases hu
    · cases hu

end Sys2Proof.Rules
end
